-- ==== Sys2Proof/Word.lean ====
section
/-! DEFINITION. The word types of the G48 and their plainest arithmetic (R3: registers are 32 bits, bit 0 least significant). -/

namespace Sys2Proof

/-- A register or memory word of 32 bits (R3). -/
abbrev Word := BitVec 32

/-- A word of 64 bits: an FQ-M register, two register words (R3). -/
abbrev DWord := BitVec 64

/-- One byte, the smallest addressable unit of every memory. -/
abbrev Byte := BitVec 8

end Sys2Proof
end

