-- ==== Sys2Proof/Types.lean ====
section
/-! DEFINITION. The types of the commands' operands: who issues an access, and the records that arrive from outside. -/

namespace Sys2Proof

/-- The cores that execute Fliqua instructions one at a time (R77): the two Mill logical cores, the Tender core, the Deckle
safety core and the 32 Press lanes. -/
inductive CoreId where
  | mill (core1 : Bool)
  | tender
  | deckle
  | lane (t : Fin 4) (l : Fin 8)
  deriving DecidableEq, Repr

/-- The core's number, as its state register CORE_ID reads (R117). -/
def CoreId.num : CoreId → Nat
  | .mill false => 0x000
  | .mill true => 0x001
  | .lane t l => 0x100 + 8 * t.val + l.val
  | .tender => 0x200
  | .deckle => 0x201

/-- Who issues a bus access, in the numbering of the stall log (TND_STALL_LOG word 0). -/
inductive Requester where
  | mill0 | mill1 | tender | plyDma | mirrorDma | fusion
  deriving DecidableEq, Repr

def Requester.num : Requester → Nat
  | .mill0 => 0 | .mill1 => 1 | .tender => 2 | .plyDma => 3 | .mirrorDma => 4 | .fusion => 5

/-! ### The Deckle's safety configuration (R319) and safe PDU (R312) -/

/-- What a safe input does: nothing, demand a stop of a mask (R300), or give a reset command (R303). -/
inductive InFn where
  | unused
  | estop (mask : BitVec 24)
  | reset
  deriving DecidableEq, Repr, Inhabited

/-- A safe input: its function and the test-pulse source it is assigned to. -/
structure InCfg where
  fn : InFn
  tp : Option (Fin 4)
  deriving DecidableEq, Repr, Inhabited

/-- A thruster's drive-enable output, feedback connection, DO limits (R301; times in ms) and ENV limits (R302; binary32). -/
structure ThrCfg where
  enable  : Option (Fin 8)
  fdbk    : Option (Fin 32)
  tolRpm  : Word
  tolPit  : Word
  tolAz   : Word
  doTime  : Nat
  maxRpm  : Word
  pitLo   : Word
  pitHi   : Word
  /-- Up to two azimuth sectors, each with an rpm limit. -/
  sectors : List (Word × Word × Word)
  envTime : Nat
  deriving DecidableEq, Repr, Inhabited

/-- A receive connection (R312, R315, R316; times in ms). -/
structure RxCfg where
  conn   : Byte
  node   : BitVec 14
  len    : Nat
  seed   : Word
  tmo    : Nat
  stop   : Bool
  cmpWin : Nat
  /-- True: drive feedback; false: stop request. -/
  fdbk   : Bool
  mask   : BitVec 24
  deriving DecidableEq, Repr, Inhabited

/-- A transmit connection (R317; period in ms), its receiving node and the thrusters it carries. -/
structure TxConnCfg where
  conn   : Byte
  node   : BitVec 14
  seed   : Word
  period : Nat
  mask   : BitVec 24
  deriving DecidableEq, Repr, Inhabited

/-- The content of a safety configuration record (R319). -/
structure ScrCfg where
  ins      : List InCfg
  /-- The pairs k (inputs 2k and 2k + 1). -/
  pairs    : List (Fin 8)
  inFilt   : Nat
  discT    : Nat
  alarmOut : Option (Fin 8)
  opWidth  : Nat
  opPeriod : Nat
  thr      : List ThrCfg
  rx       : List RxCfg
  tx       : List TxConnCfg
  posTmo   : Nat
  deriving DecidableEq, Repr, Inhabited

/-- A safe PDU as it arrives (R312). -/
structure SafePdu where
  version : Byte
  conn    : Byte
  len     : BitVec 16
  seq     : Word
  node    : Word
  payload : List Word
  crc     : Word
  deriving DecidableEq, Repr

/-- A service of the Deckle watchdog: time since the cycle start (µs) and token (R298). -/
structure WdgService where
  at_   : Nat
  token : Byte
  deriving DecidableEq, Repr

/-- The problem QP.STEP solves (R163): H, g, A, and the bounds of the variables and then of the rows, in one precision. -/
structure QpProblem where
  dbl   : Bool
  h     : List (List Nat)
  g     : List Nat
  a     : List (List Nat)
  lo    : List Nat
  hi    : List Nat
  deriving DecidableEq, Repr, Inhabited

/-- What QP.STEP leaves (R163): the point, A x, the multipliers, the iterations used, whether it is optimal, and the active set: constraint
indices, each at its upper bound or not. -/
structure QpResult where
  x     : List Nat
  ax    : List Nat
  mult  : List Nat
  iters : Nat
  opt   : Bool
  act   : List (Nat × Bool)
  deriving DecidableEq, Repr, Inhabited

/-- The kinds of constraint of the allocation (R175). -/
inductive QpRowKind where
  | rpm | pitch | azimuth | rate | sector | power | group
  deriving DecidableEq, Repr, Inhabited

/-- One constraint of the allocation: Σ coefficient × variable ≤ bound, of a structure-table entry (or power group) at a horizon step; a
soft one may be exceeded by a slack (R175). Numbers are binary64 encodings. -/
structure QpRow where
  kind  : QpRowKind
  entry : Nat
  step  : Nat
  terms : List (Nat × Nat)
  bound : Nat
  soft  : Bool
  deriving DecidableEq, Repr, Inhabited

/-- The allocation problem of one positioning cycle (R175): the reference plan's value of each variable; the surge, sway and yaw that each
variable adds at its step, and the constant part of each step's; the power weight's linear cost of each variable; the set-points in force
that step 0's changes are taken from; the constraints; the rate and slack weights. Variable 3 × (steps × entry + step) + q: q is 0 rpm, 1
pitch, 2 azimuth in turns. Binary64 encodings. -/
structure AllocQp where
  entries : Nat
  steps   : Nat
  ref     : List Nat
  force   : List (List Nat)
  offset  : List (List Nat)
  power   : List Nat
  held    : List Nat
  rows    : List QpRow
  rateW   : Nat
  slackW  : Nat
  deriving DecidableEq, Repr, Inhabited

/-- What happens to a slotted message on the ring: its first slot begins (R31); its last slot-load arrives; a slot-load is lost
(R30); a beat is corrected or found uncorrectable (R32). -/
inductive FeltPhase where
  | begins
  | arrives
  | lost
  | corrected
  | uncorrectable
  deriving DecidableEq, Repr

/-- A bus error as a CAN controller sees it (R347): as a receiver (REC + 1, or + 8 after a dominant bit behind its own error
flag), as a transmitter (TEC + 8, or uncounted in the standard's exceptions), or a protocol exception. -/
inductive CanErr where
  | receiver
  | receiver8
  | transmitter
  | transmitterUncounted
  | exception
  deriving DecidableEq, Repr

/-- How a frame's transmission ends (R353, R354): success, with the loop delay of a CAN FD frame in 12.5 ns steps; arbitration
lost; an error, counted or not. -/
inductive CanEnd where
  | success (tdcv : Nat)
  | lost
  | error (counted : Bool)
  deriving DecidableEq, Repr

/-- What the module sends to the outside, oldest first. -/
inductive Out where
  /-- A TM0 or TM1 output becomes active (or inactive) (R284). -/
  | tm (n : Nat) (active : Bool)
  /-- PPS_OUT takes its active or inactive level (R212). -/
  | pps (active : Bool)
  /-- A serial port shifted out a character, or released its line (R239). -/
  | ser (n : Nat) (b : Byte)
  | serRelease (n : Nat)
  /-- An Ethernet frame leaves external port `p` of Ply, from its destination MAC up to, but not including, the FCS. -/
  | ply (p : Nat) (f : List Byte)
  /-- A packet on a lane of the mirror link: header, payload, CRC (R360). -/
  | mirror (lane : Nat) (pkt : List Word)
  /-- A panel frame drives pixels: x, y, drive code (R447). -/
  | panel (px : List (Nat × Nat × Nat))
  /-- A PTP Announce as grandmaster: clockClass, priority1 where R290 gives one, and the PTP time in ns it offers (R290). -/
  | announce (clockClass : Nat) (priority1 : Option Nat) (ptp : Option Int)
  /-- CAN controller `n` begins a frame: the 18 words of its buffer. -/
  | can (n : Nat) (f : List Word)
  deriving DecidableEq, Repr

end Sys2Proof
end

