-- ==== Sys2Proof/Syntax.lean ====
section
/-! DEFINITION. The commands of the block: one constructor per row of the opcode table, with its operands. The names are
the table's mnemonics; the docstrings give the rule each row rests on and what its operands are. -/

namespace Sys2Proof

/-- A command: an instruction issued to one of the cores, a write or read that acts, or an event that happens to a block. -/
inductive Instr where
  /-- `REGISTER_WRITE` (R5). A write to a register field that has no behaviour of its own sets the value or clears/sets bits as its access type states. Operands: the requester, its level, the physical address, the access size in bytes and the value. -/
  | registerWrite (rq : Requester) (lvl : Fin 3) (addr : BitVec 40) (size : Nat) (v : DWord)
  /-- `FELT_APPLY` (R34). Setting MILL_FELT_CTL.APPLY requests a copy of the shadow slot table at the next round boundary. -/
  | feltApply
  /-- `FELT_ROUND_BOUNDARY` (R34). At a slot-round boundary a pending APPLY copies or refuses the shadow table and a SLOT_EN change takes effect. -/
  | feltRoundBoundary
  /-- `SLOTTED_PUBLISH` (R31). A source channel receives a new message as pending, replacing and counting as lost any pending message not yet injected. Operands: source station, channel and message words. -/
  | slottedPublish (st : Fin 13) (ch : Fin 64) (msg : List Word)
  /-- `MAILBOX_DELIVER` (R30). The last slot-load of a slotted message arrives and the whole message replaces the previous one in each binding mailbox, or is discarded and counted. Operands: source station, channel, and what happens to its message on the ring. -/
  | mailboxDeliver (st : Fin 13) (ch : Fin 64) (ph : FeltPhase)
  /-- `DOMAIN_FAULT` (R22). A domain controller detects an uncorrectable error, lockstep or sequencer error or rail or thermal breach and contains its tile. Operands: domain, PWR_DCn_STAT.CAUSE (1 memory, 2 lockstep or sequencer, 3 rail, 4 thermal) and the failing address. An error that contains nothing: 0, a single-bit error corrected (R125, R154, R318); 5 with domain 0, an uncorrectable one in the DRAM word at an offset (R113). -/
  | domainFault (n : Fin 14) (cause : BitVec 4) (addr : Word)
  /-- `INPUT_BLOCK_SAMPLE` (R74). At t0 the library copies the input block and configuration record, reading MODE_REQ before and after. Operands: the configuration record's address as last given to the library, the thrusters that the snapshot's availability reports allow, and MODE_REQ as first read where a write came between the two reads. -/
  | inputBlockSample (rec : BitVec 40) (reports : BitVec 24) (first : Option Word)
  /-- `CONTROL_LAW` (R44). The control law runs in Press tile 0 at +6 ms and produces force and moment demands, using an extrapolated estimate when EST_STALE. Operands: whether its lanes overran the boundary at +7 ms. -/
  | controlLaw (late : Bool)
  /-- `COMMAND_PUBLICATION` (R68). At +16.5 ms the library builds one command frame per drive node and hands them to PLY. -/
  | commandPublication
  /-- `L_PREFIX` (R82). An L prefix supplies 26 immediate bits to the following instruction, forming one unit. Operands: the core that executes it and the word. A word of opcode 0x30 is an L; one that spells no instruction at all, whose opcode or function no table lists, raises ILLEGAL (R86, R87, R100, R105, R141); a word that spells another instruction is that one's row. -/
  | lPrefix (c : CoreId) (w : BitVec 32)
  /-- `ADD` (R87). d receives a + b modulo 2^W. Operands: the core and the A-format fields. -/
  | add (c : CoreId) (d a b : BitVec 6)
  /-- `SUB` (R87). d receives a − b modulo 2^W. Operands: the core and the A-format fields. -/
  | sub (c : CoreId) (d a b : BitVec 6)
  /-- `AND` (R87). d receives a AND b. Operands: the core and the A-format fields. -/
  | and (c : CoreId) (d a b : BitVec 6)
  /-- `OR` (R87). d receives a OR b. Operands: the core and the A-format fields. -/
  | or (c : CoreId) (d a b : BitVec 6)
  /-- `XOR` (R87). d receives a XOR b. Operands: the core and the A-format fields. -/
  | xor (c : CoreId) (d a b : BitVec 6)
  /-- `ANDN` (R87). d receives a AND NOT b. Operands: the core and the A-format fields. -/
  | andn (c : CoreId) (d a b : BitVec 6)
  /-- `SHL` (R87). d receives a shifted left by b mod W. Operands: the core and the A-format fields. -/
  | shl (c : CoreId) (d a b : BitVec 6)
  /-- `SHR` (R87). d receives a shifted right logically by b mod W. Operands: the core and the A-format fields. -/
  | shr (c : CoreId) (d a b : BitVec 6)
  /-- `SRA` (R87). d receives a shifted right arithmetically by b mod W. Operands: the core and the A-format fields. -/
  | sra (c : CoreId) (d a b : BitVec 6)
  /-- `SLT` (R87). d receives 1 if a < b signed, else 0. Operands: the core and the A-format fields. -/
  | slt (c : CoreId) (d a b : BitVec 6)
  /-- `SLTU` (R87). d receives 1 if a < b unsigned, else 0. Operands: the core and the A-format fields. -/
  | sltu (c : CoreId) (d a b : BitVec 6)
  /-- `MIN` (R87). d receives the signed minimum of a and b. Operands: the core and the A-format fields. -/
  | min (c : CoreId) (d a b : BitVec 6)
  /-- `MAX` (R87). d receives the signed maximum of a and b. Operands: the core and the A-format fields. -/
  | max (c : CoreId) (d a b : BitVec 6)
  /-- `MINU` (R87). d receives the unsigned minimum of a and b. Operands: the core and the A-format fields. -/
  | minu (c : CoreId) (d a b : BitVec 6)
  /-- `MAXU` (R87). d receives the unsigned maximum of a and b. Operands: the core and the A-format fields. -/
  | maxu (c : CoreId) (d a b : BitVec 6)
  /-- `CMOV` (R87). d receives a if b is non-zero, otherwise keeps its value. Operands: the core and the A-format fields. -/
  | cmov (c : CoreId) (d a b : BitVec 6)
  /-- `MUL` (R87). d receives the low W bits of a × b. Operands: the core and the A-format fields. -/
  | mul (c : CoreId) (d a b : BitVec 6)
  /-- `MULH` (R87). d receives the high W bits of signed a × signed b. Operands: the core and the A-format fields. -/
  | mulh (c : CoreId) (d a b : BitVec 6)
  /-- `MULHU` (R87). d receives the high W bits of unsigned a × unsigned b. Operands: the core and the A-format fields. -/
  | mulhu (c : CoreId) (d a b : BitVec 6)
  /-- `MULHSU` (R87). d receives the high W bits of signed a × unsigned b. Operands: the core and the A-format fields. -/
  | mulhsu (c : CoreId) (d a b : BitVec 6)
  /-- `DIV` (R88). d receives the signed quotient truncated towards zero, with defined results for division by zero and overflow. Operands: the core and the A-format fields. -/
  | div (c : CoreId) (d a b : BitVec 6)
  /-- `DIVU` (R88). d receives the unsigned quotient, 2^W − 1 for a zero divisor. Operands: the core and the A-format fields. -/
  | divu (c : CoreId) (d a b : BitVec 6)
  /-- `REM` (R88). d receives the signed remainder with the sign of a. Operands: the core and the A-format fields. -/
  | rem (c : CoreId) (d a b : BitVec 6)
  /-- `REMU` (R88). d receives the unsigned remainder. Operands: the core and the A-format fields. -/
  | remu (c : CoreId) (d a b : BitVec 6)
  /-- `CLZ` (R87). d receives the count of leading zero bits of a. Operands: the core and the A-format fields. -/
  | clz (c : CoreId) (d a b : BitVec 6)
  /-- `CTZ` (R87). d receives the count of trailing zero bits of a. Operands: the core and the A-format fields. -/
  | ctz (c : CoreId) (d a b : BitVec 6)
  /-- `POPC` (R87). d receives the count of one bits of a. Operands: the core and the A-format fields. -/
  | popc (c : CoreId) (d a b : BitVec 6)
  /-- `ALUW` (R89). An FQ-M 32-bit ALU operation on the low words of a and b with the result sign-extended. Operands: the core and the A-format fields, fn among them. -/
  | aluw (c : CoreId) (d a b : BitVec 6) (fn : BitVec 8)
  /-- `ADDI` (R90). d receives a plus the sign-extended immediate. Operands: the core and the I-format fields. -/
  | addi (c : CoreId) (d a : BitVec 6) (imm : BitVec 14)
  /-- `ANDI` (R90). d receives a AND the zero-extended immediate. Operands: the core and the I-format fields. -/
  | andi (c : CoreId) (d a : BitVec 6) (imm : BitVec 14)
  /-- `ORI` (R90). d receives a OR the zero-extended immediate. Operands: the core and the I-format fields. -/
  | ori (c : CoreId) (d a : BitVec 6) (imm : BitVec 14)
  /-- `XORI` (R90). d receives a XOR the zero-extended immediate. Operands: the core and the I-format fields. -/
  | xori (c : CoreId) (d a : BitVec 6) (imm : BitVec 14)
  /-- `SLTI` (R90). d receives 1 if a is below the immediate, signed. Operands: the core and the I-format fields. -/
  | slti (c : CoreId) (d a : BitVec 6) (imm : BitVec 14)
  /-- `SLTIU` (R90). d receives 1 if a is below the sign-extended immediate, unsigned. Operands: the core and the I-format fields. -/
  | sltiu (c : CoreId) (d a : BitVec 6) (imm : BitVec 14)
  /-- `SHLI` (R90). d receives a shifted left by imm[5:0]. Operands: the core and the I-format fields. -/
  | shli (c : CoreId) (d a : BitVec 6) (imm : BitVec 14)
  /-- `SHRI` (R90). d receives a shifted right logically by imm[5:0]. Operands: the core and the I-format fields. -/
  | shri (c : CoreId) (d a : BitVec 6) (imm : BitVec 14)
  /-- `SRAI` (R90). d receives a shifted right arithmetically by imm[5:0]. Operands: the core and the I-format fields. -/
  | srai (c : CoreId) (d a : BitVec 6) (imm : BitVec 14)
  /-- `LIH` (R90). d receives the immediate in bits [63:24] and a's bits [23:0]. Operands: the core and the I-format fields. -/
  | lih (c : CoreId) (d a : BitVec 6) (imm : BitVec 14)
  /-- `ADDIW` (R90). d receives the low 32 bits of a + imm, sign-extended. Operands: the core and the I-format fields. -/
  | addiw (c : CoreId) (d a : BitVec 6) (imm : BitVec 14)
  /-- `ADDPC` (R90). d receives the unit address plus the immediate. Operands: the core and the I-format fields. -/
  | addpc (c : CoreId) (d a : BitVec 6) (imm : BitVec 14)
  /-- `LDB` (R91). Loads one byte, sign-extended. Operands: the core and the M-format fields. -/
  | ldb (c : CoreId) (d base : BitVec 6) (off : BitVec 14)
  /-- `LDBU` (R91). Loads one byte, zero-extended. Operands: the core and the M-format fields. -/
  | ldbu (c : CoreId) (d base : BitVec 6) (off : BitVec 14)
  /-- `LDH` (R91). Loads two bytes, sign-extended. Operands: the core and the M-format fields. -/
  | ldh (c : CoreId) (d base : BitVec 6) (off : BitVec 14)
  /-- `LDHU` (R91). Loads two bytes, zero-extended. Operands: the core and the M-format fields. -/
  | ldhu (c : CoreId) (d base : BitVec 6) (off : BitVec 14)
  /-- `LDW` (R91). Loads four bytes, sign-extended on FQ-M. Operands: the core and the M-format fields. -/
  | ldw (c : CoreId) (d base : BitVec 6) (off : BitVec 14)
  /-- `LDWU` (R91). Loads four bytes, zero-extended, FQ-M only. Operands: the core and the M-format fields. -/
  | ldwu (c : CoreId) (d base : BitVec 6) (off : BitVec 14)
  /-- `LDD` (R91). Loads eight bytes, FQ-M only. Operands: the core and the M-format fields. -/
  | ldd (c : CoreId) (d base : BitVec 6) (off : BitVec 14)
  /-- `STB` (R91). Stores the low byte of d. Operands: the core and the M-format fields. -/
  | stb (c : CoreId) (d base : BitVec 6) (off : BitVec 14)
  /-- `STH` (R91). Stores the low two bytes of d. Operands: the core and the M-format fields. -/
  | sth (c : CoreId) (d base : BitVec 6) (off : BitVec 14)
  /-- `STW` (R91). Stores the low four bytes of d. Operands: the core and the M-format fields. -/
  | stw (c : CoreId) (d base : BitVec 6) (off : BitVec 14)
  /-- `STD` (R91). Stores eight bytes of d, FQ-M only. Operands: the core and the M-format fields. -/
  | std (c : CoreId) (d base : BitVec 6) (off : BitVec 14)
  /-- `LDX_W` (R100). Loads four bytes sign-extended and sets a reservation on the 64-byte granule. Operands: the core and the A-format fields. -/
  | ldxW (c : CoreId) (d a b : BitVec 6)
  /-- `LDX_D` (R100). Loads eight bytes and sets a reservation on the 64-byte granule. Operands: the core and the A-format fields. -/
  | ldxD (c : CoreId) (d a b : BitVec 6)
  /-- `STX_W` (R100). Stores four bytes if the reservation holds, writing 0 or 1 to d and clearing the reservation. Operands: the core and the A-format fields. -/
  | stxW (c : CoreId) (d a b : BitVec 6)
  /-- `STX_D` (R100). Stores eight bytes if the reservation holds, writing 0 or 1 to d and clearing the reservation. Operands: the core and the A-format fields. -/
  | stxD (c : CoreId) (d a b : BitVec 6)
  /-- `RESERVATION_CLEAR` (R101). A write to the reserved granule by another agent clears the reservation and sets the core's event latch. Operands: the granule's address, and the writing agent: a core, or (viaDma) a Felt station or DMA. -/
  | reservationClear (agent : CoreId) (viaDma : Bool) (addr : BitVec 40)
  /-- `BR` (R93). Compares a and b under cond and branches to the unit address plus 4 × off when it holds. Operands: the core and the B-format fields. -/
  | br (c : CoreId) (cond : BitVec 4) (a b : BitVec 6) (off : BitVec 10)
  /-- `J` (R94). Continues at its own address plus 4 × off. Operands: the core and the J-format field. -/
  | j (c : CoreId) (off : BitVec 26)
  /-- `JL` (R94). Jumps and writes the return address to g1. Operands: the core and the J-format field. -/
  | jl (c : CoreId) (off : BitVec 26)
  /-- `JR` (R94). Jumps to a + imm and writes the return address to d. Operands: the core and the I-format fields. -/
  | jr (c : CoreId) (d a : BitVec 6) (imm : BitVec 14)
  /-- `FADD` (R96). d receives a + b rounded. Operands: the core and the FP fields P and RM. -/
  | fadd (c : CoreId) (d a b : BitVec 6) (p : Bool) (rm : BitVec 3)
  /-- `FSUB` (R96). d receives a − b rounded. Operands: the core and the FP fields P and RM. -/
  | fsub (c : CoreId) (d a b : BitVec 6) (p : Bool) (rm : BitVec 3)
  /-- `FMUL` (R96). d receives a × b rounded. Operands: the core and the FP fields P and RM. -/
  | fmul (c : CoreId) (d a b : BitVec 6) (p : Bool) (rm : BitVec 3)
  /-- `FDIV` (R96). d receives a ÷ b rounded. Operands: the core and the FP fields P and RM. -/
  | fdiv (c : CoreId) (d a b : BitVec 6) (p : Bool) (rm : BitVec 3)
  /-- `FSQRT` (R96). d receives √a rounded. Operands: the core and the FP fields P and RM. -/
  | fsqrt (c : CoreId) (d a b : BitVec 6) (p : Bool) (rm : BitVec 3)
  /-- `FMADD` (R96). d receives d + a × b rounded once. Operands: the core and the FP fields P and RM. -/
  | fmadd (c : CoreId) (d a b : BitVec 6) (p : Bool) (rm : BitVec 3)
  /-- `FMSUB` (R96). d receives d − a × b rounded once. Operands: the core and the FP fields P and RM. -/
  | fmsub (c : CoreId) (d a b : BitVec 6) (p : Bool) (rm : BitVec 3)
  /-- `FMIN` (R98). d receives the minimum of a and b with the NaN rules. Operands: the core and the FP fields P and RM. -/
  | fmin (c : CoreId) (d a b : BitVec 6) (p : Bool) (rm : BitVec 3)
  /-- `FMAX` (R98). d receives the maximum of a and b with the NaN rules. Operands: the core and the FP fields P and RM. -/
  | fmax (c : CoreId) (d a b : BitVec 6) (p : Bool) (rm : BitVec 3)
  /-- `FEQ` (R98). d receives integer 1 if a equals b. Operands: the core and the FP fields P and RM. -/
  | feq (c : CoreId) (d a b : BitVec 6) (p : Bool) (rm : BitVec 3)
  /-- `FLT` (R98). d receives integer 1 if a is below b. Operands: the core and the FP fields P and RM. -/
  | flt (c : CoreId) (d a b : BitVec 6) (p : Bool) (rm : BitVec 3)
  /-- `FLE` (R98). d receives integer 1 if a is at most b. Operands: the core and the FP fields P and RM. -/
  | fle (c : CoreId) (d a b : BitVec 6) (p : Bool) (rm : BitVec 3)
  /-- `FSGNJ` (R96). d receives the magnitude of a with the sign of b. Operands: the core and the FP fields P and RM. -/
  | fsgnj (c : CoreId) (d a b : BitVec 6) (p : Bool) (rm : BitVec 3)
  /-- `FSGNJN` (R96). d receives the magnitude of a with the inverted sign of b. Operands: the core and the FP fields P and RM. -/
  | fsgnjn (c : CoreId) (d a b : BitVec 6) (p : Bool) (rm : BitVec 3)
  /-- `FCVT` (R99). Converts a between float and integer or between precisions as the b selector chooses. Operands: the core and the FP fields P and RM. -/
  | fcvt (c : CoreId) (d a b : BitVec 6) (p : Bool) (rm : BitVec 3)
  /-- `FCLASS` (R99). d receives a one-hot class mask of a. Operands: the core and the FP fields P and RM. -/
  | fclass (c : CoreId) (d a b : BitVec 6) (p : Bool) (rm : BitVec 3)
  /-- `GETS` (R106). d receives a state register. Operands: the core and the I-format fields. -/
  | gets (c : CoreId) (d a : BitVec 6) (imm : BitVec 14)
  /-- `PUTS` (R106). A state register receives a. Operands: the core and the I-format fields. -/
  | puts (c : CoreId) (d a : BitVec 6) (imm : BitVec 14)
  /-- `SSET` (R106). d receives a state register, which is then ORed with a indivisibly. Operands: the core and the I-format fields. -/
  | sset (c : CoreId) (d a : BitVec 6) (imm : BitVec 14)
  /-- `SCLR` (R106). d receives a state register, which is then cleared by a indivisibly. Operands: the core and the I-format fields. -/
  | sclr (c : CoreId) (d a : BitVec 6) (imm : BitVec 14)
  /-- `TRAP` (R105). Raises TRAPI with the immediate as trap value. Operands: the core and the I-format fields. -/
  | trap (c : CoreId) (d a : BitVec 6) (imm : BitVec 14)
  /-- `FENCE` (R104). Performs every preceding load and store before any following one. Operands: the core and the A-format fields. -/
  | fence (c : CoreId) (d a b : BitVec 6)
  /-- `FENCE_I` (R104). Makes instruction fetch observe every preceding store. Operands: the core and the A-format fields. -/
  | fenceI (c : CoreId) (d a b : BitVec 6)
  /-- `WAIT` (R107). Suspends the core until an event, an enabled interrupt or a timeout. Operands: the core and the A-format fields. -/
  | wait (c : CoreId) (d a b : BitVec 6)
  /-- `WAIT_WAKE` (R107). A wake condition ends a WAIT, d receives the condition mask and the event latch clears. Operands: the waiting core. -/
  | waitWake (c : CoreId)
  /-- `SEV` (R105). Sets the event latch of both Mill logical cores. Operands: the core and the A-format fields. -/
  | sev (c : CoreId) (d a b : BitVec 6)
  /-- `RTE` (R111). Returns from a trap, restoring level, interrupt enable and xTRAP and continuing at xEPC. Operands: the core and the A-format fields. -/
  | rte (c : CoreId) (d a b : BitVec 6)
  /-- `BREAK` (R105). Raises BREAK. Operands: the core and the A-format fields. -/
  | brk (c : CoreId) (d a b : BitVec 6)
  /-- `INTERRUPT_ENTRY` (R111). An enabled pending interrupt is taken before the next unit with its source number in xTVAL. Operands: the core that takes it. -/
  | interruptEntry (c : CoreId)
  /-- `LOCKSTEP_MISMATCH` (R115). A mismatch between the physical cores of a Mill logical core stops it and is reported. Operands: false: Mill-0; true: Mill-1. -/
  | lockstepMismatch (core1 : Bool)
  /-- `IRQ_SOURCE_EDGE` (R116). A rising edge on an interrupt source makes it pending in the Mill interrupt controller. Operands: the interrupt source. -/
  | irqSourceEdge (src : Fin 128)
  /-- `SWI_REQUEST` (R116). Setting REQ126 or REQ127 raises an edge on software source 126 or 127. Operands: bits written to MILL_IRQ_SWI. -/
  | swiRequest (req : BitVec 2)
  /-- `HYS` (R143). Hysteresis comparison of a against lo and hi with the state in d. Operands: the core and the A-format fields. -/
  | hys (c : CoreId) (d a b : BitVec 6)
  /-- `CLMP` (R144). d receives a limited to lo and hi, NaN becoming +0. Operands: the core and the A-format fields. -/
  | clmp (c : CoreId) (d a b : BitVec 6)
  /-- `RMP` (R145). Moves state d towards a by at most the rise or fall limit, flagging rate limiting. Operands: the core and the A-format fields. -/
  | rmp (c : CoreId) (d a b : BitVec 6)
  /-- `INTG` (R146). Integrates a into d within limits unless frozen, writing a status word. Operands: the core and the A-format fields. -/
  | intg (c : CoreId) (d a b : BitVec 6)
  /-- `LUT` (R147). Interpolates linearly in an evenly spaced binary32 table. Operands: the core and the A-format fields. -/
  | lut (c : CoreId) (d a b : BitVec 6)
  /-- `QADD15` (R148). Saturating Q15 addition. Operands: the core and the A-format fields. -/
  | qadd15 (c : CoreId) (d a b : BitVec 6)
  /-- `QADD31` (R148). Saturating Q31 addition. Operands: the core and the A-format fields. -/
  | qadd31 (c : CoreId) (d a b : BitVec 6)
  /-- `QSUB15` (R148). Saturating Q15 subtraction. Operands: the core and the A-format fields. -/
  | qsub15 (c : CoreId) (d a b : BitVec 6)
  /-- `QSUB31` (R148). Saturating Q31 subtraction. Operands: the core and the A-format fields. -/
  | qsub31 (c : CoreId) (d a b : BitVec 6)
  /-- `QMUL15` (R148). Rounded saturating Q15 multiplication. Operands: the core and the A-format fields. -/
  | qmul15 (c : CoreId) (d a b : BitVec 6)
  /-- `QMUL31` (R148). Rounded saturating Q31 multiplication. Operands: the core and the A-format fields. -/
  | qmul31 (c : CoreId) (d a b : BitVec 6)
  /-- `QMAC15` (R148). Q15 multiply-accumulate into d. Operands: the core and the A-format fields. -/
  | qmac15 (c : CoreId) (d a b : BitVec 6)
  /-- `QMAC31` (R148). Q31 multiply-accumulate into d. Operands: the core and the A-format fields. -/
  | qmac31 (c : CoreId) (d a b : BitVec 6)
  /-- `QNEG15` (R148). Saturating Q15 negation. Operands: the core and the A-format fields. -/
  | qneg15 (c : CoreId) (d a b : BitVec 6)
  /-- `QNEG31` (R148). Saturating Q31 negation. Operands: the core and the A-format fields. -/
  | qneg31 (c : CoreId) (d a b : BitVec 6)
  /-- `QABS15` (R148). Saturating Q15 absolute value. Operands: the core and the A-format fields. -/
  | qabs15 (c : CoreId) (d a b : BitVec 6)
  /-- `QABS31` (R148). Saturating Q31 absolute value. Operands: the core and the A-format fields. -/
  | qabs31 (c : CoreId) (d a b : BitVec 6)
  /-- `QSHL31` (R148). Saturating Q31 left shift. Operands: the core and the A-format fields. -/
  | qshl31 (c : CoreId) (d a b : BitVec 6)
  /-- `QSHR31` (R148). Rounded arithmetic Q31 right shift. Operands: the core and the A-format fields. -/
  | qshr31 (c : CoreId) (d a b : BitVec 6)
  /-- `F2Q15` (R149). Converts binary32 to Q15 with saturation. Operands: the core and the A-format fields. -/
  | f2q15 (c : CoreId) (d a b : BitVec 6)
  /-- `F2Q31` (R149). Converts binary32 to Q31 with saturation. Operands: the core and the A-format fields. -/
  | f2q31 (c : CoreId) (d a b : BitVec 6)
  /-- `Q2F15` (R148). Converts Q15 to binary32 exactly. Operands: the core and the A-format fields. -/
  | q2f15 (c : CoreId) (d a b : BitVec 6)
  /-- `Q2F31` (R148). Converts Q31 to binary32 rounded. Operands: the core and the A-format fields. -/
  | q2f31 (c : CoreId) (d a b : BitVec 6)
  /-- `SYNC` (R133). Ends a lane period, releasing its staged messages unless it overran, and waits for a trigger event. Operands: the core and the I-format fields. -/
  | sync (c : CoreId) (d a : BitVec 6) (imm : BitVec 14)
  /-- `SYNC_WAKE` (R132). An event on the SYNC channel lets the waiting lane go and writes its status word. Operands: tile and lane. -/
  | syncWake (t : Fin 4) (l : Fin 8)
  /-- `PUB` (R139). Marks a transmit channel's staging buffer for release with a length, or withdraws it. Operands: the core, d, a and imm[11:0]. -/
  | pub (c : CoreId) (d a : BitVec 6) (imm : BitVec 12)
  /-- `SUB_MAILBOX` (R138). d receives the status of a receive mailbox's view. Operands: the core, d, a and imm[11:0]. -/
  | subMailbox (c : CoreId) (d a : BitVec 6) (imm : BitVec 12)
  /-- `LANE_RUN` (R129). Setting RUN on a stopped or trapped lane starts it at address 0 with cleared registers. Operands: tile and lane. -/
  | laneRun (t : Fin 4) (l : Fin 8)
  /-- `LANE_STOP` (R130). Clearing RUN stops the lane at the next unit boundary and discards its unreleased PUBs. Operands: tile and lane. -/
  | laneStop (t : Fin 4) (l : Fin 8)
  /-- `PRS_RX_CFG_WRITE` (R137). A write changing STATION or CHAN of a Press receive mailbox empties it and its view. Operands: tile, mailbox and the value written. -/
  | prsRxCfgWrite (t : Fin 4) (m : Fin 32) (v : Word)
  /-- `PRS_HOST_WRITE` (R128). A host write to Press tile memory succeeds only to stopped or trapped lanes or owned banks, else bus error. Operands: the requester, tile, offset in the tile's range and the word written. -/
  | prsHostWrite (rq : Requester) (t : Fin 4) (off : BitVec 18) (v : Word)
  /-- `PRESS_THROTTLE` (R124). The tile sensor crossing 146 °C or 144 °C changes the Press tile clock between 800 and 400 MHz. Operands: tile and its sensor's reading in 0.125 °C. -/
  | pressThrottle (t : Fin 4) (temp : Int)
  /-- `CAL_QUEUE_PUSH` (R166). A write to CAL_Q0_PUSH or CAL_Q1_PUSH appends a job descriptor, or drops it when the FIFO is full. Operands: the queue (0 NORMAL, 1 BACKGROUND) and the word written. -/
  | calQueuePush (q : Fin 2) (v : Word)
  /-- `JOB_START` (R167). A job starts when its named tiles are free of its class or higher. Operands: the job, by its place in the array's list of jobs. -/
  | jobStart (j : Nat)
  /-- `JOB_PREEMPT` (R167). A higher-class job takes a tile from a running job at the tile's next block boundary. Operands: the job, by its place in the array's list of jobs. -/
  | jobPreempt (j : Nat)
  /-- `JOB_RESUME` (R167). A preempted job resumes at the block where it stopped once its tiles are free. Operands: the job, by its place in the array's list of jobs. -/
  | jobResume (j : Nat)
  /-- `JOB_END` (R170). A job ends with a status code, committing or discarding its staged outputs and writing its status record. Operands: the job, by its place in the array's list of jobs. -/
  | jobEnd (j : Nat)
  /-- `JOB_DEADLINE` (R170). The job deadline passes before commit and the job ends STALE. Operands: the job, by its place in the array's list of jobs. -/
  | jobDeadline (j : Nat)
  /-- `CAL_ABORT` (R167). A write to CAL_ABORT ends every job with that JOB_ID as ABORTED at its next block boundary. Operands: the JOB_ID written. -/
  | calAbort (id : BitVec 16)
  /-- `CAL_THROTTLE` (R155). A Calender tile sensor crossing a threshold changes the tile clock at its next block boundary. Operands: tile and its sensor's reading in 0.125 °C. -/
  | calThrottle (t : Fin 4) (temp : Int)
  /-- `LOADM` (R161). Loads a handle from DRAM, a mailbox view or another handle. Operands: the job, by its place in the array's list of jobs. -/
  | loadm (j : Nat)
  /-- `STOREM` (R161). Stages a handle for output to DRAM or a Felt channel at commit. Operands: the job, by its place in the array's list of jobs. -/
  | storem (j : Nat)
  /-- `FACT_CHOL` (R171). Cholesky factorisation in place with small-pivot regularisation. Operands: the job, by its place in the array's list of jobs. -/
  | factChol (j : Nat)
  /-- `FACT_LDL` (R171). LDLᵀ factorisation in place with small-pivot regularisation. Operands: the job, by its place in the array's list of jobs. -/
  | factLdl (j : Nat)
  /-- `FACT_QR` (R171). Householder QR factorisation with small-pivot regularisation. Operands: the job, by its place in the array's list of jobs. -/
  | factQr (j : Nat)
  /-- `SOLVE_F` (R161). Forward solve with L, or application of Qᵀ. Operands: the job, by its place in the array's list of jobs. -/
  | solveF (j : Nat)
  /-- `SOLVE_B` (R161). Back solve with R or Lᵀ. Operands: the job, by its place in the array's list of jobs. -/
  | solveB (j : Nat)
  /-- `ILS_SEARCH` (R183). SOLVE.B with FLAGS[0] set performs the integer least-squares search and reports the ratio. Operands: the job, by its place in the array's list of jobs. -/
  | ilsSearch (j : Nat)
  /-- `GEMV` (R161). Matrix-vector multiply-accumulate. Operands: the job, by its place in the array's list of jobs. -/
  | gemv (j : Nat)
  /-- `GEMM` (R161). Matrix-matrix multiply-accumulate. Operands: the job, by its place in the array's list of jobs. -/
  | gemm (j : Nat)
  /-- `SYRK` (R161). Symmetric rank-k update of the lower part. Operands: the job, by its place in the array's list of jobs. -/
  | syrk (j : Nat)
  /-- `AXPY` (R161). Scaled vector addition. Operands: the job, by its place in the array's list of jobs. -/
  | axpy (j : Nat)
  /-- `NORM` (R161). Computes the 2-norm or infinity norm of a handle. Operands: the job, by its place in the array's list of jobs. -/
  | norm (j : Nat)
  /-- `QP_STEP` (R163). Runs primal active-set iterations on the QP until optimal or the iteration limit. Operands: the job, by its place in the array's list of jobs. -/
  | qpStep (j : Nat)
  /-- `SHIFT` (R161). Moves a handle up by blocks and repeats the last block. Operands: the job, by its place in the array's list of jobs. -/
  | shift (j : Nat)
  /-- `PIVCHK` (R161). Ends the job with PIVOT_LIMIT if regularised pivots exceed IMM. Operands: the job, by its place in the array's list of jobs. -/
  | pivchk (j : Nat)
  /-- `NBB_CH_CFG_WRITE` (R187). A channel identity write takes effect only in IDLE, else is ignored with CFG_REJ; clearing EN returns to IDLE. Operands: the channel and the word written. -/
  | nbbChCfgWrite (c : Fin 192) (v : Word)
  /-- `NBB_SPC_WRITE` (R188). A correlator spacing write outside its ranges is ignored and sets CFG_REJ. Operands: the channel and the word written. -/
  | nbbSpcWrite (c : Fin 192) (v : Word)
  /-- `LOOP_UPDATE` (R191). Every millisecond a channel dumps its correlators, evaluates discriminators and updates its loop filter and NCOs. Operands: the channel, the dumps (I, Q) of VE, E, P, L, VL, MP1, MP2 (a missing one reads 0), the estimated C/N0 in 1/16 dB-Hz, and the soft value of a symbol that ended at this update. -/
  | loopUpdate (c : Fin 192) (iq : List (Int × Int)) (cn0 : BitVec 12) (sym : Option (BitVec 16))
  /-- `AID_EXPIRE` (R193). No new Doppler aid for AID_AGE ms stops aiding, adding f_aid to acc1 and clearing AIDED. Operands: the channel. -/
  | aidExpire (c : Fin 192)
  /-- `TOW_WRITE` (R201). A write to NBB_CHc_TOW adds to the millisecond count and sets or clears TOW_SYNC and HALF_OK. Operands: the channel and the word written. -/
  | towWrite (c : Fin 192) (v : Word)
  /-- `ACQ_PUSH` (R196). NBB_ACQ_PUSH queues a copy of the request words, or drops it when the queue is full. -/
  | acqPush
  /-- `ACQ_RESULT` (R198). An acquisition request completes, queues its result and performs or refuses the hand-off. Operands: of the largest peak: Doppler (binary32), code phase in half-chips, ratio to the mean cell power (unsigned Q8.8). -/
  | acqResult (dop : Word) (phase : Word) (ratio : BitVec 16)
  /-- `ACQ_POP` (R198). Reading NBB_ACQ_RES3 pops the acquisition result FIFO. -/
  | acqPop
  /-- `OBS_RECORD_PUBLISH` (R202). Within 150 µs of an epoch the baseband publishes its observable records on Felt. -/
  | obsRecordPublish
  /-- `EPOCH_BLOCK_WRITE` (R203). Within 200 µs of an epoch the baseband writes an epoch block to the observation ring, or sets RING_OVF. -/
  | epochBlockWrite
  /-- `NOTCH_UPDATE` (R204). An auto notch locks to a narrowband line or is bypassed after 100 ms, and linked notches copy antenna 0. Operands: antenna, band (0 upper), notch; the strongest narrowband line at least 12 dB above the noise floor, as its offset in kHz. -/
  | notchUpdate (a : Fin 3) (b : Fin 2) (k : Fin 4) (lines : List (BitVec 16 × Nat))
  /-- `JAM_EVAL` (R205). Every 100 ms each band computes its jamming indicator and raises JAM at JAM_THR. Operands: antenna, band; AGC gain and noise floor in 0.01 dB; percentage of samples at full scale. -/
  | jamEval (a : Fin 3) (b : Fin 2) (agc n0 : Int) (clip : Byte)
  /-- `QUIET_CAPTURE` (R205). Setting QUIET_CAPTURE starts a 10 s capture of a new quiet reference. Operands: the antenna. -/
  | quietCapture (a : Fin 3)
  /-- `QUIET_CAPTURE_DONE` (R205). The 10 s quiet-reference capture ends and replaces the reference. Operands: the antenna. -/
  | quietCaptureDone (a : Fin 3)
  /-- `ANT_OPEN` (R206). Antenna current below 3 mA for 1 s enters OPEN and raises ANT. Operands: the antenna and its supply current in mA. -/
  | antOpen (a : Fin 3) (ma : Nat)
  /-- `ANT_SHORT` (R206). Antenna current above 60 mA for 10 ms switches the supply off and raises ANT. Operands: the antenna and its supply current in mA. -/
  | antShort (a : Fin 3) (ma : Nat)
  /-- `ANT_RETRY` (R206). Setting RETRY reapplies the antenna supply after SHORT. Operands: the antenna. -/
  | antRetry (a : Fin 3)
  /-- `TSOL_COMMIT` (R209). Setting COMMIT adopts, slews to or schedules a step to the written time model. -/
  | tsolCommit
  /-- `TIME_STEP` (R210). At the withheld whole second the new model replaces the old and STEP is recorded. -/
  | timeStep
  /-- `SLEW_END` (R209). The slew residual reaches zero and SLEWING clears. -/
  | slewEnd
  /-- `HOLDOVER_TIMEOUT` (R211). No commit for HOLD_TIMEOUT ms enters HOLDOVER. -/
  | holdoverTimeout
  /-- `PPS_OUT_PULSE` (R212). PPS_OUT asserts at each whole second of the effective scale time plus ADV. -/
  | ppsOutPulse
  /-- `XF_COMMIT` (R219). Setting FSN_XF_CTL.COMMIT requests a bank switch at the next close, or is refused while BUSY. -/
  | xfCommit
  /-- `XF_HOLD_END` (R220). 400 ms after a switch the old bank is released and BUSY clears. -/
  | xfHoldEnd
  /-- `SUBQ_WRITE` (R225). Advancing FSN_SUBQ_WR announces sample records for processing. Operands: the word written to FSN_SUBQ_WR. -/
  | subqWrite (v : Word)
  /-- `SAMPLE_RECORD_PROCESS` (R225). The Fusion unit processes a submitted record, refusing, discarding or accepting it, and advances RD. -/
  | sampleRecordProcess
  /-- `ALIGN_BLOCK_WRITE` (R228). Within 200 µs of the close the aligned input block is written to the Calender local store, or ALIGN_ERR is set. -/
  | alignBlockWrite
  /-- `AID_PUBLISH` (R231). Within 100 µs of a close the Fusion unit publishes three Doppler-aid messages. -/
  | aidPublish
  /-- `IMU_SECONDARY_SWITCH` (R230). No valid ID 3 sample for 5 ms switches preintegration to the secondary IMU. -/
  | imuSecondarySwitch
  /-- `TRACK_FIX` (R236). Writing FIX words and FIXED makes a track a fixed target. Operands: the track and its surveyed site position (binary32). -/
  | trackFix (t : Fin 128) (n e d : Word)
  /-- `SER_CHAR_RX` (R238). A UART receives a character into its FIFO, raising DELIM or EOL or recording an error or overrun. Operands: the port, the character and its errors. -/
  | serCharRx (n : Fin 8) (b : Byte) (framing parity : Bool)
  /-- `SER_DATA_READ` (R238). Reading FSN_SERn_DATA pops one received character with its status. Operands: the port. -/
  | serDataRead (n : Fin 8)
  /-- `SER_DATA_WRITE` (R239). Writing FSN_SERn_DATA pushes a character for transmission. Operands: the port and the character. -/
  | serDataWrite (n : Fin 8) (b : Byte)
  /-- `SER_TX_RELEASE` (R239). In RS-485 mode the driver releases the line one bit time after the last stop bit. Operands: the port. -/
  | serTxRelease (n : Fin 8)
  /-- `DELIMITER_STAMP` (R241). The library's delimiter interrupt handler reads local time to stamp a telegram. Operands: the port. -/
  | delimiterStamp (n : Fin 8)
  /-- `SER_CALIBRATION` (R242). The library completes a capture-based latency calibration of a serial port and sets L_cal or LAT_HIGH. Operands: the port, and for each telegram t_fw, t_cap and the time of its delimiter event, ns. -/
  | serCalibration (n : Fin 8) (tel : List (Int × Int × Int))
  /-- `CHAIN_OUTPUT` (R246). A channel's slow chain produces an output sample with limiting, calibration and time stamp. Operands: the channel, its new input samples (4 × DEC of them, oldest first; a bitstream's are taken by sign, a missing one reads 0), and the duration in ns of the last 1,024 edges of an external clock. -/
  | chainOutput (c : Fin 40) (xs : List Int) (ns1024 : Nat)
  /-- `CHAIN_RESTART` (R251). A write changing PRESET, CHAIN, EN, MODE or EDGE restarts the channel's chain with VALID clear. Operands: the channel, whether HBX_CHc_CHAIN or HBX_CHc_CFG is written, and the word. -/
  | chainRestart (c : Fin 40) (chain : Bool) (v : Word)
  /-- `USR_CAL_WRITE` (R253). A user calibration write recomputes EFF_OFS and EFF_GAIN together between output samples. Operands: the channel, whether USR_TRIM or USR_OFS is written, and the word. -/
  | usrCalWrite (c : Fin 40) (trim : Bool) (v : Word)
  /-- `CLK_ERR` (R244). A bitstream clock out of range or absent for 10 µs sets CLK_ERR and holds the output invalid. Operands: the external bitstream. -/
  | clkErr (b : Fin 8)
  /-- `BS_CLOCK_RECOVER` (R244). A bitstream clock back in range restarts the chain. Operands: the external bitstream. -/
  | bsClockRecover (b : Fin 8)
  /-- `IMU_SAMPLE` (R254). Every 62,500 ticks the internal IMU samples, corrects and stamps a measurement. Operands: the six raw readings, the status bits, and whether it was delivered more than 100 µs late. -/
  | imuSample (raw : List Int) (rateSat forceSat fail late : Bool)
  /-- `HBX_PUB_SEND` (R255). Within 20 µs of the event each triggered publication's message becomes ready on Felt. Operands: the publication. -/
  | hbxPubSend (p : Fin 16)
  /-- `BAND_DECISION` (R259). Each 50 ns a valve compares its fast current with its band and switches its driver. Operands: the valve and the last seven bits of its current sense, newest in bit 0. -/
  | bandDecision (v : Fin 16) (bits : BitVec 7)
  /-- `BAND_TIMEOUT` (R260). TMO after the last accepted band sets BAND_TMO and acts by FAIL. Operands: the valve. -/
  | bandTimeout (v : Fin 16)
  /-- `VALVE_UNDERVOLTAGE` (R261). Valve supply below 12.0 V switches every driver OFF and sets UV. Operands: the valve supply in mV. -/
  | valveUndervoltage (mv : Nat)
  /-- `VALVE_UV_RECOVER` (R261). Valve supply at or above 14.0 V for 10 ms resumes the valves. Operands: the valve supply in mV. -/
  | valveUvRecover (mv : Nat)
  /-- `COUNTED_EDGE` (R263). An edge of A or B is counted and stamped, or a double change sets PHASE_ERR. Operands: the input, its new A (bit 1) and B (bit 0) levels, and how many ns ago the edge was. -/
  | countedEdge (n : Fin 12) (ab : BitVec 2) (age : Nat)
  /-- `WIRE_DISAGREEMENT` (R265). A pair whose wires read the same state beyond WFILT enters disagreement with its effects. Operands: the input and the pair: 0 A (data of an absolute input), 1 B, 2 Z. -/
  | wireDisagreement (n : Fin 16) (pair : Fin 3)
  /-- `WIRE_AGREE` (R265). A pair that has agreed again for 10 ms resumes counting, indices or reads. Operands: the input and the pair: 0 A (data of an absolute input), 1 B, 2 Z. -/
  | wireAgree (n : Fin 16) (pair : Fin 3)
  /-- `INDEX_EVENT` (R266). An index aligns or checks an azimuth count, or latches a shaft count and computes drift. Operands: the input, with Z asserted, and how many ns ago the index edge was. -/
  | indexEvent (n : Fin 12) (age : Nat)
  /-- `OBSERVER_STEP` (R268). Every 100 µs the tracking observer updates position, speed and acceleration. Operands: the input. -/
  | observerStep (n : Fin 16)
  /-- `STANDSTILL` (R269). No counted edge for STILL_TMO enters standstill with zero speed. Operands: the input. -/
  | standstill (n : Fin 16)
  /-- `ABS_TRANSFER` (R273). An absolute transfer ends and is accepted or rejected. Operands: the absolute input, the value, whether it passed its check and ended, the BiSS-C nE and nW bits, and its duration in ns. -/
  | absTransfer (n : Fin 4) (val : Word) (ok nE nW : Bool) (ns : Nat)
  /-- `REALIGN` (R266). Setting REALIGN arms the next index to act as a first index. Operands: the input. -/
  | realign (n : Fin 16)
  /-- `ENC_CFG_WRITE` (R266). A change of EN, CLASS, DIR or CPR resets the count, clears ALIGNED and restarts the observer. Operands: the input, whether ENC_INn_CPR or ENC_INn_CFG is written, and the word. -/
  | encCfgWrite (n : Fin 16) (cpr : Bool) (v : Word)
  /-- `LATCH_READ_LO` (R274). Reading a latch set's COUNT_LO freezes the set. Operands: the input and the latch set. -/
  | latchReadLo (n : Fin 16) (k : Fin 3)
  /-- `LATCH_READ_HI` (R274). Reading a latch set's TIME_HI releases it and applies a held latch. Operands: the input and the latch set. -/
  | latchReadHi (n : Fin 16) (k : Fin 3)
  /-- `NOW_WRAP` (R275). NOW wraps forward, incrementing WRAPS and setting WRAP. -/
  | nowWrap
  /-- `TIM_INC_WRITE` (R279). A write to TIM_INC schedules a new increment or is refused with INC_REJ. Operands: the value written to TIM_INC. -/
  | timIncWrite (v : Word)
  /-- `TIM_OFFSET_WRITE` (R280). A write to TIM_OFFSET schedules a one-shot offset or is refused with OFS_REJ. Operands: the value written to TIM_OFFSET. -/
  | timOffsetWrite (v : Word)
  /-- `CORRECTION_APPLY` (R281). At the tick boundary a pending increment, offset or fold is applied and the baseband informed. -/
  | correctionApply
  /-- `EXT_FOLD` (R277). A write to TIM_EXT_FOLD adds to the extension base and TIM_EXT_W at the next tick boundary. Operands: the value written to TIM_EXT_FOLD. -/
  | extFold (n : Byte)
  /-- `SNAPSHOT_READ` (R278). Reading TIM_SNAPr_LO returns extended time and latches its high word, WRAPS and LAG. Operands: the snapshot set. -/
  | snapshotRead (r : Fin 3)
  /-- `CMP_TARGET_WRITE` (R283). Writing TIM_CMPk_TGT_HI applies the shadowed target pair at the next tick. Operands: the channel and the word written to TGT_HI. -/
  | cmpTargetWrite (k : Fin 16) (hi : Word)
  /-- `COMPARE_EVENT` (R282). A compare channel matches extended time, produces an event on its trigger line and advances or disables its target. Operands: the compare channel. -/
  | compareEvent (k : Fin 16)
  /-- `TM_PULSE_END` (R284). A TM output pulse ends after WIDTH. Operands: the output. -/
  | tmPulseEnd (n : Fin 2)
  /-- `CAPTURE_EVENT` (R285). A capture channel stamps its source edge and feeds bound encoder latches. Operands: the channel, and how many ns ago its source edge was. -/
  | captureEvent (k : Fin 8) (age : Nat)
  /-- `CAP_READ_LO` (R286). Reading TIM_CAPk_TIME_LO freezes the stamp. Operands: the capture channel; 8 is PPS_IN. -/
  | capReadLo (k : Fin 9)
  /-- `CAP_READ_HI` (R286). Reading TIM_CAPk_TIME_HI releases the stamp and applies a held capture. Operands: the capture channel; 8 is PPS_IN. -/
  | capReadHi (k : Fin 9)
  /-- `PPS_IN_EDGE` (R287). A PPS_IN edge is stamped, or ignored if within 500 ms of the last. Operands: how many ns ago the edge was. -/
  | ppsInEdge (age : Nat)
  /-- `PTP_SERVO_UPDATE` (R291). The library's PTP service steers local time by rate, offset or O_PTP rewrite. Operands: whether the BMCA makes this module the best clock, the phase error in ns, and the increment that runs at the measured rate. -/
  | ptpServoUpdate (best : Bool) (err : Int) (inc : Word)
  /-- `SAFETY_CYCLE` (R298). Each 1 ms the Deckle latches inputs and frames, evaluates the safety functions, writes outputs and queues frames. Operands: rb: read-back voltage of outputs SO0-SO7 in mV (a missing entry reads 0). -/
  | safetyCycle (rb : List Nat)
  /-- `DECKLE_WATCHDOG_FAULT` (R298). A missing, early, late or wrong-token watchdog service puts the unit in SAFE_FAULT. Operands: the service seen in this cycle; none: missing. -/
  | deckleWatchdogFault (svc : Option WdgService)
  /-- `SAFE_INPUT_SAMPLE` (R306). Every 250 µs safe inputs are sampled, filtered and tested against test pulses. Operands: the level of each safe input, 1: high. -/
  | safeInputSample (levels : BitVec 16)
  /-- `DISCREPANCY` (R307). A pair differing longer than DISC_T latches a DISCREPANCY fault. Operands: the input pair. -/
  | discrepancy (k : Fin 8)
  /-- `OFF_PULSE` (R310). An output is pulsed off for OP_WIDTH and checked, tripping its group cut on failure. Operands: the output and its read-back voltage in mV during the pulse. -/
  | offPulse (n : Fin 8) (mv : Nat)
  /-- `CUT_TEST` (R311). A group cut switch is opened and its supply node checked. Operands: the group; fell: its supply node fell below 5 V within 1 ms. -/
  | cutTest (g : Fin 2) (fell : Bool)
  /-- `CUT_TEST_DUE` (R311). No cut test for 720 h sets CUT_TEST_DUE. Operands: the group. -/
  | cutTestDue (g : Fin 2)
  /-- `SAFE_COPY_RX` (R315). A safe Ply frame copy is validated, sequenced and accepted or compared. Operands: the network and the copy. -/
  | safeCopyRx (netB : Bool) (pdu : SafePdu)
  /-- `CMP_WIN_EXPIRE` (R315). CMP_WIN passes without a matching second copy, counting a miss. Operands: the receive connection. -/
  | cmpWinExpire (c : Fin 32)
  /-- `CONNECTION_TIMEOUT` (R316). TMO passes without a new SEQ and the connection takes its safe value and action. Operands: the receive connection. -/
  | connectionTimeout (c : Fin 32)
  /-- `SW_STOP` (R300). Setting a DKL_SW_STOP bit demands an emergency stop of that thruster. Operands: bits written to DKL_SW_STOP. -/
  | swStop (mask : BitVec 24)
  /-- `SAFE_FAULT` (R318). A lockstep, memory, clock, rail or temperature fault puts the Deckle in SAFE_FAULT with cuts opened in hardware. Operands: FAULT_CAUSE of the fault: 1 lockstep, 2 memory, 4 clock, 6 rail, 7 temperature. -/
  | safeFault (cause : BitVec 4)
  /-- `CODE_CRC_CHECK` (R318). Every 60 s the safety core checks its code CRC. Operands: whether the CRC computed over the code memory is the one its code carries. -/
  | codeCrcCheck (ok : Bool)
  /-- `MEMORY_SCRUB` (R318). The Deckle memories are scrubbed in full every 10 s. Operands: single-bit errors corrected; an uncorrectable error found. -/
  | memoryScrub (single : Nat) (uncorr : Bool)
  /-- `DECKLE_START` (R299). After DC13 reset release the unit self-tests and adopts its configuration, entering RUN or SAFE_FAULT. Operands: a self-test's failure, as its FAULT_CAUSE; none: all passed. -/
  | deckleStart (fail : Option (BitVec 4))
  /-- `PLY_FRAME_RX` (R329). A received Ply frame passes PRP discard and header checks and goes to the ring, the Deckle or the lease logic. Operands: the port, the frame from its destination MAC up to, but not including, the FCS, and whether its FCS is right. -/
  | plyFrameRx (p : Fin 4) (f : List Byte) (fcsOk : Bool)
  /-- `ADDRESS_AGE_OUT` (R323). A learnt address ages out after 300 s. Operands: the network and the address. -/
  | addressAgeOut (net : Fin 2) (mac : BitVec 48)
  /-- `LINK_CHANGE` (R322). A port's link comes up or goes down, or half duplex is rejected. Operands: the port, whether a partner is there, the speed it runs at, and whether it offers only half duplex. -/
  | linkChange (p : Fin 4) (up gbit halfOnly : Bool)
  /-- `PRP_SUPERVISION` (R327). Every 2 s the module sends PRP supervision frames on both networks. -/
  | prpSupervision
  /-- `TX_RING_WRITE` (R339). Advancing PLY_TXRr_WR hands transmit descriptors to PLY. Operands: the ring and the value written to its WR. -/
  | txRingWrite (r : Fin 2) (v : Word)
  /-- `TX_DESCRIPTOR_PROCESS` (R339). PLY takes a descriptor and queues, discards by deadline, drops or refuses its frame. -/
  | txDescriptorProcess
  /-- `TX_COMPLETE` (R339). A transmitted frame's descriptor is completed with per-network status and stamps. Operands: the ring. -/
  | txComplete (r : Fin 2)
  /-- `CAN_INIT_WRITE` (R346). Writing MODE.INIT requests INIT at the next bus idle, or clearing it starts joining. Operands: the controller and the value written to INIT. -/
  | canInitWrite (n : Fin 6) (init : Bool)
  /-- `CAN_BUS_JOIN` (R346). After 11 recessive bits the controller joins the bus, or stays in INIT with CFG_ERR. Operands: the controller. -/
  | canBusJoin (n : Fin 6)
  /-- `CAN_RECOVER` (R348). Setting RECOVER during bus-off starts the 128 × 11-bit recovery. Operands: the controller. -/
  | canRecover (n : Fin 6)
  /-- `CAN_RECOVERED` (R348). Recovery completes, the controller becomes ERROR_ACTIVE and sets RECOVERED. Operands: the controller and the occurrences of 11 recessive bits counted so far. -/
  | canRecovered (n : Fin 6) (occ : Nat)
  /-- `CAN_FLUSH` (R349). Setting FLUSH ends every PENDING buffer as CANCELLED. Operands: the controller. -/
  | canFlush (n : Fin 6)
  /-- `CAN_FRAME_RX` (R351). A validated received frame is stored in the first matching buffer or the FIFO, or discarded. Operands: the controller, words 0, 1 and 2-17 of the frame, and ns since its start of frame. -/
  | canFrameRx (n : Fin 6) (w0 w1 : Word) (data : List Word) (age : Nat)
  /-- `CAN_BUS_ERROR` (R347). A bus error updates TEC and REC and may change the error state to passive or bus-off. Operands: the controller and its part in the error. -/
  | canBusError (n : Fin 6) (e : CanErr)
  /-- `CAN_TX_REQ` (R353). Setting REQ makes a transmit buffer PENDING or ends it INVALID. Operands: the controller and the buffer. -/
  | canTxReq (n : Fin 6) (b : Fin 64)
  /-- `CAN_TX_START` (R354). The controller begins a start of frame and the chosen buffer becomes ACTIVE. Operands: the controller. -/
  | canTxStart (n : Fin 6)
  /-- `CAN_TX_END` (R353). A transmitted frame succeeds, loses arbitration or fails, ending or retrying its buffer. Operands: the controller and how the frame ended. -/
  | canTxEnd (n : Fin 6) (e : CanEnd)
  /-- `CAN_CANCEL` (R354). Setting CANCEL ends a buffer as its state at that time determines. Operands: the controller and the buffer. -/
  | canCancel (n : Fin 6) (b : Fin 64)
  /-- `CAN_WINDOW_LOCK` (R352). Reading word 0 of a receive buffer or FIFO head locks that window. Operands: the controller and the window (64: the FIFO head). -/
  | canWindowLock (n : Fin 6) (w : Fin 65)
  /-- `CAN_WINDOW_RELEASE` (R352). Reading word 18 releases the window, clearing NEW or popping the FIFO and storing a held frame. Operands: the controller and the window (64: the FIFO head). -/
  | canWindowRelease (n : Fin 6) (w : Fin 65)
  /-- `MIRROR_PACKET_RX` (R361). A valid mirror packet is kept and acknowledged, or discarded on CRC failure. Operands: the packet's words: header, payload and CRC. -/
  | mirrorPacketRx (ws : List Word)
  /-- `MIRROR_RETRANSMIT` (R361). An unacknowledged packet is resent after 50 µs, or its transfer abandoned. Operands: the packet's SEQ. -/
  | mirrorRetransmit (seq : Word)
  /-- `HELLO_SEND` (R359). Every 1 ms each module sends HELLO on each lane. -/
  | helloSend
  /-- `LANE_STATE_CHANGE` (R359). A mirror lane comes up or goes down, or the link gains or loses sync. Operands: the lane and whether it came up; none: the link's sync is evaluated. -/
  | laneStateChange (lane : Option (Fin 2 × Bool))
  /-- `SNAP_GO` (R362). Writing PAIR_SNAP_GO sends a snapshot part. Operands: the part. -/
  | snapGo (p : Fin 2)
  /-- `SNAP_PART_WRITE` (R363). A complete snapshot part is written whole on the receiver, or not written with SNAP_MISS. Operands: the part. -/
  | snapPartWrite (p : Fin 2)
  /-- `MIR_GO` (R364). Writing PAIR_MIR_GO sends the mirror frame and HASH packet. -/
  | mirGo
  /-- `MIRROR_ABANDON` (R364). A mirror frame incomplete by +19.5 ms is abandoned with MIRROR_LATE. -/
  | mirrorAbandon
  /-- `PAGE_DIRTY` (R367). A DRAM write into the mirror store marks its page dirty. Operands: the physical address written. -/
  | pageDirty (a : BitVec 40)
  /-- `PAGE_SEND` (R367). A dirty page is sent as a PAGE packet in spare capacity. Operands: the page. -/
  | pageSend (pg : Fin 16384)
  /-- `RESYNC` (R368). Setting PAIR_MST_CTL.RESYNC starts a full resynchronisation. -/
  | resync
  /-- `RESYNC_DONE` (R368). A full resynchronisation completes and sets RESYNC_DONE. -/
  | resyncDone
  /-- `MIRROR_SLOT_STORE` (R369). In WATCH the Tender writes a complete mirror frame or page into MRAM with its commit word last. Operands: a page rather than the mirror frame. -/
  | mirrorSlotStore (page : Bool)
  /-- `LEASE_SEND` (R371). Every renewal period the module sends LEASE frames on Ply A, B and the mirror link. -/
  | leaseSend
  /-- `LEASE_FRAME_RX` (R370). A received LEASE frame or packet updates the partner view, epochs, lag and version state. Operands: the header's EPOCH and HOLDER, and the seven words of the payload. -/
  | leaseFrameRx (epoch : Word) (holder : Bool) (payload : List Word)
  /-- `LEASE_EVAL` (R371). Every 100 µs the lease watcher evaluates the take and step-down rules. -/
  | leaseEval
  /-- `LEASE_RELEASE` (R375). Setting PAIR_LEASE_CTL.RELEASE sends RELEASE frames and steps down. -/
  | leaseRelease
  /-- `PROOF_RUN_START` (R378). Every PROOF_PERIOD hours the holder starts a proof run, or retries and sets PROOF_OVERDUE. -/
  | proofRunStart
  /-- `PROOF_RUN_END` (R379). After PROOF_LEN the proof run ends with a pass or fail verdict and the pair returns to WATCH. -/
  | proofRunEnd
  /-- `WATCH_TAKEOVER` (R377). A WATCH module that takes the lease wakes, restores the mirrored state and arms its schedule. -/
  | watchTakeover
  /-- `SENSOR_SAMPLE` (R385). At 10 Hz the Tender samples its sensors and reports threshold crossings once per excursion. Operands: the 16 readings in their resolutions. -/
  | sensorSample (rs : List Int)
  /-- `LOG_COPY` (R386). Every 10 s the Tender copies new log records to the managed NAND. -/
  | logCopy
  /-- `TWDG_WRITE` (R384). A write by the Tender core to TND_TWDG services the Tender watchdog, or is early. Operands: who writes. -/
  | twdgWrite (rq : Requester)
  /-- `TWDG_EXPIRE` (R384). A missing or early Tender watchdog write causes a watchdog reset. -/
  | twdgExpire
  /-- `MWDG_KICK` (R394). A write to TND_MWDG_KICK restarts the Mill watchdog count. -/
  | mwdgKick
  /-- `MWDG_HALF` (R394). Half the Mill watchdog TIMEOUT passes without a kick and TND_TPEND is set. -/
  | mwdgHalf
  /-- `MWDG_EXPIRE` (R394). The Mill watchdog expires and performs a Mill-only soft reset or a system reset. -/
  | mwdgExpire
  /-- `PSTATE_REQ` (R388). A write to TND_PSTATE.REQ starts a state entry, wakes the module, or is refused. Operands: the value written to REQ. -/
  | pstateReq (v : BitVec 2)
  /-- `STATE_ENTRY_DONE` (R388). The power-state entry completes with every domain at its target. Operands: how many of the 14 domains, in the order of R388, are at their targets. -/
  | stateEntryDone (k : Nat)
  /-- `RTC_ALARM` (R389). The RTC reaches TND_ALARM, clears it and wakes the module if enabled and asleep. -/
  | rtcAlarm
  /-- `J17_WAKE` (R389). Energy and a wake frame on J17 wake the module. -/
  | j17Wake
  /-- `CAN0_WAKE` (R389). Three dominant periods on CAN0 within 1 ms wake the module. -/
  | can0Wake
  /-- `PLY_WAKE_FRAME` (R389). A TYPE 4 empty Ply frame to the node wakes the module from WATCH. -/
  | plyWakeFrame
  /-- `WAKE_DONE` (R390). The wake sequence completes and TND_PSTATE.CUR reads RUN. -/
  | wakeDone
  /-- `RTC_WRITE` (R386). Writing TND_RTC_HI after _LO sets the RTC on the next 32.768 kHz edge. Operands: the value written to _HI. -/
  | rtcWrite (hi : Word)
  /-- `ALARM_WRITE` (R389). Writing TND_ALARM_HI after _LO sets the alarm time. Operands: the value written to _HI. -/
  | alarmWrite (hi : Word)
  /-- `POWER_ON_RESET` (R392). A feed applied with the backup exhausted, or the always-on rail low, resets everything. Operands: PAIR_ID is left open. -/
  | powerOnReset (open_ : Bool)
  /-- `BROWN_OUT_RESET` (R392). A rail collapse or the end of a power-fail sequence removes all domain supplies and holds the Tender in reset. -/
  | brownOutReset
  /-- `SYS_RST` (R393). Writing 0x0000_D0A5 to PWR_SYS_RST performs a system reset. Operands: the value written. -/
  | sysRst (v : Word)
  /-- `SOFT_RST` (R392). Setting PWR_SOFT_RST.MILL performs a Mill-only soft reset. -/
  | softRst
  /-- `COLD_BOOT` (R437). The Tender ROM chooses the boot slot, loads the images and starts the Mill and Deckle, or enters RECOVERY. -/
  | coldBoot
  /-- `DOMAIN_RST` (R395). Setting PWR_DCn_CTL.RST resets one domain. Operands: the domain and who writes. -/
  | domainRst (n : Fin 14) (rq : Requester)
  /-- `DOMAIN_RELEASE` (R395). Setting PWR_DCn_CTL.RELEASE ends a containment by a domain or joint reset. Operands: the domain and who writes. -/
  | domainRelease (n : Fin 14) (rq : Requester)
  /-- `JOINT_RST` (R407). Setting a PWR_JOINT_RST bit jointly resets a Calender tile and its Felt crossing. Operands: the tile mask. -/
  | jointRst (mask : BitVec 4)
  /-- `DOMAIN_ON` (R470). A waking or reset domain becomes ON, loading calibration and restoring its kept state. Operands: the domain. -/
  | domainOn (n : Fin 14)
  /-- `ACCESS_STALL` (R404). An access to a sleeping domain stalls and wakes it, or returns a bus error at once. Operands: the requester and the address it reads. -/
  | accessStall (rq : Requester) (addr : BitVec 40)
  /-- `STALL_TIMEOUT` (R404). A stalled access not completed within 2 ms returns a bus error and logs a stall entry. Operands: the stalled access, oldest first. -/
  | stallTimeout (i : Nat)
  /-- `POWER_FAIL_WARNING` (R398). Both feeds below 15 V for 50 µs raise PFW. -/
  | powerFailWarning
  /-- `RIDE_END` (R398). RIDE ends without a feed return and load shedding starts. -/
  | rideEnd
  /-- `POWER_FAIL_FLUSH` (R400). The Tender writes the Reel, counters, log and segments to the MRAM flush area and powers every domain off. -/
  | powerFailFlush
  /-- `FEED_RETURN` (R401). A feed at 18 V for 100 ms after shedding leads to a brown-out reset. -/
  | feedReturn
  /-- `FLUSH_LEN_WRITE` (R400). A write to TND_FLUSHn_LEN exceeding the 7 MiB total is refused with FLUSH_REJ. Operands: the segment and the value written to its LEN. -/
  | flushLenWrite (n : Fin 16) (v : Word)
  /-- `CAL_OPEN` (R410). Setting TND_CAL_CTL.OPEN clears the free calibration bank's commit word. -/
  | calOpen
  /-- `CAL_COMMIT` (R410). Setting COMMIT checks the free bank's CRC and commits it, or refuses with CAL_REFUSED. -/
  | calCommit
  /-- `REEL_POST` (R417). A write to REEL_POSTr_VAL queues a histogram, extreme or alarm post. Operands: the requester's post pair and the value written to its VAL. -/
  | reelPost (r : Fin 3) (v : Word)
  /-- `QUEUE_ENTRY_APPLY` (R418). The Reel queue applies one change to the buffer in arrival order. -/
  | queueEntryApply
  /-- `CURSOR_LATCH` (R419). A write to REEL_CUR_POS latches a consistent copy into the cursor window. Operands: the value written to REEL_CUR_POS. -/
  | cursorLatch (pos : Word)
  /-- `CURSOR_READY` (R419). The cursor copy is complete and READY or MISS is set. -/
  | cursorReady
  /-- `REEL_CLEAR` (R420). A write to REEL_CLEAR queues a migration capture and then clears the chosen content. Operands: who writes, at which level, and the value. -/
  | reelClear (rq : Requester) (lvl : Fin 3) (v : Word)
  /-- `REEL_FLUSH` (R421). A periodic, fault, requested or HOLD flush writes the Reel flush record. -/
  | reelFlush
  /-- `MIGRATION` (R422). A migration capture writes an archive record to NAND and marks its alarms ARCHIVED. Operands: whether the NAND took the record. -/
  | migration (ok : Bool)
  /-- `REEL_CTL_WRITE` (R421). Setting REEL_CTL.FLUSH or MIGRATE requests a flush or migration. Operands: the value written. -/
  | reelCtlWrite (v : Word)
  /-- `RUN_STALE` (R423). REEL_THR_RUN unwritten for 1 s stops run-time counting and sets RUN_STALE. -/
  | runStale
  /-- `COUNTER_POLL` (R423). Every 100 ms the Reel reads encoder counts and valve switch counts into the counter latch. Operands: the NAND's reported wear level. -/
  | counterPoll (wear : Nat)
  /-- `COUNTER_MERGE` (R424). The counter latch is merged into the free MRAM copy with SEQ + 1. -/
  | counterMerge
  /-- `LEAP_DELTA` (R426). Writing REEL_LEAP_DELTA submits a leap entry that is added or refused. Operands: the value written. -/
  | leapDelta (v : Word)
  /-- `UPD_CHECK` (R431). Setting UPD_CTL.CHECK checks the header window and starts or resumes a download. -/
  | updCheck
  /-- `UPD_BLOCK_SUBMIT` (R432). A write to UPD_BLK_IDX submits a 64 KiB block, or it is refused. Operands: the value written. -/
  | updBlockSubmit (v : Word)
  /-- `BLOCK_COMMIT` (R432). A block is copied to NAND and its bitmap record committed. -/
  | blockCommit
  /-- `DOWNLOAD_RESUME` (R433). After a reset UPD restores the newest valid download record and sets RESUMED. -/
  | downloadResume
  /-- `UPD_ABORT` (R433). Setting ABORT discards the download record and cancels a schedule. -/
  | updAbort
  /-- `UPD_VERIFY` (R434). Setting VERIFY starts hashing the downloaded body. -/
  | updVerify
  /-- `VERIFY_DONE` (R434). The body hash matches and the stage becomes VERIFIED, or the download restarts. -/
  | verifyDone
  /-- `UPD_INSTALL` (R435). Setting INSTALL starts writing the free NOR slot, or is refused in TRIAL. -/
  | updInstall
  /-- `INSTALL_DONE` (R435). The slot is written and read back, becoming STAGED, or fails. Operands: whether the slot reads back as written. -/
  | installDone (ok : Bool)
  /-- `ACTIVATION` (R438). At the activation instant UPD commits a TRIAL selector and resets, or sets ACT_MISSED. -/
  | activation
  /-- `UPD_CONFIRM` (R440). Writing the confirmation value in TRIAL commits the selector with TRIAL clear and the new FLOOR. Operands: the value written. -/
  | updConfirm (v : Word)
  /-- `TRIAL_FALLBACK` (R441). An exhausted or expired trial commits the fallback slot and resets. -/
  | trialFallback
  /-- `PNL_GO` (R446). Setting PNL_CTL.GO accepts or refuses an update request. -/
  | pnlGo
  /-- `PNL_CANCEL` (R446). Setting CANCEL ends a waiting update. -/
  | pnlCancel
  /-- `UPDATE_START` (R447). An update starts at a panel frame boundary, fixing band, pixels and compensation and writing its journal. -/
  | updateStart
  /-- `PANEL_FRAME` (R447). Each 20 ms panel frame drives the rectangle's pixels by their waveforms. -/
  | panelFrame
  /-- `PFW_END` (R398). Either feed reads at least 16 V for a 1 ms that completes within RIDE, and the power-fail warning ends without effect apart from its log record. -/
  | pfwEnd
  /-- `PPS_PULSE_END` (R212). PPS_OUT returns inactive WIDTH ms after its active edge. -/
  | ppsPulseEnd
  /-- `ANT_OPEN_CLEAR` (R206). An antenna in OPEN returns to NORMAL by itself when its supply current comes back into 3–60 mA. Operands: the antenna and its supply current in mA. -/
  | antOpenClear (a : Fin 3) (ma : Nat)
  /-- `SNAP_DEADLINE` (R363). PAIR_SNAP_DL passes with no snapshot part written, so SNAP_MISS is set and the estimator step runs on the receiver's own inputs. -/
  | snapDeadline
  /-- `DOMAIN_TARGET_WRITE` (R387). A write to PWR_DCn_CTL.TARGET in RUN takes a domain to RETAIN or OFF, or requests its wake. Operands: the domain and the value of TARGET. -/
  | domainTargetWrite (n : Fin 14) (target : BitVec 2)
  /-- `RETURN_TO_SLEEP` (R372). A non-holder in WATCH that has published nothing for 100 ms returns its compute domains to sleep. -/
  | returnToSleep
  /-- `SENSOR_EN_WRITE` (R223). Setting FSN_SNSs_CFG.EN starts the sensor's clock model in ACQUIRE, and clearing EN returns it to OFF. Operands: the sensor and the word written to FSN_SNSs_CFG. -/
  | sensorEnWrite (k : Fin 64) (v : Word)
  /-- `BMB_CFG_WRITE` (R258). A write changing HBX_BMBk_CFG STATION or CHAN empties the band mailbox, and moving a valve's entry out of range sets its CFG_ERR. Operands: the band mailbox and the word written. -/
  | bmbCfgWrite (k : Fin 8) (v : Word)
  /-- `SER_CHAR_TX` (R239). A UART finishes shifting out one character from its transmit FIFO and takes the next one, lowering TX_LEVEL. Operands: the port. -/
  | serCharTx (n : Fin 8)
  /-- `RECOVERY_FURNISH` (R437). In RECOVERY the Tender accepts a furnish through J17. Operands: the Watermark header and the body. -/
  | recoveryFurnish (hdr : List Word) (body : List Byte)
  deriving DecidableEq, Repr

end Sys2Proof
end

