-- ==== Sys2Proof/Decode.lean ====
section
/-! DEFINITION. Words of the opcode table, whose 357 rows name commands and give none of them any bits, so that no word of the table spells
a command; and the words of the Fliqua instructions among the rows, as the cores execute them (R78, R86-R106, R141, R148). -/

namespace Sys2Proof

/-- The command a table word spells: none, since no row of the table gives bits. -/
def decodeTableWord (_nbits _w : Nat) : Option Instr := none

/-! ### Fliqua words (R78): bits [31:26] alone determine the format -/

/-- The formats of R78. M and I have the same fields. -/
inductive FqFormat where
  | a | i | b | j | l
  deriving DecidableEq, Repr

/-- The opcode map of R86 and R141: the format of each assigned opcode. -/
def fqFormat (op : Nat) : Option FqFormat :=
  if op = 0 then none
  else if op ≤ 3 then some .a
  else if op ≤ 0x16 ∨ (0x18 ≤ op ∧ op ≤ 0x1B) then some .i
  else if op = 0x1C ∨ op = 0x2D ∨ op = 0x38 ∨ op = 0x39 then some .a
  else if op = 0x20 then some .b
  else if op = 0x24 ∨ op = 0x25 then some .j
  else if op = 0x26 ∨ (0x28 ≤ op ∧ op ≤ 0x2C) ∨ op = 0x3A ∨ op = 0x3B then some .i
  else if op = 0x30 then some .l
  else none

/-- Field [lo + n - 1 : lo] of a word. -/
def fqField (w : BitVec 32) (lo n : Nat) : BitVec n := w.extractLsb' lo n

/-- ALU, opcode 0x01, by fn (R87). -/
def fqAlu (n : Nat) : Option (CoreId → BitVec 6 → BitVec 6 → BitVec 6 → Instr) :=
  match n with
  | 0x00 => some .add | 0x01 => some .sub | 0x02 => some .and | 0x03 => some .or | 0x04 => some .xor
  | 0x05 => some .andn | 0x06 => some .shl | 0x07 => some .shr | 0x08 => some .sra | 0x09 => some .slt
  | 0x0A => some .sltu | 0x0B => some .min | 0x0C => some .max | 0x0D => some .minu | 0x0E => some .maxu
  | 0x0F => some .cmov | 0x10 => some .mul | 0x11 => some .mulh | 0x12 => some .mulhu | 0x13 => some .mulhsu
  | 0x14 => some .div | 0x15 => some .divu | 0x16 => some .rem | 0x17 => some .remu | 0x18 => some .clz
  | 0x19 => some .ctz | 0x1A => some .popc | _ => none

/-- FP, opcode 0x03, by OP (R96). -/
def fqFp (n : Nat) : Option (CoreId → BitVec 6 → BitVec 6 → BitVec 6 → Bool → BitVec 3 → Instr) :=
  match n with
  | 0x00 => some .fadd | 0x01 => some .fsub | 0x02 => some .fmul | 0x03 => some .fdiv | 0x04 => some .fsqrt
  | 0x05 => some .fmadd | 0x06 => some .fmsub | 0x07 => some .fmin | 0x08 => some .fmax | 0x09 => some .feq
  | 0x0A => some .flt | 0x0B => some .fle | 0x0C => some .fsgnj | 0x0D => some .fsgnjn | 0x0E => some .fcvt
  | 0x0F => some .fclass | _ => none

/-- The I and M formats, by opcode (R86). -/
def fqImm (n : Nat) : Option (CoreId → BitVec 6 → BitVec 6 → BitVec 14 → Instr) :=
  match n with
  | 0x04 => some .addi | 0x05 => some .andi | 0x06 => some .ori | 0x07 => some .xori | 0x08 => some .slti
  | 0x09 => some .sltiu | 0x0A => some .shli | 0x0B => some .shri | 0x0C => some .srai | 0x0D => some .lih
  | 0x0E => some .addiw | 0x0F => some .addpc | 0x10 => some .ldb | 0x11 => some .ldbu | 0x12 => some .ldh
  | 0x13 => some .ldhu | 0x14 => some .ldw | 0x15 => some .ldwu | 0x16 => some .ldd | 0x18 => some .stb
  | 0x19 => some .sth | 0x1A => some .stw | 0x1B => some .std | 0x26 => some .jr | 0x28 => some .gets
  | 0x29 => some .puts | 0x2A => some .sset | 0x2B => some .sclr | 0x2C => some .trap | 0x3A => some .sync | _ => none

/-- ATOM, opcode 0x1C, by fn (R100). -/
def fqAtom (n : Nat) : Option (CoreId → BitVec 6 → BitVec 6 → BitVec 6 → Instr) :=
  match n with
  | 0x00 => some .ldxW | 0x01 => some .ldxD | 0x02 => some .stxW | 0x03 => some .stxD | _ => none

/-- SYS, opcode 0x2D, by fn (R105). -/
def fqSys (n : Nat) : Option (CoreId → BitVec 6 → BitVec 6 → BitVec 6 → Instr) :=
  match n with
  | 0x00 => some .fence | 0x01 => some .fenceI | 0x02 => some .wait | 0x03 => some .sev | 0x04 => some .rte
  | 0x05 => some .brk | _ => none

/-- Opcode 0x38, by fn (R141). -/
def fqCtl (n : Nat) : Option (CoreId → BitVec 6 → BitVec 6 → BitVec 6 → Instr) :=
  match n with
  | 0x00 => some .hys | 0x01 => some .clmp | 0x02 => some .rmp | 0x03 => some .intg | 0x04 => some .lut | _ => none

/-- Opcode 0x39, by fn (R148). -/
def fqFix (n : Nat) : Option (CoreId → BitVec 6 → BitVec 6 → BitVec 6 → Instr) :=
  match n with
  | 0x00 => some .qadd15 | 0x01 => some .qsub15 | 0x02 => some .qmul15 | 0x03 => some .qmac15 | 0x04 => some .qneg15
  | 0x05 => some .qabs15 | 0x08 => some .qadd31 | 0x09 => some .qsub31 | 0x0A => some .qmul31 | 0x0B => some .qmac31
  | 0x0C => some .qneg31 | 0x0D => some .qabs31 | 0x10 => some .qshl31 | 0x11 => some .qshr31 | 0x18 => some .f2q15
  | 0x19 => some .q2f15 | 0x1A => some .f2q31 | 0x1B => some .q2f31 | _ => none

/-- The A-format tables, by opcode, but for FP and ALUW. -/
def fqA (op fn : Nat) : Option (CoreId → BitVec 6 → BitVec 6 → BitVec 6 → Instr) :=
  if op = 0x01 then fqAlu fn
  else if op = 0x1C then fqAtom fn
  else if op = 0x2D then fqSys fn
  else if op = 0x38 then fqCtl fn
  else if op = 0x39 then fqFix fn
  else none

/-- PUB and SUB, opcode 0x3B, by imm[13:12] (R141). -/
def fqMbox (sel : Nat) : Option (CoreId → BitVec 6 → BitVec 6 → BitVec 12 → Instr) :=
  match sel with | 0 => some .pub | 1 => some .subMailbox | _ => none

/-- The instruction that a word spells, executed by core `c`; none: the word spells none, and is ILLEGAL (R86, R87, R100, R105, R141). What
a level refuses, and a field that must be 0, the instruction itself checks. -/
def fqDecode (c : CoreId) (w : BitVec 32) : Option Instr :=
  let op := (fqField w 26 6).toNat
  let d := fqField w 20 6
  let a := fqField w 14 6
  let b := fqField w 8 6
  match fqFormat op with
  | none => none
  | some .a =>
    if op = 0x02 then some (.aluw c d a b (fqField w 0 8))
    else if op = 0x03 then (fqFp (fqField w 0 4).toNat).map fun f => f c d a b ((fqField w 7 1) == 1) (fqField w 4 3)
    else (fqA op (fqField w 0 8).toNat).map fun f => f c d a b
  | some .i =>
    if op = 0x3B then (fqMbox (fqField w 12 2).toNat).map fun f => f c d a (fqField w 0 12)
    else (fqImm op).map fun f => f c d a (fqField w 0 14)
  | some .b => some (.br c (fqField w 22 4) (fqField w 16 6) (fqField w 10 6) (fqField w 0 10))
  | some .j => some (if op = 0x24 then .j c (fqField w 0 26) else .jl c (fqField w 0 26))
  | some .l => some (.lPrefix c w)

/-! ### The encoder -/

/-- The words of the formats, most significant field first. -/
def fqWordA (op d a b : BitVec 6) (fn : BitVec 8) : BitVec 32 := op ++ d ++ a ++ b ++ fn
def fqWordI (op d a : BitVec 6) (imm : BitVec 14) : BitVec 32 := op ++ d ++ a ++ imm
def fqWordFp (d a b : BitVec 6) (p : Bool) (rm : BitVec 3) (o : BitVec 4) : BitVec 32 :=
  (0x03 : BitVec 6) ++ d ++ a ++ b ++ (BitVec.ofBool p) ++ rm ++ o
def fqWordM (d a : BitVec 6) (sel : BitVec 2) (imm : BitVec 12) : BitVec 32 := (0x3B : BitVec 6) ++ d ++ a ++ sel ++ imm

/-- The core and the word of an instruction; none for a command that is no Fliqua instruction. -/
def fqEncode (i : Instr) : Option (CoreId × BitVec 32) :=
  match i with
  | .add c d a b => some (c, fqWordA 0x01 d a b 0x00)
  | .sub c d a b => some (c, fqWordA 0x01 d a b 0x01)
  | .and c d a b => some (c, fqWordA 0x01 d a b 0x02)
  | .or c d a b => some (c, fqWordA 0x01 d a b 0x03)
  | .xor c d a b => some (c, fqWordA 0x01 d a b 0x04)
  | .andn c d a b => some (c, fqWordA 0x01 d a b 0x05)
  | .shl c d a b => some (c, fqWordA 0x01 d a b 0x06)
  | .shr c d a b => some (c, fqWordA 0x01 d a b 0x07)
  | .sra c d a b => some (c, fqWordA 0x01 d a b 0x08)
  | .slt c d a b => some (c, fqWordA 0x01 d a b 0x09)
  | .sltu c d a b => some (c, fqWordA 0x01 d a b 0x0A)
  | .min c d a b => some (c, fqWordA 0x01 d a b 0x0B)
  | .max c d a b => some (c, fqWordA 0x01 d a b 0x0C)
  | .minu c d a b => some (c, fqWordA 0x01 d a b 0x0D)
  | .maxu c d a b => some (c, fqWordA 0x01 d a b 0x0E)
  | .cmov c d a b => some (c, fqWordA 0x01 d a b 0x0F)
  | .mul c d a b => some (c, fqWordA 0x01 d a b 0x10)
  | .mulh c d a b => some (c, fqWordA 0x01 d a b 0x11)
  | .mulhu c d a b => some (c, fqWordA 0x01 d a b 0x12)
  | .mulhsu c d a b => some (c, fqWordA 0x01 d a b 0x13)
  | .div c d a b => some (c, fqWordA 0x01 d a b 0x14)
  | .divu c d a b => some (c, fqWordA 0x01 d a b 0x15)
  | .rem c d a b => some (c, fqWordA 0x01 d a b 0x16)
  | .remu c d a b => some (c, fqWordA 0x01 d a b 0x17)
  | .clz c d a b => some (c, fqWordA 0x01 d a b 0x18)
  | .ctz c d a b => some (c, fqWordA 0x01 d a b 0x19)
  | .popc c d a b => some (c, fqWordA 0x01 d a b 0x1A)
  | .aluw c d a b fn => some (c, fqWordA 0x02 d a b fn)
  | .fadd c d a b p rm => some (c, fqWordFp d a b p rm 0)
  | .fsub c d a b p rm => some (c, fqWordFp d a b p rm 1)
  | .fmul c d a b p rm => some (c, fqWordFp d a b p rm 2)
  | .fdiv c d a b p rm => some (c, fqWordFp d a b p rm 3)
  | .fsqrt c d a b p rm => some (c, fqWordFp d a b p rm 4)
  | .fmadd c d a b p rm => some (c, fqWordFp d a b p rm 5)
  | .fmsub c d a b p rm => some (c, fqWordFp d a b p rm 6)
  | .fmin c d a b p rm => some (c, fqWordFp d a b p rm 7)
  | .fmax c d a b p rm => some (c, fqWordFp d a b p rm 8)
  | .feq c d a b p rm => some (c, fqWordFp d a b p rm 9)
  | .flt c d a b p rm => some (c, fqWordFp d a b p rm 10)
  | .fle c d a b p rm => some (c, fqWordFp d a b p rm 11)
  | .fsgnj c d a b p rm => some (c, fqWordFp d a b p rm 12)
  | .fsgnjn c d a b p rm => some (c, fqWordFp d a b p rm 13)
  | .fcvt c d a b p rm => some (c, fqWordFp d a b p rm 14)
  | .fclass c d a b p rm => some (c, fqWordFp d a b p rm 15)
  | .addi c d a imm => some (c, fqWordI 0x04 d a imm)
  | .andi c d a imm => some (c, fqWordI 0x05 d a imm)
  | .ori c d a imm => some (c, fqWordI 0x06 d a imm)
  | .xori c d a imm => some (c, fqWordI 0x07 d a imm)
  | .slti c d a imm => some (c, fqWordI 0x08 d a imm)
  | .sltiu c d a imm => some (c, fqWordI 0x09 d a imm)
  | .shli c d a imm => some (c, fqWordI 0x0A d a imm)
  | .shri c d a imm => some (c, fqWordI 0x0B d a imm)
  | .srai c d a imm => some (c, fqWordI 0x0C d a imm)
  | .lih c d a imm => some (c, fqWordI 0x0D d a imm)
  | .addiw c d a imm => some (c, fqWordI 0x0E d a imm)
  | .addpc c d a imm => some (c, fqWordI 0x0F d a imm)
  | .ldb c d a imm => some (c, fqWordI 0x10 d a imm)
  | .ldbu c d a imm => some (c, fqWordI 0x11 d a imm)
  | .ldh c d a imm => some (c, fqWordI 0x12 d a imm)
  | .ldhu c d a imm => some (c, fqWordI 0x13 d a imm)
  | .ldw c d a imm => some (c, fqWordI 0x14 d a imm)
  | .ldwu c d a imm => some (c, fqWordI 0x15 d a imm)
  | .ldd c d a imm => some (c, fqWordI 0x16 d a imm)
  | .stb c d a imm => some (c, fqWordI 0x18 d a imm)
  | .sth c d a imm => some (c, fqWordI 0x19 d a imm)
  | .stw c d a imm => some (c, fqWordI 0x1A d a imm)
  | .std c d a imm => some (c, fqWordI 0x1B d a imm)
  | .jr c d a imm => some (c, fqWordI 0x26 d a imm)
  | .gets c d a imm => some (c, fqWordI 0x28 d a imm)
  | .puts c d a imm => some (c, fqWordI 0x29 d a imm)
  | .sset c d a imm => some (c, fqWordI 0x2A d a imm)
  | .sclr c d a imm => some (c, fqWordI 0x2B d a imm)
  | .trap c d a imm => some (c, fqWordI 0x2C d a imm)
  | .sync c d a imm => some (c, fqWordI 0x3A d a imm)
  | .ldxW c d a b => some (c, fqWordA 0x1C d a b 0x00)
  | .ldxD c d a b => some (c, fqWordA 0x1C d a b 0x01)
  | .stxW c d a b => some (c, fqWordA 0x1C d a b 0x02)
  | .stxD c d a b => some (c, fqWordA 0x1C d a b 0x03)
  | .fence c d a b => some (c, fqWordA 0x2D d a b 0x00)
  | .fenceI c d a b => some (c, fqWordA 0x2D d a b 0x01)
  | .wait c d a b => some (c, fqWordA 0x2D d a b 0x02)
  | .sev c d a b => some (c, fqWordA 0x2D d a b 0x03)
  | .rte c d a b => some (c, fqWordA 0x2D d a b 0x04)
  | .brk c d a b => some (c, fqWordA 0x2D d a b 0x05)
  | .hys c d a b => some (c, fqWordA 0x38 d a b 0x00)
  | .clmp c d a b => some (c, fqWordA 0x38 d a b 0x01)
  | .rmp c d a b => some (c, fqWordA 0x38 d a b 0x02)
  | .intg c d a b => some (c, fqWordA 0x38 d a b 0x03)
  | .lut c d a b => some (c, fqWordA 0x38 d a b 0x04)
  | .qadd15 c d a b => some (c, fqWordA 0x39 d a b 0x00)
  | .qsub15 c d a b => some (c, fqWordA 0x39 d a b 0x01)
  | .qmul15 c d a b => some (c, fqWordA 0x39 d a b 0x02)
  | .qmac15 c d a b => some (c, fqWordA 0x39 d a b 0x03)
  | .qneg15 c d a b => some (c, fqWordA 0x39 d a b 0x04)
  | .qabs15 c d a b => some (c, fqWordA 0x39 d a b 0x05)
  | .qadd31 c d a b => some (c, fqWordA 0x39 d a b 0x08)
  | .qsub31 c d a b => some (c, fqWordA 0x39 d a b 0x09)
  | .qmul31 c d a b => some (c, fqWordA 0x39 d a b 0x0A)
  | .qmac31 c d a b => some (c, fqWordA 0x39 d a b 0x0B)
  | .qneg31 c d a b => some (c, fqWordA 0x39 d a b 0x0C)
  | .qabs31 c d a b => some (c, fqWordA 0x39 d a b 0x0D)
  | .qshl31 c d a b => some (c, fqWordA 0x39 d a b 0x10)
  | .qshr31 c d a b => some (c, fqWordA 0x39 d a b 0x11)
  | .f2q15 c d a b => some (c, fqWordA 0x39 d a b 0x18)
  | .q2f15 c d a b => some (c, fqWordA 0x39 d a b 0x19)
  | .f2q31 c d a b => some (c, fqWordA 0x39 d a b 0x1A)
  | .q2f31 c d a b => some (c, fqWordA 0x39 d a b 0x1B)
  | .pub c d a imm => some (c, fqWordM d a 0 imm)
  | .subMailbox c d a imm => some (c, fqWordM d a 1 imm)
  | .br c cond a b off => some (c, (0x20 : BitVec 6) ++ cond ++ a ++ b ++ off)
  | .j c off => some (c, (0x24 : BitVec 6) ++ off)
  | .jl c off => some (c, (0x25 : BitVec 6) ++ off)
  | .lPrefix c w => if fqField w 26 6 = 0x30 then some (c, w) else none
  | _ => none

end Sys2Proof
end

