-- ==== Sys2Proof/Config.lean ====
section
/-! DEFINITION. What the spec leaves open: free values (a constant without a body, applied to a counter of the state or to
the operands it depends on) and numeric functions whose rounding or order of summation the spec does not fix. -/

namespace Sys2Proof.Config

/-- The contents of the boot ROM and the Tender ROM, which the spec does not give: byte at an offset. -/
opaque bootRom : Nat → Byte
opaque tenderRom : Nat → Byte

/-- A fresh 32-bit value, by the number of values used so far. -/
opaque freeWord : Nat → Word

/-- Clock cycles a Mill core takes for one unit: FQ-M gives no bound (R119). -/
opaque millCycles : Nat → Nat

/-- Clock cycles that a load or store of the Tender waits for a block window's response (R119). -/
opaque windowWait : Nat → Nat

/-- The parameters a safety configuration record's 1,024 words hold; the spec lists them (R319) but not their places. -/
opaque scrDecode : List Word → ScrCfg

/-- The 8-bit token sequence of the Deckle watchdog (R298), whose values the spec does not give. -/
opaque wdgToken : Nat → Byte

/-! ### The Calender's numerics: the spec fixes the arithmetic (R97) and the order of the blocks (R156), not which term falls into which
block, the order of the sums inside one, nor the steps of QP.STEP's factorisation -/

/-- The block of term `i` of a sum of `n` terms. -/
opaque blockOf : (n i : Nat) → Nat

/-- Σ x × y over one block's terms in one precision (`dbl`: binary64), in the hardware's order of fused multiply-adds. -/
opaque laneSum : (dbl : Bool) → List (Nat × Nat) → Nat

/-- QP.STEP's step from a point with an active set, to the minimum on that set, and the active constraints' multipliers, by the
factorisation of the reduced Hessian (R163): variables, then one for each active constraint. -/
opaque qpDir : QpProblem → (x : List Nat) → (act : List (Nat × Bool)) → List Nat × List Nat

/-- The horizon step of constraint `i` of a problem of `n` variables and `m` rows, as the state area's active set names it (R178). -/
opaque conStep : (n m i : Nat) → Nat

/-- The structure-table entry that a constraint index of a problem of `nThr` thrusters belongs to (none: to no one thruster), and its
index in a problem of other thrusters, where that entry stands at another place (R178, R179). -/
opaque conEntry : (nThr i : Nat) → Option Nat
opaque conMove : (nOld nNew i entry : Nat) → Nat

/-- The 2-norm of a matrix that is no vector (R161). -/
opaque matNorm : (dbl : Bool) → List (List Nat) → Nat

/-- The thruster IDs of a stored plan, in the order of its structure table, as a remapped start must know (R179); the state area does
not say. -/
opaque planIds : List Word → List Nat

/-- The RMS before and after, and each update with its standard deviation, in a survey's outputs in DRAM (R185), binary64: their layout is
the survey program's own. -/
opaque surveyResult : List (Nat × List Word) → Nat × Nat × List (Nat × Nat)

/-! ### The allocation's linearisation (R174, R175) -/

/-- A thrust table's value, and its slopes, at a fraction of maximum rpm and a pitch, binary64 (R174: 33 × 17 points; the places of the
points and the interpolation are not given). -/
opaque thrustLin : (table : List Word) → (rpm pitch : Nat) → Nat × Nat × Nat

/-- Power as a fraction of rated power, and its slopes, at a fraction of maximum rpm and a pitch, binary64 (R175). -/
opaque powerLin : (rpm pitch : Nat) → Nat × Nat × Nat

/-- Achieved surge, sway and yaw of a published plan (status record 0x30-0x3B). -/
opaque achieved : List Word → Nat → Word

/-- Which source station and channel a Calender tile's receive mailbox takes: the spec gives it no register. -/
opaque calBind : (tile m : Nat) → Option (Nat × Nat)

/-! ### The Navigation baseband (R186-R215) -/

/-- The arctangent of 0 / 0, which R190 does not define, binary64. -/
opaque noAngle : Nat

/-- Carrier phase or code gained in a number of ns at a Doppler or rate that is no finite number, in 2^-32 cycles or ms (R200). -/
opaque adrStep : (dop : Nat) → (ns : Int) → Int

/-- Word 3 of the request a LOST channel queues for itself (R192). -/
opaque reacqWord3 : Word

/-- The quiet reference of a band where the factory calibration block fails: AGC gain and noise floor, 0.01 dB (R205, R408). -/
opaque quietRef : (ant band : Nat) → Int × Int

/-! ### The Fusion unit (R216-R237): the spec names the operations, not their arithmetic -/

/-- Δv and Δθ preintegrated from a window's IMU samples (time, six values), with coning and sculling corrections (R230). -/
opaque preint : List (Int × List Word) → List Word

/-- A reference's value (POSITION or ATTITUDE) moved to t_r over its age in ns, with the latest estimate and the increments of the steps
since its epoch, newest first (R234). -/
opaque moveRef : (vals : List Word) → (age : Int) → (est : List Word) → (incs : List (List Word)) → List Word

/-- An estimate predicted through the increments since it: north, east, heading (R234). -/
opaque predict : (est : List Word) → (incs : List (List Word)) → List Word

/-- A detection in the site frame, from an estimate, the increments since it and the sensor's lever arm (R235). -/
opaque sitePos : (est : List Word) → (incs : List (List Word)) → (lever vals : List Word) → Word × Word

/-- The position that a fixed target's detection implies, and its three standard deviations (R236): target, detection and its standard
deviations, estimate and the increments since it. -/
opaque fixedPos : (fix vals sds est : List Word) → (incs : List (List Word)) → List Word

/-- The tracks' constant-velocity filter: a track at birth, predicted over ns, its squared Mahalanobis distance (binary32) to a
position, and its update; a track is seven words (R235). -/
opaque trkNew : List (Word × Word) → List Word
opaque trkPredict : List Word → Int → List Word
opaque trkGate : List Word → Word × Word → Word
opaque trkUpdate : List Word → Word × Word → List Word

/-- An antenna's velocity and acceleration (north, east, down, binary32), from the latest estimate with its lever arm, propagated to the
close (R231): lever arm, estimate, the increments since it. -/
opaque antMotion : (lever est : List Word) → (incs : List (List Word)) → List Word

/-- The ENC input that measures a thruster's shaft, and the channel of station 12 that carries the IMU's words to the Fusion
unit: the spec gives neither a register (R230). -/
opaque shaftInput : Nat → Option Nat
opaque imuChan : Nat

/-! ### The Headbox (R243-R262) -/

/-- The Q15 coefficients of a FIR response before its middle one, and of the halfband at 5 and at 3 samples from its middle (R246, R248). -/
opaque firHalf : (entry i : Nat) → BitVec 16
opaque halfSide : (i : Nat) → BitVec 16

/-- An IMU reading corrected with the factory values and the user overrides, 18 binary32 words each: three rates and three forces, binary32
(R254). How the values enter is not given. -/
opaque imuCorrect : (raw : List Int) → (fac : List Word) → (usr : Option (List Word)) → List Word

/-! ### Reel, field update and the library -/

/-- Thermal age of one 10 Hz sample, 2^-24 equivalent s, at a reading in 0.125 °C outside the sensors' range (R385, R423). -/
opaque thermalAge : Int → Nat

/-- Severity and data words of the log records of sources 16-19, whose chapters state none (R386). -/
opaque logSev : (src code : Nat) → BitVec 2
opaque logData : (src code i : Nat) → Word

/-- SHA-384 and the verification of an ECDSA P-384 signature under a boot ROM key (R428-R430): standards the spec names. -/
opaque sha384 : List Byte → List Byte
opaque ecdsaOk : (key : Nat) → (msg sig : List Byte) → Bool

/-- Is KEY_ID a boot ROM key (R430)? -/
opaque romKey : Nat → Bool

/-- The library's configuration (R42, R68): the DRAM offset of its 4 KiB block, the drive nodes with the mask of thrusters each
carries, and the channel on which Calender tile 0 publishes the plan. -/
opaque libBlock : Nat
opaque driveNodes : List (Nat × Nat)
opaque planChan : Nat

/-- The constraint-set identifier the library gives a set of thrusters under a configuration record (R72, R177). -/
opaque csetId : (thr : Nat) → List Word → BitVec 16

/-- The capacity of an axis (R64), in N or N·m: axis, available thrusters, configuration record. How the largest force on that axis
alone is found the rule does not say. -/
opaque capacity : (axis thr : Nat) → List Word → Word

/-- The Press tile whose lanes close a thruster's drive-tick loop (none: a remote drive node's), the valve its output band goes to,
and the loop's integrator after a tick: thruster, set-points reached, integrator (R48, R67). The library's lane programs are not given. -/
opaque driveTile : Nat → Option (Fin 4)
opaque driveValve : Nat → Option (Fin 16)
opaque driveInteg : Nat → List Word → Word → Word

/-- The outer loop (R64, R65): estimate, set-points, integrators, mask of frozen integrators, held demand; the new demand,
integrators and the mask of axes at their clamp. -/
opaque outerLoop : List DWord → List DWord → List Word → Nat → List Word → List Word × List Word × Nat

/-- What an estimate message holds: north, east (m), heading (degrees), velocity north and east, yaw rate, as binary64 (R44, R61). Its
layout is the library's own. -/
opaque estimate : List Word → List DWord

/-- The integrators that make the first demand a given one, at an estimate and set-points (R55, R60, R64). -/
opaque preset : List DWord → List DWord → List Word → List Word

/-- The change of TIM_INC by which the PTP servo removes a phase error, in ns, by rate (R291). -/
opaque phaseRate : Int → Int

/-- PTP time, in ns, of a UTC scale time in 2^-40 ns: the leap seconds the library knows are not given. -/
opaque ptpOfUtc : Int → Int

/-- The cycle region's layout (R364, R366), which is the library's own: where its own words and the copy of the allocation's state area
start, in words, and which words are local to a module by nature. -/
opaque regionLib : Nat
opaque regionPlan : Nat
opaque regionLocal : Nat → Bool

end Sys2Proof.Config
end

