-- ==== Sys2Proof/Machine/SMap.lean ====
section
/-! DEFINITION. Sparse maps keyed by a number, in one canonical form: keys strictly rising, and no entry equal to what
an unlisted key reads as. Registers, byte memories and per-instance hidden state are held in this form. -/

namespace Sys2Proof.Machine

/-- A sparse map: the listed entries. What an unlisted key reads as is a parameter of each operation. -/
abbrev SMap (α : Type) := List (Nat × α)

/-- The value at key `k`; `d k` where `k` is not listed. -/
def sget {α : Type} (d : Nat → α) : SMap α → Nat → α
  | [], k => d k
  | (k', v) :: m, k => if k' = k then v else sget d m k

/-- Take key `k` out. -/
def serase {α : Type} : SMap α → Nat → SMap α
  | [], _ => []
  | (k', v) :: m, k => if k' = k then serase m k else (k', v) :: serase m k

/-- Put `(k, v)` before the first entry with a larger key. -/
def sinsert {α : Type} : SMap α → Nat → α → SMap α
  | [], k, v => [(k, v)]
  | (k', v') :: m, k, v => if k < k' then (k, v) :: (k', v') :: m else (k', v') :: sinsert m k v

/-- Write `v` at key `k`, keeping the canonical form. -/
def sset {α : Type} [DecidableEq α] (d : Nat → α) (m : SMap α) (k : Nat) (v : α) : SMap α :=
  if v = d k then serase m k else sinsert (serase m k) k v

/-- Drop every entry whose key satisfies `p`: those keys read as the default again. -/
def sdrop {α : Type} (p : Nat → Bool) (m : SMap α) : SMap α :=
  m.filter (fun e => !p e.1)

/-- Keys strictly rising, all above `lo`. -/
def srising {α : Type} : Option Nat → SMap α → Bool
  | _, [] => true
  | none, (k, _) :: m => srising (some k) m
  | some b, (k, _) :: m => decide (b < k) && srising (some k) m

/-- The canonical form: keys strictly rising and no entry equal to the default. -/
def swf {α : Type} [DecidableEq α] (d : Nat → α) (m : SMap α) : Bool :=
  srising none m && m.all (fun e => decide (e.2 ≠ d e.1))

end Sys2Proof.Machine
end

