-- ==== Sys2Proof/Machine/RegTable.lean ====
section
/-! DEFINITION. The register table of the 17 blocks: each family's addresses, access masks (R5), reset value and retention
class (R10), as the header lines and field tables of the chapters give them. -/

namespace Sys2Proof.Machine

/-- One family of registers: `base` is the physical address of its first instance (R36), `dims` its index ranges
(count, stride), outermost first; each mask names the bits of that access type (R5). -/
structure RegFam where
  base  : Nat
  dims  : List (Nat × Nat)
  rw    : Nat
  w1c   : Nat
  w1s   : Nat
  wo    : Nat
  rc    : Nat
  reset : Nat
  cls   : Char
  deriving DecidableEq, Repr

/-- Is `off` the offset of an instance of an array with these index ranges? -/
def dimsHit : List (Nat × Nat) → Nat → Bool
  | [], off => off == 0
  | (n, st) :: ds, off => decide (off / st < n) && dimsHit ds (off % st)

def RegFam.hit (f : RegFam) (a : Nat) : Bool :=
  decide (f.base ≤ a) && dimsHit f.dims (a - f.base)

/-- The MILL registers. -/
def regsMill : List RegFam := [
  ⟨0x201080000, [], 0x1, 0x0, 0x2, 0x0, 0x0, 0x0, 'D'⟩,
  ⟨0x201080004, [], 0x0, 0x7, 0x0, 0x0, 0x0, 0x0, 'D'⟩,
  ⟨0x201080008, [], 0x0, 0x0, 0x0, 0x0, 0xffffffff, 0x0, 'D'⟩,
  ⟨0x20108000c, [], 0x0, 0x0, 0x0, 0x0, 0xffffffff, 0x0, 'D'⟩,
  ⟨0x201080100, [(64, 0x4)], 0x3ff, 0x0, 0x0, 0x0, 0x0, 0xf, 'D'⟩,
  ⟨0x201080200, [(64, 0x4)], 0x0, 0x0, 0x0, 0x0, 0x0, 0xf, 'D'⟩,
  ⟨0x201090000, [(128, 0x4)], 0x7f, 0x0, 0x0, 0x0, 0x0, 0x0, 'D'⟩,
  ⟨0x201090200, [(4, 0x4)], 0x0, 0xffffffff, 0x0, 0x0, 0x0, 0x0, 'D'⟩,
  ⟨0x201090300, [], 0x0, 0x0, 0x3, 0x0, 0x0, 0x0, 'D'⟩]

/-- The PRS registers. -/
def regsPrs : List RegFam := [
  ⟨0x200300000, [(4, 0x40000)], 0x0, 0x1ff, 0x0, 0x0, 0x0, 0x0, 'D'⟩,
  ⟨0x200300004, [(4, 0x40000)], 0xff, 0x0, 0x0, 0x0, 0x0, 0x0, 'D'⟩,
  ⟨0x200300008, [(4, 0x40000)], 0xffffffff, 0x0, 0x0, 0x0, 0x0, 0xffffffff, 'D'⟩,
  ⟨0x200300100, [(4, 0x40000), (32, 0x4)], 0x7fff, 0x0, 0x0, 0x0, 0x0, 0x0, 'D'⟩,
  ⟨0x200300200, [(4, 0x40000), (32, 0x4)], 0x0, 0x0, 0x0, 0x0, 0x0, 0x0, 'D'⟩,
  ⟨0x200300300, [(4, 0x40000), (32, 0x4)], 0xf, 0x0, 0x0, 0x0, 0x0, 0x0, 'D'⟩,
  ⟨0x200301000, [(4, 0x40000), (8, 0x100)], 0x1f1, 0x0, 0x0, 0x0, 0x0, 0x0, 'D'⟩,
  ⟨0x200301004, [(4, 0x40000), (8, 0x100)], 0x0, 0xc, 0x0, 0x0, 0x0, 0x0, 'D'⟩,
  ⟨0x200301008, [(4, 0x40000), (8, 0x100)], 0x0, 0x0, 0x0, 0x0, 0x0, 0x0, 'D'⟩,
  ⟨0x20030100c, [(4, 0x40000), (8, 0x100)], 0x0, 0x0, 0x0, 0x0, 0x0, 0x0, 'D'⟩,
  ⟨0x200301010, [(4, 0x40000), (8, 0x100)], 0x0, 0x0, 0x0, 0x0, 0xffffffff, 0x0, 'D'⟩,
  ⟨0x200301014, [(4, 0x40000), (8, 0x100)], 0x0, 0x0, 0x0, 0x0, 0xffffffff, 0x0, 'D'⟩]

/-- The CAL registers. -/
def regsCal : List RegFam := [
  ⟨0x200400004, [], 0xf, 0x0, 0x0, 0x0, 0x0, 0x0, 'D'⟩,
  ⟨0x200400008, [], 0x0, 0x1f, 0x0, 0x0, 0x0, 0x0, 'D'⟩,
  ⟨0x20040000c, [], 0xf, 0x0, 0x0, 0x0, 0x0, 0x0, 'D'⟩,
  ⟨0x200400010, [(2, 0x8)], 0x0, 0x0, 0x0, 0x7fffff, 0x0, 0x0, 'D'⟩,
  ⟨0x200400014, [(2, 0x8)], 0x0, 0x100, 0x0, 0x0, 0x0, 0x0, 'D'⟩,
  ⟨0x200400020, [], 0x0, 0x0, 0x0, 0xffff, 0x0, 0x0, 'D'⟩,
  ⟨0x200400100, [(8, 0x10)], 0xf3, 0x0, 0x0, 0x0, 0x0, 0x0, 'D'⟩,
  ⟨0x200400104, [(8, 0x10)], 0x7fffff, 0x0, 0x0, 0x0, 0x0, 0x0, 'D'⟩,
  ⟨0x200400108, [(8, 0x10)], 0x0, 0x0, 0x0, 0x0, 0x0, 0x0, 'D'⟩,
  ⟨0x200401000, [(4, 0x100)], 0x0, 0x10, 0x0, 0x0, 0x0, 0x0, 'D'⟩]

/-- The NBB registers. -/
def regsNbb : List RegFam := [
  ⟨0x200500000, [], 0x0, 0x3ff, 0x0, 0x0, 0x0, 0x0, 'D'⟩,
  ⟨0x200500004, [], 0x3ff, 0x0, 0x0, 0x0, 0x0, 0x0, 'D'⟩,
  ⟨0x200500010, [], 0x7ffff, 0x0, 0x0, 0x0, 0x0, 0x1020, 'D'⟩,
  ⟨0x200500020, [], 0xf0fffff, 0x0, 0x0, 0x0, 0x0, 0x0, 'D'⟩,
  ⟨0x200500024, [], 0x0, 0x0, 0x0, 0x0, 0x0, 0x0, 'D'⟩,
  ⟨0x200500028, [], 0xffffffff, 0x0, 0x0, 0x0, 0x0, 0x0, 'D'⟩,
  ⟨0x200500040, [], 0xff7f, 0x0, 0x0, 0x0, 0x0, 0x3200, 'D'⟩,
  ⟨0x200500100, [(8, 0x40), (10, 0x4)], 0xffffffff, 0x0, 0x0, 0x0, 0x0, 0x0, 'D'⟩,
  ⟨0x200500410, [], 0x0, 0x0, 0x0, 0x1, 0x0, 0x0, 'D'⟩,
  ⟨0x200510000, [(192, 0x40)], 0xfffffb7f, 0x0, 0x0, 0x0, 0x0, 0xff000000, 'D'⟩,
  ⟨0x200510004, [(192, 0x40)], 0x0, 0x8, 0x0, 0x0, 0x0, 0x0, 'D'⟩,
  ⟨0x200510008, [(192, 0x40)], 0xfffff, 0x0, 0x0, 0x0, 0x0, 0xc8, 'D'⟩,
  ⟨0x20051000c, [(192, 0x40)], 0xffffffff, 0x0, 0x0, 0x0, 0x0, 0x0, 'D'⟩,
  ⟨0x200510020, [(192, 0x40), (7, 0x4)], 0x0, 0x0, 0x0, 0x0, 0x0, 0x0, 'D'⟩,
  ⟨0x200520000, [(3, 0x100)], 0x7b, 0x0, 0x84, 0x0, 0x0, 0x40, 'D'⟩,
  ⟨0x200520004, [(3, 0x100)], 0x0, 0x0, 0x0, 0x0, 0x0, 0x0, 'D'⟩,
  ⟨0x200520040, [(3, 0x100), (2, 0x20), (4, 0x4)], 0xfffff7, 0x0, 0x0, 0x0, 0x0, 0x0, 'D'⟩,
  ⟨0x200530000, [], 0x6, 0x0, 0x1, 0x0, 0x0, 0x0, 'S'⟩,
  ⟨0x200530004, [], 0xffffffff, 0x0, 0x0, 0x0, 0x0, 0x0, 'S'⟩,
  ⟨0x200530008, [], 0xffffffff, 0x0, 0x0, 0x0, 0x0, 0x0, 'S'⟩,
  ⟨0x20053000c, [], 0xffff, 0x0, 0x0, 0x0, 0x0, 0x0, 'S'⟩,
  ⟨0x200530010, [], 0xffffffff, 0x0, 0x0, 0x0, 0x0, 0x0, 'S'⟩,
  ⟨0x200530014, [], 0xffffffff, 0x0, 0x0, 0x0, 0x0, 0x0, 'S'⟩,
  ⟨0x200530018, [], 0xffffffff, 0x0, 0x0, 0x0, 0x0, 0x0, 'S'⟩,
  ⟨0x20053001c, [], 0xffffffff, 0x0, 0x0, 0x0, 0x0, 0x0, 'S'⟩,
  ⟨0x200530020, [], 0x0, 0x8, 0x0, 0x0, 0x0, 0x0, 'S'⟩,
  ⟨0x200530024, [], 0x0, 0x0, 0x0, 0x0, 0x0, 0xffffffff, 'S'⟩,
  ⟨0x200530028, [], 0xffff, 0x0, 0x0, 0x0, 0x0, 0x7d0, 'S'⟩,
  ⟨0x200530040, [], 0xffffffff, 0x0, 0x0, 0x0, 0x0, 0x190, 'S'⟩,
  ⟨0x200530044, [], 0x0, 0x0, 0x0, 0x0, 0x0, 0x0, 'S'⟩,
  ⟨0x200530048, [], 0x0, 0x0, 0x0, 0x0, 0x0, 0x0, 'S'⟩,
  ⟨0x200530054, [], 0x0, 0x0, 0x0, 0x0, 0x0, 0x0, 'S'⟩,
  ⟨0x200530058, [], 0x0, 0x0, 0x0, 0x0, 0x0, 0x0, 'S'⟩,
  ⟨0x200530060, [(4, 0x8)], 0xffffffff, 0x0, 0x0, 0x0, 0x0, 0x0, 'S'⟩,
  ⟨0x200500030, [], 0xf0fffff, 0x0, 0x0, 0x0, 0x0, 0x0, 'D'⟩,
  ⟨0x200500034, [], 0x0, 0x0, 0x0, 0x0, 0x0, 0x0, 'D'⟩,
  ⟨0x200500038, [], 0xffffffc0, 0x0, 0x0, 0x0, 0x0, 0x0, 'D'⟩,
  ⟨0x200500400, [(4, 0x4)], 0xffffffff, 0x0, 0x0, 0x0, 0x0, 0x0, 'D'⟩,
  ⟨0x200500420, [(4, 0x4)], 0x0, 0x0, 0x0, 0x0, 0x0, 0x0, 'D'⟩,
  ⟨0x20053002c, [], 0xffffffff, 0x0, 0x0, 0x0, 0x0, 0x3f800000, 'S'⟩,
  ⟨0x200530030, [], 0xffffffff, 0x0, 0x0, 0x0, 0x0, 0x3a83126f, 'S'⟩,
  ⟨0x20053004c, [], 0x0, 0x0, 0x0, 0x0, 0x0, 0x0, 'S'⟩,
  ⟨0x200530050, [], 0x0, 0x0, 0x0, 0x0, 0x0, 0x0, 'S'⟩,
  ⟨0x20053005c, [], 0x0, 0x0, 0x0, 0x0, 0x0, 0x0, 'S'⟩,
  ⟨0x200530064, [(4, 0x8)], 0xffffffff, 0x0, 0x0, 0x0, 0x0, 0x0, 'S'⟩,
  ⟨0x200540000, [(16384, 0x4)], 0xffffffff, 0x0, 0x0, 0x0, 0x0, 0x0, 'S'⟩]

/-- The FSN registers. -/
def regsFsn : List RegFam := [
  ⟨0x200600000, [], 0x0, 0x3ff, 0x0, 0x0, 0x0, 0x0, 'D'⟩,
  ⟨0x200600004, [], 0x7ff, 0x0, 0x0, 0x0, 0x0, 0x0, 'D'⟩,
  ⟨0x200600010, [], 0x3f7fffc0, 0x0, 0x0, 0x0, 0x0, 0x200000, 'D'⟩,
  ⟨0x200600020, [], 0xf0fffff, 0x0, 0x0, 0x0, 0x0, 0x0, 'D'⟩,
  ⟨0x200600030, [], 0x3ffffff, 0x0, 0x0, 0x0, 0x0, 0x0, 'D'⟩,
  ⟨0x200600034, [], 0x3f, 0x0, 0x0, 0x0, 0x0, 0x0, 'D'⟩,
  ⟨0x200600040, [], 0xffffffff, 0x0, 0x0, 0x0, 0x0, 0x14140f13, 'D'⟩,
  ⟨0x200600044, [], 0x0, 0x0, 0x0, 0x0, 0x0, 0x124, 'D'⟩,
  ⟨0x200600050, [], 0xffffff, 0x0, 0x0, 0x0, 0x0, 0x9c45c, 'D'⟩,
  ⟨0x200600060, [], 0x0, 0x0, 0x2, 0x0, 0x0, 0x0, 'D'⟩,
  ⟨0x200600100, [(64, 0x20)], 0xfffff7f, 0x0, 0x0, 0x0, 0x0, 0x0, 'D'⟩,
  ⟨0x200600104, [(64, 0x20)], 0x0, 0x0, 0x0, 0x0, 0x0, 0x0, 'D'⟩,
  ⟨0x200600118, [(64, 0x20)], 0x0, 0x0, 0x0, 0x0, 0xffffffff, 0x0, 'D'⟩,
  ⟨0x200602000, [(8, 0x40)], 0x1ffffff, 0x0, 0x0, 0x0, 0x0, 0x12c00, 'D'⟩,
  ⟨0x200602004, [(8, 0x40)], 0x0, 0x1f, 0x0, 0x0, 0x0, 0x0, 'D'⟩,
  ⟨0x200600024, [], 0xffffffc0, 0x0, 0x0, 0x0, 0x0, 0x0, 'D'⟩,
  ⟨0x200600028, [], 0x0, 0x0, 0x0, 0x0, 0x0, 0x0, 'D'⟩,
  ⟨0x200600108, [(64, 0x20)], 0x0, 0x0, 0x0, 0x0, 0x0, 0x0, 'D'⟩,
  ⟨0x20060010c, [(64, 0x20)], 0x0, 0x0, 0x0, 0x0, 0x0, 0x0, 'D'⟩,
  ⟨0x200600110, [(64, 0x20)], 0x0, 0x0, 0x0, 0x0, 0x0, 0x0, 'D'⟩,
  ⟨0x200600114, [(64, 0x20)], 0x0, 0x0, 0x0, 0x0, 0x0, 0x0, 'D'⟩,
  ⟨0x200601000, [(128, 0x20), (8, 0x4)], 0xffffffff, 0x0, 0x0, 0x0, 0x0, 0x0, 'D'⟩,
  ⟨0x200602008, [(8, 0x40)], 0x0, 0x0, 0x0, 0x0, 0x0, 0x0, 'D'⟩,
  ⟨0x200603000, [(128, 0x40), (12, 0x4)], 0x0, 0x0, 0x0, 0x0, 0x0, 0x0, 'D'⟩,
  ⟨0x200603030, [(128, 0x40), (3, 0x4)], 0xffffffff, 0x0, 0x0, 0x0, 0x0, 0x0, 'D'⟩,
  ⟨0x20060303c, [(128, 0x40)], 0x0, 0x0, 0x1, 0x0, 0x0, 0x0, 'D'⟩]

/-- The HBX registers. -/
def regsHbx : List RegFam := [
  ⟨0x200200000, [], 0x0, 0x7f, 0x0, 0x0, 0x0, 0x0, 'D'⟩,
  ⟨0x200200004, [], 0x7f, 0x0, 0x0, 0x0, 0x0, 0x0, 'D'⟩,
  ⟨0x200200100, [(16, 0x4)], 0x1fffffff, 0x0, 0x0, 0x0, 0x0, 0x3e, 'D'⟩,
  ⟨0x200200200, [(8, 0x8)], 0xfffff, 0x0, 0x0, 0x0, 0x0, 0x0, 'D'⟩,
  ⟨0x200200204, [(8, 0x8)], 0x0, 0x0, 0x0, 0x0, 0xffff0000, 0x0, 'D'⟩,
  ⟨0x200200800, [(512, 0x4)], 0xffffffff, 0x0, 0x0, 0x0, 0x0, 0x0, 'D'⟩,
  ⟨0x200210000, [(40, 0x40)], 0x1fff, 0x0, 0x0, 0x0, 0x0, 0xc00, 'D'⟩,
  ⟨0x200210004, [(40, 0x40)], 0x3fffffff, 0x0, 0x0, 0x0, 0x0, 0x0, 'D'⟩,
  ⟨0x200210008, [(40, 0x40)], 0x0, 0x3c, 0x0, 0x0, 0x0, 0x0, 'D'⟩,
  ⟨0x200220000, [(16, 0x20)], 0xffffffff, 0x0, 0x0, 0x0, 0x0, 0x64190070, 'D'⟩,
  ⟨0x200220004, [(16, 0x20)], 0x0, 0x22, 0x0, 0x0, 0x0, 0x0, 'D'⟩,
  ⟨0x200220008, [(16, 0x20)], 0x7fff7fff, 0x0, 0x0, 0x0, 0x0, 0x0, 'D'⟩,
  ⟨0x200230000, [], 0x3, 0x0, 0x0, 0x0, 0x0, 0x0, 'D'⟩,
  ⟨0x20021000c, [(40, 0x40)], 0x0, 0x0, 0x0, 0x0, 0x0, 0x0, 'D'⟩,
  ⟨0x200210010, [(40, 0x40)], 0x0, 0x0, 0x0, 0x0, 0x0, 0x0, 'D'⟩,
  ⟨0x200210014, [(40, 0x40)], 0x0, 0x0, 0x0, 0x0, 0x0, 0x0, 'D'⟩,
  ⟨0x200210018, [(40, 0x40)], 0x0, 0x0, 0x0, 0x0, 0x0, 0x0, 'D'⟩,
  ⟨0x200210020, [(40, 0x40)], 0x0, 0x0, 0x0, 0x0, 0x0, 0x0, 'D'⟩,
  ⟨0x200210024, [(40, 0x40)], 0x0, 0x0, 0x0, 0x0, 0x0, 0x0, 'D'⟩,
  ⟨0x200210028, [(40, 0x40)], 0xffffffff, 0x0, 0x0, 0x0, 0x0, 0x0, 'D'⟩,
  ⟨0x20021002c, [(40, 0x40)], 0xffffffff, 0x0, 0x0, 0x0, 0x0, 0x0, 'D'⟩,
  ⟨0x200210030, [(40, 0x40)], 0x0, 0x0, 0x0, 0x0, 0x0, 0x0, 'D'⟩,
  ⟨0x200210034, [(40, 0x40)], 0x0, 0x0, 0x0, 0x0, 0x0, 0x0, 'D'⟩]

/-- The ENC registers. -/
def regsEnc : List RegFam := [
  ⟨0x200700000, [], 0x0, 0xffff, 0x0, 0x0, 0x0, 0x0, 'D'⟩,
  ⟨0x200700004, [], 0xffff, 0x0, 0x0, 0x0, 0x0, 0x0, 'D'⟩,
  ⟨0x200701000, [(16, 0x100)], 0x3ffffff, 0x0, 0x0, 0x0, 0x0, 0x280000, 'D'⟩,
  ⟨0x200701014, [(16, 0x100)], 0x0, 0x7310, 0x0, 0x0, 0x0, 0x0, 'D'⟩,
  ⟨0x200701004, [(16, 0x100)], 0x1ffffff, 0x0, 0x0, 0x0, 0x0, 0x4, 'D'⟩,
  ⟨0x200701008, [(16, 0x100)], 0xffffffff, 0x0, 0x0, 0x0, 0x0, 0x0, 'D'⟩,
  ⟨0x20070100c, [(16, 0x100)], 0x7ffff, 0x0, 0x0, 0x0, 0x0, 0x6464, 'D'⟩,
  ⟨0x200701010, [(16, 0x100)], 0x0, 0x0, 0x1, 0x0, 0x0, 0x0, 'D'⟩,
  ⟨0x200701018, [(16, 0x100)], 0x0, 0x0, 0x0, 0x0, 0x0, 0x0, 'D'⟩,
  ⟨0x20070101c, [(16, 0x100)], 0x0, 0x0, 0x0, 0x0, 0x0, 0x0, 'D'⟩,
  ⟨0x200701020, [(16, 0x100)], 0x0, 0x0, 0x0, 0x0, 0x0, 0x7fc00000, 'D'⟩,
  ⟨0x200701024, [(16, 0x100)], 0x0, 0x0, 0x0, 0x0, 0x0, 0x7fc00000, 'D'⟩,
  ⟨0x200701028, [(16, 0x100)], 0x0, 0x0, 0x0, 0x0, 0x0, 0x7fc00000, 'D'⟩,
  ⟨0x20070102c, [(16, 0x100)], 0x0, 0x0, 0x0, 0x0, 0x0, 0x0, 'D'⟩,
  ⟨0x200701030, [(16, 0x100)], 0x0, 0x0, 0x0, 0x0, 0x0, 0x0, 'D'⟩,
  ⟨0x200701034, [(16, 0x100)], 0x0, 0x0, 0x0, 0x0, 0x0, 0x0, 'D'⟩,
  ⟨0x200701038, [(16, 0x100)], 0x0, 0x0, 0x0, 0x0, 0xffffffff, 0x0, 'D'⟩,
  ⟨0x200701040, [(16, 0x100), (12, 0x4)], 0x0, 0x0, 0x0, 0x0, 0x0, 0x0, 'D'⟩,
  ⟨0x200701070, [(16, 0x100)], 0x1ffff, 0x0, 0x0, 0x0, 0x0, 0x0, 'D'⟩,
  ⟨0x200701074, [(16, 0x100)], 0xffffffff, 0x0, 0x0, 0x0, 0x0, 0x0, 'D'⟩]

/-- The TIM registers. -/
def regsTim : List RegFam := [
  ⟨0x200100000, [], 0x0, 0x1df, 0x0, 0x0, 0x0, 0x0, 'D'⟩,
  ⟨0x200100004, [], 0x1ff, 0x0, 0x0, 0x0, 0x0, 0x0, 'D'⟩,
  ⟨0x200100010, [], 0xffffffff, 0x0, 0x0, 0x0, 0x0, 0x8000000, 'S'⟩,
  ⟨0x200100100, [(16, 0x20)], 0x1, 0x0, 0x0, 0x0, 0x0, 0x0, 'D'⟩,
  ⟨0x200100500, [(8, 0x20)], 0x7, 0x0, 0x0, 0x0, 0x0, 0x0, 'D'⟩,
  ⟨0x200100008, [], 0x0, 0x0, 0x0, 0x0, 0x0, 0x0, 'S'⟩,
  ⟨0x20010000c, [], 0x0, 0x0, 0x0, 0x0, 0x0, 0x0, 'S'⟩,
  ⟨0x200100014, [], 0x0, 0x0, 0x0, 0xffffffff, 0x0, 0x0, 'D'⟩,
  ⟨0x200100018, [], 0x0, 0x0, 0x0, 0x0, 0x0, 0x0, 'S'⟩,
  ⟨0x20010001c, [], 0x0, 0x0, 0x0, 0x0, 0x0, 0x0, 'S'⟩,
  ⟨0x200100020, [], 0x0, 0x0, 0x0, 0xff, 0x0, 0x0, 'D'⟩,
  ⟨0x200100040, [(3, 0x10)], 0x0, 0x0, 0x0, 0x0, 0x0, 0x0, 'D'⟩,
  ⟨0x200100044, [(3, 0x10)], 0x0, 0x0, 0x0, 0x0, 0x0, 0x0, 'D'⟩,
  ⟨0x200100048, [(3, 0x10)], 0x0, 0x0, 0x0, 0x0, 0x0, 0x0, 'D'⟩,
  ⟨0x200100104, [(16, 0x20)], 0xffffffff, 0x0, 0x0, 0x0, 0x0, 0x0, 'D'⟩,
  ⟨0x200100108, [(16, 0x20)], 0xffffffff, 0x0, 0x0, 0x0, 0x0, 0x0, 'D'⟩,
  ⟨0x20010010c, [(16, 0x20)], 0xffffffff, 0x0, 0x0, 0x0, 0x0, 0x0, 'D'⟩,
  ⟨0x200100110, [(16, 0x20)], 0x0, 0x0, 0x0, 0x0, 0x0, 0x0, 'D'⟩,
  ⟨0x200100400, [(2, 0x4)], 0xffffffff, 0x0, 0x0, 0x0, 0x0, 0x0, 'D'⟩,
  ⟨0x200100504, [(8, 0x20)], 0x0, 0x0, 0x0, 0x0, 0x0, 0x0, 'D'⟩,
  ⟨0x200100508, [(8, 0x20)], 0x0, 0x0, 0x0, 0x0, 0x0, 0x0, 'D'⟩,
  ⟨0x20010050c, [(8, 0x20)], 0x0, 0x0, 0x0, 0x0, 0x0, 0x0, 'D'⟩,
  ⟨0x200100600, [], 0x3, 0x0, 0x0, 0x0, 0x0, 0x0, 'D'⟩,
  ⟨0x200100604, [], 0x0, 0x0, 0x0, 0x0, 0x0, 0x0, 'D'⟩,
  ⟨0x200100608, [], 0x0, 0x0, 0x0, 0x0, 0x0, 0x0, 'D'⟩,
  ⟨0x20010060c, [], 0x0, 0x0, 0x0, 0x0, 0x0, 0x0, 'D'⟩]

/-- The DKL registers. -/
def regsDkl : List RegFam := [
  ⟨0x200b00000, [], 0x0, 0x1ff, 0x0, 0x0, 0x0, 0x0, 'D'⟩,
  ⟨0x200b00004, [], 0x1ff, 0x0, 0x0, 0x0, 0x0, 0x0, 'D'⟩,
  ⟨0x200b00008, [], 0x0, 0x0, 0x0, 0x0, 0x0, 0x0, 'D'⟩,
  ⟨0x200b0000c, [], 0x0, 0x0, 0x0, 0x0, 0x0, 0xffffff, 'D'⟩,
  ⟨0x200b00018, [], 0x0, 0x0, 0x0, 0x0, 0x0, 0x3000000, 'D'⟩,
  ⟨0x200b0001c, [], 0x0, 0x0, 0x0, 0x0, 0x0, 0x0, 'D'⟩,
  ⟨0x200b00020, [], 0x0, 0x0, 0xffffff, 0x0, 0x0, 0x0, 'D'⟩,
  ⟨0x200b00034, [], 0x0, 0x0, 0x0, 0xffffffff, 0x0, 0x0, 'D'⟩,
  ⟨0x200b00100, [(32, 0x4)], 0x0, 0x0, 0x0, 0x0, 0x0, 0x0, 'D'⟩,
  ⟨0x200b00010, [], 0x0, 0x0, 0x0, 0x0, 0x0, 0x0, 'D'⟩,
  ⟨0x200b00014, [], 0x0, 0x0, 0x0, 0x0, 0x0, 0x0, 'D'⟩,
  ⟨0x200b00038, [], 0x0, 0x0, 0x0, 0x0, 0x0, 0x0, 'D'⟩]

/-- The PLY registers. -/
def regsPly : List RegFam := [
  ⟨0x200900000, [], 0x0, 0x7f, 0x0, 0x0, 0x0, 0x0, 'D'⟩,
  ⟨0x200900004, [], 0x7f, 0x0, 0x0, 0x0, 0x0, 0x0, 'D'⟩,
  ⟨0x200900008, [], 0x7fff, 0x0, 0x0, 0x0, 0x0, 0x0, 'D'⟩,
  ⟨0x200900100, [(4, 0x40)], 0x7, 0x0, 0x0, 0x0, 0x0, 0x6, 'D'⟩,
  ⟨0x200900104, [(4, 0x40)], 0x0, 0x4, 0x0, 0x0, 0x0, 0x0, 'D'⟩,
  ⟨0x200900010, [(2, 0x10)], 0xf0fffff, 0x0, 0x0, 0x0, 0x0, 0x0, 'D'⟩,
  ⟨0x200900014, [(2, 0x10)], 0xffffffff, 0x0, 0x0, 0x0, 0x0, 0x0, 'D'⟩,
  ⟨0x200900018, [(2, 0x10)], 0x0, 0x0, 0x0, 0x0, 0x0, 0x0, 'D'⟩,
  ⟨0x200900030, [], 0xf0fffff, 0x0, 0x0, 0x0, 0x0, 0x0, 'D'⟩,
  ⟨0x200900034, [], 0x0, 0x0, 0x0, 0x0, 0x0, 0x0, 'D'⟩,
  ⟨0x200900038, [], 0xffffffff, 0x0, 0x0, 0x0, 0x0, 0x0, 'D'⟩,
  ⟨0x200900040, [], 0xff, 0x0, 0x0, 0x0, 0x0, 0x1, 'D'⟩,
  ⟨0x200900108, [(4, 0x40)], 0x0, 0x0, 0x0, 0x0, 0xffffffff, 0x0, 'D'⟩,
  ⟨0x20090010c, [(4, 0x40)], 0x0, 0x0, 0x0, 0x0, 0xffffffff, 0x0, 'D'⟩,
  ⟨0x200900200, [], 0x0, 0x0, 0x0, 0x0, 0xffffffff, 0x0, 'D'⟩,
  ⟨0x200900204, [], 0x0, 0x0, 0x0, 0x0, 0xffffffff, 0x0, 'D'⟩,
  ⟨0x200900208, [], 0x0, 0x0, 0x0, 0x0, 0xffffffff, 0x0, 'D'⟩]

/-- The CAN registers. -/
def regsCan : List RegFam := [
  ⟨0x200800000, [(6, 0x10000)], 0x0, 0x1ff, 0x0, 0x0, 0x0, 0x0, 'D'⟩,
  ⟨0x200800004, [(6, 0x10000)], 0x1ff, 0x0, 0x0, 0x0, 0x0, 0x0, 'D'⟩,
  ⟨0x200800008, [(6, 0x10000)], 0xf, 0x0, 0x30, 0x0, 0x0, 0x1, 'D'⟩,
  ⟨0x20080000c, [(6, 0x10000)], 0x0, 0x0, 0x0, 0x0, 0x0, 0x0, 'D'⟩,
  ⟨0x200800010, [(6, 0x10000)], 0x7ffffff, 0x0, 0x0, 0x0, 0x0, 0x0, 'D'⟩,
  ⟨0x200800014, [(6, 0x10000)], 0x3ffffff, 0x0, 0x0, 0x0, 0x0, 0x0, 'D'⟩,
  ⟨0x200800100, [(6, 0x10000), (64, 0x8)], 0xffffffff, 0x0, 0x0, 0x0, 0x0, 0x0, 'D'⟩,
  ⟨0x200800800, [(6, 0x10000), (64, 0x4)], 0x0, 0x8, 0x3, 0x0, 0x0, 0x0, 'D'⟩,
  ⟨0x200800018, [(6, 0x10000)], 0x0, 0x0, 0x0, 0x0, 0x0, 0x0, 'D'⟩,
  ⟨0x200800030, [(6, 0x10000)], 0xbfffffff, 0x0, 0x0, 0x0, 0x0, 0x0, 'D'⟩,
  ⟨0x200800034, [(6, 0x10000)], 0x1fffffff, 0x0, 0x0, 0x0, 0x0, 0x0, 'D'⟩,
  ⟨0x200800038, [(6, 0x10000)], 0x0, 0x0, 0x0, 0x0, 0x0, 0x0, 'D'⟩,
  ⟨0x200800500, [(6, 0x10000), (64, 0x8)], 0x1fffffff, 0x0, 0x0, 0x0, 0x0, 0x0, 'D'⟩,
  ⟨0x200801000, [(6, 0x10000), (64, 0x80), (19, 0x4)], 0xffffffff, 0x0, 0x0, 0x0, 0x0, 0x0, 'D'⟩]

/-- The PAIR registers. -/
def regsPair : List RegFam := [
  ⟨0x200a00000, [], 0x0, 0x3fff, 0x0, 0x0, 0x0, 0x0, 'D'⟩,
  ⟨0x200a00004, [], 0x3fff, 0x0, 0x0, 0x0, 0x0, 0x0, 'D'⟩,
  ⟨0x200a00008, [], 0xfffc0017, 0x0, 0x0, 0x0, 0x0, 0x0, 'D'⟩,
  ⟨0x200a0000c, [], 0xffdff, 0x0, 0x0, 0x0, 0x0, 0x1903c, 'D'⟩,
  ⟨0x200a00010, [], 0x0, 0x0, 0x1, 0x0, 0x0, 0x0, 'D'⟩,
  ⟨0x200a00014, [], 0x0, 0x0, 0x0, 0x0, 0x0, 0x0, 'D'⟩,
  ⟨0x200a00018, [], 0x0, 0x0, 0x0, 0x0, 0x0, 0x0, 'P'⟩,
  ⟨0x200a0001c, [], 0x0, 0x0, 0x0, 0x0, 0xffffff00, 0x0, 'D'⟩,
  ⟨0x200a00040, [(8, 0x10)], 0xffffffff, 0x0, 0x0, 0x0, 0x0, 0x0, 'D'⟩,
  ⟨0x200a00044, [(8, 0x10)], 0xffffffff, 0x0, 0x0, 0x0, 0x0, 0x0, 'D'⟩,
  ⟨0x200a00048, [(8, 0x10)], 0xffffffff, 0x0, 0x0, 0x0, 0x0, 0x0, 'D'⟩,
  ⟨0x200a0004c, [(8, 0x10)], 0xffffffff, 0x0, 0x0, 0x0, 0x0, 0x0, 'D'⟩,
  ⟨0x200a000c0, [], 0x0, 0x0, 0x0, 0x3, 0x0, 0x0, 'D'⟩,
  ⟨0x200a000c4, [], 0xffffffff, 0x0, 0x0, 0x0, 0x0, 0x0, 'D'⟩,
  ⟨0x200a000c8, [], 0xffffffff, 0x0, 0x0, 0x0, 0x0, 0x0, 'D'⟩,
  ⟨0x200a000d0, [], 0x7ffff, 0x0, 0x0, 0x0, 0x0, 0x0, 'D'⟩,
  ⟨0x200a000d4, [], 0x0, 0x0, 0x0, 0x1, 0x0, 0x0, 'D'⟩,
  ⟨0x200a000d8, [], 0x0, 0x0, 0x0, 0x0, 0x0, 0x0, 'D'⟩,
  ⟨0x200a000e0, [], 0xfc000000, 0x0, 0x0, 0x0, 0x0, 0x0, 'D'⟩,
  ⟨0x200a000e4, [], 0xffffffff, 0x0, 0x0, 0x0, 0x0, 0x0, 'D'⟩,
  ⟨0x200a000e8, [], 0x0, 0x0, 0x1, 0x0, 0x0, 0x0, 'D'⟩,
  ⟨0x200a000ec, [], 0x0, 0x0, 0x0, 0x0, 0x0, 0x0, 'D'⟩,
  ⟨0x200a00100, [], 0x3ffff, 0x0, 0x0, 0x0, 0x0, 0x3c18, 'D'⟩,
  ⟨0x200a00104, [], 0x0, 0x0, 0x0, 0x0, 0x0, 0x0, 'D'⟩,
  ⟨0x200a00108, [], 0x0, 0x0, 0x0, 0x0, 0x0, 0x0, 'D'⟩,
  ⟨0x200a0010c, [], 0x0, 0x0, 0x0, 0x0, 0x0, 0x0, 'D'⟩]

/-- The TND registers. -/
def regsTnd : List RegFam := [
  ⟨0x200000000, [], 0x0, 0x17f, 0x0, 0x0, 0x0, 0x0, 'A'⟩,
  ⟨0x200000004, [], 0x1ff, 0x0, 0x0, 0x0, 0x0, 0x0, 'A'⟩,
  ⟨0x200000008, [], 0x0, 0x0, 0x0, 0x0, 0x0, 0x1, 'A'⟩,
  ⟨0x200000010, [], 0x3, 0x0, 0x0, 0x0, 0x0, 0x0, 'A'⟩,
  ⟨0x200000014, [], 0xf, 0x0, 0x0, 0x0, 0x0, 0x0, 'A'⟩,
  ⟨0x200000410, [], 0xffff, 0x0, 0x0, 0x0, 0x0, 0x3e8, 'A'⟩,
  ⟨0x200000400, [], 0x0, 0x0, 0xc, 0x0, 0x0, 0x2, 'A'⟩,
  ⟨0x200000018, [], 0xffffffff, 0x0, 0x0, 0x0, 0x0, 0x0, 'A'⟩,
  ⟨0x20000001c, [], 0xffffffff, 0x0, 0x0, 0x0, 0x0, 0x0, 'A'⟩,
  ⟨0x200000020, [], 0xffffffff, 0x0, 0x0, 0x0, 0x0, 0x0, 'A'⟩,
  ⟨0x200000024, [], 0xffffffff, 0x0, 0x0, 0x0, 0x0, 0x0, 'A'⟩,
  ⟨0x200000028, [], 0x1f, 0x0, 0x0, 0x0, 0x0, 0x0, 'A'⟩,
  ⟨0x20000002c, [], 0x0, 0x0, 0x0, 0xffffffff, 0x0, 0x0, 'A'⟩,
  ⟨0x200000030, [], 0x0, 0x7f, 0x0, 0x0, 0x0, 0x0, 'A'⟩,
  ⟨0x200000034, [], 0x7f, 0x0, 0x0, 0x0, 0x0, 0x0, 'A'⟩,
  ⟨0x200000414, [], 0x0, 0x0, 0x0, 0xffffffff, 0x0, 0x0, 'A'⟩,
  ⟨0x200000420, [], 0x0, 0x0, 0x0, 0x0, 0x0, 0x0, 'A'⟩,
  ⟨0x200000424, [], 0x0, 0x0, 0x0, 0x0, 0x0, 0x0, 'A'⟩,
  ⟨0x200000430, [], 0x7, 0x0, 0x0, 0x0, 0x0, 0x0, 'A'⟩,
  ⟨0x200000100, [(16, 0x10), (4, 0x4)], 0xffffffff, 0x0, 0x0, 0x0, 0x0, 0x0, 'A'⟩,
  ⟨0x200000200, [(16, 0x10), (4, 0x4)], 0x0, 0x0, 0x0, 0x0, 0x0, 0x0, 'A'⟩,
  ⟨0x200000300, [(16, 0x4)], 0x0, 0x0, 0x0, 0x0, 0x0, 0x0, 'A'⟩,
  ⟨0x200000340, [(16, 0x4)], 0xffffffff, 0x0, 0x0, 0x0, 0x0, 0x7fff8000, 'A'⟩]

/-- The PWR registers. -/
def regsPwr : List RegFam := [
  ⟨0x200f00000, [(14, 0x8)], 0xffff0007, 0x0, 0x18, 0x0, 0x0, 0xffff0006, 'A'⟩,
  ⟨0x200f00004, [(14, 0x8)], 0x0, 0x300, 0x0, 0x0, 0x0, 0x0, 'A'⟩,
  ⟨0x200f00100, [], 0x0, 0x0, 0x1, 0x0, 0x0, 0x0, 'A'⟩,
  ⟨0x200f00104, [], 0x0, 0x0, 0x0, 0xffffffff, 0x0, 0x0, 'A'⟩,
  ⟨0x200f00108, [], 0x0, 0x0, 0xf, 0x0, 0x0, 0x0, 'A'⟩]

/-- The REEL registers. -/
def regsReel : List RegFam := [
  ⟨0x200c00000, [], 0x0, 0x2ff, 0x0, 0x0, 0x0, 0x0, 'D'⟩,
  ⟨0x200c00004, [], 0x3ff, 0x0, 0x0, 0x0, 0x0, 0x0, 'D'⟩,
  ⟨0x200c0000c, [], 0x1fffff, 0x0, 0x0, 0x0, 0x0, 0x18c00a, 'D'⟩,
  ⟨0x200c00010, [], 0x0, 0x0, 0x0, 0x1fff, 0x0, 0x0, 'D'⟩,
  ⟨0x200c00008, [], 0x0, 0x0, 0x3, 0x0, 0x0, 0x0, 'D'⟩,
  ⟨0x200c00020, [(3, 0x8)], 0xffffffff, 0x0, 0x0, 0x0, 0x0, 0x0, 'D'⟩,
  ⟨0x200c00024, [(3, 0x8)], 0x0, 0x0, 0x0, 0xffffffff, 0x0, 0x0, 'D'⟩,
  ⟨0x200c00040, [], 0xffffff, 0x0, 0x0, 0x0, 0x0, 0x0, 'D'⟩,
  ⟨0x200c00044, [], 0x0, 0x0, 0x0, 0x0, 0xffffffff, 0x0, 'D'⟩,
  ⟨0x200c00048, [], 0x0, 0x0, 0x0, 0x0, 0xffffffff, 0x0, 'D'⟩,
  ⟨0x200c00050, [], 0x0, 0x0, 0x0, 0x0, 0x0, 0x0, 'D'⟩,
  ⟨0x200c00054, [], 0x0, 0x0, 0x0, 0x0, 0x0, 0x0, 'D'⟩,
  ⟨0x200c00058, [], 0x0, 0x0, 0x0, 0x0, 0x0, 0x0, 'D'⟩,
  ⟨0x200c0005c, [], 0x0, 0x0, 0x0, 0x0, 0x0, 0x0, 'D'⟩,
  ⟨0x200c00060, [], 0x7, 0x0, 0x0, 0x0, 0x0, 0x0, 'D'⟩,
  ⟨0x200c00064, [], 0xffffffff, 0x0, 0x0, 0x0, 0x0, 0x0, 'D'⟩,
  ⟨0x200c00068, [], 0xffffffff, 0x0, 0x0, 0x0, 0x0, 0x0, 'D'⟩,
  ⟨0x200c0006c, [], 0x0, 0x0, 0x0, 0x0, 0x0, 0x0, 'D'⟩,
  ⟨0x200c00070, [], 0xffffffff, 0x0, 0x0, 0x0, 0x0, 0x0, 'D'⟩,
  ⟨0x200c00074, [], 0xffffffff, 0x0, 0x0, 0x0, 0x0, 0x0, 'D'⟩,
  ⟨0x200c00078, [], 0x0, 0x0, 0x0, 0xffffffff, 0x0, 0x0, 'D'⟩,
  ⟨0x200c00100, [(24, 0x4)], 0x1f, 0x0, 0x0, 0x0, 0x0, 0x0, 'D'⟩,
  ⟨0x200c01000, [(64, 0x4)], 0x0, 0x0, 0x0, 0x0, 0x0, 0x0, 'D'⟩,
  ⟨0x200c02000, [(256, 0x10)], 0xff, 0x0, 0x0, 0x0, 0x0, 0x0, 'D'⟩,
  ⟨0x200c02004, [(256, 0x10)], 0xffffffff, 0x0, 0x0, 0x0, 0x0, 0x0, 'D'⟩,
  ⟨0x200c02008, [(256, 0x10)], 0xffffffff, 0x0, 0x0, 0x0, 0x0, 0x0, 'D'⟩,
  ⟨0x200c04000, [(512, 0x4)], 0xff, 0x0, 0x0, 0x0, 0x0, 0x0, 'D'⟩]

/-- The UPD registers. -/
def regsUpd : List RegFam := [
  ⟨0x200d00000, [], 0x0, 0x7ff, 0x0, 0x0, 0x0, 0x0, 'D'⟩,
  ⟨0x200d00004, [], 0x7ff, 0x0, 0x0, 0x0, 0x0, 0x0, 'D'⟩,
  ⟨0x200d00008, [], 0x0, 0x0, 0xf, 0x0, 0x0, 0x0, 'D'⟩,
  ⟨0x200d0000c, [], 0x0, 0x0, 0x0, 0x0, 0x0, 0x0, 'D'⟩,
  ⟨0x200d00010, [], 0xffffffc0, 0x0, 0x0, 0x0, 0x0, 0x0, 'D'⟩,
  ⟨0x200d00014, [], 0xffffffff, 0x0, 0x0, 0x0, 0x0, 0x0, 'D'⟩,
  ⟨0x200d00018, [], 0x0, 0x0, 0x0, 0x1ff, 0x0, 0x0, 'D'⟩,
  ⟨0x200d00020, [], 0x0, 0x0, 0x0, 0x0, 0x0, 0x0, 'D'⟩,
  ⟨0x200d00024, [], 0x0, 0x0, 0x0, 0x0, 0x0, 0x0, 'D'⟩,
  ⟨0x200d00028, [], 0x0, 0x0, 0x0, 0x0, 0x0, 0x0, 'D'⟩,
  ⟨0x200d00030, [], 0xffffffff, 0x0, 0x0, 0x0, 0x0, 0x0, 'D'⟩,
  ⟨0x200d00034, [], 0xffffffff, 0x0, 0x0, 0x0, 0x0, 0x0, 'D'⟩,
  ⟨0x200d00038, [], 0x3, 0x0, 0x0, 0x0, 0x0, 0x0, 'D'⟩,
  ⟨0x200d0003c, [], 0x0, 0x0, 0x0, 0xffffffff, 0x0, 0x0, 'D'⟩,
  ⟨0x200d00100, [(16, 0x4)], 0x0, 0x0, 0x0, 0x0, 0x0, 0x0, 'D'⟩,
  ⟨0x200d01000, [(128, 0x4)], 0xffffffff, 0x0, 0x0, 0x0, 0x0, 0x0, 'D'⟩]

/-- The PNL registers. -/
def regsPnl : List RegFam := [
  ⟨0x200e00000, [], 0x0, 0xf, 0x0, 0x0, 0x0, 0x0, 'D'⟩,
  ⟨0x200e00004, [], 0xf, 0x0, 0x0, 0x0, 0x0, 0x0, 'D'⟩,
  ⟨0x200e00008, [], 0x0, 0x0, 0x3, 0x0, 0x0, 0x0, 'D'⟩,
  ⟨0x200e0000c, [], 0xffffffff, 0x0, 0x0, 0x0, 0x0, 0xff270000, 'D'⟩,
  ⟨0x200e00010, [], 0x0, 0x0, 0x0, 0x0, 0x0, 0x0, 'D'⟩,
  ⟨0x200e10000, [(2368, 0x4)], 0xffffffff, 0x0, 0x0, 0x0, 0x0, 0x0, 'D'⟩,
  ⟨0x200e20000, [(1184, 0x4)], 0x0, 0x0, 0x0, 0x0, 0x0, 0x0, 'D'⟩]

/-- The families of the window that address `a` lies in (R36: windows of 1 MiB). -/
def regsAt (a : Nat) : List RegFam :=
  match a / 0x100000 with
  | 0x2000 => regsTnd
  | 0x2001 => regsTim
  | 0x2002 => regsHbx
  | 0x2003 => regsPrs
  | 0x2004 => regsCal
  | 0x2005 => regsNbb
  | 0x2006 => regsFsn
  | 0x2007 => regsEnc
  | 0x2008 => regsCan
  | 0x2009 => regsPly
  | 0x200a => regsPair
  | 0x200b => regsDkl
  | 0x200c => regsReel
  | 0x200d => regsUpd
  | 0x200e => regsPnl
  | 0x200f => regsPwr
  | 0x2010 => regsMill
  | _ => []

/-- The family of the register at address `a`; none at a reserved offset (R7). -/
def regFam (a : Nat) : Option RegFam := (regsAt a).find? (fun f => f.hit a)

/-- Nominal channel gains, the reset of the FAC and EFF gain registers (their reset column says "factory"; DESIGN CHOICE,
unsafe): 2^-22 for channels 0-15, 2^-24 for 16-23, 10.24 * 2^-24 for the analog channels in their reset mode. -/
def hbxNominalGain (c : Nat) : Nat :=
  if c < 16 then 0x34800000 else if c < 24 then 0x33800000 else 0x3523d70a

/-- What a register reads as at reset: its family's reset value; 0 at a reserved offset (R7). PWR_DCn_CTL.TRIG reads 0 but in
DC1-DC10. -/
def resetOf (a : Nat) : Word :=
  match regFam a with
  | none => 0
  | some f =>
    if f.base = 0x200210024 ∨ f.base = 0x200210034 then BitVec.ofNat 32 (hbxNominalGain ((a - f.base) / 64))
    else if f.base = 0x200f00000 then if 1 ≤ (a - f.base) / 8 ∧ (a - f.base) / 8 ≤ 10 then 0xFFFF0006 else 6
    else BitVec.ofNat 32 f.reset

-- The address of each register (R36: window base plus the header line's offset plus its index strides).
namespace Reg
abbrev MILL_FELT_CTL : Nat := 0x201080000
abbrev MILL_FELT_STAT : Nat := 0x201080004
abbrev MILL_FELT_CORR : Nat := 0x201080008
abbrev MILL_FELT_LOSS_CNT : Nat := 0x20108000c
abbrev MILL_FELT_SLOT (n : Nat) : Nat := 0x201080100 + 0x4 * n
abbrev MILL_FELT_ACT (n : Nat) : Nat := 0x201080200 + 0x4 * n
abbrev MILL_IRQ_ROUTE (n : Nat) : Nat := 0x201090000 + 0x4 * n
abbrev MILL_IRQ_PEND (k : Nat) : Nat := 0x201090200 + 0x4 * k
abbrev MILL_IRQ_SWI : Nat := 0x201090300
abbrev PRS_T_STAT (n : Nat) : Nat := 0x200300000 + 0x40000 * n
abbrev PRS_T_IRQ_EN (n : Nat) : Nat := 0x200300004 + 0x40000 * n
abbrev PRS_T_BANK (n : Nat) : Nat := 0x200300008 + 0x40000 * n
abbrev PRS_T_RX_CFG (n : Nat) (m : Nat) : Nat := 0x200300100 + 0x40000 * n + 0x4 * m
abbrev PRS_T_RX_CNT (n : Nat) (m : Nat) : Nat := 0x200300200 + 0x40000 * n + 0x4 * m
abbrev PRS_T_TX_CFG (n : Nat) (c : Nat) : Nat := 0x200300300 + 0x40000 * n + 0x4 * c
abbrev PRS_T_L_CTL (n : Nat) (l : Nat) : Nat := 0x200301000 + 0x40000 * n + 0x100 * l
abbrev PRS_T_L_STAT (n : Nat) (l : Nat) : Nat := 0x200301004 + 0x40000 * n + 0x100 * l
abbrev PRS_T_L_PC (n : Nat) (l : Nat) : Nat := 0x200301008 + 0x40000 * n + 0x100 * l
abbrev PRS_T_L_TVAL (n : Nat) (l : Nat) : Nat := 0x20030100c + 0x40000 * n + 0x100 * l
abbrev PRS_T_L_OVR_CNT (n : Nat) (l : Nat) : Nat := 0x200301010 + 0x40000 * n + 0x100 * l
abbrev PRS_T_L_MAXRUN (n : Nat) (l : Nat) : Nat := 0x200301014 + 0x40000 * n + 0x100 * l
abbrev CAL_TILE_MASK : Nat := 0x200400004
abbrev CAL_STAT : Nat := 0x200400008
abbrev CAL_IRQ_EN : Nat := 0x20040000c
abbrev CAL_Q_PUSH (q : Nat) : Nat := 0x200400010 + 0x8 * q
abbrev CAL_Q_STAT (q : Nat) : Nat := 0x200400014 + 0x8 * q
abbrev CAL_ABORT : Nat := 0x200400020
abbrev CAL_ARM_CFG (k : Nat) : Nat := 0x200400100 + 0x10 * k
abbrev CAL_ARM_DESC (k : Nat) : Nat := 0x200400104 + 0x10 * k
abbrev CAL_ARM_CNT (k : Nat) : Nat := 0x200400108 + 0x10 * k
abbrev CAL_T_STAT (n : Nat) : Nat := 0x200401000 + 0x100 * n
abbrev NBB_STAT : Nat := 0x200500000
abbrev NBB_IRQ_EN : Nat := 0x200500004
abbrev NBB_MEAS_CFG : Nat := 0x200500010
abbrev NBB_RING_CFG : Nat := 0x200500020
abbrev NBB_RING_WR : Nat := 0x200500024
abbrev NBB_RING_RD : Nat := 0x200500028
abbrev NBB_AID_CFG : Nat := 0x200500040
abbrev NBB_GAIN_W (g : Nat) (k : Nat) : Nat := 0x200500100 + 0x40 * g + 0x4 * k
abbrev NBB_ACQ_PUSH : Nat := 0x200500410
abbrev NBB_CH_CFG (c : Nat) : Nat := 0x200510000 + 0x40 * c
abbrev NBB_CH_STAT (c : Nat) : Nat := 0x200510004 + 0x40 * c
abbrev NBB_CH_SPC (c : Nat) : Nat := 0x200510008 + 0x40 * c
abbrev NBB_CH_TOW (c : Nat) : Nat := 0x20051000c + 0x40 * c
abbrev NBB_CH_CORR (c : Nat) (k : Nat) : Nat := 0x200510020 + 0x40 * c + 0x4 * k
abbrev NBB_ANT_CTL (a : Nat) : Nat := 0x200520000 + 0x100 * a
abbrev NBB_ANT_STAT (a : Nat) : Nat := 0x200520004 + 0x100 * a
abbrev NBB_ANT_B_NOTCH (a : Nat) (b : Nat) (k : Nat) : Nat := 0x200520040 + 0x100 * a + 0x20 * b + 0x4 * k
abbrev NBB_TSOL_CTL : Nat := 0x200530000
abbrev NBB_TSOL_OFS_LO : Nat := 0x200530004
abbrev NBB_TSOL_OFS_HI : Nat := 0x200530008
abbrev NBB_TSOL_OFS_FR : Nat := 0x20053000c
abbrev NBB_TSOL_RATE : Nat := 0x200530010
abbrev NBB_TSOL_ANCH_LO : Nat := 0x200530014
abbrev NBB_TSOL_ANCH_HI : Nat := 0x200530018
abbrev NBB_TSOL_UNC : Nat := 0x20053001c
abbrev NBB_TIME_STAT : Nat := 0x200530020
abbrev NBB_TIME_UNC : Nat := 0x200530024
abbrev NBB_HOLD_CFG : Nat := 0x200530028
abbrev NBB_PPS_CFG : Nat := 0x200530040
abbrev NBB_PPS_LAST_LO : Nat := 0x200530044
abbrev NBB_PPS_LAST_HI : Nat := 0x200530048
abbrev NBB_STEP_AT_LO : Nat := 0x200530054
abbrev NBB_STEP_AT_HI : Nat := 0x200530058
abbrev NBB_ISTO (k : Nat) : Nat := 0x200530060 + 0x8 * k
abbrev FSN_STAT : Nat := 0x200600000
abbrev FSN_IRQ_EN : Nat := 0x200600004
abbrev FSN_ALIGN_CFG : Nat := 0x200600010
abbrev FSN_SUBQ_CFG : Nat := 0x200600020
abbrev FSN_AID_CFG : Nat := 0x200600030
abbrev FSN_EGO_CFG : Nat := 0x200600034
abbrev FSN_DEGR_CFG : Nat := 0x200600040
abbrev FSN_DEGR_STAT : Nat := 0x200600044
abbrev FSN_TRK_CFG : Nat := 0x200600050
abbrev FSN_XF_CTL : Nat := 0x200600060
abbrev FSN_SNS_CFG (s : Nat) : Nat := 0x200600100 + 0x20 * s
abbrev FSN_SNS_STAT (s : Nat) : Nat := 0x200600104 + 0x20 * s
abbrev FSN_SNS_CNT (s : Nat) : Nat := 0x200600118 + 0x20 * s
abbrev FSN_SER_CFG (n : Nat) : Nat := 0x200602000 + 0x40 * n
abbrev FSN_SER_STAT (n : Nat) : Nat := 0x200602004 + 0x40 * n
abbrev HBX_STAT : Nat := 0x200200000
abbrev HBX_IRQ_EN : Nat := 0x200200004
abbrev HBX_PUB_CFG (p : Nat) : Nat := 0x200200100 + 0x4 * p
abbrev HBX_BMB_CFG (k : Nat) : Nat := 0x200200200 + 0x8 * k
abbrev HBX_BMB_STAT (k : Nat) : Nat := 0x200200204 + 0x8 * k
abbrev HBX_ITEM (i : Nat) : Nat := 0x200200800 + 0x4 * i
abbrev HBX_CH_CFG (c : Nat) : Nat := 0x200210000 + 0x40 * c
abbrev HBX_CH_CHAIN (c : Nat) : Nat := 0x200210004 + 0x40 * c
abbrev HBX_CH_STAT (c : Nat) : Nat := 0x200210008 + 0x40 * c
abbrev HBX_VLV_CFG (v : Nat) : Nat := 0x200220000 + 0x20 * v
abbrev HBX_VLV_STAT (v : Nat) : Nat := 0x200220004 + 0x20 * v
abbrev HBX_VLV_TIME (v : Nat) : Nat := 0x200220008 + 0x20 * v
abbrev HBX_IMU_CTL : Nat := 0x200230000
abbrev ENC_STAT : Nat := 0x200700000
abbrev ENC_IRQ_EN : Nat := 0x200700004
abbrev ENC_IN_CFG (n : Nat) : Nat := 0x200701000 + 0x100 * n
abbrev ENC_IN_STAT (n : Nat) : Nat := 0x200701014 + 0x100 * n
abbrev TIM_STAT : Nat := 0x200100000
abbrev TIM_IRQ_EN : Nat := 0x200100004
abbrev TIM_INC : Nat := 0x200100010
abbrev TIM_CMP_CFG (k : Nat) : Nat := 0x200100100 + 0x20 * k
abbrev TIM_CAP_CFG (k : Nat) : Nat := 0x200100500 + 0x20 * k
abbrev DKL_STAT : Nat := 0x200b00000
abbrev DKL_IRQ_EN : Nat := 0x200b00004
abbrev DKL_STATE : Nat := 0x200b00008
abbrev DKL_THR_TRIP : Nat := 0x200b0000c
abbrev DKL_IO_STAT : Nat := 0x200b00018
abbrev DKL_IN_FAULT : Nat := 0x200b0001c
abbrev DKL_SW_STOP : Nat := 0x200b00020
abbrev DKL_SCR_ACCEPT : Nat := 0x200b00034
abbrev DKL_CONN_STAT (c : Nat) : Nat := 0x200b00100 + 0x4 * c
abbrev PLY_STAT : Nat := 0x200900000
abbrev PLY_IRQ_EN : Nat := 0x200900004
abbrev PLY_NODE : Nat := 0x200900008
abbrev PLY_PORT_CFG (p : Nat) : Nat := 0x200900100 + 0x40 * p
abbrev PLY_PORT_STAT (p : Nat) : Nat := 0x200900104 + 0x40 * p
abbrev CAN_STAT (n : Nat) : Nat := 0x200800000 + 0x10000 * n
abbrev CAN_IRQ_EN (n : Nat) : Nat := 0x200800004 + 0x10000 * n
abbrev CAN_MODE (n : Nat) : Nat := 0x200800008 + 0x10000 * n
abbrev CAN_STATE (n : Nat) : Nat := 0x20080000c + 0x10000 * n
abbrev CAN_NBT (n : Nat) : Nat := 0x200800010 + 0x10000 * n
abbrev CAN_DBT (n : Nat) : Nat := 0x200800014 + 0x10000 * n
abbrev CAN_BUF_CFG (n : Nat) (b : Nat) : Nat := 0x200800100 + 0x10000 * n + 0x8 * b
abbrev CAN_BUF_CTL (n : Nat) (b : Nat) : Nat := 0x200800800 + 0x10000 * n + 0x4 * b
abbrev PAIR_STAT : Nat := 0x200a00000
abbrev PAIR_IRQ_EN : Nat := 0x200a00004
abbrev PAIR_CFG : Nat := 0x200a00008
abbrev PAIR_LEASE_CFG : Nat := 0x200a0000c
abbrev PAIR_LEASE_CTL : Nat := 0x200a00010
abbrev PAIR_LEASE_STAT : Nat := 0x200a00014
abbrev PAIR_EPOCH : Nat := 0x200a00018
abbrev PAIR_LINK_STAT : Nat := 0x200a0001c
abbrev TND_STAT : Nat := 0x200000000
abbrev TND_IRQ_EN : Nat := 0x200000004
abbrev TND_RESET_CAUSE : Nat := 0x200000008
abbrev TND_PSTATE : Nat := 0x200000010
abbrev TND_WAKE : Nat := 0x200000014
abbrev TND_MWDG : Nat := 0x200000410
abbrev TND_CAL_CTL : Nat := 0x200000400
abbrev PWR_DC_CTL (n : Nat) : Nat := 0x200f00000 + 0x8 * n
abbrev PWR_DC_STAT (n : Nat) : Nat := 0x200f00004 + 0x8 * n
abbrev PWR_SOFT_RST : Nat := 0x200f00100
abbrev REEL_STAT : Nat := 0x200c00000
abbrev REEL_IRQ_EN : Nat := 0x200c00004
abbrev REEL_CFG : Nat := 0x200c0000c
abbrev REEL_CLEAR : Nat := 0x200c00010
abbrev UPD_STAT : Nat := 0x200d00000
abbrev UPD_IRQ_EN : Nat := 0x200d00004
abbrev UPD_CTL : Nat := 0x200d00008
abbrev UPD_STATE : Nat := 0x200d0000c
abbrev PNL_STAT : Nat := 0x200e00000
abbrev PNL_IRQ_EN : Nat := 0x200e00004
abbrev PNL_CTL : Nat := 0x200e00008
abbrev PNL_RECT : Nat := 0x200e0000c
abbrev PNL_STATE : Nat := 0x200e00010
abbrev NBB_SYM_CFG : Nat := 0x200500030
abbrev NBB_SYM_WR : Nat := 0x200500034
abbrev NBB_SYM_RD : Nat := 0x200500038
abbrev NBB_ACQ_REQ (j : Nat) : Nat := 0x200500400 + 0x4 * j
abbrev NBB_ACQ_RES (j : Nat) : Nat := 0x200500420 + 0x4 * j
abbrev NBB_HOLD_RATE : Nat := 0x20053002c
abbrev NBB_HOLD_DRIFT : Nat := 0x200530030
abbrev NBB_PPS_SEC_LO : Nat := 0x20053004c
abbrev NBB_PPS_SEC_HI : Nat := 0x200530050
abbrev NBB_STEP_SIZE : Nat := 0x20053005c
abbrev NBB_ISTO_UNC (k : Nat) : Nat := 0x200530064 + 0x8 * k
abbrev NBB_KEPT (w : Nat) : Nat := 0x200540000 + 0x4 * w
abbrev FSN_SUBQ_WR : Nat := 0x200600024
abbrev FSN_SUBQ_RD : Nat := 0x200600028
abbrev FSN_SNS_OFS_LO (s : Nat) : Nat := 0x200600108 + 0x20 * s
abbrev FSN_SNS_OFS_HI (s : Nat) : Nat := 0x20060010c + 0x20 * s
abbrev FSN_SNS_DRIFT (s : Nat) : Nat := 0x200600110 + 0x20 * s
abbrev FSN_SNS_RES (s : Nat) : Nat := 0x200600114 + 0x20 * s
abbrev FSN_XF_W (e : Nat) (w : Nat) : Nat := 0x200601000 + 0x20 * e + 0x4 * w
abbrev FSN_SER_DATA (n : Nat) : Nat := 0x200602008 + 0x40 * n
abbrev FSN_TRK_W (t : Nat) (w : Nat) : Nat := 0x200603000 + 0x40 * t + 0x4 * w
abbrev FSN_TRK_FIX (t : Nat) (w : Nat) : Nat := 0x200603030 + 0x40 * t + 0x4 * w
abbrev FSN_TRK_FIXED (t : Nat) : Nat := 0x20060303c + 0x40 * t
abbrev HBX_CH_OUT (c : Nat) : Nat := 0x20021000c + 0x40 * c
abbrev HBX_CH_RAW (c : Nat) : Nat := 0x200210010 + 0x40 * c
abbrev HBX_CH_TIME_LO (c : Nat) : Nat := 0x200210014 + 0x40 * c
abbrev HBX_CH_TIME_HI (c : Nat) : Nat := 0x200210018 + 0x40 * c
abbrev HBX_CH_FAC_OFS (c : Nat) : Nat := 0x200210020 + 0x40 * c
abbrev HBX_CH_FAC_GAIN (c : Nat) : Nat := 0x200210024 + 0x40 * c
abbrev HBX_CH_USR_OFS (c : Nat) : Nat := 0x200210028 + 0x40 * c
abbrev HBX_CH_USR_TRIM (c : Nat) : Nat := 0x20021002c + 0x40 * c
abbrev HBX_CH_EFF_OFS (c : Nat) : Nat := 0x200210030 + 0x40 * c
abbrev HBX_CH_EFF_GAIN (c : Nat) : Nat := 0x200210034 + 0x40 * c
abbrev ENC_IN_CPR (n : Nat) : Nat := 0x200701004 + 0x100 * n
abbrev ENC_IN_IDX (n : Nat) : Nat := 0x200701008 + 0x100 * n
abbrev ENC_IN_OBS (n : Nat) : Nat := 0x20070100c + 0x100 * n
abbrev ENC_IN_CTL (n : Nat) : Nat := 0x200701010 + 0x100 * n
abbrev ENC_IN_COUNT_LO (n : Nat) : Nat := 0x200701018 + 0x100 * n
abbrev ENC_IN_COUNT_HI (n : Nat) : Nat := 0x20070101c + 0x100 * n
abbrev ENC_IN_POS (n : Nat) : Nat := 0x200701020 + 0x100 * n
abbrev ENC_IN_SPD (n : Nat) : Nat := 0x200701024 + 0x100 * n
abbrev ENC_IN_ACC (n : Nat) : Nat := 0x200701028 + 0x100 * n
abbrev ENC_IN_STEP_LO (n : Nat) : Nat := 0x20070102c + 0x100 * n
abbrev ENC_IN_STEP_HI (n : Nat) : Nat := 0x200701030 + 0x100 * n
abbrev ENC_IN_DRIFT (n : Nat) : Nat := 0x200701034 + 0x100 * n
abbrev ENC_IN_MAXDRIFT (n : Nat) : Nat := 0x200701038 + 0x100 * n
abbrev ENC_IN_LAT (n : Nat) (w : Nat) : Nat := 0x200701040 + 0x100 * n + 0x4 * w
abbrev ENC_IN_ABS (n : Nat) : Nat := 0x200701070 + 0x100 * n
abbrev ENC_IN_ABS_LAT (n : Nat) : Nat := 0x200701074 + 0x100 * n
abbrev TIM_NOW : Nat := 0x200100008
abbrev TIM_WRAPS : Nat := 0x20010000c
abbrev TIM_OFFSET : Nat := 0x200100014
abbrev TIM_EXT_BASE : Nat := 0x200100018
abbrev TIM_EXT_STAT : Nat := 0x20010001c
abbrev TIM_EXT_FOLD : Nat := 0x200100020
abbrev TIM_SNAP_LO (r : Nat) : Nat := 0x200100040 + 0x10 * r
abbrev TIM_SNAP_HI (r : Nat) : Nat := 0x200100044 + 0x10 * r
abbrev TIM_SNAP_W (r : Nat) : Nat := 0x200100048 + 0x10 * r
abbrev TIM_CMP_TGT_LO (k : Nat) : Nat := 0x200100104 + 0x20 * k
abbrev TIM_CMP_TGT_HI (k : Nat) : Nat := 0x200100108 + 0x20 * k
abbrev TIM_CMP_PERIOD (k : Nat) : Nat := 0x20010010c + 0x20 * k
abbrev TIM_CMP_CNT (k : Nat) : Nat := 0x200100110 + 0x20 * k
abbrev TIM_TM_CFG (n : Nat) : Nat := 0x200100400 + 0x4 * n
abbrev TIM_CAP_TIME_LO (k : Nat) : Nat := 0x200100504 + 0x20 * k
abbrev TIM_CAP_TIME_HI (k : Nat) : Nat := 0x200100508 + 0x20 * k
abbrev TIM_CAP_CNT (k : Nat) : Nat := 0x20010050c + 0x20 * k
abbrev TIM_PPSIN_CFG : Nat := 0x200100600
abbrev TIM_PPSIN_TIME_LO : Nat := 0x200100604
abbrev TIM_PPSIN_TIME_HI : Nat := 0x200100608
abbrev TIM_PPSIN_CNT : Nat := 0x20010060c
abbrev DKL_THR_DO : Nat := 0x200b00010
abbrev DKL_THR_ENV : Nat := 0x200b00014
abbrev DKL_SCR_CRC : Nat := 0x200b00038
abbrev PLY_TXR_CFG (r : Nat) : Nat := 0x200900010 + 0x10 * r
abbrev PLY_TXR_WR (r : Nat) : Nat := 0x200900014 + 0x10 * r
abbrev PLY_TXR_RD (r : Nat) : Nat := 0x200900018 + 0x10 * r
abbrev PLY_RXR_CFG : Nat := 0x200900030
abbrev PLY_RXR_WR : Nat := 0x200900034
abbrev PLY_RXR_RD : Nat := 0x200900038
abbrev PLY_GROUPS : Nat := 0x200900040
abbrev PLY_PORT_DROP (p : Nat) : Nat := 0x200900108 + 0x40 * p
abbrev PLY_PORT_RXERR (p : Nat) : Nat := 0x20090010c + 0x40 * p
abbrev PLY_PRP_OOW : Nat := 0x200900200
abbrev PLY_PRP_WRONG_LAN : Nat := 0x200900204
abbrev PLY_PRP_DUP : Nat := 0x200900208
abbrev CAN_TDCR (n : Nat) : Nat := 0x200800018 + 0x10000 * n
abbrev CAN_FIFO_ID (n : Nat) : Nat := 0x200800030 + 0x10000 * n
abbrev CAN_FIFO_MASK (n : Nat) : Nat := 0x200800034 + 0x10000 * n
abbrev CAN_FIFO_STAT (n : Nat) : Nat := 0x200800038 + 0x10000 * n
abbrev CAN_BUF_MASK (n : Nat) (b : Nat) : Nat := 0x200800500 + 0x10000 * n + 0x8 * b
abbrev CAN_BUF_W (n : Nat) (b : Nat) (w : Nat) : Nat := 0x200801000 + 0x10000 * n + 0x80 * b + 0x4 * w
abbrev PAIR_SNAP_SRC_LO (s : Nat) : Nat := 0x200a00040 + 0x10 * s
abbrev PAIR_SNAP_SRC_HI (s : Nat) : Nat := 0x200a00044 + 0x10 * s
abbrev PAIR_SNAP_DST (s : Nat) : Nat := 0x200a00048 + 0x10 * s
abbrev PAIR_SNAP_LEN (s : Nat) : Nat := 0x200a0004c + 0x10 * s
abbrev PAIR_SNAP_GO : Nat := 0x200a000c0
abbrev PAIR_SNAP_DL_LO : Nat := 0x200a000c4
abbrev PAIR_SNAP_DL_HI : Nat := 0x200a000c8
abbrev PAIR_MIR_CFG : Nat := 0x200a000d0
abbrev PAIR_MIR_GO : Nat := 0x200a000d4
abbrev PAIR_MIR_HASH : Nat := 0x200a000d8
abbrev PAIR_MST_BASE_LO : Nat := 0x200a000e0
abbrev PAIR_MST_BASE_HI : Nat := 0x200a000e4
abbrev PAIR_MST_CTL : Nat := 0x200a000e8
abbrev PAIR_MST_DIRTY : Nat := 0x200a000ec
abbrev PAIR_PROOF_CFG : Nat := 0x200a00100
abbrev PAIR_PROOF_STAT : Nat := 0x200a00104
abbrev PAIR_PROOF_LAST_LO : Nat := 0x200a00108
abbrev PAIR_PROOF_LAST_HI : Nat := 0x200a0010c
abbrev TND_RTC_LO : Nat := 0x200000018
abbrev TND_RTC_HI : Nat := 0x20000001c
abbrev TND_ALARM_LO : Nat := 0x200000020
abbrev TND_ALARM_HI : Nat := 0x200000024
abbrev TND_PFAIL_CFG : Nat := 0x200000028
abbrev TND_TWDG : Nat := 0x20000002c
abbrev TND_TPEND : Nat := 0x200000030
abbrev TND_TIRQ_EN : Nat := 0x200000034
abbrev TND_MWDG_KICK : Nat := 0x200000414
abbrev TND_LOG_WR : Nat := 0x200000420
abbrev TND_STALL_WR : Nat := 0x200000424
abbrev TND_APER : Nat := 0x200000430
abbrev TND_FLUSH (n : Nat) (w : Nat) : Nat := 0x200000100 + 0x10 * n + 0x4 * w
abbrev TND_STALL_LOG (k : Nat) (w : Nat) : Nat := 0x200000200 + 0x10 * k + 0x4 * w
abbrev TND_SENS (i : Nat) : Nat := 0x200000300 + 0x4 * i
abbrev TND_SENS_LIM (i : Nat) : Nat := 0x200000340 + 0x4 * i
abbrev PWR_SYS_RST : Nat := 0x200f00104
abbrev PWR_JOINT_RST : Nat := 0x200f00108
abbrev REEL_CTL : Nat := 0x200c00008
abbrev REEL_POST_ARG (r : Nat) : Nat := 0x200c00020 + 0x8 * r
abbrev REEL_POST_VAL (r : Nat) : Nat := 0x200c00024 + 0x8 * r
abbrev REEL_THR_RUN : Nat := 0x200c00040
abbrev REEL_NAN_CNT : Nat := 0x200c00044
abbrev REEL_LOST : Nat := 0x200c00048
abbrev REEL_ALM_FIRST : Nat := 0x200c00050
abbrev REEL_ALM_NEXT : Nat := 0x200c00054
abbrev REEL_ARCH_FIRST : Nat := 0x200c00058
abbrev REEL_ARCH_NEXT : Nat := 0x200c0005c
abbrev REEL_CUR_CTL : Nat := 0x200c00060
abbrev REEL_CUR_POS : Nat := 0x200c00064
abbrev REEL_CUR_OFS : Nat := 0x200c00068
abbrev REEL_CUR_STAT : Nat := 0x200c0006c
abbrev REEL_LEAP_T_LO : Nat := 0x200c00070
abbrev REEL_LEAP_T_HI : Nat := 0x200c00074
abbrev REEL_LEAP_DELTA : Nat := 0x200c00078
abbrev REEL_THR_AZ (i : Nat) : Nat := 0x200c00100 + 0x4 * i
abbrev REEL_WIN (w : Nat) : Nat := 0x200c01000 + 0x4 * w
abbrev REEL_HIST_CFG (h : Nat) : Nat := 0x200c02000 + 0x10 * h
abbrev REEL_HIST_LO (h : Nat) : Nat := 0x200c02004 + 0x10 * h
abbrev REEL_HIST_WIDTH (h : Nat) : Nat := 0x200c02008 + 0x10 * h
abbrev REEL_XTR_CFG (x : Nat) : Nat := 0x200c04000 + 0x4 * x
abbrev UPD_BLK_ADDR_LO : Nat := 0x200d00010
abbrev UPD_BLK_ADDR_HI : Nat := 0x200d00014
abbrev UPD_BLK_IDX : Nat := 0x200d00018
abbrev UPD_VERSION : Nat := 0x200d00020
abbrev UPD_STAGED_VER : Nat := 0x200d00024
abbrev UPD_TRIAL_LEFT : Nat := 0x200d00028
abbrev UPD_ACT_LO : Nat := 0x200d00030
abbrev UPD_ACT_HI : Nat := 0x200d00034
abbrev UPD_ACT_CTL : Nat := 0x200d00038
abbrev UPD_CONFIRM : Nat := 0x200d0003c
abbrev UPD_BITMAP (k : Nat) : Nat := 0x200d00100 + 0x4 * k
abbrev UPD_HDR (w : Nat) : Nat := 0x200d01000 + 0x4 * w
abbrev PNL_TARGET (w : Nat) : Nat := 0x200e10000 + 0x4 * w
abbrev PNL_STRESS (w : Nat) : Nat := 0x200e20000 + 0x4 * w
end Reg

end Sys2Proof.Machine
end

