-- ==== Sys2Proof/Machine/State.lean ====
section
/-! DEFINITION. The state of the G48 as plain data. Every register of the 17 blocks lives in `State.regs` under its
physical address; every memory is a sparse map of bytes; what a block holds beyond its registers lives in one structure
per block. -/

namespace Sys2Proof.Machine

/-- What a core is doing. -/
inductive RunState where
  /-- Held in reset, without power, or (a lane) STOPPED. -/
  | held
  | running
  /-- Suspended by WAIT (R107): destination, time of issue, timeout in clock cycles (0: none). -/
  | waiting (d : BitVec 6) (since timeout : Nat)
  /-- Waiting for an access to a sleeping domain (R404). -/
  | stalled
  /-- Stopped by a double trap (R112) or a lockstep mismatch (R115) until a Mill-only soft reset. -/
  | stopped
  /-- A lane waiting in SYNC (R132): destination, channel, whether the period it ended had overrun,
  time of issue. -/
  | syncWait (d : BitVec 6) (ch : Nat) (ovr : Bool) (since : Nat)
  /-- A lane stopped by a trap (R131). -/
  | trapped
  deriving DecidableEq, Repr

/-- One core: registers g1-g63 (32-bit levels use the low word), state registers by number (R117), the address of the
next unit, an L prefix waiting for its successor (R84), reservation granule (R101) and event latch (R107). -/
structure CoreSt where
  regs  : SMap DWord
  sr    : SMap DWord
  pc    : DWord
  pfx   : Option (BitVec 26)
  run   : RunState
  resv  : Option Nat
  evt   : Bool
  deriving DecidableEq, Repr

/-- Reset value of a state register (R117): MSTATUS.LVL is 2, everything else 0. -/
def srReset (n : Nat) : DWord := if n = 0x2000 then 2 else 0

/-- A core held in reset: registers and state registers cleared (R118). -/
def coreHeld : CoreSt := ⟨[], [], 0, none, .held, none, false⟩

/-- What a core is after a power-on reset: the Tender runs from local address 0 (R382), every other core is held. -/
def coreReset (id : Nat) : CoreSt := if id = 0x200 then { coreHeld with run := .running } else coreHeld

/-- A slotted Felt message: its 4-byte words. -/
abbrev Msg := List Word

/-- One source channel of a Felt station (R31). -/
structure FeltCh where
  pend : Option Msg
  inj  : Option Msg
  deriving DecidableEq, Repr

def feltChIdle : FeltCh := ⟨none, none⟩

/-- The Felt fabric: the source channels (key 64 * station + channel), the bindings a station's pass-through stage keeps
while its domain is not ON (R471; key: station), whether SLOT_EN is in force since the last round boundary (R34), the channels in the
order their messages began injection (R29), and whether an uncorrectable beat has hit a best-effort message, so that the access it
belongs to is about to fail (R32). -/
structure FeltSt where
  ch      : SMap FeltCh
  kept    : SMap (List (Nat × Nat))
  slotEn  : Bool
  order   : List Nat
  hit     : Bool
  deriving DecidableEq, Repr

/-- One Press receive mailbox and its view (R135, R138). -/
structure PrsBox where
  msg   : Option Msg
  fresh : Bool
  view  : Option Msg
  vnew  : Bool
  varr  : Nat
  deriving DecidableEq, Repr

def prsBoxEmpty : PrsBox := ⟨none, false, none, false, 0⟩

/-- One Press transmit channel: its three buffers (R140), the length marked by PUB (R139) and the lane that executed that PUB (R130,
R133; 0 with no PUB). -/
structure PrsTx where
  stage : SMap Byte
  pend  : SMap Byte
  inj   : SMap Byte
  len   : Option Nat
  lane  : Nat
  deriving DecidableEq, Repr

def prsTxEmpty : PrsTx := ⟨[], [], [], none, 0⟩

/-- One lane's period (R132-R134): whether it is in a period, whether that period overran, the events per channel since it
was let go (saturating at 255) and the clock cycles run since then. -/
structure LaneSt where
  inPeriod : Bool
  overran  : Bool
  events   : SMap Nat
  cycles   : Nat
  deriving DecidableEq, Repr

def laneIdle : LaneSt := ⟨false, false, [], 0⟩

/-- The Press beyond its registers: mailboxes (key 32 * tile + m), transmit channels (32 * tile + c), lanes (8 * tile + l)
and the tile memories (key: offset in the PRS window). -/
structure PrsSt where
  box  : SMap PrsBox
  tx   : SMap PrsTx
  lane : SMap LaneSt
  mem  : SMap Byte
  deriving DecidableEq, Repr

/-- The time base beyond its registers: fraction accumulator (R275), corrections waiting for the next tick (R277, R279,
R280), compare target shadows (R283), freezes of the capture channels (R286; key 8 is PPS_IN), the time of the last
accepted PPS_IN edge and the start of each TM pulse. -/
structure TimSt where
  frac    : Nat
  excess  : Nat
  pInc    : Option Word
  pOfs    : Option Word
  pFold   : Nat
  tgtLo   : SMap Word
  pTgt    : SMap (Option DWord)
  frozen  : SMap Bool
  held    : SMap (Option DWord)
  ppsLast : Option Nat
  tm      : SMap (Option Nat)
  armed   : Bool
  deriving DecidableEq, Repr

/-- What a stalled access does when it completes (R404). -/
inductive StallOp where
  /-- A core's load: core, destination, bytes, sign-extended, access address as the core gave it. -/
  | load (core : Nat) (d : BitVec 6) (n : Nat) (sx : Bool) (va : Nat)
  | store (core : Nat) (n : Nat) (v : DWord) (va : Nat)
  /-- An access from outside the cores: a 32-bit read, or a write of `n` bytes. -/
  | busRead
  | busWrite (n : Nat) (v : DWord)
  /-- The Fusion unit's aligned block (R228). -/
  | alignBlock
  deriving DecidableEq, Repr

/-- An access waiting for its domain (R404). -/
structure Stall where
  rq    : Requester
  lvl   : Nat
  addr  : Nat
  dom   : Nat
  since : Nat
  op    : StallOp
  deriving DecidableEq, Repr

/-- The bus's last answer. -/
inductive Resp where
  | idle
  | data (v : DWord)
  | done
  | busError
  | stalled
  deriving DecidableEq, Repr

/-- A record of the management log (R386). -/
structure LogRec where
  time : DWord
  head : Word
  d0   : Word
  d1   : Word
  d2   : Word
  seq  : Word
  deriving DecidableEq, Repr

/-- Where the module's supply stands in a power failure (R398-R401): feeds good; PFW raised at a time, within RIDE; load shed;
flush written; OFF on the backup supply (with PFAIL when a completed power-fail sequence led there). -/
inductive Supply where
  | good
  | warned (since : Nat)
  | shed
  | off (pfail : Bool)
  deriving DecidableEq, Repr

/-- The always-on domain beyond its registers. -/
structure TndSt where
  rtcLo    : Word
  rtcPend  : Option DWord
  almLo    : Word
  almPend  : Option DWord
  /-- Tender watchdog: time of the last accepted write; none since the Tender's last reset (R384). -/
  twdgLast : Option Nat
  twdgFrom : Nat
  /-- Mill watchdog: start of the running count, half time reported, time of the last expiry (R394). -/
  mwdgFrom : Nat
  mwdgHalf : Bool
  mwdgExp  : Option Nat
  /-- Sensors whose last reading lay outside their thresholds (R385). -/
  sensOut  : SMap Bool
  /-- Log sequence number, records already copied to NAND, the NAND log region, last second of the rate-limited codes. -/
  seq      : Nat
  copied   : Nat
  nandLog  : List LogRec
  lastSec  : SMap (Option Nat)
  /-- A power-state entry in progress (its target and the number of steps of R388 done), and the state left by a wake. -/
  entry    : Option (Nat × Nat)
  wakeFrom : Option Nat
  stalls   : List Stall
  supply   : Supply
  /-- The hold-up store has charged since a feed was applied, which arms the power-fail warning (R456). -/
  charged  : Bool
  /-- Domains whose supply was removed since they were last ON (key: domain). -/
  cold     : SMap Bool
  /-- A reset whose log record waits for the cold boot: TND_RESET_CAUSE and RTC seconds (R469). -/
  bootLog  : Option (Word × Word)
  /-- A cold boot is due (after a power-on, brown-out, system or watchdog reset); RECOVERY entered (R437). -/
  bootDue  : Bool
  recovery : Bool
  /-- The Mill has started at its boot ROM, whose work is not done yet (R118, R437). -/
  inRom    : Option Bool
  mem      : SMap Byte
  deriving DecidableEq, Repr

/-- A receive connection of the Deckle (R314-R316). `wait` lists the SEQs whose second copy is awaited: SEQ, network of the
first copy (true: B), its time, and the PDU. -/
structure DklConn where
  lastSeq : Option Word
  lastRx  : Nat
  payload : Option (List Word)
  wait    : List (Word × Bool × Nat × SafePdu)
  missA   : Nat
  missB   : Nat
  okA     : Nat
  okB     : Nat
  fault   : Bool
  timeout : Bool
  /-- Start of the present run of identical copies, and the last confirmed RESET bit. -/
  same    : Option Nat
  reset   : Bool
  old     : Nat
  deriving DecidableEq, Repr

/-- A thruster in the command tap: values in force (`live` once there are any), the values they replaced, and the latest command
with its apply time until that passes (R301). -/
structure DklTap where
  rpm   : Word
  pitch : Word
  az    : Word
  pRpm  : Word
  pPit  : Word
  pAz   : Word
  next  : Option (Word × Word × Word × Nat)
  live  : Bool
  deriving DecidableEq, Repr

/-- The Deckle beyond its registers. -/
structure DklSt where
  /-- Configuration in force and its MRAM slot; the CRC offered for adoption (R319). -/
  scr      : Option ScrCfg
  slot     : Option Nat
  accept   : Word
  /-- Safety cycle timer interrupt (R297), watchdog token index. -/
  cycIrq   : Bool
  token    : Nat
  /-- Safe inputs: sample number in the 20 ms pattern, per input (last level, run length) and the last three raw levels. -/
  sample   : Nat
  inRun    : SMap (Bool × Nat)
  hist     : SMap Nat
  diff     : SMap (Option Nat)
  rstHigh  : SMap (Option Nat)
  /-- A reset command waiting for the next cycle (R303); the demands of the last cycle; software stops asked for. -/
  resetCmd : Bool
  demand   : Nat
  sw       : Nat
  doFrom   : SMap (Option Nat)
  /-- Since when a thruster's commands, and its actual values, violate its envelope (R302). -/
  envFrom  : SMap (Option Nat)
  envActFrom : SMap (Option Nat)
  conns    : SMap DklConn
  txSeq    : SMap Word
  txLast   : SMap (Option (Nat × List Word))
  tap      : SMap DklTap
  /-- Position loss: last step count and when it advanced; when the last condition ended (R304). -/
  step     : Nat
  stepAt   : Nat
  posEnd   : Nat
  alarmOut : Bool
  /-- Group cuts tripped, last cut test per group, time the group's outputs have been off since (R310, R311). -/
  cutTest  : SMap Nat
  offFrom  : SMap Nat
  corr     : Nat
  started  : Nat
  mem      : SMap Byte
  deriving DecidableEq, Repr

/-- A sample accepted by the Fusion unit (R224): `kind` 0 is a GNSS record, 7 a position implied by a fixed target; `procAt` is the physical
time of its processing; `ch` the baseband channel of a GNSS record; `ego`: the IMU being integrated delivered it (R230). -/
structure FsnSmp where
  id     : Nat
  kind   : Nat
  epoch  : Int
  procAt : Nat
  vals   : List Word
  sds    : List Word
  tag    : Nat
  scan   : Nat
  held   : Bool
  ch     : Nat
  ego    : Bool
  deriving DecidableEq, Repr

/-- A sensor beyond its registers: the clock model (R223); the epochs of its accepted records and of its observables, with whether each
takes part in its step (R225, R226); its latest position and heading in vessel axes, and for position and heading its rejection and the
passes since (R234); its last 8 scans, newest first (R235). -/
structure FsnSns where
  anchor  : Int
  started : Bool
  good    : Nat
  last    : Int
  recent  : List (Int × Bool)
  obs     : List (Int × Bool)
  pos     : Option FsnSmp
  hdg     : Option FsnSmp
  rejPos  : Bool
  rejHdg  : Bool
  passPos : Nat
  passHdg : Nat
  scans   : List Nat
  deriving DecidableEq, Repr

def fsnSnsIdle : FsnSns := ⟨0, false, 0, 0, [], [], none, none, false, false, 0, 0, []⟩

/-- A track beyond its record (R235, R236): the scans (sensor, number) in which it took a detection, gate failures of its tag, when it was
deleted; as a fixed target the position it implied last, its rejection and the passes since. -/
structure FsnTrk where
  scans  : List (Nat × Nat)
  bad    : Nat
  freed  : Option Nat
  fix    : Option FsnSmp
  rej    : Bool
  passes : Nat
  deriving DecidableEq, Repr

def fsnTrkIdle : FsnTrk := ⟨[], 0, none, none, false, 0⟩

/-- A candidate: its detections, the time of its first one, its tag (R235). -/
structure FsnCand where
  dets   : List (Word × Word)
  first  : Int
  tag    : Nat
  deriving DecidableEq, Repr

/-- A serial port beyond its registers (R238-R240): received characters with their status, characters to send, the one in the
shift register, whether the RS-485 line is driven, when the last stop bit ended, and whether the next start bit is the first after a
delimiter event. -/
structure SerSt where
  rx    : List Word
  tx    : List Byte
  shift : Option Byte
  drive : Bool
  ended : Nat
  armed : Bool
  deriving DecidableEq, Repr

def serIdle : SerSt := ⟨[], [], none, false, 0, false⟩

/-- The Fusion unit beyond its registers. -/
structure FsnSt where
  /-- Fusion steps closed (the step count of the Deckle line, R304) and the t_r of the last one. -/
  steps   : Nat
  lastTr  : Int
  /-- When COMMIT was written, and the switch whose old bank is still held: when, and at which local time (R219, R220). -/
  commit  : Option Nat
  switch  : Option (Nat × Int)
  sns     : SMap FsnSns
  buf     : List FsnSmp
  /-- When ID 3 last delivered a valid sample, whether the secondary IMU is integrated, and since which local time the one or the other is
  (R230). -/
  lastImu : Nat
  sec     : Bool
  since   : Int
  /-- The estimates of the last 40 steps, newest first (R232), and the increments of as many steps as a reference may be old (R234). -/
  ests    : List (Option Msg)
  incs    : List (List Word)
  trk     : SMap FsnTrk
  cands   : List FsnCand
  /-- The D3 timer in ms (R237). -/
  d3      : Nat
  /-- A block that waits to be written, and whether aid messages are due. -/
  block   : Option (List Word)
  aid     : Bool
  ser     : SMap SerSt
  deriving DecidableEq, Repr

def fsnReset : FsnSt :=
  { steps := 0, lastTr := 0, commit := none, switch := none, sns := [], buf := [], lastImu := 0, sec := false,
    since := 0, ests := [], incs := [], trk := [], cands := [], d3 := 0, block := none, aid := false, ser := [] }

/-- A Headbox channel's chain (R246-R252): the last inputs, the stages' recent outputs (newest first), the estimate m and the
number of inputs since the restart. -/
structure HbxChain where
  xs : List Int
  y1 : List Int
  y2 : List Int
  m  : Int
  n  : Nat
  deriving DecidableEq, Repr

def hbxChainIdle : HbxChain := ⟨[], [], [], 0, 0⟩

/-- A valve (R257-R262): edges U and Lo and the time of the last accepted band, the time of the last switch, consecutive
overcurrent decisions, whether it waits for a band after an overcurrent, its fast current. -/
structure HbxValve where
  band : Option (Word × Word × Nat)
  at_  : Nat
  oc   : Nat
  wait : Bool
  fast : Word
  deriving DecidableEq, Repr

def hbxValveIdle : HbxValve := ⟨none, 0, 0, false, 0⟩

/-- The Headbox beyond its registers: chains, valves, band mailboxes, latched publications, the IMU's nine words, its sample
count, late samples and self-test samples left, time of its last sample. -/
structure HbxSt where
  chain : SMap HbxChain
  valve : SMap HbxValve
  bmb   : SMap (Option Msg)
  pub   : SMap (Option Msg)
  imu   : List Word
  imuN  : Nat
  imuLate : Nat
  selft : Nat
  imuAt : Nat
  uv    : Bool
  deriving DecidableEq, Repr

def hbxReset : HbxSt := ⟨[], [], [], [], [], 0, 0, 0, 0, false⟩

/-- An encoder input beyond its registers (R263-R274). -/
structure EncIn where
  ab    : Nat
  /-- Observer states p_hat and w_hat as binary64 encodings. -/
  pHat  : Nat
  wHat  : Nat
  /-- Stamps of the last 16 edges with the count after each, newest first. -/
  edges : List (Int × Nat)
  /-- Time and direction of the last counted edge; the first edge of a pair that ends standstill; the seed it gave. -/
  last  : Option (Nat × Bool)
  pair  : Option (Nat × Bool)
  seed  : Option (Bool × Nat)
  rev   : Bool
  /-- The last index: count, direction, and whether a reversal came since (R267). -/
  index : Option (Int × Bool)
  revIdx : Bool
  /-- Absolute inputs: consecutive rejections, a value accepted, the last value, the measurement waiting for the step. -/
  rej   : Nat
  absOk : Bool
  absV  : Nat
  meas  : Option (Nat × Nat)
  still : Nat
  frozen : SMap Bool
  held  : SMap (Option (Int × Nat))
  /-- Speeds of the steps since the Fusion unit's last close: sum and number. -/
  avg   : Nat × Nat
  /-- When the observer stepped last (R268). -/
  stepAt : Option Nat
  /-- Since when each pair's wires read the same state, and since when a pair in disagreement has agreed again (R265). -/
  same  : SMap (Option Nat)
  agree : SMap (Option Nat)
  deriving DecidableEq, Repr

def encIdle : EncIn :=
  { ab := 0, pHat := 0, wHat := 0, edges := [], last := none, pair := none, seed := none, rev := false, index := none,
    revIdx := false, rej := 0, absOk := false, absV := 0, meas := none, still := 0, frozen := [], held := [], avg := (0, 0), stepAt := none, same := [], agree := [] }

/-- A handle of an FQ-S program (R159): offset in the job's region, shape, leading dimension, binary64, structure,
half-bandwidth. -/
structure Hdl where
  off  : Nat
  rows : Nat
  cols : Nat
  ld   : Nat
  dbl  : Bool
  str  : Nat
  bw   : Nat
  deriving DecidableEq, Repr

/-- A macro-instruction's four words (R160). -/
structure Macro where
  op    : Nat
  flags : Nat
  imm   : Nat
  h0    : Nat
  h1    : Nat
  h2    : Nat
  h3    : Nat
  p0    : Nat
  p1    : Nat
  deriving DecidableEq, Repr

/-- An output staged by STOREM (R162). -/
inductive Staged where
  | dram (addr : Nat) (ws : List Word)
  | felt (ch : Nat) (ws : List Word)
  deriving DecidableEq, Repr

inductive JobRun where
  | waiting | running | suspended
  deriving DecidableEq, Repr

/-- A Calender job (R165-R170). `cls`: 0 TIMED (from arm slot `slot`), 1 NORMAL, 2 BACKGROUND. `d` holds the descriptor's 32
words, read at the start. -/
structure CalJob where
  cls      : Nat
  slot     : Nat
  desc     : Nat
  run      : JobRun
  /-- Start event: local time and physical time; the slot's RUNS. -/
  startExt : Nat
  startClk : Nat
  runs     : Nat
  d        : List Word
  /-- Tiles that run the job (named and not masked). -/
  tiles    : List Nat
  /-- Has the job started: its checks passed and its fallback formed? -/
  started  : Bool
  hdls     : List Hdl
  prog     : List Macro
  pc       : Nat
  staged   : List Staged
  /-- The views of the named tiles' mailboxes, latched at the start (R153): key 8 * tile + m. -/
  views    : SMap (Option Msg)
  /-- What the handles hold that were factorised: 1 L of FACT.CHOL, 2 L and D of FACT.LDL, 3 R of FACT.QR. -/
  facts    : SMap Nat
  iters    : Nat
  limited  : Bool
  pivots   : Nat
  firstPiv : Option Nat
  clipped  : Nat
  ratio    : Word
  flags    : Nat
  hash     : Word
  shift    : Nat
  /-- ALLOC: the fallback plan, and what QP.STEP left for the state area. -/
  fallback : List Word
  fbActive : List Word
  fbSig    : List Word
  fbVars   : List DWord
  warm     : List Word
  vars     : List DWord
  active   : List Word
  deriving DecidableEq, Repr

/-- The Calender beyond its registers: jobs in order of entry, receive mailboxes (key 8 * tile + m), local stores (key
2^20 * tile + offset). -/
structure CalSt where
  jobs : List CalJob
  box  : SMap (Option Msg)
  mem  : SMap Byte
  deriving DecidableEq, Repr

def calReset : CalSt := ⟨[], [], []⟩

/-- A mirror packet sent and not yet acknowledged (R361): its words, the time of its last copy, the copies sent and the transfer
it belongs to (type, k). -/
structure MirOut where
  seq  : Nat
  ws   : List Word
  at_  : Nat
  n    : Nat
  xfer : Nat × Nat
  deriving DecidableEq, Repr

/-- A cycle's hashes (R364, R365): k, the CRC of the cycle region, the CRC of the command bodies, EXCUSE. -/
structure MirHash where
  k      : Nat
  state  : Word
  cmds   : Word
  excuse : Bool
  deriving DecidableEq, Repr

/-- The pair's mirror link and lease beyond their registers. -/
structure PairSt where
  /-- Dirty pages of the mirror store (R367); the next page of a full resynchronisation's pass; RESYNC_DONE held (R368). -/
  dirty   : SMap Bool
  pass    : Option Nat
  resync  : Bool
  /-- PAIR_ID as sampled at the last power-on reset (R355). -/
  strapB  : Bool
  /-- Mirror link: last HELLO sent and received, when the link last lost sync, SEQ to send, packets not yet acknowledged, SEQs
  received, k of the last mirror frame wholly acknowledged. -/
  helloTx : Nat
  helloRx : Option Nat
  lostAt  : Nat
  seq     : Nat
  sent    : List MirOut
  seen    : List Nat
  mirAck  : Nat
  /-- Snapshot packets received (part, segment, offset, words), the k they belong to, and whether the part due has been written
  or missed (R363); the Fusion steps at the last write. -/
  snap    : List (Nat × Nat × Nat × List Word)
  snapK   : Nat
  snapDone : Bool
  snapStep : Nat
  miss    : Bool
  /-- The mirror frame being received (k, chunks by offset), the last complete one, pages waiting for the Tender, the cycle slot to
  use next (R364, R369). -/
  asmK    : Nat
  asm     : List (Nat × List Word)
  frame   : Option (Nat × List Word × Word × Word)
  stored  : Bool
  pages   : List (Nat × List Word)
  slot    : Nat
  hashOwn : Option MirHash
  hashRx  : Option MirHash
  /-- Command bodies taken by Ply since the last PAIR_MIR_GO (R331, R364). -/
  bodies  : List Byte
  /-- Lease: when PAIR started, last LEASE sent, last renewal sent on a path that was up, last renewal received and its L, RELEASE
  frames still to send, last visible frame per network (R371-R375). -/
  start   : Nat
  sendAt  : Nat
  renewAt : Nat
  heard   : Option Nat
  pL      : Nat
  relLeft : Nat
  relEp   : Word
  visA    : Option Nat
  visB    : Option Nat
  /-- The partner's RESYNC_DONE, its last k, the verdict that it is UNFIT; consecutive cycles
  with a lag of at most 1 and the cycle last counted (R379, R380). -/
  pResync : Bool
  pK      : Nat
  pUnfit  : Bool
  okRun   : Nat
  okK     : Nat
  /-- Proof run: when it began and (after its resynchronisation) when TWIN began; comparisons, cycles; end of the last one; when a
  start was last refused (R378, R379). -/
  proof   : Option Nat
  proofAt : Option Nat
  compared : Nat
  firstK  : Nat
  lastEnd : Nat
  refused : Option Nat
  /-- When the lease was last taken (R377); the input block of the last snapshot part written, not yet taken by the library (R53); the
  cycle whose state differed and whose received region the library still has to adopt (R365); in TWIN, from a take to the next t0, the
  epoch at which the module still publishes as the non-holder it was (R376). -/
  takeAt  : Nat
  inBlk   : Option (List Word)
  adopt   : Option Nat
  cont    : Option Nat
  deriving DecidableEq, Repr

def pairReset : PairSt :=
  { dirty := [], pass := none, resync := false, strapB := false, helloTx := 0, helloRx := none, lostAt := 0, seq := 0, sent := [],
    seen := [], mirAck := 0, snap := [], snapK := 0, snapDone := true, snapStep := 0, miss := false, asmK := 0, asm := [],
    frame := none, stored := true, pages := [], slot := 0, hashOwn := none, hashRx := none, bodies := [], start := 0, sendAt := 0,
    renewAt := 0, heard := none, pL := 0, relLeft := 0, relEp := 0, visA := none, visB := none, pResync := false,
    pK := 0, pUnfit := false, okRun := 0, okK := 0, proof := none, proofAt := none, compared := 0, firstK := 0,
    lastEnd := 0, refused := none, takeAt := 0, inBlk := none, adopt := none, cont := none }

/-- A tracking channel beyond its registers (R187-R201). Accumulators and rates are binary64 encodings. -/
structure NbbCh where
  acc1  : Nat
  acc2  : Nat
  acc3  : Nat
  fCar  : Nat
  rCode : Nat
  /-- The FLL discriminator of the last update, which a follower uses (R194). -/
  ef    : Nat
  /-- The previous prompt, and the prompts of the last 20 updates. -/
  prev  : Int × Int
  hist  : List (Int × Int)
  /-- Consecutive updates: above the lock threshold, below it, below LOSS_CN0, |VE| and |VL| above |P|. -/
  up    : Nat
  down  : Nat
  loss  : Nat
  ve    : Nat
  vl    : Nat
  lockMs : Nat
  slip  : Bool
  bump  : Bool
  tow   : Bool
  half  : Bool
  aided : Bool
  /-- Its own reacquisition request is queued (R192). -/
  own   : Bool
  /-- STATE before COAST. -/
  back  : Nat
  /-- The millisecond count with TOW_SYNC, and milliseconds since PULLIN (R200, R201). -/
  ms    : Nat
  since : Nat
  adr   : Nat
  /-- Code phase at the last update or start, in half-chips from the last millisecond (R189, R198). -/
  phase : Int
  /-- What TOW writes add to the count at the next update, and the half cycles at the next epoch (R201). -/
  addMs : Nat
  addHalf : Nat
  /-- Time of the last update. -/
  last  : Nat
  /-- Doppler aid in use, its rate and its arrival time; one that has arrived since the last update (R193). -/
  aid   : Option (Word × Word × Nat)
  aidNew : Option (Word × Word × Nat)
  deriving DecidableEq, Repr

def nbbChIdle : NbbCh :=
  { acc1 := 0, acc2 := 0, acc3 := 0, fCar := 0, rCode := 0, ef := 0, prev := (0, 0), hist := [], up := 0, down := 0, loss := 0,
    ve := 0, vl := 0, lockMs := 0, slip := false, bump := false, tow := false, half := false, aided := false, own := false,
    back := 0, ms := 0, since := 0, adr := 0, phase := 0, addMs := 0, addHalf := 0, last := 0, aid := none, aidNew := none }

/-- A measurement epoch's latched records (R199, R200). -/
structure NbbEpoch where
  time  : Nat
  count : Nat
  nav   : Bool
  recs  : List (Nat × List Word)
  pub   : Bool
  blk   : Bool
  deriving DecidableEq, Repr

/-- A time model (R209): offset in 2^-40 ns, rate minus 1 in 2^-40, anchor in extended local ns. -/
structure TModel where
  ofs    : Int
  rate   : Int
  anchor : Int
  deriving DecidableEq, Repr

/-- The time model in force, its slew r(t) (value in 2^-40 ns and the local time it began), a step pending with its e and the
whole second it replaces, the scale, UNC and U0, the time of the last commit, the next whole second to mark and a PPS pulse in
progress (R209-R212). -/
structure NbbTime where
  model  : TModel
  r0     : Int
  rAt    : Int
  step   : Option (TModel × Int × Int)
  scale  : Nat
  unc    : Nat
  u0     : Nat
  commit : Nat
  next   : Int
  pulse  : Option Nat
  deriving DecidableEq, Repr

def nbbTimeReset : NbbTime := ⟨⟨0, 0, 0⟩, 0, 0, none, 0, 0, 0, 0, 0, none⟩

/-- The Navigation baseband beyond its registers. -/
structure NbbSt where
  ch     : SMap NbbCh
  /-- Acquisition requests (words, and whether a channel queued it itself) and the result FIFO. -/
  acq    : List (List Word × Bool)
  res    : List (List Word)
  events : Nat
  epochs : Nat
  ep     : Option NbbEpoch
  /-- Quiet references captured (none: factory), captures running (start, sums, samples) (R205); key 2 * antenna + band. -/
  quiet  : SMap (Option (Int × Int))
  cap    : SMap (Option (Nat × Int × Int × Nat))
  clip   : SMap Nat
  noLine : SMap (Option Nat)
  short  : SMap Bool
  time   : NbbTime
  deriving DecidableEq, Repr

def nbbReset : NbbSt :=
  { ch := [], acq := [], res := [], events := 0, epochs := 0, ep := none, quiet := [], cap := [], clip := [], noLine := [],
    short := [], time := nbbTimeReset }

/-- A learnt address of a switch: network, MAC address, port, time of the last frame from it (R323). -/
structure PlyAddr where
  net  : Nat
  mac  : Nat
  port : Nat
  at_  : Nat
  deriving DecidableEq, Repr

/-- A source's discard window: SeqNr values with the times of their acceptance, newest first (R329). -/
structure PlyWin where
  src  : Nat
  seqs : List (Nat × Nat)
  deriving DecidableEq, Repr

/-- A frame in an egress queue: its bytes, the descriptor in flight it belongs to, and its network. -/
structure PlyOut where
  f   : List Byte
  id  : Option Nat
  net : Nat
  deriving DecidableEq, Repr

/-- A descriptor taken from a transmit ring and not yet completed (R339): copies not yet sent, status where it is not SENT,
networks it was sent on and egress stamps. -/
structure PlyFlight where
  id    : Nat
  ring  : Nat
  addr  : Nat
  left  : Nat
  st    : Nat
  sentA : Bool
  sentB : Bool
  stA   : Nat
  stB   : Nat
  stamp : Bool
  deriving DecidableEq, Repr

/-- Ply beyond its registers: learnt addresses, discard windows (most recently used first), SeqNr counters (key: destination
+ 2^14 for a group), egress queues (key 4 * port + queue), the time until which a port sends, the node ID in force, the next
descriptor to take per ring, descriptors in flight, and the supervision frames. -/
structure PlySt where
  addrs  : List PlyAddr
  wins   : List PlyWin
  seq    : SMap Nat
  q      : SMap (List PlyOut)
  busy   : SMap Nat
  node   : Nat
  take   : SMap Nat
  flight : List PlyFlight
  nextId : Nat
  supAt  : Nat
  supSeq : Nat
  deriving DecidableEq, Repr

def plyReset : PlySt := ⟨[], [], [], [], [], 0, [], [], 0, 0, 0⟩

/-- A CAN controller beyond its registers: INIT waits for bus idle, the FIFO (19 words per entry), the locked window (64: the
FIFO head) and the frame held for it, the ACTIVE buffer with the time of its start of frame, and the buffers with a cancel
request (R346-R354). -/
structure CanSt where
  initPend : Bool
  fifo     : List (List Word)
  lock     : Option Nat
  held     : Option (List Word)
  active   : Option (Nat × Nat)
  cancel   : Bool
  deriving DecidableEq, Repr

def canIdle : CanSt := ⟨false, [], none, none, none, false⟩

/-- An alarm record (R416). -/
structure ReelAlarm where
  first : Nat
  key   : Nat
  data  : Word
  last  : Nat
  rep   : Nat
  arch  : Bool
  seq   : Nat
  deriving DecidableEq, Repr

/-- An entry of the Reel's queue (R418): a sample, an alarm, a clear, the captures of a flush and of a migration (with its reason),
and the marking of archived records. -/
inductive ReelEnt where
  | sample (hist : Bool) (i : Nat) (v : Word)
  | alarm (src sev code : Nat) (data : Word)
  | clear (what i : Nat)
  | flush
  | capture (reason : Nat) (ring : Bool)
  | mark (as : List ReelAlarm) (ring : Bool)
  deriving DecidableEq, Repr

/-- An archive record (R422): its sequence number, time of the capture, reason, the histograms and extremes, the alarms; while it waits,
whether it was captured for a clear of the alarm ring (R420). -/
structure ReelArch where
  seq    : Nat
  time   : Nat
  reason : Nat
  hx     : SMap Byte
  alarms : List ReelAlarm
  ring   : Bool
  deriving DecidableEq, Repr

/-- The Reel beyond its registers: header, histograms and extremes by buffer offset; the alarm ring, oldest first; the queue; fault
flush due; the times of the last flush, migration, run-time write, counter poll and merge; captures waiting for NAND; the archive;
the copy the cursor latched; the baselines of azimuth travel (count, CPR, input) and valve cycles; tenths of seconds of power-on time;
whether the buffer's supply was removed; up to when thruster run time is counted, and each thruster's rest below 1 ms. -/
structure ReelSt where
  buf     : SMap Byte
  alarms  : List ReelAlarm
  queue   : List ReelEnt
  fault   : Bool
  flushAt : Nat
  migAt   : Nat
  thrAt   : Nat
  stale   : Bool
  pollAt  : Nat
  mergeAt : Nat
  caps    : List ReelArch
  archive : List ReelArch
  cur     : Option (List Word)
  azBase  : SMap (Option (Int × Nat × Nat))
  swBase  : SMap (Option Nat)
  tenths  : Nat
  cold    : Bool
  runAt   : Nat
  runFrac : SMap Nat
  deriving DecidableEq, Repr

def reelReset : ReelSt :=
  { buf := [], alarms := [], queue := [], fault := false, flushAt := 0, migAt := 0, thrAt := 0, stale := true, pollAt := 0,
    mergeAt := 0, caps := [], archive := [], cur := none, azBase := [], swBase := [], tenths := 0, cold := true, runAt := 0,
    runFrac := [] }

/-- The field update engine beyond its registers: the NAND download record (header, bitmap, body, and how far the furnish got: 1
loading, 2 downloaded, 3 installing, 4 staged), a block submitted, whether a schedule stood, the record's commit word (R432). All but
the block outlast resets. -/
structure UpdSt where
  hdr   : Option (List Word)
  map_  : SMap Bool
  body  : SMap Byte
  stage : Nat
  block : Option (Nat × Nat)
  sched : Bool
  commit : Word
  deriving DecidableEq, Repr

def updReset : UpdSt := ⟨none, [], [], 0, none, false, 0⟩

/-- A panel update: rectangle, band, clear-unknown, each pixel's transition (x, y, old, new), COMP of each block (x / 8, y / 8), the
frames it lasts and the next frame (R447). -/
structure PnlUpd where
  rect  : Nat × Nat × Nat × Nat
  band  : Nat
  clear : Bool
  px    : List (Nat × Nat × Nat × Nat)
  comp  : SMap Nat
  len   : Nat
  total : Nat
  frame : Nat
  deriving DecidableEq, Repr

/-- The status panel driver beyond its registers: the running update, the rectangle of the request that waits, the unknown rectangle,
and the baseplate reading in the range with which the next update starts (R446). -/
structure PnlSt where
  upd     : Option PnlUpd
  req     : Option (Nat × Nat × Nat × Nat)
  unknown : Option (Nat × Nat × Nat × Nat)
  temp    : Option Int
  deriving DecidableEq, Repr

def pnlReset : PnlSt := ⟨none, none, none, none⟩

/-- A drive-tick loop of the module's own Press lanes: the set-points its approach has reached (rpm, pitch, azimuth in turns), whether
that approach was rate-limited on the last drive tick, its integrator and whether it was frozen on that tick (R48, R67). -/
structure DriveSt where
  rpm    : Word
  pitch  : Word
  az     : Word
  slow   : Bool
  integ  : Word
  frozen : Bool
  deriving DecidableEq, Repr

def driveIdle : DriveSt := ⟨0, 0, 0, false, 0, false⟩

/-- The station-keeping library (R40-R76): the positioning cycle k and the extended time of its t0, the parameters in force (the
input block as last taken), the active mode and what the output block reports, set-points (binary64) with the state of their ramps,
demands and integrators (binary32), the plan last received and the one that applies in this cycle, the configuration record in force
(R173), the estimate last used, calibrated latencies and last stamps of the serial ports (R241, R242), and O_PTP (R291). -/
structure LibSt where
  k        : Nat
  t0       : Nat
  input    : List Word
  reqSeq   : Nat
  result   : Nat
  mode     : Nat
  /-- The mode requested at this t0 and accepted: the control law engages it. -/
  engage   : Option Nat
  dbActive : Bool
  dbSince  : Nat
  ramping  : Bool
  trackEnd : Bool
  handover : Bool
  lost     : Bool
  badParam : Bool
  estStale : Bool
  lawOvr   : Bool
  staleRun : Nat
  sp       : List DWord
  ramp     : List DWord
  demand   : List Word
  achieved : List Word
  integ    : List Word
  clamp    : Nat
  frz      : Nat
  sat      : Nat
  thr      : Nat
  prevThr  : Nat
  remap    : Bool
  emptySet : Bool
  table    : List Word
  plan     : Option (List Word)
  applied  : List Word
  record   : List Word
  est      : List DWord
  lCal     : SMap Int
  stamp    : SMap (Option Int)
  /-- When the library borrowed each port's capture channel (R242), and the receive stamp of the last frame in Ply's ring (R221). -/
  serFrom  : SMap Nat
  plyStamp : Option Int
  wsRej    : Bool
  plStale  : Bool
  pubLate  : Bool
  pubAt    : Nat
  drops    : Nat
  outSeq   : Nat
  serStat  : Nat
  oPtp     : Int
  gm       : Bool
  /-- Stages whose compare event has come and which have not run: bits 0, 3 and 6 for the channels (R40). -/
  due      : Nat
  /-- The estimate of this cycle's first estimator step, where it has arrived in time (R44). -/
  estNew   : Option Msg
  /-- The waypoint that TRACK's set-point moves to (R58), and the table's address as sampled at t0 (R57). -/
  leg      : Nat
  trackPtr : Nat
  /-- The commands last published, three words a thruster, and whether all were zero thrust (R64, R68). -/
  cmd      : List Word
  zeroPub  : Bool
  /-- Cycles in a row without an overrun or a STALE allocation, at most 100 (R440). -/
  clean    : Nat
  drive    : SMap DriveSt
  /-- The arm slot that the library has disarmed for want of a configuration record (R173). -/
  unarmed  : Option Nat
  /-- A new record's state area is still to be cleared: no arm slot named one (R173). -/
  fresh    : Bool
  /-- The allocation problem of this cycle (R175), and whether the last survey's result is offered (R185). -/
  qp       : Option AllocQp
  offered  : Bool
  /-- After a takeover from WATCH: no cycle starts before the first t0 at or after this extended time (R377). -/
  startAt  : Option Nat
  deriving DecidableEq, Repr

def libReset : LibSt :=
  { k := 0, t0 := 0, input := [], reqSeq := 0, result := 0, mode := 0, engage := none, dbActive := false, dbSince := 0,
    ramping := false, trackEnd := false, handover := false, lost := false, badParam := false, estStale := false, lawOvr := false,
    staleRun := 0, sp := [], ramp := [], demand := [], achieved := [], integ := [], clamp := 0, frz := 0, sat := 0,
    thr := 0, prevThr := 0, remap := false, emptySet := false, table := [], plan := none, applied := [], record := [], est := [], lCal := [], stamp := [], serFrom := [], plyStamp := none, wsRej := false, plStale := false,
    pubLate := false, pubAt := 0, drops := 0, outSeq := 0, serStat := 0, oPtp := 0, gm := false,
    due := 0, estNew := none, leg := 0, trackPtr := 0, cmd := [], zeroPub := true, clean := 0, drive := [], unarmed := none, fresh := false, qp := none, offered := false, startAt := none }

/-- Why a command cannot be given a next state. -/
inductive Fault where
  /-- Raised by no command: every behaviour the spec describes is a next state. Kept so that the type is not empty. Safe. -/
  | unreachable
  deriving DecidableEq, Repr

/-- Why a command is refused. -/
inductive Refusal where
  /-- The command has no meaning yet. Raised by the dispatch alone. Safe. -/
  | notModelled (mnemonic : String)
  deriving DecidableEq, Repr

/-- The present instant, for the coincidences of R6: the registers as they stood when it began, less the bits that an event has set
again since and those that software has cleared since; the registers whose RW fields software has written in it; and the pulses that have
crossed in it (R406), by 64 * domain + line. -/
structure Inst where
  start : SMap Word
  sw    : List Nat
  pulses : SMap Nat
  deriving DecidableEq, Repr

/-- The state of one module. -/
structure State where
  /-- Commands waiting, first in, first out. -/
  pending : List Instr
  /-- Physical time in ns since the model's start. -/
  clk     : Nat
  /-- How many free values have been used (the model's own). -/
  freeIdx : Nat
  inst    : Inst
  resp    : Resp
  out     : List Out
  /-- Registers, by physical address. -/
  regs    : SMap Word
  cores   : SMap CoreSt
  dram    : SMap Byte
  /-- 4-byte words of DRAM, by number, that hold an uncorrectable error (R113). -/
  dramBad : SMap Bool
  mram    : SMap Byte
  ao      : SMap Byte
  nor     : SMap Byte
  felt    : FeltSt
  prs     : PrsSt
  tim     : TimSt
  tnd     : TndSt
  dkl     : DklSt
  fsn     : FsnSt
  cal     : CalSt
  pair    : PairSt
  nbb     : NbbSt
  hbx     : HbxSt
  enc     : SMap EncIn
  ply     : PlySt
  can     : SMap CanSt
  lib     : LibSt
  reel    : ReelSt
  upd     : UpdSt
  pnl     : PnlSt
  deriving DecidableEq, Repr

def feltReset : FeltSt := ⟨[], [], false, [], false⟩
def prsReset : PrsSt := ⟨[], [], [], []⟩
def timReset : TimSt := ⟨0, 0, none, none, 0, [], [], [], [], none, [], true⟩

/-- The always-on domain after a power-on reset, before its cold boot. -/
def tndReset : TndSt :=
  { rtcLo := 0, rtcPend := none, almLo := 0, almPend := none, twdgLast := none, twdgFrom := 0, mwdgFrom := 0, mwdgHalf := false,
    mwdgExp := none, sensOut := [], seq := 0, copied := 0, nandLog := [], lastSec := [], entry := none, wakeFrom := none,
    stalls := [], supply := .good, charged := false, cold := [], bootLog := none, bootDue := true, recovery := false, inRom := none, mem := [] }

def dklConnIdle : DklConn := ⟨none, 0, none, [], 0, 0, 0, 0, false, false, none, false, 0⟩
def dklTapIdle : DklTap := ⟨0, 0, 0, 0, 0, 0, none, false⟩

def dklReset : DklSt :=
  { scr := none, slot := none, accept := 0, cycIrq := false, token := 0, sample := 0, inRun := [], hist := [],
    diff := [], rstHigh := [], resetCmd := false, demand := 0, sw := 0, doFrom := [], envFrom := [], envActFrom := [], conns := [], txSeq := [],
    txLast := [], tap := [], step := 0, stepAt := 0, posEnd := 0, alarmOut := false, cutTest := [], offFrom := [], corr := 0,
    started := 0, mem := [] }

/-- The module right after a power-on reset: every register at its Reset column (R10), every domain OFF, memories listing
nothing, the Tender core at its start address and a cold boot due (R392). -/
def State.reset : State :=
  { pending := [], clk := 0, freeIdx := 0, inst := ⟨[], [], []⟩, resp := .idle, out := [], regs := [], cores := [], dram := [], dramBad := [], mram := [], ao := [],
    nor := [], felt := feltReset, prs := prsReset, tim := timReset, tnd := tndReset, dkl := dklReset, fsn := fsnReset, cal := calReset, pair := pairReset,
    nbb := nbbReset, hbx := hbxReset, enc := [], ply := plyReset, can := [], lib := libReset, reel := reelReset, upd := updReset,
    pnl := pnlReset }

end Sys2Proof.Machine
end

