-- ==== Sys2Proof/Machine/Ops.lean ====
section
/-! DEFINITION. Named operations over registers, memories, status bits, interrupts, time, the management log and domains. -/

namespace Sys2Proof.Machine

/-- What a meaning answers. -/
abbrev Out1 := Host.Outcome State Fault Refusal

/-! ### Registers -/

/-- The register at a physical address. -/
def State.rd (s : State) (a : Nat) : Word := sget resetOf s.regs a

/-- Set the register at a physical address. -/
def State.wr (s : State) (a : Nat) (v : Word) : State := { s with regs := sset resetOf s.regs a v }

/-- The field [hi:lo] of a number (R2). -/
def fget (w hi lo : Nat) : Nat := w / 2 ^ lo % 2 ^ (hi + 1 - lo)

/-- `w` with field [hi:lo] holding `v`, taken modulo the field's size. -/
def fset (w hi lo v : Nat) : Nat :=
  w - w / 2 ^ lo % 2 ^ (hi + 1 - lo) * 2 ^ lo + v % 2 ^ (hi + 1 - lo) * 2 ^ lo

/-- Bit `i` of a number. -/
def fbit (w i : Nat) : Bool := w / 2 ^ i % 2 == 1

/-- The number of a truth value. -/
def b2n (b : Bool) : Nat := if b then 1 else 0

def wbits (w : Word) (hi lo : Nat) : Nat := fget w.toNat hi lo
def wset (w : Word) (hi lo v : Nat) : Word := BitVec.ofNat 32 (fset w.toNat hi lo v)
def wbit (w : Word) (i : Nat) : Bool := fbit w.toNat i

/-- Read field [hi:lo] of the register at `a`. -/
def State.bits (s : State) (a hi lo : Nat) : Nat := wbits (s.rd a) hi lo

/-- Write field [hi:lo] of the register at `a`. -/
def State.setBits (s : State) (a hi lo v : Nat) : State := s.wr a (wset (s.rd a) hi lo v)

/-- Read bit `i` of the register at `a`. -/
def State.bit (s : State) (a i : Nat) : Bool := wbit (s.rd a) i

/-- Write bit `i` of the register at `a`. -/
def State.setBit (s : State) (a i : Nat) (b : Bool) : State := s.setBits a i i (if b then 1 else 0)

/-- An event sets bit `i` of the register at `a` again: it wins over a software clear of the same instant (R6). -/
def State.again (s : State) (a i : Nat) : State :=
  { s with inst := { s.inst with start := sset resetOf s.inst.start a (wset (sget resetOf s.inst.start a) i i 0) } }

/-- An event sets a W1C bit. -/
def State.flag (s : State) (a i : Nat) : State := (s.setBit a i true).again a i

/-- A hardware update of a bit of an RW field: a software write of the same instant wins, and the update is dropped until its next
occasion (R6). -/
def State.hwBit (s : State) (a i : Nat) (b : Bool) : State := if s.inst.sw.contains a then s else s.setBit a i b

/-- The register at `a` as it stood when this instant began (R6). -/
def State.atStart (s : State) (a : Nat) : Word := sget resetOf s.inst.start a

/-- Software clears bits of the register at `a`: what an event set in this instant stays, and stays again at a further clear. -/
def State.cleared (s : State) (a : Nat) (mask : Word) : State :=
  { s with inst := { s.inst with start := sset resetOf s.inst.start a (s.atStart a &&& ~~~mask) } }

/-- Software has written the RW fields of the register at `a` in this instant. -/
def State.wrote (s : State) (a : Nat) : State :=
  if s.inst.sw.contains a then s else { s with inst := { s.inst with sw := a :: s.inst.sw } }

/-- Set a register from a number, modulo 2^32. -/
def State.wrN (s : State) (a v : Nat) : State := s.wr a (BitVec.ofNat 32 v)

/-- Read a register as a number. -/
def State.rdN (s : State) (a : Nat) : Nat := (s.rd a).toNat

/-- Add to field [hi:lo], saturating at its largest value. -/
def State.addSat (s : State) (a hi lo n : Nat) : State :=
  s.setBits a hi lo (min (s.bits a hi lo + n) (2 ^ (hi + 1 - lo) - 1))

/-- Add to field [hi:lo], wrapping. -/
def State.addWrap (s : State) (a hi lo n : Nat) : State := s.setBits a hi lo (s.bits a hi lo + n)

/-- Two registers as a 64-bit value, least significant word at the lower address (R3). -/
def State.rd64 (s : State) (lo hi : Nat) : Nat := s.rdN lo + 2 ^ 32 * s.rdN hi

def State.wr64 (s : State) (lo hi v : Nat) : State := (s.wrN lo v).wrN hi (v / 2 ^ 32)

/-! ### Free values and output -/

/-- The next free word, and the state that has used it. -/
def State.free (s : State) : Word × State := (Config.freeWord s.freeIdx, { s with freeIdx := s.freeIdx + 1 })

/-- Use up one free value. -/
def State.used (s : State) : State := { s with freeIdx := s.freeIdx + 1 }

/-- Send something to the outside. -/
def State.emit (s : State) (o : Out) : State := { s with out := s.out ++ [o] }

/-! ### Domains (R16, R387) -/

/-- The domain is ON, out of reset and not contained. -/
def State.domOn (s : State) (n : Nat) : Bool :=
  s.bits (Reg.PWR_DC_STAT n) 3 0 == 3

def State.contained (s : State) (n : Nat) : Bool := s.bit (Reg.PWR_DC_STAT n) 3

/-- Do `f` if the domain is ON: a block without power or held in reset takes part in nothing. -/
def State.ifOn (s : State) (n : Nat) (f : State → State) : State := if s.domOn n then f s else s

/-- The domain of a block-window register (R16, R36); 14 for the always-on domain. -/
def regDomain (a : Nat) : Nat :=
  match a / 0x100000 with
  | 0x2001 | 0x2002 | 0x2006 | 0x2007 => 10
  | 0x2003 => 1 + (a % 0x100000) / 0x40000
  | 0x2004 => if 0x200401000 ≤ a ∧ a < 0x200401400 then 5 + (a - 0x200401000) / 0x100 else 5
  | 0x2005 => 9
  | 0x2008 | 0x2009 | 0x200a => 11
  | 0x200b => 13
  | 0x200c | 0x200d | 0x200e => 12
  | 0x2010 => 0
  | _ => 14

/-! ### Interrupts and status bits -/

/-- An edge on Mill interrupt source `n`: pending from now on; lost while DC0 is not ON (R116). -/
def State.raiseIrq (s : State) (n : Nat) : State :=
  if s.domOn 0 then s.flag (Reg.MILL_IRQ_PEND (n / 32)) (n % 32) else s

/-- Set a status bit; where it was clear and its enable bit is set, raise an edge on its source. -/
def State.setStat (s : State) (stat en src i : Nat) : State :=
  if s.bit stat i then s.again stat i
  else
    let s' := s.flag stat i
    if s.bit en i then s'.raiseIrq src else s'

/-- TIM_STAT: bits 0-2 on source 35, bit 6 on 36, bits 3, 4, 7 and 8 on 37. -/
def State.timStat (s : State) (i : Nat) : State :=
  s.setStat Reg.TIM_STAT Reg.TIM_IRQ_EN (if i ≤ 2 then 35 else if i = 6 then 36 else 37) i

/-- TND_STAT: bits 0, 1, 7, 8 on source 51, bits 2, 6 on 52, bits 3-5 on 53. -/
def State.tndStat (s : State) (i : Nat) : State :=
  s.setStat Reg.TND_STAT Reg.TND_IRQ_EN (if i = 2 ∨ i = 6 then 52 else if 3 ≤ i ∧ i ≤ 5 then 53 else 51) i

/-- A Tender event (R383). -/
def State.tpend (s : State) (i : Nat) : State := s.flag Reg.TND_TPEND i

/-! ### Memories: bytes, least significant first (R3) -/

/-- `n` bytes from `a` as a number. -/
def memRd (d : Nat → Byte) (m : SMap Byte) (a : Nat) : Nat → Nat
  | 0 => 0
  | n + 1 => (sget d m a).toNat + 256 * memRd d m (a + 1) n

/-- Store the low `n` bytes of `v` from `a`. -/
def memWr (d : Nat → Byte) (m : SMap Byte) (a : Nat) : Nat → Nat → SMap Byte
  | 0, _ => m
  | n + 1, v => memWr d (sset d m a (BitVec.ofNat 8 v)) (a + 1) n (v / 256)

/-- Memory that reads 0 where nothing was written. -/
def zeroByte (_ : Nat) : Byte := 0

/-- Erased NOR reads as all ones (R86). -/
def erasedByte (_ : Nat) : Byte := 0xFF

def rdz (m : SMap Byte) (a n : Nat) : Nat := memRd zeroByte m a n
def wrz (m : SMap Byte) (a n v : Nat) : SMap Byte := memWr zeroByte m a n v

/-- `n` consecutive 4-byte words from `a`. -/
def memWords (d : Nat → Byte) (m : SMap Byte) (a : Nat) : Nat → List Word
  | 0 => []
  | n + 1 => BitVec.ofNat 32 (memRd d m a 4) :: memWords d m (a + 4) n

/-- Store consecutive 4-byte words from `a`. -/
def memPut (d : Nat → Byte) (m : SMap Byte) (a : Nat) : List Word → SMap Byte
  | [] => m
  | w :: ws => memPut d (memWr d m a 4 w.toNat) (a + 4) ws

/-- `n` bytes from `a`. -/
def memBytes (d : Nat → Byte) (m : SMap Byte) (a : Nat) : Nat → List Byte
  | 0 => []
  | n + 1 => sget d m a :: memBytes d m (a + 1) n

/-- Store bytes from `a`. -/
def memPutBytes (d : Nat → Byte) (m : SMap Byte) (a : Nat) : List Byte → SMap Byte
  | [] => m
  | b :: bs => memPutBytes d (sset d m a b) (a + 1) bs

/-- Read a word of MRAM, always-on SRAM or DRAM at a byte offset. -/
def State.mramW (s : State) (o : Nat) : Nat := rdz s.mram o 4
def State.aoW (s : State) (o : Nat) : Nat := rdz s.ao o 4
def State.dramW (s : State) (o : Nat) : Nat := rdz s.dram o 4
def State.setMramW (s : State) (o v : Nat) : State := { s with mram := wrz s.mram o 4 v }
def State.setAoW (s : State) (o v : Nat) : State := { s with ao := wrz s.ao o 4 v }

/-- Does one of `n` bytes at a DRAM offset lie in a word that holds an uncorrectable error? -/
def State.damaged (s : State) (o n : Nat) : Bool :=
  (List.range ((o + n + 3) / 4 - o / 4)).any fun i => sget (fun _ => false) s.dramBad (o / 4 + i)

/-- Words written whole hold no error any more. -/
def State.mend (s : State) (o n : Nat) : State :=
  { s with dramBad := sdrop (fun k => decide (o ≤ 4 * k) && decide (4 * k + 4 ≤ o + n)) s.dramBad }

/-- The words of a value of `n` words, least significant first. -/
def wordsOf (v : Nat) : Nat → List Word
  | 0 => []
  | n + 1 => BitVec.ofNat 32 v :: wordsOf (v / 2 ^ 32) n

/-! ### Check codes (R468): reflected CRC-32 and CRC-32C -/

def crcBit (poly r : Nat) : Nat := if r % 2 = 1 then (r / 2) ^^^ poly else r / 2

def crcByte (poly r : Nat) (b : Byte) : Nat :=
  let r := r ^^^ b.toNat
  crcBit poly (crcBit poly (crcBit poly (crcBit poly (crcBit poly (crcBit poly (crcBit poly (crcBit poly r)))))))

/-- The register after a list of bytes. -/
def crcRun (poly : Nat) : Nat → List Byte → Nat
  | r, [] => r
  | r, b :: bs => crcRun poly (crcByte poly r b) bs

/-- CRC-32 (polynomial 0x04C1_1DB7): initial value, final inversion. -/
def crc32 (init : Nat) (inv : Bool) (bs : List Byte) : Nat :=
  let r := crcRun 0xEDB88320 init bs
  if inv then r ^^^ 0xFFFFFFFF else r

/-- CRC-32C (polynomial 0x1EDC_6F41): initial value, final inversion. -/
def crc32c (init : Nat) (inv : Bool) (bs : List Byte) : Nat :=
  let r := crcRun 0x82F63B78 init bs
  if inv then r ^^^ 0xFFFFFFFF else r

/-- The four bytes of each word, in memory order. -/
def wordBytes (ws : List Word) : List Byte :=
  ws.flatMap (fun w => [BitVec.ofNat 8 w.toNat, BitVec.ofNat 8 (w.toNat / 256), BitVec.ofNat 8 (w.toNat / 65536),
    BitVec.ofNat 8 (w.toNat / 16777216)])

/-! ### Time -/

/-- U = TIM_EXT_BASE + LAG (R277). -/
def State.extU (s : State) : Nat := (s.rdN Reg.TIM_EXT_BASE + s.bits Reg.TIM_EXT_STAT 15 8) % 2 ^ 32

/-- Extended local time, ns (R277). -/
def State.ext (s : State) : Nat := s.extU * 2 ^ 32 + s.rdN Reg.TIM_NOW

/-- RTC seconds, low 32 bits. -/
def State.rtcSec (s : State) : Nat := (s.rd64 Reg.TND_RTC_LO Reg.TND_RTC_HI) / 2 ^ 15 % 2 ^ 32

/-! ### The management log (R386, R469) -/

/-- Bytes 0-31 of a log record in the ring at offset 0x0_2000 of always-on SRAM. A record of FLUSH_SEV or higher makes a fault
flush of the Reel due (R421). -/
def State.logRec (s : State) (src sev code d0 d1 d2 : Nat) : State :=
  let i := s.bits Reg.TND_LOG_WR 8 0
  let a := 0x2000 + 32 * i
  let head := src + 256 * sev + 65536 * (code % 65536)
  let ws := [s.rd Reg.TND_RTC_LO, s.rd Reg.TND_RTC_HI, BitVec.ofNat 32 head, BitVec.ofNat 32 d0, BitVec.ofNat 32 d1,
    BitVec.ofNat 32 d2, BitVec.ofNat 32 s.tnd.seq, 0x106C0001]
  let due := decide (s.bits Reg.REEL_CFG 20 19 ≤ sev) && s.domOn 12
  { s with ao := memPut zeroByte s.ao a ws, tnd := { s.tnd with seq := s.tnd.seq + 1 },
           reel := { s.reel with fault := s.reel.fault || due } }.setBits Reg.TND_LOG_WR 8 0 (i + 1)

/-- A record of a source whose chapter gives codes alone (R386): severity and data words are free. -/
def State.logOwn (s : State) (src code : Nat) : State :=
  s.logRec src (Config.logSev src code).toNat code (Config.logData src code 0).toNat (Config.logData src code 1).toNat
    (Config.logData src code 2).toNat

/-- A record written at most once per domain and code in each second (R469: codes 5, 6, 10-13). -/
def State.logLimited (s : State) (src sev code d0 d1 d2 : Nat) : State :=
  let k := src * 16 + code
  if sget (fun _ => none) s.tnd.lastSec k = some s.rtcSec then s
  else
    { s with tnd := { s.tnd with lastSec := sset (fun _ => none) s.tnd.lastSec k (some s.rtcSec) } }.logRec src sev code d0 d1 d2

/-- A domain controller's report to the Tender (R383 bit 0) with its log record. -/
def State.dcReport (s : State) (n sev code d0 d1 d2 : Nat) : State :=
  (s.logRec (1 + n) sev code d0 d1 d2).tpend 0

def State.dcReportLimited (s : State) (n sev code d0 d1 d2 : Nat) : State :=
  (s.logLimited (1 + n) sev code d0 d1 d2).tpend 0

/-! ### Waking a domain -/

/-- A wake request for domain `n`: a contained domain is not woken (R22); an OFF or RETAIN domain starts WAKING. -/
def State.wake (s : State) (n : Nat) : State :=
  if s.contained n then s
  else if s.bits (Reg.PWR_DC_STAT n) 1 0 < 2 then s.setBits (Reg.PWR_DC_STAT n) 1 0 2 else s

/-! ### Stall log (R404) -/

/-- A bus error under R404: an entry of the stall log (cause 1 TIMEOUT, 2 CONTAINED, 3 NOWAKE). -/
def State.stallLog (s : State) (rq : Requester) (cause dom addr : Nat) : State :=
  let k := s.bits Reg.TND_STALL_WR 3 0
  let w0 := rq.num + 16 * cause + 256 * dom
  let s := (((s.wrN (Reg.TND_STALL_LOG k 0) w0).wrN (Reg.TND_STALL_LOG k 1) addr).wrN (Reg.TND_STALL_LOG k 2) (addr / 2 ^ 32)).wrN
    (Reg.TND_STALL_LOG k 3) s.rtcSec
  (((s.setBits Reg.TND_STALL_WR 3 0 (k + 1)).tndStat 1).tpend 5).logRec 0 1 1 w0 (addr % 2 ^ 32) (addr / 2 ^ 32)

/-! ### Cores -/

def State.core (s : State) (id : CoreId) : CoreSt := sget coreReset s.cores id.num
def State.setCore (s : State) (id : CoreId) (c : CoreSt) : State := { s with cores := sset coreReset s.cores id.num c }

/-- Register width in bits of the executing level (R77). -/
def coreWidth : CoreId → Nat
  | .mill _ => 64
  | _ => 32

end Sys2Proof.Machine
end

