-- ==== Sys2Proof/Machine/Trap.lean ====
section
/-! DEFINITION. Taking a trap and returning from one: one shared operation for every core (R111-R114, R131, R297). -/

namespace Sys2Proof.Machine

/-! ### State registers of a core -/

def CoreSt.srN (c : CoreSt) (n : Nat) : Nat := (sget srReset c.sr n).toNat
def CoreSt.setSr (c : CoreSt) (n v : Nat) : CoreSt := { c with sr := sset srReset c.sr n (BitVec.ofNat 64 v) }

/-- Field [hi:lo] of MSTATUS (R117). -/
def CoreSt.ms (c : CoreSt) (hi lo : Nat) : Nat := fget (c.srN 0x2000) hi lo
def CoreSt.setMs (c : CoreSt) (hi lo v : Nat) : CoreSt := c.setSr 0x2000 (fset (c.srN 0x2000) hi lo v)

/-- The current level (MSTATUS.LVL). -/
def CoreSt.level (c : CoreSt) : Nat := c.ms 1 0

/-! ### Cause codes (R113) -/

namespace Cause
abbrev illegal : Nat := 0
abbrev ialign : Nat := 1
abbrev ibus : Nat := 2
abbrev iperm : Nat := 3
abbrev fecc : Nat := 4
abbrev priv : Nat := 5
abbrev lalign : Nat := 6
abbrev salign : Nat := 7
abbrev lperm : Nat := 8
abbrev sperm : Nat := 9
abbrev lbus : Nat := 10
abbrev sbus : Nat := 11
abbrev lecc : Nat := 12
abbrev trapi : Nat := 13
abbrev brk : Nat := 14
end Cause

/-! ### Where the traps of the other levels end -/

/-- DKL_STAT: bits 0-6 on source 38, bits 7 and 8 on source 39. -/
def State.dklStat (s : State) (i : Nat) : State :=
  s.setStat Reg.DKL_STAT Reg.DKL_IRQ_EN (if i ≤ 6 then 38 else 39) i

/-- SAFE_FAULT (R294, R299, R318): safe outputs off, both cuts open in hardware, cause recorded and logged. -/
def State.safeFault (s : State) (cause : Nat) : State :=
  if s.bits Reg.DKL_STATE 1 0 = 2 then s
  else
    let s := (s.setBits Reg.DKL_STATE 1 0 2).setBits Reg.DKL_STATE 7 4 cause
    let s := (s.setBits Reg.DKL_IO_STAT 23 16 0).setBits Reg.DKL_IO_STAT 25 24 3
    { s.dklStat 7 with dkl := { s.dkl with alarmOut := false } }.logOwn 16 cause

/-- Set a lane's LANE_EVT bit; its change from 0 to 1 raises source 16 + n when enabled (PRS_Tn_IRQ_EN). -/
def State.laneEvt (s : State) (t l : Nat) : State :=
  s.setStat (Reg.PRS_T_STAT t) (Reg.PRS_T_IRQ_EN t) (16 + t) l

def prsTxOf (s : State) (t c : Nat) : PrsTx := sget (fun _ => prsTxEmpty) s.prs.tx (32 * t + c)
def State.setPrsTx (s : State) (t c : Nat) (x : PrsTx) : State :=
  { s with prs := { s.prs with tx := sset (fun _ => prsTxEmpty) s.prs.tx (32 * t + c) x } }

/-- Transmit channel `c` of tile `t` is enabled and belongs to lane `l` (R139). -/
def txOwned (s : State) (t l c : Nat) : Bool :=
  s.bits (Reg.PRS_T_TX_CFG t c) 3 0 == 8 + l

/-- Lane `l` has executed the PUB that stands on channel `c` of tile `t`, whoever owns the channel now (R133). -/
def pubBy (s : State) (t l c : Nat) : Bool := (prsTxOf s t c).len.isSome && (prsTxOf s t c).lane == l

/-- Discard every PUB a lane has executed since its last release (R130, R131). -/
def State.discardPubs (s : State) (t l : Nat) : State :=
  (List.range 32).foldl (fun s c =>
    if pubBy s t l c then s.setPrsTx t c { prsTxOf s t c with len := none, lane := 0 } else s) s

/-- A lane's period bookkeeping. -/
def laneOf (s : State) (t l : Nat) : LaneSt := sget (fun _ => laneIdle) s.prs.lane (8 * t + l)
def State.setLane (s : State) (t l : Nat) (x : LaneSt) : State :=
  { s with prs := { s.prs with lane := sset (fun _ => laneIdle) s.prs.lane (8 * t + l) x } }

/-- A trap on a Press lane (R131): latch, stop, discard, report; not a tile fault. -/
def State.laneTrap (s : State) (t : Fin 4) (l : Fin 8) (cause : Nat) (tval : Nat) : State :=
  let id := CoreId.lane t l
  let c := s.core id
  let s := s.setCore id { c with run := .trapped, pfx := none }
  let s := (s.setBits (Reg.PRS_T_L_STAT t l) 1 0 3).setBits (Reg.PRS_T_L_STAT t l) 11 8 cause
  let s := (s.wrN (Reg.PRS_T_L_PC t l) c.pc.toNat).wrN (Reg.PRS_T_L_TVAL t l) tval
  let s := (s.setBit (Reg.PRS_T_L_CTL t l) 0 false).setLane t l laneIdle
  let s := (s.discardPubs t l).laneEvt t l
  s.dcReport (1 + t) 2 7 l cause c.pc.toNat

/-! ### Trap entry -/

/-- Steps 1-7 of R111 on one core, for entry to level `x` (1 or 2): the trap entry clears the reservation (R101). FQ-T does not
implement MPLVL (R117): the field stays 0 there. -/
def CoreSt.enter (c : CoreSt) (id : CoreId) (x : Nat) (epc cause tval : Nat) : CoreSt :=
  let base := if x = 1 then 0x1000 else 0x2000
  let c := (c.setSr (base + 2) epc).setSr (base + 3) cause |>.setSr (base + 4) tval
  let c := if x = 1 then ((c.setMs 6 6 c.level).setMs 4 4 (c.ms 2 2)).setMs 2 2 0 |>.setMs 9 9 1
    else ((c.setMs 8 7 (if coreWidth id = 64 then c.level else 0)).setMs 5 5 (c.ms 3 3)).setMs 3 3 0 |>.setMs 10 10 1
  { c.setMs 1 0 x with pc := BitVec.ofNat 64 (c.srN (base + 1)), pfx := none, resv := none }

/-- The level a synchronous cause goes to (R112). -/
def CoreSt.trapLevel (c : CoreSt) (id : CoreId) (cause : Nat) : Nat :=
  match id with
  | .mill _ => if c.level < 2 ∧ fbit (c.srN 0x2008) cause ∧ c.ms 9 9 = 0 then 1 else 2
  | _ => 2

/-- A synchronous trap of a unit that has had no effect (R111-R114): on the Mill and the Tender trap entry or a double trap,
on a Press lane R131, on the Deckle core SAFE_FAULT at entry (R297). DESIGN CHOICE: on FQ-T the trap counts the 6 clock cycles of its entry
(R119) and none for the unit, which had no effect. -/
def State.takeTrap (s : State) (id : CoreId) (cause tval : Nat) : State :=
  let c := s.core id
  let x := c.trapLevel id cause
  match id with
  | .lane t l => s.laneTrap t l cause tval
  | .deckle =>
    let c' := c.enter id 2 c.pc.toNat cause tval
    (s.setCore id (c'.setSr 1 ((c'.srN 1 + 6) % 2 ^ 32))).safeFault 9
  | .tender =>
    if c.ms 10 10 = 1 then s.setCore id { c with run := .stopped, pfx := none, resv := none }
    else
      let c' := c.enter id 2 c.pc.toNat cause tval
      s.setCore id (c'.setSr 1 ((c'.srN 1 + 6) % 2 ^ 32))
  | .mill b =>
    if x = 2 ∧ c.ms 10 10 = 1 then
      (s.setCore id { c with run := .stopped, pfx := none, resv := none }).dcReport 0 3 9 (b2n b) cause (c.srN 0x2002 % 2 ^ 32)
    else s.setCore id (c.enter id x c.pc.toNat cause tval)

end Sys2Proof.Machine
end

