-- ==== Sys2Proof/Machine/Operands.lean ====
section
/-! DEFINITION. Instruction words, operand forms and the checks every Fliqua unit passes before it has an effect (R78-R86,
R110, R113, R119, R120). -/

namespace Sys2Proof.Machine

/-! ### Formats (R78): the first word of a unit, which an ILLEGAL or PRIV trap reports -/

def wordA (op : Nat) (d a b : BitVec 6) (fn : Nat) : Nat :=
  op * 2 ^ 26 + d.toNat * 2 ^ 20 + a.toNat * 2 ^ 14 + b.toNat * 2 ^ 8 + fn
def wordI (op : Nat) (d a : BitVec 6) (imm : BitVec 14) : Nat :=
  op * 2 ^ 26 + d.toNat * 2 ^ 20 + a.toNat * 2 ^ 14 + imm.toNat
def wordB (op : Nat) (cond : BitVec 4) (a b : BitVec 6) (off : BitVec 10) : Nat :=
  op * 2 ^ 26 + cond.toNat * 2 ^ 22 + a.toNat * 2 ^ 16 + b.toNat * 2 ^ 10 + off.toNat
def wordJ (op : Nat) (off : BitVec 26) : Nat := op * 2 ^ 26 + off.toNat

/-! ### Registers -/

/-- The highest register number a level implements, plus one (R77, R80). -/
def coreRegs : CoreId → Nat
  | .mill _ => 64
  | .lane _ _ => 32
  | _ => 16

/-- g0 reads as 0 at every level (R80). -/
def CoreSt.g (c : CoreSt) (r : BitVec 6) : DWord :=
  if r = 0 then 0 else sget (fun _ => 0) c.regs r.toNat

/-- Write a register, W bits wide; g0 discards writes (R80). -/
def CoreSt.setG (c : CoreSt) (w : Nat) (r : BitVec 6) (v : DWord) : CoreSt :=
  if r = 0 then c else { c with regs := sset (fun _ => 0) c.regs r.toNat (BitVec.ofNat 64 (v.toNat % 2 ^ w)) }

/-! ### Immediates (R81, R82) -/

/-- The sign-extended 14-bit or combined 40-bit immediate. -/
def CoreSt.immS (c : CoreSt) (imm : BitVec 14) : Int :=
  match c.pfx with
  | none => imm.toInt
  | some l => (BitVec.ofNat 40 (l.toNat * 2 ^ 14 + imm.toNat)).toInt

/-- The zero-extended immediate. -/
def CoreSt.immU (c : CoreSt) (imm : BitVec 14) : Nat :=
  match c.pfx with
  | none => imm.toNat
  | some l => l.toNat * 2 ^ 14 + imm.toNat

/-- The sign-extended 10-bit or combined 36-bit branch offset, in instructions. -/
def CoreSt.offB (c : CoreSt) (off : BitVec 10) : Int :=
  match c.pfx with
  | none => off.toInt
  | some l => (BitVec.ofNat 36 (l.toNat * 2 ^ 10 + off.toNat)).toInt

/-- Length of the unit: 4 bytes, 8 with a prefix (R85). -/
def CoreSt.unitLen (c : CoreSt) : Nat := if c.pfx = none then 4 else 8

/-! ### Fetch (R84, R92, R110) -/

/-- Is the physical or local address a place this core may fetch from? -/
def fetchable (id : CoreId) (a : Nat) : Bool :=
  match id with
  | .mill _ => decide (a < 0x40000) || (decide (0x800000000 ≤ a) && decide (a < 0x870000000))
  | .tender => decide (a < 0x8000) || (decide (0x10000 ≤ a) && decide (a < 0x30000))
  | .deckle => decide (a < 0x20000)
  | .lane _ _ => decide (a < 0x2000)

/-- The kinds of access a protection region grants: fetch, load, store. -/
inductive AccKind where
  | fetch | load | store
  deriving DecidableEq, Repr

/-- The bit of PRCFGn that grants a kind at a level (R117). -/
def AccKind.bit (k : AccKind) (lvl : Nat) : Nat :=
  (match k with | .load => 0 | .store => 1 | .fetch => 2) + 3 * lvl

/-- The lowest-numbered enabled region containing page `pg`, if any (R110). -/
def regionAt (c : CoreSt) (pg : Nat) : Option Nat :=
  (List.range 16).find? fun n =>
    let cfg := c.srN (0x2011 + 2 * n)
    fbit cfg 6 && decide (fget (c.srN (0x2010 + 2 * n)) 39 12 ≤ pg) && decide (pg ≤ fget cfg 39 12)

/-- May a Mill core at its current level make this access? The region decides; with none it is refused; level 2 is never checked. -/
def permitted (c : CoreSt) (k : AccKind) (a : Nat) : Bool :=
  c.level == 2 || (match regionAt c (fget a 39 12) with
    | some n => fbit (c.srN (0x2011 + 2 * n)) (k.bit c.level)
    | none => false)

/-- The fault of fetching the word at `a`, if any. An address in no enabled region raises IPERM and never IBUS (R110); else IBUS comes
first (R113). -/
def fetchFault (id : CoreId) (c : CoreSt) (a : Nat) : Option Nat :=
  match id with
  | .mill _ =>
    if c.level ≠ 2 ∧ regionAt c (fget a 39 12) = none then some Cause.iperm
    else if !fetchable id a then some Cause.ibus
    else if permitted c .fetch a then none else some Cause.iperm
  | _ => if fetchable id a then none else some Cause.ibus

/-- The fault of a fetch with what lies in memory: FECC where the word in DRAM holds an uncorrectable error (R113). -/
def State.fetchCause (s : State) (id : CoreId) (a : Nat) : Option Nat :=
  match fetchFault id (s.core id) a with
  | some x => some x
  | none => match id with
    | .mill _ => if 0x800000000 ≤ a ∧ s.damaged (a - 0x800000000) 4 then some Cause.fecc else none
    | _ => none

/-! ### Issuing a unit -/

/-- What the checks of R80, R83, R86 and R120 need to know of an instruction. -/
structure Insn where
  /-- Its word. -/
  word  : Nat
  /-- Assigned on FQ-T, FQ-P, FQ-M (R86). -/
  onT   : Bool
  onP   : Bool
  onM   : Bool
  /-- Fields that name registers (R79). -/
  regs  : List (BitVec 6)
  /-- An undefined selector or a must-be-zero field that is not 0 (R120). -/
  bad   : Bool
  /-- An L prefix may precede it (R82). -/
  pfxOk : Bool
  deriving DecidableEq, Repr

def Insn.onLevel (i : Insn) : CoreId → Bool
  | .mill _ => i.onM
  | .lane _ _ => i.onP
  | _ => i.onT

def Insn.illegal (i : Insn) (id : CoreId) (c : CoreSt) : Bool :=
  !i.onLevel id || i.bad || i.regs.any (fun r => decide (coreRegs id ≤ r.toNat)) || (!i.pfxOk && c.pfx.isSome)

/-- The first word of the unit: the L when one is pending. -/
def CoreSt.firstWord (c : CoreSt) (word : Nat) : Nat :=
  match c.pfx with
  | none => word
  | some l => 0x30 * 2 ^ 26 + l.toNat

/-- The address of the word being fetched: the successor word when a prefix is pending (R84). -/
def CoreSt.fetchAddr (c : CoreSt) : Nat := if c.pfx = none then c.pc.toNat else c.pc.toNat + 4

/-- Fetch and check a unit, then do `body`; a core that is not running executes nothing. -/
def State.issue (s : State) (id : CoreId) (i : Insn) (body : CoreSt → State) : State :=
  let c := s.core id
  if c.run ≠ .running then s
  else match s.fetchCause id c.fetchAddr with
    | some cause => s.takeTrap id cause c.fetchAddr
    | none => if i.illegal id c then s.takeTrap id Cause.illegal (c.firstWord i.word) else body c

/-- Clock cycles counted for a unit: the table of R119, one more for a prefix; on FQ-M a free number (R119). -/
def State.unitCycles (s : State) (id : CoreId) (c : CoreSt) (t p : Nat) : Nat :=
  match id with
  | .mill _ => Config.millCycles s.freeIdx
  | .lane _ _ => p + b2n c.pfx.isSome
  | _ => t + b2n c.pfx.isSome

/-- A unit retires: INSTRET and CYCLE advance, execution continues at `next`; `t` and `p` are its clock cycles on FQ-T and
FQ-P. A Press lane's registers show the unit address (PRS_Tn_Ll_PC) and its period counts the cycles (R151). -/
def State.retireTo (s : State) (id : CoreId) (c : CoreSt) (t p : Nat) (next : Nat) : State :=
  let n := s.unitCycles id c t p
  let w := (coreWidth id)
  let c' := (c.setSr 1 ((c.srN 1 + n) % 2 ^ w)).setSr 2 ((c.srN 2 + 1) % 2 ^ w)
  let s := s.setCore id { c' with pc := BitVec.ofNat 64 (next % 2 ^ w), pfx := none }
  match id with
  | .mill _ => s.used
  | .lane tl l =>
    let x := laneOf s tl l
    (s.wrN (Reg.PRS_T_L_PC tl l) next).setLane tl l { x with cycles := x.cycles + n }
  | _ => s

/-- Retire to the following unit. -/
def State.retire (s : State) (id : CoreId) (c : CoreSt) (t p : Nat) : State :=
  s.retireTo id c t p (c.pc.toNat + c.unitLen)

/-- Write `d` and retire. -/
def State.finish (s : State) (id : CoreId) (c : CoreSt) (t p : Nat) (d : BitVec 6) (v : DWord) : State :=
  s.retire id (c.setG (coreWidth id) d v) t p

end Sys2Proof.Machine
end

