-- ==== Sys2Proof/Machine/Alu.lean ====
section
/-! DEFINITION. Integer instructions of the ALU and ALUW opcodes (R87-R89). -/

namespace Sys2Proof.Machine

/-- An operation of any width, on the low W bits of two registers. -/
def apply2 (w : Nat) (f : (w : Nat) → BitVec w → BitVec w → BitVec w) (x y : DWord) : DWord :=
  (f w (x.setWidth w) (y.setWidth w)).setWidth 64

/-- An A-format instruction of the ALU opcode with function `fn`. -/
def aluInsn (fn : Nat) (d a b : BitVec 6) (mbz : Bool) : Insn :=
  { word := wordA 0x01 d a b fn, onT := true, onP := true, onM := true, regs := [d, a, b], bad := mbz, pfxOk := false }

/-- `d` receives `f a b`; `t`, `p` are the clock cycles of R119. -/
def alu2 (fn t p : Nat) (f : (w : Nat) → BitVec w → BitVec w → BitVec w) (c : CoreId) (d a b : BitVec 6) (s : State) : State :=
  s.issue c (aluInsn fn d a b false) fun k => s.finish c k t p d (apply2 (coreWidth c) f (k.g a) (k.g b))

/-- `d` receives `f a`; `b` must be g0. -/
def alu1 (fn : Nat) (f : (w : Nat) → BitVec w → BitVec w) (c : CoreId) (d a b : BitVec 6) (s : State) : State :=
  s.issue c (aluInsn fn d a b (b != 0)) fun k =>
    s.finish c k 1 1 d (apply2 (coreWidth c) (fun w x _ => f w x) (k.g a) 0)

/-! ### Values -/

/-- 1 or 0 as a W-bit value. -/
def flagW (w : Nat) (b : Bool) : BitVec w := BitVec.ofNat w (b2n b)

/-- High W bits of a product of integers. -/
def mulHigh (w : Nat) (x y : Int) : BitVec w := BitVec.ofInt w (x * y / 2 ^ w)

/-- Signed quotient, truncated towards zero; −1 for a zero divisor; the most negative value for its overflow (R88). -/
def divS (w : Nat) (x y : BitVec w) : BitVec w :=
  if y = 0 then BitVec.ofInt w (-1) else BitVec.ofInt w (Int.tdiv x.toInt y.toInt)

/-- Unsigned quotient; 2^W − 1 for a zero divisor. -/
def divU (w : Nat) (x y : BitVec w) : BitVec w :=
  if y = 0 then BitVec.ofInt w (-1) else BitVec.ofNat w (x.toNat / y.toNat)

/-- Signed remainder with the sign of a; a for a zero divisor. -/
def remS (w : Nat) (x y : BitVec w) : BitVec w :=
  if y = 0 then x else BitVec.ofInt w (Int.tmod x.toInt y.toInt)

/-- Unsigned remainder; a for a zero divisor. -/
def remU (w : Nat) (x y : BitVec w) : BitVec w :=
  if y = 0 then x else BitVec.ofNat w (x.toNat % y.toNat)

/-- Count of leading zero bits; W for 0. -/
def clzN (w : Nat) (x : BitVec w) : Nat := if x = 0 then w else w - 1 - x.toNat.log2

/-- Zeros below the lowest one bit, looking at `n` bits. -/
def ctzFrom (x : Nat) : Nat → Nat
  | 0 => 0
  | n + 1 => if x % 2 = 1 then 0 else 1 + ctzFrom (x / 2) n

/-- One bits among the low `n`. -/
def popFrom (x : Nat) : Nat → Nat
  | 0 => 0
  | n + 1 => x % 2 + popFrom (x / 2) n

/-- ADD, fn 0x00 (R87). -/
def execAdd (c : CoreId) (d a b : BitVec 6) (s : State) : Out1 :=
  .next (alu2 0x00 1 1 (fun _ x y => x + y) c d a b s)

/-- SUB, fn 0x01 (R87). -/
def execSub (c : CoreId) (d a b : BitVec 6) (s : State) : Out1 :=
  .next (alu2 0x01 1 1 (fun _ x y => x - y) c d a b s)

/-- AND, fn 0x02 (R87). -/
def execAnd (c : CoreId) (d a b : BitVec 6) (s : State) : Out1 :=
  .next (alu2 0x02 1 1 (fun _ x y => x &&& y) c d a b s)

/-- OR, fn 0x03 (R87). -/
def execOr (c : CoreId) (d a b : BitVec 6) (s : State) : Out1 :=
  .next (alu2 0x03 1 1 (fun _ x y => x ||| y) c d a b s)

/-- XOR, fn 0x04 (R87). -/
def execXor (c : CoreId) (d a b : BitVec 6) (s : State) : Out1 :=
  .next (alu2 0x04 1 1 (fun _ x y => x ^^^ y) c d a b s)

/-- ANDN, fn 0x05 (R87). -/
def execAndn (c : CoreId) (d a b : BitVec 6) (s : State) : Out1 :=
  .next (alu2 0x05 1 1 (fun _ x y => x &&& ~~~y) c d a b s)

/-- SHL, fn 0x06 (R87). -/
def execShl (c : CoreId) (d a b : BitVec 6) (s : State) : Out1 :=
  .next (alu2 0x06 1 1 (fun w x y => x <<< (y.toNat % w)) c d a b s)

/-- SHR, fn 0x07 (R87). -/
def execShr (c : CoreId) (d a b : BitVec 6) (s : State) : Out1 :=
  .next (alu2 0x07 1 1 (fun w x y => x >>> (y.toNat % w)) c d a b s)

/-- SRA, fn 0x08 (R87). -/
def execSra (c : CoreId) (d a b : BitVec 6) (s : State) : Out1 :=
  .next (alu2 0x08 1 1 (fun w x y => x.sshiftRight (y.toNat % w)) c d a b s)

/-- SLT, fn 0x09 (R87). -/
def execSlt (c : CoreId) (d a b : BitVec 6) (s : State) : Out1 :=
  .next (alu2 0x09 1 1 (fun w x y => flagW w (x.slt y)) c d a b s)

/-- SLTU, fn 0x0a (R87). -/
def execSltu (c : CoreId) (d a b : BitVec 6) (s : State) : Out1 :=
  .next (alu2 0x0a 1 1 (fun w x y => flagW w (x.ult y)) c d a b s)

/-- MIN, fn 0x0b (R87). -/
def execMin (c : CoreId) (d a b : BitVec 6) (s : State) : Out1 :=
  .next (alu2 0x0b 1 1 (fun _ x y => if x.slt y then x else y) c d a b s)

/-- MAX, fn 0x0c (R87). -/
def execMax (c : CoreId) (d a b : BitVec 6) (s : State) : Out1 :=
  .next (alu2 0x0c 1 1 (fun _ x y => if x.slt y then y else x) c d a b s)

/-- MINU, fn 0x0d (R87). -/
def execMinu (c : CoreId) (d a b : BitVec 6) (s : State) : Out1 :=
  .next (alu2 0x0d 1 1 (fun _ x y => if x.ult y then x else y) c d a b s)

/-- MAXU, fn 0x0e (R87). -/
def execMaxu (c : CoreId) (d a b : BitVec 6) (s : State) : Out1 :=
  .next (alu2 0x0e 1 1 (fun _ x y => if x.ult y then y else x) c d a b s)

/-- MUL, fn 0x10 (R87). -/
def execMul (c : CoreId) (d a b : BitVec 6) (s : State) : Out1 :=
  .next (alu2 0x10 4 1 (fun _ x y => x * y) c d a b s)

/-- MULH, fn 0x11 (R87). -/
def execMulh (c : CoreId) (d a b : BitVec 6) (s : State) : Out1 :=
  .next (alu2 0x11 4 1 (fun w x y => mulHigh w x.toInt y.toInt) c d a b s)

/-- MULHU, fn 0x12 (R87). -/
def execMulhu (c : CoreId) (d a b : BitVec 6) (s : State) : Out1 :=
  .next (alu2 0x12 4 1 (fun w x y => mulHigh w x.toNat y.toNat) c d a b s)

/-- MULHSU, fn 0x13 (R87). -/
def execMulhsu (c : CoreId) (d a b : BitVec 6) (s : State) : Out1 :=
  .next (alu2 0x13 4 1 (fun w x y => mulHigh w x.toInt y.toNat) c d a b s)

/-- DIV, fn 0x14 (R87, R88). -/
def execDiv (c : CoreId) (d a b : BitVec 6) (s : State) : Out1 :=
  .next (alu2 0x14 33 12 (divS) c d a b s)

/-- DIVU, fn 0x15 (R87, R88). -/
def execDivu (c : CoreId) (d a b : BitVec 6) (s : State) : Out1 :=
  .next (alu2 0x15 33 12 (divU) c d a b s)

/-- REM, fn 0x16 (R87, R88). -/
def execRem (c : CoreId) (d a b : BitVec 6) (s : State) : Out1 :=
  .next (alu2 0x16 33 12 (remS) c d a b s)

/-- REMU, fn 0x17 (R87, R88). -/
def execRemu (c : CoreId) (d a b : BitVec 6) (s : State) : Out1 :=
  .next (alu2 0x17 33 12 (remU) c d a b s)

/-- CMOV, fn 0x0f (R87): a if b is non-zero, otherwise d keeps its value. -/
def execCmov (c : CoreId) (d a b : BitVec 6) (s : State) : Out1 :=
  .next (s.issue c (aluInsn 0x0f d a b false) fun k =>
    s.finish c k 1 1 d (if (k.g b).toNat % 2 ^ coreWidth c = 0 then k.g d else k.g a))

/-- CLZ, fn 0x18 (R87). -/
def execClz (c : CoreId) (d a b : BitVec 6) (s : State) : Out1 :=
  .next (alu1 0x18 (fun w x => BitVec.ofNat w (clzN w x)) c d a b s)

/-- CTZ, fn 0x19 (R87). -/
def execCtz (c : CoreId) (d a b : BitVec 6) (s : State) : Out1 :=
  .next (alu1 0x19 (fun w x => BitVec.ofNat w (ctzFrom x.toNat w)) c d a b s)

/-- POPC, fn 0x1a (R87). -/
def execPopc (c : CoreId) (d a b : BitVec 6) (s : State) : Out1 :=
  .next (alu1 0x1a (fun w x => BitVec.ofNat w (popFrom x.toNat w)) c d a b s)

/-- The 32-bit operation ALUW selects; none for an fn it does not accept (R89). -/
def aluwFn (fn : Nat) : Option (BitVec 32 → BitVec 32 → BitVec 32) :=
  match fn with
  | 0x00 => some fun x y => x + y
  | 0x01 => some fun x y => x - y
  | 0x06 => some fun x y => x <<< (y.toNat % 32)
  | 0x07 => some fun x y => x >>> (y.toNat % 32)
  | 0x08 => some fun x y => x.sshiftRight (y.toNat % 32)
  | 0x10 => some fun x y => x * y
  | 0x14 => some (divS 32)
  | 0x15 => some (divU 32)
  | 0x16 => some (remS 32)
  | 0x17 => some (remU 32)
  | _ => none

/-- ALUW (R89): on the low words, the result sign-extended; FQ-M only. -/
def execAluw (c : CoreId) (d a b : BitVec 6) (fn : BitVec 8) (s : State) : Out1 :=
  .next (s.issue c { word := wordA 0x02 d a b fn.toNat, onT := false, onP := false, onM := true, regs := [d, a, b],
                     bad := (aluwFn fn.toNat).isNone, pfxOk := false } fun k =>
    match aluwFn fn.toNat with
    | none => s
    | some f => s.finish c k 1 1 d ((f ((k.g a).setWidth 32) ((k.g b).setWidth 32)).signExtend 64))

end Sys2Proof.Machine
end

