-- ==== Sys2Proof/Machine/Float.lean ====
section
/-! DEFINITION. IEEE 754-2019 binary32 and binary64 arithmetic, exactly (R95-R99): operands are decoded to a sign, a
mantissa and a power of two, results are computed exactly (or with a sticky bit) and rounded once. -/

namespace Sys2Proof.Machine

/-- A binary format: exponent bits and stored mantissa bits. -/
structure FFmt where
  eb : Nat
  mb : Nat
  deriving DecidableEq, Repr

def f32 : FFmt := ⟨8, 23⟩
def f64 : FFmt := ⟨11, 52⟩

/-- The exponent of the least significant bit of a subnormal. -/
def FFmt.emin (f : FFmt) : Int := 2 - 2 ^ (f.eb - 1) - f.mb
def FFmt.expMax (f : FFmt) : Nat := 2 ^ f.eb - 1
def FFmt.inf (f : FFmt) (sign : Bool) : Nat := b2n sign * 2 ^ (f.eb + f.mb) + f.expMax * 2 ^ f.mb
/-- The positive canonical quiet NaN (R97). -/
def FFmt.qnan (f : FFmt) : Nat := f.expMax * 2 ^ f.mb + 2 ^ (f.mb - 1)
def FFmt.zero (f : FFmt) (sign : Bool) : Nat := b2n sign * 2 ^ (f.eb + f.mb)
def FFmt.maxFinite (f : FFmt) (sign : Bool) : Nat := f.inf sign - 1

/-- A decoded operand; a finite value is (−1)^sign × m × 2^e. -/
inductive FVal where
  | nan (signalling : Bool)
  | inf (sign : Bool)
  | fin (sign : Bool) (m : Nat) (e : Int)
  deriving DecidableEq, Repr

def fpSign (f : FFmt) (x : Nat) : Bool := fbit x (f.eb + f.mb)
def fpMag (f : FFmt) (x : Nat) : Nat := x % 2 ^ (f.eb + f.mb)

def fpDecode (f : FFmt) (x : Nat) : FVal :=
  let sign := fpSign f x
  let ex := x / 2 ^ f.mb % 2 ^ f.eb
  let fr := x % 2 ^ f.mb
  if ex = f.expMax then (if fr = 0 then .inf sign else .nan (!fbit fr (f.mb - 1)))
  else if ex = 0 then .fin sign fr f.emin
  else .fin sign (fr + 2 ^ f.mb) (f.emin + (ex - 1 : Nat))

/-- Rounding directions: 0 nearest-even, 1 towards zero, 2 towards −∞, 3 towards +∞ (FPCSR.RM). -/
abbrev Rm := Nat

/-- Sticky flags of FPCSR: NX 1, UF 2, OF 4, DZ 8, NV 16 (R117). -/
abbrev Flags := Nat

/-- `m / 2^sh` rounded in a direction, and whether it was inexact. -/
def roundShift (rm : Rm) (sign : Bool) (m sh : Nat) : Nat × Bool :=
  let q := m / 2 ^ sh
  let r := m % 2 ^ sh
  let up := match rm with
    | 0 => decide (2 ^ sh < 2 * r) || (decide (2 * r = 2 ^ sh) && decide (q % 2 = 1))
    | 1 => false
    | 2 => sign && decide (r ≠ 0)
    | _ => !sign && decide (r ≠ 0)
  (if up then q + 1 else q, decide (r ≠ 0))

/-- m × 2^e rounded to a multiple of 2^q. -/
def roundAt (rm : Rm) (sign : Bool) (m : Nat) (e q : Int) : Nat × Bool :=
  if q ≤ e then (m * 2 ^ (e - q).toNat, false) else roundShift rm sign m (q - e).toNat

/-- Round a non-zero exact value (a set lowest bit may stand for anything below it, given two bits more than the format's)
and encode it. Tininess is detected after rounding (R97). -/
def fpRound (f : FFmt) (rm : Rm) (sign : Bool) (m : Nat) (e : Int) : Nat × Flags :=
  let p := f.mb + 1
  let q0 : Int := e + (m.log2 + 1 : Nat) - p
  let q := max q0 f.emin
  let (r, inexact) := roundAt rm sign m e q
  let (r0, _) := roundAt rm sign m e q0
  let tiny := decide (q0 < f.emin) && decide (r0 < 2 ^ (f.emin + f.mb - q0).toNat)
  let code := if r < 2 ^ f.mb then r else (q - f.emin + 1).toNat * 2 ^ f.mb + (r - 2 ^ f.mb)
  if f.expMax * 2 ^ f.mb ≤ code then
    let toInf := rm = 0 ∨ (rm = 2 ∧ sign) ∨ (rm = 3 ∧ !sign)
    (if toInf then f.inf sign else f.maxFinite sign, 5)
  else (f.zero sign + code, b2n inexact + 2 * b2n (tiny && inexact))

/-- Round a value that may be 0; an exact zero takes `zsign`. -/
def fpRoundZ (f : FFmt) (rm : Rm) (v : Int) (e : Int) (zsign : Bool) : Nat × Flags :=
  if v = 0 then (f.zero zsign, 0) else fpRound f rm (decide (v < 0)) v.natAbs e

/-- The signed mantissa at exponent `e'` ≤ `e`. -/
def scaled (sign : Bool) (m : Nat) (e e' : Int) : Int :=
  let v : Int := m * 2 ^ (e - e').toNat
  if sign then -v else v

def anySnan : List FVal → Bool
  | [] => false
  | .nan true :: _ => true
  | _ :: vs => anySnan vs

/-- A NaN result: canonical, NV when an operand is a signalling NaN (R97, R98). -/
def nanOf (f : FFmt) (vs : List FVal) : Nat × Flags := (f.qnan, if anySnan vs then 16 else 0)

/-- Sum of two decoded values. -/
def addV (f : FFmt) (rm : Rm) (a b : FVal) : Nat × Flags :=
  match a, b with
  | .inf s, .inf t => if s = t then (f.inf s, 0) else (f.qnan, 16)
  | .inf s, .fin _ _ _ => (f.inf s, 0)
  | .fin _ _ _, .inf t => (f.inf t, 0)
  | .fin s m e, .fin t n g =>
    let q := min e g
    fpRoundZ f rm (scaled s m e q + scaled t n g q) q (if m = 0 ∧ n = 0 ∧ s = t then s else rm == 2)
  | _, _ => nanOf f [a, b]

def negV : FVal → FVal
  | .inf s => .inf (!s)
  | .fin s m e => .fin (!s) m e
  | v => v

def fpAdd (f : FFmt) (rm : Rm) (x y : Nat) : Nat × Flags := addV f rm (fpDecode f x) (fpDecode f y)
def fpSub (f : FFmt) (rm : Rm) (x y : Nat) : Nat × Flags := addV f rm (fpDecode f x) (negV (fpDecode f y))

def fpMul (f : FFmt) (rm : Rm) (x y : Nat) : Nat × Flags :=
  match fpDecode f x, fpDecode f y with
  | .inf s, .inf t => (f.inf (s != t), 0)
  | .inf s, .fin t n _ => if n = 0 then (f.qnan, 16) else (f.inf (s != t), 0)
  | .fin s m _, .inf t => if m = 0 then (f.qnan, 16) else (f.inf (s != t), 0)
  | .fin s m e, .fin t n g => fpRoundZ f rm (scaled (s != t) (m * n) 0 0) (e + g) (s != t)
  | a, b => nanOf f [a, b]

def fpDiv (f : FFmt) (rm : Rm) (x y : Nat) : Nat × Flags :=
  match fpDecode f x, fpDecode f y with
  | .inf _, .inf _ => (f.qnan, 16)
  | .inf s, .fin t _ _ => (f.inf (s != t), 0)
  | .fin s _ _, .inf t => (f.zero (s != t), 0)
  | .fin s m e, .fin t n g =>
    if n = 0 then (if m = 0 then (f.qnan, 16) else (f.inf (s != t), 8))
    else if m = 0 then (f.zero (s != t), 0)
    else
      let k := f.mb + 4 + (n.log2 + 1)
      let q := m * 2 ^ k / n
      let sticky := if m * 2 ^ k % n = 0 then 0 else 1
      fpRound f rm (s != t) (2 * q + sticky) (e - g - k - 1)
  | a, b => nanOf f [a, b]

/-- Integer square root, from `i` bits down. -/
def isqrtFrom (x : Nat) : Nat → Nat → Nat
  | 0, r => r
  | i + 1, r => isqrtFrom x i (if (r + 2 ^ i) * (r + 2 ^ i) ≤ x then r + 2 ^ i else r)

def isqrt (x : Nat) : Nat := isqrtFrom x (x.log2 / 2 + 1) 0

def fpSqrt (f : FFmt) (rm : Rm) (x : Nat) : Nat × Flags :=
  match fpDecode f x with
  | .nan b => nanOf f [.nan b]
  | .inf s => if s then (f.qnan, 16) else (f.inf false, 0)
  | .fin s m e =>
    if m = 0 then (f.zero s, 0)
    else if s then (f.qnan, 16)
    else
      let k0 := 2 * (f.mb + 4)
      let k := if (e - k0) % 2 = 0 then k0 else k0 + 1
      let r := isqrt (m * 2 ^ k)
      let sticky := if r * r = m * 2 ^ k then 0 else 1
      fpRound f rm false (2 * r + sticky) ((e - k) / 2 - 1)

/-- d ± a × b, rounded once; 0 × ∞ is invalid whatever d is (R96, R98). -/
def fpFma (f : FFmt) (rm : Rm) (neg : Bool) (d x y : Nat) : Nat × Flags :=
  let dv := fpDecode f d
  let a := fpDecode f x
  let b := fpDecode f y
  match a, b with
  | .nan _, _ => nanOf f [dv, a, b]
  | _, .nan _ => nanOf f [dv, a, b]
  | .inf s, .inf t => match dv with
    | .nan _ => nanOf f [dv]
    | v => addV f rm v (.inf ((s != t) != neg))
  | .inf s, .fin t n _ => if n = 0 then (f.qnan, 16) else match dv with
    | .nan _ => nanOf f [dv]
    | v => addV f rm v (.inf ((s != t) != neg))
  | .fin s m _, .inf t => if m = 0 then (f.qnan, 16) else match dv with
    | .nan _ => nanOf f [dv]
    | v => addV f rm v (.inf ((s != t) != neg))
  | .fin s m e, .fin t n g => addV f rm dv (.fin ((s != t) != neg) (m * n) (e + g))

def isNan (f : FFmt) (x : Nat) : Bool := decide (f.expMax * 2 ^ f.mb < fpMag f x)

/-- A total order key of a non-NaN encoding, −0 below +0. -/
def fpKey (f : FFmt) (x : Nat) : Int := if fpSign f x then -(fpMag f x : Int) - 1 else fpMag f x

/-- x < y as values, no flags; false with a NaN. −0 equals +0. -/
def fpLtB (f : FFmt) (x y : Nat) : Bool :=
  !isNan f x && !isNan f y && !(fpMag f x == 0 && fpMag f y == 0) && decide (fpKey f x < fpKey f y)
def fpEqB (f : FFmt) (x y : Nat) : Bool :=
  !isNan f x && !isNan f y && ((fpMag f x == 0 && fpMag f y == 0) || fpKey f x == fpKey f y)
def fpLeB (f : FFmt) (x y : Nat) : Bool := fpLtB f x y || fpEqB f x y

def snanFlag (f : FFmt) (xs : List Nat) : Flags := if anySnan (xs.map (fpDecode f)) then 16 else 0
def nanFlag (f : FFmt) (x y : Nat) : Flags := if isNan f x || isNan f y then 16 else 0

/-- FMIN and FMAX (R98). -/
def fpMinMax (f : FFmt) (mx : Bool) (x y : Nat) : Nat × Flags :=
  let fl := snanFlag f [x, y]
  if isNan f x then (if isNan f y then f.qnan else y, fl)
  else if isNan f y then (x, fl)
  else (if decide (fpKey f x < fpKey f y) != mx then x else y, fl)

/-! ### Conversions (R99) -/

/-- A finite value rounded to an integer, and whether that was inexact. -/
def roundInt (rm : Rm) (s : Bool) (m : Nat) (e : Int) : Int × Bool :=
  let (n, ix) := roundAt rm s m e 0
  (if s then -(n : Int) else n, ix)

/-- Float to an integer in [lo, hi]. -/
def fpToInt (f : FFmt) (rm : Rm) (lo hi : Int) (x : Nat) : Int × Flags :=
  match fpDecode f x with
  | .nan _ => (0, 16)
  | .inf s => (if s then lo else hi, 16)
  | .fin s m e =>
    let (n, ix) := roundInt rm s m e
    if n < lo then (lo, 16) else if hi < n then (hi, 16) else (n, b2n ix)

def fpOfInt (f : FFmt) (rm : Rm) (v : Int) : Nat × Flags := fpRoundZ f rm v 0 false

/-- From one precision to another. -/
def fpCast (src dst : FFmt) (rm : Rm) (x : Nat) : Nat × Flags :=
  match fpDecode src x with
  | .nan b => (dst.qnan, if b then 16 else 0)
  | .inf s => (dst.inf s, 0)
  | .fin s m e => fpRoundZ dst rm (scaled s m 0 0) e s

/-- FCLASS: a one-hot mask (R99). -/
def fpClass (f : FFmt) (x : Nat) : Nat :=
  match fpDecode f x with
  | .nan b => if b then 0x100 else 0x200
  | .inf s => if s then 0x001 else 0x080
  | .fin s m _ =>
    if m = 0 then (if s then 0x008 else 0x010)
    else if m < 2 ^ f.mb then (if s then 0x004 else 0x020)
    else (if s then 0x002 else 0x040)

end Sys2Proof.Machine
end

