-- ==== Sys2Proof/Machine/Flags.lean ====
section
/-! DEFINITION. FPCSR: the sticky flags and the rounding direction (R95, R97, R117), and QSAT (R149). -/

namespace Sys2Proof.Machine

/-- OR sticky flags into FPCSR. -/
def CoreSt.orFlags (c : CoreSt) (fl : Flags) : CoreSt := c.setSr 0 (c.srN 0 ||| fl)

/-- The rounding direction an RM field selects: 0 dynamic, 1-4 the four directions (R95). -/
def CoreSt.rm (c : CoreSt) (rm : BitVec 3) : Rm := if rm = 0 then fget (c.srN 0) 6 5 else rm.toNat - 1

/-- QSAT, held in PRS_Tn_Ll_STAT and in the lane status word as the same bit (R149). -/
def State.setQsat (s : State) (t l : Nat) (b : Bool) : State :=
  if b then s.flag (Reg.PRS_T_L_STAT t l) 3 else s

end Sys2Proof.Machine
end

