-- ==== Sys2Proof/Machine/Sys.lean ====
section
/-! DEFINITION. System instructions, state registers, events and interrupts (R100-R118). -/

namespace Sys2Proof.Machine

/-! ### Interrupt lines -/

/-- The presented source on a Mill core's line of level 1 (`lv` = 0) or 2 (`lv` = 1): among the pending, enabled sources routed
there, the highest PRIO, the lower number breaking a tie (R116). -/
def millLineFrom (s : State) (core1 : Bool) (lv : Nat) : List Nat → Option (Nat × Nat) → Option (Nat × Nat)
  | [], best => best
  | n :: ns, best =>
    let r := s.rdN (Reg.MILL_IRQ_ROUTE n)
    let here := s.bit (Reg.MILL_IRQ_PEND (n / 32)) (n % 32) && fbit r 0 && fbit r 1 == core1 && fget r 2 2 == lv
    let pr := fget r 6 3
    let best' := if !here then best else match best with
      | none => some (n, pr)
      | some (m, p) => if p < pr then some (n, pr) else some (m, p)
    millLineFrom s core1 lv ns best'

def millLine (s : State) (core1 : Bool) (lv : Nat) : Option Nat :=
  (millLineFrom s core1 lv (List.range 128) none).map (·.1)

/-- The Tender's MEI line (R383); the Deckle's is its cycle timer (R297). -/
def tenderLine (s : State) : Bool := (s.rdN Reg.TND_TPEND &&& s.rdN Reg.TND_TIRQ_EN) != 0

/-- MIP (R117): bit 0 SEI, bit 1 MEI pending. -/
def mip (s : State) : CoreId → Nat
  | .mill b => b2n (millLine s b 0).isSome + 2 * b2n (millLine s b 1).isSome
  | .tender => 2 * b2n (tenderLine s)
  | .deckle => 2 * b2n s.dkl.cycIrq
  | .lane _ _ => 0

/-! ### State registers (R106, R109, R117) -/

/-- Is the number implemented at this level? -/
def srExists (c : CoreId) (n : Nat) : Bool :=
  match c with
  | .mill _ => n ≤ 3 || (0x1000 ≤ n && n ≤ 0x1005) || (0x2000 ≤ n && n ≤ 0x2008) || (0x2010 ≤ n && n ≤ 0x202F)
  | .lane _ _ => n ≤ 3
  | _ => (1 ≤ n && n ≤ 3) || (0x2000 ≤ n && n ≤ 0x2007)

/-- CYCLE, INSTRET, CORE_ID and MIP are read-only. -/
def srReadOnly (n : Nat) : Bool := n == 1 || n == 2 || n == 3 || n == 0x2007

/-- The bits a write can change. -/
def srMask (c : CoreId) (n : Nat) : Nat :=
  let mill := coreWidth c == 64
  if n = 0 then 0x7F
  else if n = 0x1001 ∨ n = 0x1002 ∨ n = 0x2001 ∨ n = 0x2002 then 2 ^ 64 - 4
  else if n = 0x2000 then (if mill then 0xFFC else 0x428)
  else if n = 0x2006 then (if mill then 3 else 2)
  else if 0x2010 ≤ n then (if n % 2 = 0 then 0xFFFFFFF000 else 0xFFFFFFF0FF)
  else 2 ^ 64 - 1

/-- MSTATUS bits that SSTATUS shows: SIE, SPIE, SPLVL, STRAP. -/
def sstatusMask : Nat := 0x254

def srRead (s : State) (c : CoreId) (k : CoreSt) (n : Nat) : Nat :=
  if n = 3 then c.num
  else if n = 0x1000 then k.srN 0x2000 &&& sstatusMask
  else if n = 0x2007 then mip s c
  else if n = 0x2000 ∧ coreWidth c = 32 then k.srN n &&& 0x42B
  else k.srN n

/-- Replace the bits under `mask`. -/
def maskIn (old v mask : Nat) : Nat := (old &&& (2 ^ 64 - 1 - mask)) ||| (v &&& mask)

/-- Write a state register; MPLVL 3 leaves MPLVL as it is; a locked region ignores writes (R110). -/
def CoreSt.srWrite (k : CoreSt) (c : CoreId) (n v : Nat) : CoreSt :=
  if n = 0x1000 then k.setSr 0x2000 (maskIn (k.srN 0x2000) v sstatusMask)
  else if n = 0x2000 then
    let m := if fget v 8 7 = 3 then 0x180 else 0
    k.setSr n (maskIn (k.srN n) v (srMask c n - (m &&& srMask c n)))
  else if 0x2010 ≤ n ∧ fbit (k.srN (n / 2 * 2 + 1)) 7 then k
  else k.setSr n (maskIn (k.srN n) v (srMask c n))

/-- GETS, PUTS, SSET, SCLR: no prefix; SSET and SCLR not on FQ-P (R86). -/
def srInsn (op : Nat) (c : CoreId) (d a : BitVec 6) (imm : BitVec 14) (onP writes mbz : Bool) : Insn :=
  { word := wordI op d a imm, onT := true, onP := onP, onM := true, regs := [d, a],
    bad := mbz || !srExists c imm.toNat || (writes && srReadOnly imm.toNat), pfxOk := false }

/-- A state-register access: PRIV above the current level (R106), then `body`. -/
def srOp (s : State) (c : CoreId) (i : Insn) (n : Nat) (body : CoreSt → State) : State :=
  s.issue c i fun k =>
    if coreWidth c = 64 ∧ k.level < n / 4096 then s.takeTrap c Cause.priv i.word else body k

/-- GETS, opcode 0x28. -/
def execGets (c : CoreId) (d a : BitVec 6) (imm : BitVec 14) (s : State) : Out1 :=
  .next (srOp s c (srInsn 0x28 c d a imm true false (a != 0)) imm.toNat fun k =>
    s.finish c k 2 1 d (BitVec.ofNat 64 (srRead s c k imm.toNat)))

/-- PUTS, opcode 0x29. -/
def execPuts (c : CoreId) (d a : BitVec 6) (imm : BitVec 14) (s : State) : Out1 :=
  .next (srOp s c (srInsn 0x29 c d a imm true true (d != 0)) imm.toNat fun k =>
    s.retire c (k.srWrite c imm.toNat (k.g a).toNat) 2 1)

/-- SSET, opcode 0x2a: d ← sr, then sr ← sr OR a. -/
def execSset (c : CoreId) (d a : BitVec 6) (imm : BitVec 14) (s : State) : Out1 :=
  .next (srOp s c (srInsn 0x2A c d a imm false true false) imm.toNat fun k =>
    let v := srRead s c k imm.toNat
    s.finish c (k.srWrite c imm.toNat (v ||| (k.g a).toNat)) 2 1 d (BitVec.ofNat 64 v))

/-- SCLR, opcode 0x2b: d ← sr, then sr ← sr AND NOT a. -/
def execSclr (c : CoreId) (d a : BitVec 6) (imm : BitVec 14) (s : State) : Out1 :=
  .next (srOp s c (srInsn 0x2B c d a imm false true false) imm.toNat fun k =>
    let v := srRead s c k imm.toNat
    s.finish c (k.srWrite c imm.toNat (v &&& (2 ^ 64 - 1 - (k.g a).toNat))) 2 1 d (BitVec.ofNat 64 v))

/-- TRAP, opcode 0x2c: raises TRAPI with the immediate as trap value; d and a must be 0 (R105). -/
def execTrap (c : CoreId) (d a : BitVec 6) (imm : BitVec 14) (s : State) : Out1 :=
  .next (s.issue c { word := wordI 0x2C d a imm, onT := true, onP := false, onM := true, regs := [d, a],
                     bad := d != 0 || a != 0, pfxOk := false } fun _ => s.takeTrap c Cause.trapi imm.toNat)

/-! ### SYS (R105) -/

def sysInsn (fn : Nat) (d a b : BitVec 6) (onT onP mbz : Bool) : Insn :=
  { word := wordA 0x2D d a b fn, onT := onT, onP := onP, onM := true, regs := [d, a, b], bad := mbz, pfxOk := false }

def noOperands (d a b : BitVec 6) : Bool := d != 0 || a != 0 || b != 0

/-- FENCE (R104): in a model whose agents perform every access in the order issued, it only retires. -/
def execFence (c : CoreId) (d a b : BitVec 6) (s : State) : Out1 :=
  .next (s.issue c (sysInsn 0x00 d a b true true (noOperands d a b)) fun k => s.retire c k 1 1)

/-- FENCE.I (R104): FQ-M only. -/
def execFenceI (c : CoreId) (d a b : BitVec 6) (s : State) : Out1 :=
  .next (s.issue c (sysInsn 0x01 d a b false false (noOperands d a b)) fun k => s.retire c k 1 1)

/-- Clock cycles of a core in a stretch of physical time (Mill 1 GHz, Tender 48 MHz, Deckle 25 MHz, lanes 800 MHz). -/
def cyclesIn (c : CoreId) (ns : Nat) : Nat :=
  match c with
  | .mill _ => ns
  | .tender => ns * 48 / 1000
  | .deckle => ns * 25 / 1000
  | .lane _ _ => ns * 8 / 10

/-- The wake conditions that hold (R107, R108): bit 0 event (Mill), bit 1 interrupt, bit 2 timeout. -/
def wakeMask (s : State) (c : CoreId) (k : CoreSt) (since timeout : Nat) : Nat :=
  b2n (coreWidth c == 64 && k.evt) + 2 * b2n ((mip s c &&& k.srN 0x2006) != 0)
    + 4 * b2n (timeout != 0 && decide (timeout ≤ cyclesIn c (s.clk - since)))

/-- A WAIT completes: d receives the mask, the event latch clears, and w clock cycles have passed (R107, R119). -/
def completeWait (s : State) (c : CoreId) (k : CoreSt) (d : BitVec 6) (w mask : Nat) : State :=
  s.finish c { k with run := .running, evt := false } (1 + w) (1 + w) d (BitVec.ofNat 64 mask)

/-- WAIT, SYS fn 0x02 (R107, R108). PRIV under MSTATUS.TW at levels 0 and 1; ILLEGAL on FQ-P. -/
def execWait (c : CoreId) (d a b : BitVec 6) (s : State) : Out1 :=
  .next (s.issue c (sysInsn 0x02 d a b true false (b != 0)) fun k =>
    if coreWidth c = 64 ∧ k.level < 2 ∧ k.ms 11 11 = 1 then s.takeTrap c Cause.priv (wordA 0x2D d a b 0x02)
    else
      let tmo := (k.g a).toNat
      let m := wakeMask s c k s.clk tmo
      if m ≠ 0 then completeWait s c k d 0 m else s.setCore c { k with run := .waiting d s.clk tmo })

/-- A wake condition ends a WAIT (R107); with none holding, the core stays suspended. The cycles waited are at most the timeout (R119). -/
def execWaitWake (c : CoreId) (s : State) : Out1 :=
  let k := s.core c
  match k.run with
  | .waiting d since tmo =>
    let m := wakeMask s c k since tmo
    let w := cyclesIn c (s.clk - since)
    .next (if m = 0 then s else completeWait s c k d (if tmo = 0 then w else min w tmo) m)
  | _ => .next s

/-- Set a core's event latch. -/
def State.setEvt (s : State) (c : CoreId) : State := s.setCore c { s.core c with evt := true }

/-- SEV, SYS fn 0x03: both Mill event latches; no effect on FQ-T (R105). -/
def execSev (c : CoreId) (d a b : BitVec 6) (s : State) : Out1 :=
  .next (s.issue c (sysInsn 0x03 d a b true false (noOperands d a b)) fun k =>
    let s' := s.retire c k 1 1
    if coreWidth c = 64 then (s'.setEvt (.mill false)).setEvt (.mill true) else s')

/-- What RTE restores at level `x` (R111). -/
def CoreSt.leave (k : CoreSt) (x : Nat) : CoreSt :=
  let k := if x = 1 then ((k.setMs 2 2 (k.ms 4 4)).setMs 9 9 0).setMs 1 0 (k.ms 6 6)
    else ((k.setMs 3 3 (k.ms 5 5)).setMs 10 10 0).setMs 1 0 (k.ms 8 7)
  { k with resv := none }

/-- RTE, SYS fn 0x04 (R111): PRIV at level 0; on FQ-T the one level is 2. -/
def execRte (c : CoreId) (d a b : BitVec 6) (s : State) : Out1 :=
  .next (s.issue c (sysInsn 0x04 d a b true false (noOperands d a b)) fun k =>
    if k.level = 0 then s.takeTrap c Cause.priv (wordA 0x2D d a b 0x04)
    else
      let epc := k.srN (if k.level = 1 then 0x1002 else 0x2002)
      let k' := k.leave k.level
      s.retireTo c (if coreWidth c = 64 then k' else k'.setMs 1 0 2) 1 1 epc)

/-- BREAK, SYS fn 0x05: raises BREAK with trap value 0 (R105, R113). -/
def execBrk (c : CoreId) (d a b : BitVec 6) (s : State) : Out1 :=
  .next (s.issue c (sysInsn 0x05 d a b true false (noOperands d a b)) fun _ => s.takeTrap c Cause.brk 0)

/-! ### Interrupts (R111, R116, R117) -/

/-- The interrupt a core takes now: the level it enters and the source number. Level 2 is taken first; one bound for level 1 while STRAP
is set goes to level 2 (R112). -/
def takeable (s : State) (c : CoreId) (k : CoreSt) : Option (Nat × Nat) :=
  let sei := fun (m : Nat) => if fbit (k.srN 0x2006) 0 ∧ (k.level = 0 ∨ (k.level = 1 ∧ k.ms 2 2 = 1)) then
    some (if k.ms 9 9 = 1 then 2 else 1, m) else none
  match c with
  | .mill b =>
    match millLine s b 1, millLine s b 0 with
    | some n, o =>
      if fbit (k.srN 0x2006) 1 ∧ (k.level < 2 ∨ k.ms 3 3 = 1) then some (2, n)
      else match o with
        | some m => sei m
        | none => none
    | none, some m => sei m
    | none, none => none
  | .lane _ _ => none
  | c => if mip s c ≠ 0 ∧ fbit (k.srN 0x2006) 1 ∧ k.ms 3 3 = 1 then some (2, 0) else none

/-- An enabled pending interrupt is taken before the next unit, never between an L and its successor (R84, R111). -/
def execInterruptEntry (c : CoreId) (s : State) : Out1 :=
  let k := s.core c
  if k.run ≠ .running ∨ k.pfx.isSome then .next s
  else match takeable s c k with
    | none => .next s
    | some (x, n) =>
      let k' := k.enter c x k.pc.toNat (2 ^ (coreWidth c - 1)) n
      let k' := if coreWidth c = 64 then k' else k'.setSr 1 ((k'.srN 1 + 6) % 2 ^ 32)
      let s := s.setCore c k'
      .next (if c = .deckle then { s with dkl := { s.dkl with cycIrq := false } } else s)

/-- A rising edge on a source (R116). -/
def execIrqSourceEdge (src : Fin 128) (s : State) : Out1 := .next (s.raiseIrq src.val)

/-- MILL_IRQ_SWI: REQ126 and REQ127 raise edges on sources 126 and 127 (R116). -/
def State.swi (s : State) (v : Nat) : State :=
  let s := if fbit v 0 then s.raiseIrq 126 else s
  if fbit v 1 then s.raiseIrq 127 else s

def execSwiRequest (req : BitVec 2) (s : State) : Out1 := .next (s.swi req.toNat)

/-- The access of a core that waits for a domain, if any, is given up. -/
def State.dropStalls (s : State) (c : CoreId) : State :=
  { s with tnd := { s.tnd with stalls := s.tnd.stalls.filter fun x =>
      match x.op with | .load n .. => n != c.num | .store n .. => n != c.num | _ => true } }

/-- A lockstep mismatch stops the logical core, with the access it waited for, and is reported (R115). -/
def execLockstepMismatch (core1 : Bool) (s : State) : Out1 :=
  let c := CoreId.mill core1
  let k := s.core c
  .next (if k.run = .held ∨ k.run = .stopped then s
    else ((s.setCore c { k with run := .stopped, pfx := none, resv := none }).dropStalls c).dcReport 0 3 8 (b2n core1) 0 0)

/-! ### Reservations (R101) -/

/-- A write to the granule of `a` by an agent other than core `c` clears core `c`'s reservation and sets its event latch. -/
def State.clearResv (s : State) (c : CoreId) (a : Nat) : State :=
  let k := s.core c
  if k.resv = some (a / 64) then s.setCore c { k with resv := none, evt := true } else s

/-- The reservations that a write at physical address `a` by `agent` (none: a Felt station or DMA) clears. -/
def State.resvWrite (s : State) (agent : Option CoreId) (a : Nat) : State :=
  let s := if agent = some (.mill false) then s else s.clearResv (.mill false) a
  if agent = some (.mill true) then s else s.clearResv (.mill true) a

def execReservationClear (agent : CoreId) (viaDma : Bool) (addr : BitVec 40) (s : State) : Out1 :=
  .next (s.resvWrite (if viaDma then none else some agent) addr.toNat)

end Sys2Proof.Machine
end

