-- ==== Sys2Proof/Machine/Mem.lean ====
section
/-! DEFINITION. Writes of DRAM: every writer clears other agents' reservations (R101) and marks mirror-store pages dirty (R367). -/

namespace Sys2Proof.Machine

/-- Physical base and size of DRAM (R36). -/
def dramBase : Nat := 0x800000000
def dramSize : Nat := 0x70000000

/-- Mark the mirror-store page that physical address `a` falls in (R367); PAIR observes while DC11 is ON. -/
def State.markDirty (s : State) (a : Nat) : State :=
  let base := s.rd64 Reg.PAIR_MST_BASE_LO Reg.PAIR_MST_BASE_HI
  if !s.domOn 11 ∨ a < base ∨ base + 0x4000000 ≤ a then s
  else
    let pg := (a - base) / 4096
    if sget (fun _ => false) s.pair.dirty pg then s
    else ({ s with pair := { s.pair with dirty := sset (fun _ => false) s.pair.dirty pg true } }).addSat Reg.PAIR_MST_DIRTY 15 0 1

/-- What the writing of `n` bytes at DRAM offset `o` does besides the bytes: granule by granule. -/
def State.dramTouch (s : State) (agent : Option CoreId) (o n : Nat) : State :=
  (List.range ((o + n + 63) / 64 - o / 64)).foldl (fun s i =>
    let a := dramBase + (o / 64 + i) * 64
    (s.resvWrite agent a).markDirty a) s

/-- Write words at a DRAM offset. -/
def State.dramPut (s : State) (agent : Option CoreId) (o : Nat) (ws : List Word) : State :=
  ({ s with dram := memPut zeroByte s.dram o ws }.mend o (4 * ws.length)).dramTouch agent o (4 * ws.length)

/-- Write the low `n` bytes of `v` at a DRAM offset. -/
def State.dramWr (s : State) (agent : Option CoreId) (o n v : Nat) : State :=
  ({ s with dram := wrz s.dram o n v }.mend o n).dramTouch agent o n

/-- Words of DRAM at a physical address. -/
def State.dramWords (s : State) (a n : Nat) : List Word := memWords zeroByte s.dram (a - dramBase) n

/-- Is [a, a + n) within DRAM? -/
def inDram (a n : Nat) : Bool := decide (dramBase ≤ a) && decide (a + n ≤ dramBase + dramSize)

/-- Words written at a physical address, where it lies in DRAM and DC0 is ON. -/
def State.dmaPut (s : State) (a : Nat) (ws : List Word) : State :=
  if inDram a (4 * ws.length) ∧ s.domOn 0 then s.dramPut none (a - dramBase) ws else s

/-! ### Two copies, of which the newer valid one is in force -/

/-- Serial comparison (R333): is e newer than h? -/
def serialNewer (e h : Nat) : Bool := let d := (e + 2 ^ 32 - h) % 2 ^ 32; decide (1 ≤ d) && decide (d < 2 ^ 31)

/-- Of two copies (offset, size, commit word) the valid one with the newer SEQ; the commit word lies in the word before the last. -/
def copyInForce (m : SMap Byte) (a b size commit : Nat) : Option Nat :=
  let ok := fun o => rdz m (o + size - 8) 4 == commit && rdz m (o + 4) 4 == rdz m (o + size - 4) 4
  let seq := fun o => rdz m (o + 4) 4
  if ok a && ok b then some (if serialNewer (seq b) (seq a) then b else a)
  else if ok a then some a else if ok b then some b else none

/-- The free copy. -/
def copyFree (f : Option Nat) (a b : Nat) : Nat := if f = some a then b else a

/-- User calibration banks (R409): the bank in force. -/
def bankAt (i : Nat) : Nat := 0x4000 + 0x10000 * i
def bankForce (s : State) : Option Nat := copyInForce s.mram (bankAt 0) (bankAt 1) 0x10000 0xCA1B0001

end Sys2Proof.Machine
end

