-- ==== Sys2Proof/Machine/Tim.lean ====
section
/-! DEFINITION. The time base: local and extended time, corrections, compare and capture channels (R275-R287). What a
compare event does at its destinations is in Compare.lean; the tick itself is completed in Tick.lean. -/

namespace Sys2Proof.Machine

def State.modTim (s : State) (f : TimSt → TimSt) : State := { s with tim := f s.tim }

/-- LAG and TIM_EXT_W (R277). -/
def State.lag (s : State) : Nat := s.bits Reg.TIM_EXT_STAT 15 8
def State.extW (s : State) : Nat := s.bits Reg.TIM_EXT_STAT 7 0

/-! ### Wraps -/

/-- A forward wrap: WRAPS and LAG advance, WRAP is set; LAG holds at 255, and reaching it sets EXT_STALE. The wraps beyond are kept
in `excess` until a fold makes room for them. -/
def State.wrapFwd (s : State) : State :=
  let s := (s.addWrap Reg.TIM_WRAPS 7 0 1).ifOn 10 fun s => s.timStat 0
  if s.lag = 255 then s.modTim fun t => { t with excess := t.excess + 1 }
  else
    let s := s.setBits Reg.TIM_EXT_STAT 15 8 (s.lag + 1)
    if s.lag = 255 then s.ifOn 10 fun s => s.timStat 2 else s

/-- A backward crossing: U falls by 1, taken from LAG, else from TIM_EXT_BASE with TIM_EXT_W and WRAPS; WRAP_BACK (R280). -/
def State.wrapBack (s : State) : State :=
  let s := if 0 < s.tim.excess then
      (s.addWrap Reg.TIM_WRAPS 7 0 255).modTim fun t => { t with excess := t.excess - 1 }
    else if 0 < s.lag then s.setBits Reg.TIM_EXT_STAT 15 8 (s.lag - 1) |>.setBits Reg.TIM_WRAPS 7 0 (s.bits Reg.TIM_WRAPS 7 0 + 255)
    else ((s.wrN Reg.TIM_EXT_BASE (s.rdN Reg.TIM_EXT_BASE + 2 ^ 32 - 1)).setBits Reg.TIM_EXT_STAT 7 0 (s.extW + 255)).setBits
      Reg.TIM_WRAPS 7 0 (s.bits Reg.TIM_WRAPS 7 0 + 255)
  s.ifOn 10 fun s => s.timStat 1

/-- A fold of n, at most LAG: U does not change, but for the wraps that LAG could not hold and that the fold makes room for
(R277). -/
def State.applyFold (s : State) : State :=
  let n := min s.tim.pFold s.lag
  let left := s.lag - n + s.tim.excess
  let s := s.modTim fun t => { t with pFold := 0 }
  if n = 0 then s
  else (((s.wrN Reg.TIM_EXT_BASE (s.rdN Reg.TIM_EXT_BASE + n)).setBits Reg.TIM_EXT_STAT 7 0 (s.extW + n)).setBits
    Reg.TIM_EXT_STAT 15 8 (min 255 left)).modTim fun t => { t with excess := left - 255 }

/-- Add the increment in 8.24 fixed point; carries of the 24-bit accumulator enter NOW (R275). -/
def State.addInc (s : State) : State :=
  let acc := s.tim.frac + s.rdN Reg.TIM_INC
  let now := s.rdN Reg.TIM_NOW + acc / 2 ^ 24
  let s := (s.modTim fun t => { t with frac := acc % 2 ^ 24 }).wrN Reg.TIM_NOW now
  if 2 ^ 32 ≤ now then s.wrapFwd else s

/-- Add a signed offset to extended time once (R280). -/
def State.addOfs (s : State) (v : Word) : State :=
  let now : Int := s.rdN Reg.TIM_NOW + v.toInt
  let s := (s.wr Reg.TIM_NOW (BitVec.ofInt 32 now)).modTim fun t => { t with pOfs := none }
  let s := s.setBit Reg.TIM_STAT 5 false
  if 2 ^ 32 ≤ now then s.wrapFwd else if now < 0 then s.wrapBack else s

/-- A new increment takes effect; the accumulator is kept (R279). -/
def State.applyInc (s : State) : State :=
  match s.tim.pInc with
  | none => s
  | some v => (s.wr Reg.TIM_INC v).modTim fun t => { t with pInc := none }

/-- Something waits for the tick boundary: an increment, an offset or a fold (R281). -/
def timPending (s : State) : Bool := s.tim.pInc.isSome || s.tim.pOfs.isSome || s.tim.pFold != 0

/-- Local time over one tick boundary: fold, increment, offset (R277, R281). -/
def State.advanceNow (s : State) : State :=
  let s := (s.applyFold.applyInc).addInc
  match s.tim.pOfs with
  | some v => s.addOfs v
  | none => s

/-- NOW wraps forward at the next tick. -/
def wrapsNext (s : State) : Bool :=
  let inc := match s.tim.pInc with | some v => v.toNat | none => s.rdN Reg.TIM_INC
  decide (2 ^ 32 ≤ s.rdN Reg.TIM_NOW + (s.tim.frac + inc) / 2 ^ 24)

/-! ### Compare channels (R282, R283) -/

def cmpTgt (s : State) (k : Nat) : Nat := s.rd64 (Reg.TIM_CMP_TGT_LO k) (Reg.TIM_CMP_TGT_HI k)

/-- An enabled channel whose target extended time has reached. -/
def cmpDue (s : State) (k : Nat) : Bool := s.bit (Reg.TIM_CMP_CFG k) 0 && decide (cmpTgt s k ≤ s.ext)

/-- A shadowed target pair takes effect. -/
def State.applyTgt (s : State) (k : Nat) : State :=
  match sget (fun _ => none) s.tim.pTgt k with
  | none => s
  | some v => (s.wr64 (Reg.TIM_CMP_TGT_LO k) (Reg.TIM_CMP_TGT_HI k) v.toNat).modTim fun t =>
      { t with pTgt := sset (fun _ => none) t.pTgt k none }

/-- At a tick every shadowed pair takes effect, except on a channel that matches on this tick: there after the match. -/
def State.applyTgts (s : State) : State :=
  (List.range 16).foldl (fun s k => if cmpDue s k then s else s.applyTgt k) s

/-- PERIOD values of 1-999 are taken as 1,000 ns. -/
def cmpPeriod (s : State) (k : Nat) : Nat :=
  let p := s.rdN (Reg.TIM_CMP_PERIOD k)
  if p = 0 then 0 else max p 1000

/-- After an event the channel ends or its target advances; each further period skipped counts in MISSED (R282). -/
def State.cmpAdvance (s : State) (k : Nat) : State :=
  let s := s.addWrap (Reg.TIM_CMP_CNT k) 15 0 1
  let p := cmpPeriod s k
  let s :=
    if p = 0 then s.hwBit (Reg.TIM_CMP_CFG k) 0 false
    else
      let t := cmpTgt s k + p
      let n := if t ≤ s.ext then (s.ext - t) / p + 1 else 0
      let s' := s.wr64 (Reg.TIM_CMP_TGT_LO k) (Reg.TIM_CMP_TGT_HI k) ((t + n * p) % 2 ^ 64)
      if n = 0 then s' else (s'.addSat (Reg.TIM_CMP_CNT k) 31 16 n).timStat 6
  s.applyTgt k

/-- Writing TGT_HI schedules the pair for the next tick. -/
def State.cmpTarget (s : State) (k : Nat) (hi : Word) : State :=
  let lo := sget (fun _ => 0) s.tim.tgtLo k
  s.modTim fun t => { t with pTgt := sset (fun _ => none) t.pTgt k (some (BitVec.ofNat 64 (hi.toNat * 2 ^ 32 + lo.toNat))) }

def execCmpTargetWrite (k : Fin 16) (hi : Word) (s : State) : Out1 := .next (s.ifOn 10 fun s => s.cmpTarget k.val hi)

/-- A write of TGT_LO goes to the shadow. -/
def State.cmpTargetLo (s : State) (k : Nat) (lo : Word) : State :=
  s.modTim fun t => { t with tgtLo := sset (fun _ => 0) t.tgtLo k lo }

/-! ### TM0 and TM1 (R284) -/

/-- Channels 14 and 15 drive TM0 and TM1 while enabled; an event during a pulse restarts it. -/
def State.tmEvent (s : State) (k : Nat) : State :=
  if k < 14 ∨ !s.bit (Reg.TIM_TM_CFG (k - 14)) 0 then s
  else (s.modTim fun t => { t with tm := sset (fun _ => none) t.tm (k - 14) (some s.clk) }).emit (.tm (k - 14) true)

/-- The pulse lasts WIDTH ns, rounded up to whole ticks. -/
def tmEnd (n : Nat) (s : State) : State :=
  match sget (fun _ => none) s.tim.tm n with
  | none => s
  | some t0 =>
    if s.clk - t0 < (s.bits (Reg.TIM_TM_CFG n) 31 2 + 7) / 8 * 8 then s
    else (s.modTim fun t => { t with tm := sset (fun _ => none) t.tm n none }).emit (.tm n false)

def execTmPulseEnd (n : Fin 2) (s : State) : Out1 := .next (s.ifOn 10 (tmEnd n.val))

/-! ### Corrections -/

/-- TIM_INC (R279): outside 0x07F0_0000 to 0x0810_0000 refused with INC_REJ. -/
def timIncWrite (v : Word) (s : State) : State :=
  if v.toNat < 0x07F00000 ∨ 0x08100000 < v.toNat then s.timStat 3 else s.modTim fun t => { t with pInc := some v }

def execTimIncWrite (v : Word) (s : State) : Out1 := .next (s.ifOn 10 (timIncWrite v))

/-- The extended time of the next tick without an offset: an offset adds to it on that tick (R281). -/
def nextExt (s : State) : Nat := ((s.modTim fun t => { t with pOfs := none }).advanceNow).ext

/-- TIM_OFFSET (R280): refused with OFS_REJ above 10^9 ns, while one is pending, or where extended time would be negative on the
tick that adds it. -/
def timOfsWrite (v : Word) (s : State) : State :=
  if 1000000000 < v.toInt.natAbs ∨ s.bit Reg.TIM_STAT 5 ∨ (nextExt s : Int) + v.toInt < 0 then s.timStat 4
  else (s.modTim fun t => { t with pOfs := some v }).setBit Reg.TIM_STAT 5 true

def execTimOffsetWrite (v : Word) (s : State) : Out1 := .next (s.ifOn 10 (timOfsWrite v))

/-- TIM_EXT_FOLD (R277): writes before one boundary add together. -/
def timFold (n : Nat) (s : State) : State := s.modTim fun t => { t with pFold := t.pFold + n % 256 }

def execExtFold (n : Byte) (s : State) : Out1 := .next (s.ifOn 10 (timFold n.toNat))

/-! ### Snapshots and captures -/

/-- The bus answers with a value. -/
def State.answer (s : State) (v : Nat) : State := { s with resp := .data (BitVec.ofNat 64 v) }

/-- Reading TIM_SNAPr_LO (R278). -/
def timSnap (r : Nat) (s : State) : State :=
  (((s.wr (Reg.TIM_SNAP_LO r) (s.rd Reg.TIM_NOW)).wrN (Reg.TIM_SNAP_HI r) s.extU).wrN (Reg.TIM_SNAP_W r)
    (s.bits Reg.TIM_WRAPS 7 0 + 256 * s.lag)).answer (s.rdN Reg.TIM_NOW)

def execSnapshotRead (r : Fin 3) (s : State) : Out1 := .next (s.ifOn 10 (timSnap r.val))

/-- Where a capture channel's stamp lies; 8 is PPS_IN. -/
def capLo (k : Nat) : Nat := if k = 8 then Reg.TIM_PPSIN_TIME_LO else Reg.TIM_CAP_TIME_LO k
def capHi (k : Nat) : Nat := if k = 8 then Reg.TIM_PPSIN_TIME_HI else Reg.TIM_CAP_TIME_HI k

/-- Place a stamp, or hold it while the channel is frozen; a replaced held one sets CAP_OVR (R286). -/
def State.stampCap (s : State) (k t : Nat) : State :=
  if sget (fun _ => false) s.tim.frozen k then
    let s' := if (sget (fun _ => none) s.tim.held k).isSome then s.timStat 7 else s
    s'.modTim fun x => { x with held := sset (fun _ => none) x.held k (some (BitVec.ofNat 64 t)) }
  else s.wr64 (capLo k) (capHi k) t

/-- A capture of channel k: the stamp and its count, frozen or not. -/
def timCapture (k age : Nat) (s : State) : State :=
  if s.bits (Reg.TIM_CAP_CFG k) 1 0 = 0 then s
  else (s.stampCap k (s.ext - age)).addWrap (Reg.TIM_CAP_CNT k) 31 0 1

/-- Reading TIME_LO freezes the stamp until TIME_HI is read (R286). -/
def capReadLo (k : Nat) (s : State) : State :=
  (s.modTim fun t => { t with frozen := sset (fun _ => false) t.frozen k true }).answer (s.rdN (capLo k))

def execCapReadLo (k : Fin 9) (s : State) : Out1 := .next (s.ifOn 10 (capReadLo k.val))

/-- Reading TIME_HI releases the stamp and applies a held capture. -/
def capReadHi (k : Nat) (s : State) : State :=
  let s' := (s.modTim fun t => { t with frozen := sset (fun _ => false) t.frozen k false }).answer (s.rdN (capHi k))
  match sget (fun _ => none) s.tim.held k with
  | none => s'
  | some v => (s'.wr64 (capLo k) (capHi k) v.toNat).modTim fun t => { t with held := sset (fun _ => none) t.held k none }

def execCapReadHi (k : Fin 9) (s : State) : Out1 := .next (s.ifOn 10 (capReadHi k.val))

/-- PPS_IN_EDGE (R287): stamped, or ignored and counted within 500 ms of the last accepted edge. -/
def ppsEdge (age : Nat) (s : State) : State :=
  if !s.bit Reg.TIM_PPSIN_CFG 0 then s
  else
    let early : Bool := match s.tim.ppsLast with | some t => decide (s.clk - age - t < 500000000) | none => false
    if early then s.addSat Reg.TIM_PPSIN_CNT 31 16 1
    else ((s.stampCap 8 (s.ext - age)).addWrap Reg.TIM_PPSIN_CNT 15 0 1).timStat 8 |>.modTim fun t =>
      { t with ppsLast := some (s.clk - age) }

def execPpsInEdge (age : Nat) (s : State) : Out1 := .next (s.ifOn 10 (ppsEdge age))

end Sys2Proof.Machine
end

