-- ==== Sys2Proof/Machine/Ply.lean ====
section
/-! DEFINITION. Ply networks A and B, the sending side: ports and links, the switches' queues, frames and their trailer, and
the transmit rings (R322-R328, R337-R341). -/

namespace Sys2Proof.Machine

def State.modPly (s : State) (f : PlySt → PlySt) : State := { s with ply := f s.ply }

/-- PLY_STAT: bits 1 and 2 on source 40, bits 3 and 5 on 41, bits 0, 4 and 6 on 42. -/
def State.plyStat (s : State) (i : Nat) : State :=
  s.setStat Reg.PLY_STAT Reg.PLY_IRQ_EN (if i = 1 ∨ i = 2 then 40 else if i = 3 ∨ i = 5 then 41 else 42) i

/-! ### Bytes of a frame -/

def byteAt (f : List Byte) (i : Nat) : Nat := ((f[i]?).map BitVec.toNat).getD 0

/-- `n` bytes from `i`, most significant first. -/
def beAt (f : List Byte) (i : Nat) : Nat → Nat
  | 0 => 0
  | n + 1 => byteAt f i * 256 ^ n + beAt f (i + 1) n

/-- `n` bytes from `i`, least significant first. -/
def leAt (f : List Byte) (i : Nat) : Nat → Nat
  | 0 => 0
  | n + 1 => byteAt f i + 256 * leAt f (i + 1) n

def beBytes (v : Nat) : Nat → List Byte
  | 0 => []
  | n + 1 => BitVec.ofNat 8 (v / 256 ^ n) :: beBytes v n

def leBytes (v : Nat) : Nat → List Byte
  | 0 => []
  | n + 1 => BitVec.ofNat 8 v :: leBytes (v / 256) n

def zeros (n : Nat) : List Byte := List.replicate n 0

/-! ### Addresses, tags and the Ply header (R325, R326) -/

def nodeMac (n : Nat) : Nat := 0x0E504C590000 + n
def groupMac (g : Nat) : Nat := 0x0F504C59FF00 + g

def plyTagged (f : List Byte) : Bool := beAt f 12 2 == 0x8100

/-- Where the frame's payload begins: after its EtherType. -/
def plyBodyAt (f : List Byte) : Nat := if plyTagged f then 18 else 14
def plyEtherType (f : List Byte) : Nat := beAt f (plyBodyAt f - 2) 2

/-- The egress queue of a frame in transit: by its PCP; an untagged frame goes to queue 0 (R323, R324). -/
def plyQueue (f : List Byte) : Nat := if plyTagged f then byteAt f 14 / 64 else 0

/-- A Ply frame without its trailer: priority tag with VID 0, header (R325, R326), payload. -/
def plyFrame (src pcp ty : Nat) (group : Bool) (dest epoch : Nat) (holder roleB : Bool) (payload : List Byte) : List Byte :=
  beBytes (if group then groupMac dest else nodeMac dest) 6 ++ beBytes (nodeMac src) 6 ++ beBytes 0x8100 2 ++
  beBytes (pcp * 0x2000) 2 ++ beBytes 0x88B5 2 ++ leBytes (1 + 16 * ty) 1 ++ leBytes (b2n holder + 2 * b2n roleB) 1 ++
  leBytes src 2 ++ leBytes (dest + 0x4000 * b2n group) 2 ++ leBytes payload.length 2 ++ leBytes epoch 4 ++ zeros 4 ++ payload

/-- The trailer of R328; the LSDU counts the bytes after the EtherType, trailer included. -/
def plyTrailer (f : List Byte) (seq net : Nat) : List Byte :=
  beBytes seq 2 ++ beBytes ((if net = 0 then 0xA000 else 0xB000) + (f.length - plyBodyAt f + 6) % 4096) 2 ++ beBytes 0x88FB 2

/-- A frame padded so that, with its trailer, it has at least 60 bytes. -/
def plyPad (f : List Byte) : List Byte := f ++ zeros (54 - f.length)

/-! ### Ports (R322-R324) -/

def portUp (s : State) (p : Nat) : Bool :=
  s.domOn 11 && s.bit (Reg.PLY_PORT_CFG p) 0 && s.bit (Reg.PLY_PORT_STAT p) 0

/-- ns per byte at the port's speed. -/
def portByteNs (s : State) (p : Nat) : Nat := if s.bit (Reg.PLY_PORT_STAT p) 1 then 8 else 80

def plyQ (s : State) (p q : Nat) : List PlyOut := sget (fun _ => []) s.ply.q (4 * p + q)
def State.setPlyQ (s : State) (p q : Nat) (xs : List PlyOut) : State :=
  s.modPly fun y => { y with q := sset (fun _ => []) y.q (4 * p + q) xs }

def queueBytes (xs : List PlyOut) : Nat := (xs.map fun x => x.f.length + 4).sum

/-- Does the frame fit its 64 KiB queue? -/
def queueFits (s : State) (p q : Nat) (f : List Byte) : Bool :=
  decide (queueBytes (plyQ s p q) + f.length + 4 ≤ 0x10000)

/-- Put a frame in an egress queue; one that does not fit is dropped and counted against that port and queue (R324). -/
def State.plyEnq (s : State) (p q : Nat) (x : PlyOut) : State :=
  if queueFits s p q x.f then s.setPlyQ p q (plyQ s p q ++ [x])
  else (s.addSat (Reg.PLY_PORT_DROP p) (8 * q + 7) (8 * q) 1).plyStat 4

/-- The external ports a frame goes to on a network: the one its unicast address was learnt at, or every other port. -/
def plyPorts (s : State) (net mac : Nat) (ingress : Option Nat) : List Nat :=
  let known := s.ply.addrs.find? fun a => a.net == net && a.mac == mac && decide (s.clk < a.at_ + 300000000000)
  let all := match known with
    | some a => [a.port]
    | none => [2 * net, 2 * net + 1]
  all.filter fun p => decide (some p ≠ ingress) && portUp s p

/-- A port that lost its link or stopped drops what it had queued: those copies are not sent. -/
def State.portDown (s : State) (p : Nat) : State :=
  let ids := (List.range 4).flatMap fun q => (plyQ s p q).filterMap (·.id)
  let s := (List.range 4).foldl (fun s q => s.setPlyQ p q []) s
  s.modPly fun y => { y with flight := y.flight.map fun x => { x with left := x.left - (ids.filter (· == x.id)).length } }

/-- Set a port's link; a change sets LINK. -/
def State.setLink (s : State) (p : Nat) (up gbit : Bool) : State :=
  let was := s.bit (Reg.PLY_PORT_STAT p) 0
  let s := (s.setBit (Reg.PLY_PORT_STAT p) 0 up).setBit (Reg.PLY_PORT_STAT p) 1 (up && gbit)
  let s := if up then s else s.portDown p
  if was = up then s else s.plyStat 0

/-- In WATCH only ports A1 and B1 run (R387). -/
def portRuns (s : State) (p : Nat) : Bool :=
  s.bit (Reg.PLY_PORT_CFG p) 0 && (s.bits Reg.TND_PSTATE 6 4 != 1 || p == 0 || p == 2)

/-- LINK_CHANGE (R322): `gbit` is the speed the partner runs at; without autonegotiation the port runs at SPEED alone. -/
def plyLink (p : Nat) (up gbit halfOnly : Bool) (s : State) : State :=
  if !portRuns s p then s
  else if up && halfOnly then (s.setLink p false false).flag (Reg.PLY_PORT_STAT p) 2
  else
    let cfg := s.rdN (Reg.PLY_PORT_CFG p)
    s.setLink p (up && (fbit cfg 1 || fbit cfg 2 == gbit)) gbit

def execLinkChange (p : Fin 4) (up gbit halfOnly : Bool) (s : State) : Out1 :=
  .next (s.ifOn 11 (plyLink p.val up gbit halfOnly))

/-- A write of PLY_PORTp_CFG: a port whose PHY stops loses its link. -/
def plyPortCfg (p : Nat) (s : State) : State :=
  if portRuns s p then s else s.setLink p false false

/-- A write of PLY_NODE: NODE_ID takes effect while EN is clear, before or after the write. -/
def plyNode (wasEn : Bool) (s : State) : State :=
  if wasEn && s.bit Reg.PLY_NODE 14 then s else s.modPly fun y => { y with node := s.bits Reg.PLY_NODE 13 0 }

/-- ADDRESS_AGE_OUT (R323): a learnt address unheard for 300 s leaves the table. -/
def plyAgeOut (net mac : Nat) (s : State) : State :=
  s.modPly fun y => { y with addrs := y.addrs.filter fun a =>
    !(a.net == net && a.mac == mac && decide (a.at_ + 300000000000 ≤ s.clk)) }

def execAddressAgeOut (net : Fin 2) (mac : BitVec 48) (s : State) : Out1 :=
  .next (s.ifOn 11 (plyAgeOut net.val mac.toNat))

/-! ### The module's own frames -/

/-- May the MACs send? -/
def plyAlive (s : State) : Bool := s.domOn 11 && s.bit Reg.PLY_NODE 14

/-- The next SeqNr of a destination (R328). -/
def plySeq (s : State) (dest : Nat) (group : Bool) : Nat := sget (fun _ => 0) s.ply.seq (dest + 0x4000 * b2n group)
def State.plySeqNext (s : State) (dest : Nat) (group : Bool) : State :=
  s.modPly fun y => { y with seq := sset (fun _ => 0) y.seq (dest + 0x4000 * b2n group) ((plySeq s dest group + 1) % 65536) }

/-- Queue a frame on a network: a copy at each port that leads to its destination. -/
def State.plyOnNet (s : State) (net q : Nat) (f : List Byte) (id : Option Nat) : State :=
  (plyPorts s net (beAt f 0 6) none).foldl (fun s p => s.plyEnq p q ⟨f, id, net⟩) s

/-- Send a redundant Ply frame: the same SeqNr on both networks (R328). -/
def State.plySend (s : State) (ty dest : Nat) (group : Bool) (payload : List Byte) (pcp epoch : Nat) (holder : Bool) : State :=
  if !plyAlive s then s
  else
    let f := plyPad (plyFrame s.ply.node pcp ty group dest epoch holder (s.bit Reg.PAIR_CFG 3) payload)
    let n := plySeq s dest group
    let s := s.plySeqNext dest group
    let s := s.plyOnNet 0 (pcp / 2) (f ++ plyTrailer f n 0) none
    s.plyOnNet 1 (pcp / 2) (f ++ plyTrailer f n 1) none

/-- The supervision frame of IEC 62439-3 for a node in duplicate-discard mode. -/
def supFrame (node seq : Nat) : List Byte :=
  beBytes 0x01154E000100 6 ++ beBytes (nodeMac node) 6 ++ beBytes 0x88FB 2 ++ beBytes 1 2 ++ beBytes seq 2 ++
  beBytes 0x1406 2 ++ beBytes (nodeMac node) 6 ++ zeros 28

/-- PRP_SUPERVISION (R327): every 2 s on both networks. -/
def plySup (s : State) : State :=
  if !plyAlive s ∨ s.clk < s.ply.supAt + 2000000000 then s
  else
    let n := s.ply.supSeq
    let f := supFrame s.ply.node n
    let s := s.modPly fun y => { y with supAt := s.clk, supSeq := (n + 1) % 65536 }
    (s.plyOnNet 0 0 (f ++ plyTrailer f n 0) none).plyOnNet 1 0 (f ++ plyTrailer f n 1) none

def execPrpSupervision (s : State) : Out1 := .next (plySup s)

/-- A descriptor in flight after a copy of it began on a network at `t`: the stamp is the first copy's (R339). -/
def PlyFlight.began (d : PlyFlight) (x : PlyOut) (t : Nat) : PlyFlight :=
  if x.id ≠ some d.id then d
  else if x.net = 0 then { d with left := d.left - 1, sentA := true, stA := if d.sentA then d.stA else t }
  else { d with left := d.left - 1, sentB := true, stB := if d.sentB then d.stB else t }

/-- The start of a frame on a port: the stamp is the end of its start-of-frame delimiter. -/
def State.flightOut (s : State) (p : Nat) (x : PlyOut) : State :=
  let t := s.ext + 8 * portByteNs s p
  s.modPly fun y => { y with flight := y.flight.map fun d => d.began x t }

/-- A port that is not sending takes the first frame of its highest-priority queue (R324); it then sends for the frame's time
with preamble, FCS and gap. -/
def State.portTick (s : State) (p : Nat) : State :=
  if !portUp s p ∨ s.clk < sget (fun _ => 0) s.ply.busy p then s
  else
    match [3, 2, 1, 0].find? fun q => !(plyQ s p q).isEmpty with
    | none => s
    | some q =>
      match plyQ s p q with
      | [] => s
      | x :: xs =>
        let s := (s.setPlyQ p q xs).modPly fun y =>
          { y with busy := sset (fun _ => 0) y.busy p (s.clk + (x.f.length + 24) * portByteNs s p) }
        (s.flightOut p x).emit (.ply p x.f)

/-- One tick of the four ports. -/
def plyTick (s : State) : State := if s.domOn 11 then (List.range 4).foldl State.portTick s else s

/-! ### The transmit rings (R339) -/

def ringBase (cfg : Nat) : Nat := dramBase + fget cfg 18 0 * 4096
def ringLen (cfg : Nat) : Nat := 64 * 2 ^ min (fget cfg 27 24) 10

def txTake (s : State) (r : Nat) : Nat := sget (fun _ => 0) s.ply.take r

/-- The address of a ring's descriptor. -/
def txDesc (s : State) (r i : Nat) : Nat :=
  let cfg := s.rdN (Reg.PLY_TXR_CFG r)
  ringBase cfg + 64 * (i % ringLen cfg)

/-- A write that sets EN resets WR and RD (R339). -/
def plyTxCfg (r : Nat) (wasEn : Bool) (s : State) : State :=
  if wasEn ∨ !s.bit (Reg.PLY_TXR_CFG r) 19 then s
  else ((s.wrN (Reg.PLY_TXR_WR r) 0).wrN (Reg.PLY_TXR_RD r) 0).modPly fun y =>
    { y with take := sset (fun _ => 0) y.take r 0, flight := y.flight.filter (·.ring != r) }

def plyTxWr (r : Nat) (v : Word) (s : State) : State := s.wr (Reg.PLY_TXR_WR r) v

/-- TX_RING_WRITE (R339). -/
def execTxRingWrite (r : Fin 2) (v : Word) (s : State) : Out1 := .next (s.ifOn 11 (plyTxWr r.val v))

/-- Has software handed over a descriptor that PLY has not taken? -/
def txReady (s : State) (r : Nat) : Bool :=
  let cfg := s.rdN (Reg.PLY_TXR_CFG r)
  let a := txDesc s r (txTake s r)
  fbit cfg 19 && s.domOn 0 && inDram a 64 && txTake s r % ringLen cfg != s.rdN (Reg.PLY_TXR_WR r) % ringLen cfg &&
    fbit (rdz s.dram (a - dramBase + 8) 4) 31

/-- Complete the descriptors at the head of a ring that have no copy left to send: stamps and completion word, OWN last. -/
def State.txRetire (s : State) (r : Nat) : Nat → State
  | 0 => s
  | n + 1 =>
    match s.ply.flight.find? (·.ring == r) with
    | none => s
    | some d =>
      if d.left ≠ 0 then s
      else
        let sent := d.sentA || d.sentB
        let st := if d.st ≠ 0 then d.st else if sent then 0 else 2
        let o := d.addr - dramBase
        let s := if !s.domOn 0 then s
          else
            let s := if d.stamp && d.sentA then s.dramWr none (o + 32) 8 d.stA else s
            let s := if d.stamp && d.sentB then s.dramWr none (o + 40) 8 d.stB else s
            let s := s.dramWr none (o + 24) 4 (st + 4 * b2n d.sentA + 8 * b2n d.sentB)
            s.dramWr none (o + 8) 4 (rdz s.dram (o + 8) 4 % 2 ^ 31)
        let s := s.modPly fun y => { y with flight := y.flight.filter (·.id != d.id) }
        let s := s.wrN (Reg.PLY_TXR_RD r) ((s.rdN (Reg.PLY_TXR_RD r) + 1) % ringLen (s.rdN (Reg.PLY_TXR_CFG r)))
        (s.plyStat (if st = 0 then 2 else 3)).txRetire r n

/-! ### The Deckle's command tap (R296, R301) -/

def State.modDkl (s : State) (f : DklSt → DklSt) : State := { s with dkl := f s.dkl }

/-- PTP time (R291). -/
def State.ptp (s : State) : Int := (s.ext : Int) + s.lib.oPtp

/-- A thruster's commanded values whose apply time has passed, and those they replaced; the first ones replace none. -/
def tapOf (s : State) (i : Nat) : DklTap :=
  let t := sget (fun _ => dklTapIdle) s.dkl.tap i
  match t.next with
  | some (r, p, z, at_) => if (at_ : Int) ≤ s.ptp then (if t.live then ⟨r, p, z, t.rpm, t.pitch, t.az, none, true⟩ else ⟨r, p, z, r, p, z, none, true⟩) else t
  | none => t

/-- Entry `i` of a command body (R330) enters the tap. -/
def State.tapEntry (s : State) (body : List Byte) (i : Nat) : State :=
  let o := 16 + 16 * i
  if body.length < o + 16 then s
  else
    let id := byteAt body o % 32
    let w := fun k => BitVec.ofNat 32 (leAt body (o + 4 * k) 4)
    let t := { tapOf s id with next := some (w 1, w 2, w 3, leAt body 8 8) }
    s.modDkl fun d => { d with tap := sset (fun _ => dklTapIdle) d.tap id t }

/-- The module's own command frame passes the tap. -/
def State.tapTake (s : State) (body : List Byte) : State :=
  s.ifOn 13 fun s => (List.range (min (byteAt body 4) 24)).foldl (fun s i => s.tapEntry body i) s

/-- Is the descriptor INVALID: NET 3, a length outside 60-1,516, a reserved bit set, or a Ply header of TYPE 2? -/
def txInvalid (w2 w3 : Nat) (tail : List Word) (f : List Byte) : Bool :=
  fget w2 12 11 == 3 || decide (fget w2 10 0 < 60) || decide (1516 < fget w2 10 0) || fget w2 30 17 != 0 ||
  fget w3 31 15 != 0 || tail.any (· != 0) || (plyEtherType f == 0x88B5 && byteAt f (plyBodyAt f) / 16 == 2)

/-- PUB_LATE (R69): a COMMAND frame of the current cycle that PLY comes to after +18.0 ms, or of an earlier cycle. -/
def pubLate (s : State) (f : List Byte) : Bool :=
  let h := plyBodyAt f
  let age := (s.lib.k + 2 ^ 32 - leAt f (h + 16) 4) % 2 ^ 32
  plyEtherType f == 0x88B5 && byteAt f h / 16 == 1 &&
  ((age == 0 && decide (s.lib.t0 + 18000000 < s.ext)) || (decide (0 < age) && decide (age < 2 ^ 31)))

/-- A command frame is dropped (R69, R75): counted, and PUB_LATE set for this cycle; where this cycle's output block is already
written the library writes its FLAGS again, with a new OUT_SEQ (DESIGN CHOICE: it reports the drop in the cycle it happens in). -/
def State.dropCommand (s : State) : State :=
  let s := { s with lib := { s.lib with pubLate := true, drops := s.lib.drops + 1 } }
  let a := Config.libBlock + 0x200
  if inDram (dramBase + Config.libBlock) 4096 ∧ s.dramW (a + 8) = s.lib.k % 2 ^ 32 ∧ s.lib.cmd ≠ [] then
    let fl := BitVec.ofNat 32 (s.dramW (a + 12))
    let q := (s.lib.outSeq + 2) % 2 ^ 32
    let s := { s with lib := { s.lib with outSeq := q } }
    (s.dmaPut (dramBase + a + 12) [wset fl 10 10 1]).dmaPut (dramBase + a) [BitVec.ofNat 32 q]
  else s

/-- PLY takes the next descriptor of ring `r`. -/
def State.txProcess (s : State) (r : Nat) : State :=
  let i := txTake s r
  let a := txDesc s r i
  let ws := s.dramWords a 16
  let w := fun k => ((ws[k]?).map BitVec.toNat).getD 0
  let src := w 0 + 2 ^ 32 * w 1
  let len := fget (w 2) 10 0
  let f := if inDram src len then memBytes zeroByte s.dram (src - dramBase) len else []
  let net := fget (w 2) 12 11
  let q := fget (w 2) 15 13 / 2
  let late := w 4 + 2 ^ 32 * w 5
  let dest := fget (w 3) 13 0
  let group := fbit (w 3) 14
  let id := s.ply.nextId
  let s := s.modPly fun y => { y with take := sset (fun _ => 0) y.take r ((i + 1) % ringLen (s.rdN (Reg.PLY_TXR_CFG r))),
                                      nextId := id + 1 }
  let d : PlyFlight := ⟨id, r, a, 0, 0, false, false, 0, 0, fbit (w 2) 16⟩
  let put := fun (s : State) (d : PlyFlight) => (s.modPly fun y => { y with flight := y.flight ++ [d] }).txRetire r 64
  let hdr := plyBodyAt f
  let body := f.drop (hdr + 16)
  let bad := txInvalid (w 2) (w 3) (ws.drop 12) f || !inDram src len
  let s := if !bad && plyEtherType f == 0x88B5 && byteAt f hdr / 16 == 1 then
      ({ s with pair := { s.pair with bodies := s.pair.bodies ++ body } }).tapTake body
    else s
  if bad then put s { d with st := 3 }
  else if late ≠ 0 ∧ late < s.ext then put s { d with st := 1 }
  else if pubLate s f then put s.dropCommand { d with st := 1 }
  else
    let n := plySeq s dest group
    let s := if net = 0 then s.plySeqNext dest group else s
    let fA := if net = 0 then f ++ plyTrailer f n 0 else f
    let fB := if net = 0 then f ++ plyTrailer f n 1 else f
    let mac := beAt f 0 6
    let pA := if net = 2 then [] else plyPorts s 0 mac none
    let pB := if net = 1 then [] else plyPorts s 1 mac none
    let left := ((pA ++ pB).filter fun p => queueFits s p q fA).length
    let s := pA.foldl (fun s p => s.plyEnq p q ⟨fA, some id, 0⟩) s
    let s := pB.foldl (fun s p => s.plyEnq p q ⟨fB, some id, 1⟩) s
    put s { d with left := left, st := if left = 0 then 2 else 0 }

/-- TX_DESCRIPTOR_PROCESS (R339): ring 0 is always served before ring 1. -/
def plyTxProcess (s : State) : State :=
  if !plyAlive s then s
  else if txReady s 0 then s.txProcess 0
  else if txReady s 1 then s.txProcess 1
  else s

def execTxDescriptorProcess (s : State) : Out1 := .next (plyTxProcess s)

/-- TX_COMPLETE (R339): descriptors whose last copy has left are completed in ring order. -/
def execTxComplete (r : Fin 2) (s : State) : Out1 := .next (s.ifOn 11 fun s => s.txRetire r.val 64)

end Sys2Proof.Machine
end

