-- ==== Sys2Proof/Machine/Deckle.lean ====
section
/-! DEFINITION. The Deckle safety unit (R292-R321). -/

namespace Sys2Proof.Machine

/-! ### Its pieces -/

def State.conn (s : State) (c : Nat) : DklConn := sget (fun _ => dklConnIdle) s.dkl.conns c
def State.setConn (s : State) (c : Nat) (x : DklConn) : State :=
  s.modDkl fun d => { d with conns := sset (fun _ => dklConnIdle) d.conns c x }

/-- The configuration in force; an empty one while none is. -/
def State.scr (s : State) : ScrCfg :=
  match s.dkl.scr with
  | some c => c
  | none => { ins := [], pairs := [], inFilt := 8, discT := 100, alarmOut := none, opWidth := 300, opPeriod := 10, thr := [],
              rx := [], tx := [], posTmo := 100 }

def dklState (s : State) : Nat := s.bits Reg.DKL_STATE 1 0
def State.trips (s : State) : Nat := s.bits Reg.DKL_THR_TRIP 23 0

/-- Milliseconds of physical time. -/
def ms (n : Nat) : Nat := n * 1000000

/-- A binary32 number in units of 2^-149; none for an infinity or a NaN. -/
def fpScaled (x : Word) : Option Int :=
  match fpDecode f32 x.toNat with
  | .fin s m e => some (scaled s m e (-149))
  | _ => none

/-! ### Trips (R300) -/

/-- The safe outputs the stopped thrusters' drive enables name. -/
def outMask (cfg : ScrCfg) (trips : Nat) : Nat :=
  (List.range cfg.thr.length).foldl (fun m i =>
    match (cfg.thr[i]?).bind (·.enable) with
    | some n => if fbit trips i then m ||| 2 ^ n.val else m
    | none => m) 0

/-- The outputs some thruster's drive enable names. -/
def enableMask (cfg : ScrCfg) : Nat :=
  cfg.thr.foldl (fun m t => match t.enable with | some n => m ||| 2 ^ n.val | none => m) 0

/-- Open a group's cut for good (R310). -/
def State.groupCut (s : State) (g : Nat) : State :=
  let s := s.setBit Reg.DKL_IO_STAT (24 + g) true
  let so := s.bits Reg.DKL_IO_STAT 23 16
  (s.setBits Reg.DKL_IO_STAT 23 16 (if g = 0 then so / 16 * 16 else so % 16)).dklStat 4

/-- Latch stops of the thrusters in a mask. -/
def State.tripThr (s : State) (mask : Nat) : State :=
  let old := s.trips
  let new := old ||| (mask % 2 ^ 24)
  let s := s.setBits Reg.DKL_THR_TRIP 23 0 new
  if new = old then s else s.dklStat 0

/-! ### Safe inputs (R306-R308) -/

/-- An input fault: a permanent demand of the input's function, until the next domain reset. -/
def State.inFault (s : State) (n : Nat) : State :=
  if s.bit Reg.DKL_IN_FAULT n then s else (s.setBit Reg.DKL_IN_FAULT n true).dklStat 2

/-- Filter one input's sample: IN_FILT consecutive equal samples change its state. -/
def State.filterIn (s : State) (n : Nat) (level : Bool) : State :=
  let (last, len) := sget (fun _ => (false, 0)) s.dkl.inRun n
  let len' := if last = level then len + 1 else 1
  let s := s.modDkl fun d => { d with inRun := sset (fun _ => (false, 0)) d.inRun n (level, len') }
  if s.scr.inFilt ≤ len' then s.setBit Reg.DKL_IO_STAT n level else s

/-- One input at sample number `k` of the 80 samples of 20 ms: TPm pulls low at samples 20 m and 20 m + 1, and its assigned
inputs must read low at the last of them, which the filter leaves out (STUCK otherwise); an input low during another
source's pulse and high on both sides of it is CROSS. -/
def State.sampleIn (s : State) (k n : Nat) (level : Bool) : State :=
  let cfg := (s.scr.ins[n]?).getD ⟨.unused, none⟩
  let h := sget (fun _ => 0) s.dkl.hist n
  let s' := s.modDkl fun d => { d with hist := sset (fun _ => 0) d.hist n ((2 * h + b2n level) % 8) }
  match cfg.tp with
  | none => s'.filterIn n level
  | some m =>
    if k = 20 * m.val + 1 then (if level then s'.inFault n else s')
    else
      let s'' := s'.filterIn n level
      if k % 20 = 2 ∧ k ≠ 20 * m.val + 2 ∧ level ∧ fbit h 2 ∧ h % 4 ≠ 3 then s''.inFault n else s''

/-- Start or end of a pair's difference (R307), and the high period of a RESET input (R303). -/
def State.trackPair (s : State) (k : Nat) : State :=
  let differ := s.bit Reg.DKL_IO_STAT (2 * k) != s.bit Reg.DKL_IO_STAT (2 * k + 1)
  let cur := sget (fun _ => none) s.dkl.diff k
  let new := if !differ then none else match cur with | some t => some t | none => some s.clk
  s.modDkl fun d => { d with diff := sset (fun _ => none) d.diff k new }

/-- The falling edge that ends a high period of 0.1-2 s on a RESET input is a reset command (R303); a faulted input (R308) makes
none. -/
def State.trackReset (s : State) (n : Nat) : State :=
  if ((s.scr.ins[n]?).map (·.fn)) ≠ some .reset ∨ s.bit Reg.DKL_IN_FAULT n then s
  else match sget (fun _ => none) s.dkl.rstHigh n, s.bit Reg.DKL_IO_STAT n with
    | none, true => s.modDkl fun d => { d with rstHigh := sset (fun _ => none) d.rstHigh n (some s.clk) }
    | some t, false =>
      let s' := s.modDkl fun d => { d with rstHigh := sset (fun _ => none) d.rstHigh n none }
      if ms 100 ≤ s.clk - t ∧ s.clk - t ≤ ms 2000 then s'.modDkl fun d => { d with resetCmd := true } else s'
    | _, _ => s

/-- SAFE_INPUT_SAMPLE (R306): every 250 µs, all 16 inputs. -/
def dklSampleInputs (levels : Nat) (s : State) : State :=
  let k := s.dkl.sample
  let s := (List.range 16).foldl (fun s n => (s.sampleIn k n (fbit levels n)).trackReset n) s
  let s := s.scr.pairs.foldl (fun s p => s.trackPair p.val) s
  s.modDkl fun d => { d with sample := (k + 1) % 80 }

def execSafeInputSample (levels : BitVec 16) (s : State) : Out1 :=
  .next (s.ifOn 13 (dklSampleInputs levels.toNat))

/-- DISCREPANCY (R307): a configured pair whose filtered states have differed for longer than DISC_T. -/
def dklDiscrepancy (k : Fin 8) (s : State) : State :=
  match sget (fun _ => none) s.dkl.diff k.val with
  | some t => if k ∈ s.scr.pairs ∧ ms s.scr.discT < s.clk - t then (s.inFault (2 * k.val)).inFault (2 * k.val + 1) else s
  | none => s

def execDiscrepancy (k : Fin 8) (s : State) : Out1 := .next (s.ifOn 13 (dklDiscrepancy k))

/-! ### Demands (R300) -/

/-- The demand of one ESTOP input: its filtered level at 0 V, or a fault of it. -/
def inDemand (s : State) (n : Nat) : Nat :=
  match s.scr.ins[n]? with
  | some ⟨.estop m, _⟩ => if !s.bit Reg.DKL_IO_STAT n || s.bit Reg.DKL_IN_FAULT n then m.toNat else 0
  | _ => 0

/-- Is the connection's payload usable: received, and no timeout or CONN_FAULT in force (R316)? -/
def connGood (x : DklConn) : Bool := x.payload.isSome && !x.fault && !x.timeout

/-- What DKL_CONNc_STAT.STATE reads: CONN_FAULT, TIMEOUT while the data are the safe value otherwise, OK. -/
def connState (x : DklConn) : Nat := if x.fault then 3 else if x.timeout || x.payload.isNone then 2 else 1

/-- Keep DKL_CONNc_STAT.STATE; a change sets DKL_STAT.CONN. -/
def State.connNote (s : State) (c : Nat) : State :=
  let v := connState (s.conn c)
  if s.bits (Reg.DKL_CONN_STAT c) 1 0 = v then s else (s.setBits (Reg.DKL_CONN_STAT c) 1 0 v).dklStat 5

/-- The demand of one receive connection: a stop request's STOP bits (its safe value sets them all), and its whole mask where
its action is STOP and it has received no payload, timed out or faulted (R316). -/
def connDemand (s : State) (c : Nat) : Nat :=
  match s.scr.rx[c]? with
  | none => 0
  | some r =>
    let x := s.conn c
    let stop := if r.fdbk then 0 else if connGood x then ((x.payload.bind (·[0]?)).getD 0).toNat % 2 ^ 24 else 2 ^ 24 - 1
    let act := if r.stop && !connGood x then 2 ^ 24 - 1 else 0
    (stop ||| act) &&& r.mask.toNat

def baseDemand (s : State) : Nat :=
  let m := (List.range 16).foldl (fun m n => m ||| inDemand s n) s.dkl.sw
  (List.range 32).foldl (fun m c => m ||| connDemand s c) m

/-! ### Drive-off and envelope (R301, R302) -/

/-- A thruster's entry in its feedback connection: DRIVE_READY and the actual rpm, pitch and azimuth. None without an entry, or
while the connection's data are its safe value. -/
def feedbackOf (s : State) (t : ThrCfg) (i : Nat) : Option (Bool × Word × Word × Word) :=
  match t.fdbk with
  | none => none
  | some c =>
    let x := s.conn c.val
    let ws := if connGood x then x.payload.getD [] else []
    let scan := (List.range 4).find? fun j => (ws[4 * j]?).any fun w => fget w.toNat 4 0 == i
    scan.map fun j =>
      let g := fun k => (ws[4 * j + k]?).getD 0
      (fbit (g 0).toNat 8, g 1, g 2, g 3)

/-- Actual within the span between two commanded values, widened by the tolerance. -/
def inSpan (prev cur tol act : Word) : Bool :=
  match fpScaled prev, fpScaled cur, fpScaled tol, fpScaled act with
  | some p, some c, some t, some a => decide (min p c - t ≤ a) && decide (a ≤ max p c + t)
  | _, _, _, _ => false

/-- One turn in units of 2^-149, and a difference of azimuths brought into half a turn. -/
def turn : Int := 2 ^ 149
def arc (x : Int) : Int := (x + turn / 2) % turn - turn / 2

/-- The same for azimuth, along the shorter arc. -/
def inArc (prev cur tol act : Word) : Bool :=
  match fpScaled prev, fpScaled cur, fpScaled tol, fpScaled act with
  | some p, some c, some t, some a =>
    let d := arc (c - p)
    let x := arc (a - p)
    let lo := min 0 d - t
    let hi := max 0 d + t
    (decide (lo ≤ x) && decide (x ≤ hi)) || (decide (lo ≤ x - turn) && decide (x - turn ≤ hi))
      || (decide (lo ≤ x + turn) && decide (x + turn ≤ hi))
  | _, _, _, _ => false

/-- |x| ≤ limit. -/
def magWithin (lim x : Word) : Bool :=
  match fpScaled lim, fpScaled x with
  | some l, some v => decide ((v.natAbs : Int) ≤ l)
  | _, _ => false

/-- Azimuth inside a sector given by its two ends, going upwards from the first; its edges are outside, and a sector that ends
where it starts is none (R174). -/
def inSector (lo hi az : Word) : Bool :=
  match fpScaled lo, fpScaled hi, fpScaled az with
  | some l, some h, some a => decide (0 < (a - l) % turn) && decide ((a - l) % turn < (h - l) % turn)
  | _, _, _ => false

/-- One set of values against a thruster's envelope (R302). -/
def inEnvelope (t : ThrCfg) (rpm pit az : Word) : Bool :=
  magWithin t.maxRpm rpm && fpLeB f32 t.pitLo.toNat pit.toNat && fpLeB f32 pit.toNat t.pitHi.toNat
    && t.sectors.all fun (lo, hi, lim) => !inSector lo hi az || magWithin lim rpm

/-- A timer that runs while a condition holds: since when. -/
def runTimer (m : SMap (Option Nat)) (i : Nat) (holds : Bool) (now : Nat) : SMap (Option Nat) :=
  sset (fun _ => none) m i (if !holds then none else match sget (fun _ => none) m i with | some t => some t | none => some now)

def timerRan (m : SMap (Option Nat)) (i now limit : Nat) : Bool :=
  match sget (fun _ => none) m i with | some t => decide (limit ≤ now - t) | none => false

/-- The drive-off and envelope checks of thruster `i` in one safety cycle: its commands once it has any, its actual values while
it has feedback; DRIVE_READY clear suspends the drive-off check alone. -/
def State.guardThr (s : State) (i : Nat) : State :=
  match s.scr.thr[i]? with
  | none => s
  | some t =>
    let tap := tapOf s i
    let fb := feedbackOf s t i
    let off := match fb with
      | some (true, r, p, a) => tap.live && !(inSpan tap.pRpm tap.rpm t.tolRpm r && inSpan tap.pPit tap.pitch t.tolPit p
          && inArc tap.pAz tap.az t.tolAz a)
      | _ => false
    let envC := tap.live && !inEnvelope t tap.rpm tap.pitch tap.az
    let envA := match fb with
      | some (_, r, p, a) => !inEnvelope t r p a
      | none => false
    let s := s.modDkl fun d => { d with doFrom := runTimer d.doFrom i off s.clk, envFrom := runTimer d.envFrom i envC s.clk,
                                        envActFrom := runTimer d.envActFrom i envA s.clk }
    let s := if timerRan s.dkl.doFrom i s.clk (ms t.doTime) then (s.setBit Reg.DKL_THR_DO i true).tripThr (2 ^ i) else s
    if timerRan s.dkl.envFrom i s.clk (ms t.envTime) || timerRan s.dkl.envActFrom i s.clk (ms t.envTime) then
      (s.setBit Reg.DKL_THR_ENV i true).tripThr (2 ^ i) else s

/-- Thrusters whose drive-off or envelope check fails now: their demand is present. -/
def guardDemand (s : State) : Nat :=
  (List.range 24).foldl (fun m i =>
    if (sget (fun _ => none) s.dkl.doFrom i).isSome || (sget (fun _ => none) s.dkl.envFrom i).isSome
        || (sget (fun _ => none) s.dkl.envActFrom i).isSome then m ||| 2 ^ i else m) 0

/-! ### Position loss (R304) -/

/-- A condition of the alarm: DEGR 4, the step count still for POS_TMO, or the line inactive. -/
def posCond (s : State) : Bool :=
  !s.domOn 10 || s.bits Reg.FSN_DEGR_STAT 2 0 == 4 || decide (ms s.scr.posTmo ≤ s.clk - s.dkl.stepAt)

def State.posLoss (s : State) (steps : Nat) : State :=
  let s := if steps = s.dkl.step then s else s.modDkl fun d => { d with step := steps, stepAt := s.clk }
  let was := s.bit Reg.DKL_STATE 2
  if posCond s then
    let s := (s.setBit Reg.DKL_STATE 2 true).modDkl fun d => { d with posEnd := s.clk }
    if was then s else s.dklStat 1
  else if was ∧ ms 1000 ≤ s.clk - s.dkl.posEnd then (s.setBit Reg.DKL_STATE 2 false).dklStat 1 else s

/-! ### Transmit (R313, R317) -/

/-- The payload of a transmit connection: STOP, POS_LOSS, UNIT_FAULT, STANDBY; latched trips. -/
def txPayload (s : State) (t : TxConnCfg) : List Word :=
  let run := dklState s == 1
  let stop := if run then s.trips &&& t.mask.toNat else 2 ^ 24 - 1
  [BitVec.ofNat 32 (stop + b2n (s.bit Reg.DKL_STATE 2) * 2 ^ 24 + b2n (!run) * 2 ^ 25 + b2n (s.bit Reg.DKL_STATE 8) * 2 ^ 26),
   BitVec.ofNat 32 s.trips]

/-- The CRC of a PDU under a connection's SEED: initial value SEED, final inversion (R312). -/
def pduCrc (seed : Word) (p : SafePdu) : Word :=
  BitVec.ofNat 32 (crc32c seed.toNat true (wordBytes
    ([BitVec.ofNat 32 (p.version.toNat + 256 * p.conn.toNat + 65536 * p.len.toNat), p.seq, p.node] ++ p.payload)))

/-- A PDU as bytes (R312). -/
def pduBytes (p : SafePdu) : List Byte :=
  wordBytes ([BitVec.ofNat 32 (p.version.toNat + 256 * p.conn.toNat + 65536 * p.len.toNat), p.seq, p.node] ++ p.payload ++ [p.crc])

/-- Send a transmit connection's PDU in a SAFE frame (R337) when its period has passed or its content has changed. -/
def State.txConn (s : State) (j : Nat) : State :=
  match s.scr.tx[j]? with
  | none => s
  | some t =>
    let pl := txPayload s t
    let due := match sget (fun _ => none) s.dkl.txLast j with
      | none => true
      | some (at_, old) => decide (ms t.period ≤ s.clk - at_) || decide (old ≠ pl)
    if !due then s
    else
      let seq := sget (fun _ => 0) s.dkl.txSeq j + 1
      let p : SafePdu := { version := 1, conn := t.conn, len := 8, seq := seq, node := BitVec.ofNat 32 (s.bits Reg.PLY_NODE 13 0),
                           payload := pl, crc := 0 }
      let s := { s with dkl := { s.dkl with txSeq := sset (fun _ => 0) s.dkl.txSeq j seq,
                                            txLast := sset (fun _ => none) s.dkl.txLast j (some (s.clk, pl)) } }
      s.plySend 2 t.node.toNat false (pduBytes { p with crc := pduCrc t.seed p }) 7 0 false

/-! ### The safety cycle (R298) -/

/-- Read back output `n` (R309): on and not above 18 V latches OUT_FAULT; off and not below 5 V trips its group's cut. -/
def State.readBack (s : State) (rb : List Nat) (n : Nat) : State :=
  let v := (rb[n]?).getD 0
  if s.bit Reg.DKL_IO_STAT (16 + n) then
    if 18000 < v then s else ((s.setBit Reg.DKL_IO_STAT (16 + n) false).setBit Reg.DKL_IN_FAULT (16 + n) true).dklStat 3
  else if v < 5000 ∨ s.bit Reg.DKL_IO_STAT (24 + n / 4) then s else s.groupCut (n / 4)

/-- Write the outputs: a drive enable is on while none of its thrusters is stopped; the alarm output while no alarm is raised;
an output with OUT_FAULT or in a cut group stays off. -/
def State.writeOutputs (s : State) : State :=
  let cfg := s.scr
  let alarm := match cfg.alarmOut with
    | some n => if s.bit Reg.DKL_STATE 2 then 0 else 2 ^ n.val
    | none => 0
  let stopped := outMask cfg s.trips
  let want := (enableMask cfg - (enableMask cfg &&& stopped)) ||| alarm
  let cut := s.bits Reg.DKL_IO_STAT 25 24
  let allowed := (if fbit cut 0 then 0 else 0x0F) + (if fbit cut 1 then 0 else 0xF0)
  let fault := s.bits Reg.DKL_IN_FAULT 23 16
  let so := want &&& (allowed - (allowed &&& fault))
  let s := s.setBits Reg.DKL_IO_STAT 23 16 so
  let s := if so % 16 = 0 then s else s.modDkl fun d => { d with offFrom := sset (fun _ => 0) d.offFrom 0 s.clk }
  let s := if so / 16 = 0 then s else s.modDkl fun d => { d with offFrom := sset (fun _ => 0) d.offFrom 1 s.clk }
  s.modDkl fun d => { d with alarmOut := alarm != 0 }

/-- Connections whose CONN_FAULT a reset command clears: identical copies for 1 s (R315). -/
def State.clearConnFaults (s : State) : State :=
  (List.range 32).foldl (fun s c =>
    let x := s.conn c
    match x.fault, x.same with
    | true, some t => if ms 1000 ≤ s.clk - t then
        (s.setConn c { x with fault := false }).connNote c else s
    | _, _ => s) s

/-- Act on a reset command (R303): stops whose demand has been absent for a full cycle clear, and the restart interlock. -/
def State.dklResetCmd (s : State) (demand : Nat) : State :=
  if !s.dkl.resetCmd then s
  else
    let keep := demand ||| s.dkl.demand
    let trips := s.trips &&& keep
    let s := s.clearConnFaults
    let s := (s.setBits Reg.DKL_THR_TRIP 23 0 trips).setBit Reg.DKL_STATE 3 false
    let s := (s.setBits Reg.DKL_THR_DO 23 0 (s.bits Reg.DKL_THR_DO 23 0 &&& keep)).setBits Reg.DKL_THR_ENV 23 0
      (s.bits Reg.DKL_THR_ENV 23 0 &&& keep)
    s.modDkl fun d => { d with resetCmd := false }

/-- The evaluation of one cycle in RUN. -/
def dklEvaluate (rb : List Nat) (s : State) : State :=
  let s := (List.range 8).foldl (fun s n => s.readBack rb n) s
  let s := (List.range 24).foldl (fun s i => s.guardThr i) s
  let base := baseDemand s
  let s := s.tripThr base
  let demand := base ||| guardDemand s
  let s := s.dklResetCmd demand
  (s.modDkl fun d => { d with demand := demand, sw := 0 }).writeOutputs

/-- SAFETY_CYCLE (R298): latch, evaluate, write, queue. In START and SAFE_FAULT only the transmit connections send. -/
def dklCycle (rb : List Nat) (s : State) : State :=
  let s := s.modDkl fun d => { d with cycIrq := true }
  let s := s.setBit Reg.DKL_STATE 8 (s.bits Reg.TND_PSTATE 6 4 == 1)
  let s := if dklState s = 1 then dklEvaluate rb (s.posLoss s.fsn.steps) else s
  (List.range 16).foldl (fun s j => s.txConn j) s

def execSafetyCycle (rb : List Nat) (s : State) : Out1 := .next (s.ifOn 13 (dklCycle rb))

/-- A service between 0.25 ms and 0.95 ms with the next token is good; anything else is SAFE_FAULT (R298). -/
def dklWatchdog (svc : Option WdgService) (s : State) : State :=
  match svc with
  | some w =>
    if 250 ≤ w.at_ ∧ w.at_ ≤ 950 ∧ w.token = Config.wdgToken s.dkl.token then s.modDkl fun d => { d with token := d.token + 1 }
    else s.safeFault 5
  | none => s.safeFault 5

def execDeckleWatchdogFault (svc : Option WdgService) (s : State) : Out1 := .next (s.ifOn 13 (dklWatchdog svc))

/-! ### Output and cut tests (R310, R311) -/

/-- OFF_PULSE: an output that is on is pulsed off; 5 V or more during the pulse trips its group's cut. -/
def dklOffPulse (n : Fin 8) (mv : Nat) (s : State) : State :=
  if s.bit Reg.DKL_IO_STAT (16 + n.val) ∧ dklState s = 1 ∧ 5000 ≤ mv then s.groupCut (n.val / 4) else s

def execOffPulse (n : Fin 8) (mv : Nat) (s : State) : Out1 := .next (s.ifOn 13 (dklOffPulse n mv))

/-- A cut test may run at START, and in RUN when the group's outputs have been off for 50 ms, at most once an hour. -/
def cutTestMay (s : State) (g : Nat) : Bool :=
  dklState s == 0 || (dklState s == 1 && (s.bits Reg.DKL_IO_STAT 23 16 / 16 ^ g % 16 == 0)
    && decide (ms 50 ≤ s.clk - sget (fun _ => 0) s.dkl.offFrom g) && decide (ms 3600000 ≤ s.clk - sget (fun _ => 0) s.dkl.cutTest g))

def dklCutTest (g : Fin 2) (fell : Bool) (s : State) : State :=
  if !cutTestMay s g.val then s
  else if fell then s.modDkl fun d => { d with cutTest := sset (fun _ => 0) d.cutTest g.val s.clk }
  else s.safeFault 8

def execCutTest (g : Fin 2) (fell : Bool) (s : State) : Out1 := .next (s.ifOn 13 (dklCutTest g fell))

def dklCutTestDue (g : Fin 2) (s : State) : State :=
  if ms (720 * 3600000) ≤ s.clk - sget (fun _ => 0) s.dkl.cutTest g.val then s.dklStat 6 else s

def execCutTestDue (g : Fin 2) (s : State) : Out1 := .next (s.ifOn 13 (dklCutTestDue g))

/-! ### Receive connections (R312-R316) -/

/-- A copy is valid when VERSION, CONN, source node, LEN (configured, or 0) and CRC agree with the connection. -/
def copyValid (r : RxCfg) (p : SafePdu) : Bool :=
  p.version == 1 && p.conn == r.conn && p.node == BitVec.ofNat 32 r.node.toNat
    && (p.len.toNat == r.len || p.len == 0) && p.payload.length * 4 == p.len.toNat && p.crc == pduCrc r.seed p

/-- An invalid copy is counted against its network. -/
def State.copyBad (s : State) (c : Nat) (netB : Bool) : State :=
  if netB then s.addSat (Reg.DKL_CONN_STAT c) 31 24 1 else s.addSat (Reg.DKL_CONN_STAT c) 23 16 1

def connReset (p : SafePdu) : Bool := ((p.payload[0]?).map fun w => fbit w.toNat 31).getD false

/-- A SEQ is confirmed: a RESET bit's 0-to-1 transition in a stop request is a reset command (R303). The data of a faulted
connection are its safe value (R316), which carries none. -/
def State.confirm (s : State) (c : Nat) (r : RxCfg) (p : SafePdu) : State :=
  if r.fdbk ∨ p.payload = [] ∨ (s.conn c).fault then s
  else
    let x := s.conn c
    let s := if connReset p ∧ !x.reset then s.modDkl fun d => { d with resetCmd := true } else s
    s.setConn c { x with reset := connReset p }

/-- Accept a new SEQ on its first valid copy. -/
def State.acceptSeq (s : State) (c : Nat) (netB : Bool) (p : SafePdu) : State :=
  let x := s.conn c
  let gap := match x.lastSeq with | some l => decide (1 < (p.seq - l).toNat) | none => false
  let s := if gap then s.addSat (Reg.DKL_CONN_STAT c) 15 8 1 else s
  let x' := { x with lastSeq := some p.seq, lastRx := s.clk, payload := if p.payload = [] then x.payload else some p.payload,
                     wait := x.wait ++ [(p.seq, netB, s.clk, p)], timeout := false }
  (s.setConn c x').connNote c

/-- A network with 10 consecutive confirmed SEQs is present again. -/
def State.netBack (s : State) (c : Nat) (netB : Bool) : State :=
  let x := s.conn c
  let bit := if netB then 3 else 2
  if 10 ≤ (if netB then x.okB else x.okA) ∧ s.bit (Reg.DKL_CONN_STAT c) bit then
    (s.setBit (Reg.DKL_CONN_STAT c) bit false).dklStat 5 else s

/-- Both networks carried a SEQ, whichever came first: neither missed it. -/
def State.bothSeen (s : State) (c : Nat) : State :=
  let x := s.conn c
  let same := match x.same with | some t => some t | none => some s.clk
  let s := s.setConn c { x with same := same, missA := 0, missB := 0, okA := x.okA + 1, okB := x.okB + 1 }
  (s.netBack c false).netBack c true

/-- Compare a second copy with the first (R315): one that differs is CONN_FAULT whichever network carried it; an identical one
confirms the SEQ if the other network carried it, and says nothing new otherwise. -/
def State.compareCopy (s : State) (c : Nat) (r : RxCfg) (netB : Bool) (p : SafePdu) : State :=
  let x := s.conn c
  match x.wait.find? fun (q, _, _, _) => q == p.seq with
  | none => s
  | some (_, b, _, first) =>
    if first = p ∧ b = netB then s
    else
      let s := s.setConn c { x with wait := x.wait.filter fun (q, _, _, _) => q != p.seq }
      if first = p then (s.bothSeen c).confirm c r p
      else (s.setConn c { s.conn c with fault := true, same := none }).connNote c

/-- One copy on one matching connection. -/
def State.rxCopy (s : State) (c : Nat) (netB : Bool) (p : SafePdu) : State :=
  match s.scr.rx[c]? with
  | none => s
  | some r =>
    if p.conn ≠ r.conn then s
    else if !copyValid r p then s.copyBad c netB
    else
      let x := s.conn c
      match x.lastSeq with
      | none => s.acceptSeq c netB p
      | some l =>
        let d := (p.seq - l).toNat
        if d = 0 then s.compareCopy c r netB p
        else if d < 2 ^ 31 then s.acceptSeq c netB p
        else s.setConn c { x with old := x.old + 1 }

def dklCopyRx (netB : Bool) (p : SafePdu) (s : State) : State :=
  if dklState s = 1 then (List.range 32).foldl (fun s c => s.rxCopy c netB p) s else s

def execSafeCopyRx (netB : Bool) (pdu : SafePdu) (s : State) : Out1 := .next (s.ifOn 13 (dklCopyRx netB pdu))

/-- CMP_WIN passes without a matching copy: a miss of the other network, and none of the network that carried it; three in a row
mark it lost. The SEQ is confirmed only if that network was already lost (R315). -/
def dklCmpExpire (c : Nat) (s : State) : State :=
  match s.scr.rx[c]?, (s.conn c).wait with
  | some r, (_, netB, at_, p) :: rest =>
    if s.clk - at_ < ms r.cmpWin then s
    else
      let x := s.conn c
      let bit := if netB then 2 else 3
      let lost := s.bit (Reg.DKL_CONN_STAT c) bit
      let n := (if netB then x.missA else x.missB) + 1
      let x := if netB then { x with missA := n, okA := 0, missB := 0 } else { x with missB := n, okB := 0, missA := 0 }
      let s := s.setConn c { x with wait := rest, same := none }
      if lost then s.confirm c r p
      else if 3 ≤ n then (s.setBit (Reg.DKL_CONN_STAT c) bit true).dklStat 5 else s
  | _, _ => s

def execCmpWinExpire (c : Fin 32) (s : State) : Out1 := .next (s.ifOn 13 (dklCmpExpire c.val))

/-- TMO passes after the last accepted SEQ without a new one (R316): the connection takes its safe value and action, and the next
valid copy sets its SEQ (R314). -/
def dklTimeout (c : Nat) (s : State) : State :=
  match s.scr.rx[c]? with
  | none => s
  | some r =>
    let x := s.conn c
    if x.lastSeq.isNone ∨ s.clk - x.lastRx < ms r.tmo then s
    else (s.setConn c { x with timeout := true, lastSeq := none }).connNote c

def execConnectionTimeout (c : Fin 32) (s : State) : Out1 := .next (s.ifOn 13 (dklTimeout c.val))

/-! ### Stops and faults -/

/-- DKL_SW_STOP: a demand at the next cycle (R300); latched there until a reset command. -/
def dklSwStop (mask : Nat) (s : State) : State := s.modDkl fun d => { d with sw := d.sw ||| mask % 2 ^ 24 }

def execSwStop (mask : BitVec 24) (s : State) : Out1 := .next (s.ifOn 13 (dklSwStop mask.toNat))

def execSafeFault (cause : BitVec 4) (s : State) : Out1 := .next (s.ifOn 13 fun s => s.safeFault cause.toNat)

/-- CODE_CRC_CHECK (R318): at START and every 60 s. -/
def execCodeCrcCheck (ok : Bool) (s : State) : Out1 := .next (s.ifOn 13 fun s => if ok then s else s.safeFault 3)

/-- MEMORY_SCRUB (R318): single-bit errors corrected and counted; an uncorrectable one is SAFE_FAULT. -/
def execMemoryScrub (single : Nat) (uncorr : Bool) (s : State) : Out1 :=
  .next (s.ifOn 13 fun s =>
    let s := s.modDkl fun d => { d with corr := d.corr + single }
    if uncorr then s.safeFault 2 else s)

/-! ### START (R299, R319) -/

def scrWords (s : State) (slot : Nat) : List Word := memWords zeroByte s.mram (0x2000 + 4096 * slot) 1024

/-- The record in a slot qualifies: commit word, CRC over words 0-1,021, equality with DKL_SCR_ACCEPT, and a version above
the one in force. -/
def scrQualifies (s : State) (ws : List Word) : Bool :=
  let crc := crc32c 0xFFFFFFFF true (wordBytes (ws.take 1022))
  (ws[1023]? == some 0xDC135C01) && (ws[1022]? == some (BitVec.ofNat 32 crc)) && (s.dkl.accept.toNat == crc)
    && s.dkl.slot.all fun k => decide ((((scrWords s k)[0]?).getD 0).toNat < ((ws[0]?).getD 0).toNat)

/-- Put a slot's record in force. -/
def State.takeScr (s : State) (slot : Nat) : State :=
  let ws := scrWords s slot
  let s := s.modDkl fun d => { d with scr := some (Config.scrDecode ws), slot := some slot }
  (s.setBits Reg.DKL_STATE 31 16 ((ws[0]?).getD 0).toNat).wr Reg.DKL_SCR_CRC ((ws[1022]?).getD 0)

/-- The record in force is loaded; without its commit word it is absent (R11). -/
def State.loadScr (s : State) : State :=
  match s.dkl.slot with
  | some k => if (scrWords s k)[1023]? == some 0xDC135C01 then s.takeScr k else s.modDkl fun d => { d with slot := none, scr := none }
  | none => s

/-- SCR_ADOPT (R319): the record in force is loaded, then the free slot is adopted when it qualifies. -/
def State.adoptScr (s : State) : State :=
  let s := s.loadScr
  let free := match s.dkl.slot with | some k => 1 - k | none => 0
  if scrQualifies s (scrWords s free) then s.takeScr free
  else if s.dkl.slot.isNone ∧ scrQualifies s (scrWords s 1) then s.takeScr 1 else s

/-- Every receive connection's data are its safe value until a payload arrives. -/
def State.startConns (s : State) : State :=
  (List.range s.scr.rx.length).foldl (fun s c =>
    (s.setConn c { dklConnIdle with lastRx := s.clk }).connNote c) s

/-- DECKLE_START (R299): self-tests and adoption; RUN with the restart interlock, or SAFE_FAULT. -/
def dklStart (fail : Option (BitVec 4)) (s : State) : State :=
  if dklState s ≠ 0 then s
  else match fail with
    | some c => s.safeFault c.toNat
    | none =>
      let s := s.adoptScr
      if s.dkl.scr.isNone then s.safeFault 10
      else
        let s := (s.setBits Reg.DKL_STATE 1 0 1).setBit Reg.DKL_STATE 3 true
        let s := (s.setBits Reg.DKL_THR_TRIP 23 0 0xFFFFFF).setBits Reg.DKL_IO_STAT 25 24 0
        let s := s.modDkl fun d => { d with started := s.clk, stepAt := s.clk, posEnd := s.clk, demand := 2 ^ 24 - 1,
                                            cutTest := sset (fun _ => 0) (sset (fun _ => 0) d.cutTest 0 s.clk) 1 s.clk }
        s.startConns

def execDeckleStart (fail : Option (BitVec 4)) (s : State) : Out1 := .next (s.ifOn 13 (dklStart fail))

end Sys2Proof.Machine
end

