-- ==== Sys2Proof/Machine/Felt.lean ====
section
/-! DEFINITION. The Felt fabric: source channels, slot table and rounds (R25-R34, R471). Delivery into the stations'
mailboxes is in Bind.lean. -/

namespace Sys2Proof.Machine

def State.modFelt (s : State) (f : FeltSt → FeltSt) : State := { s with felt := f s.felt }
def State.feltCh (s : State) (st ch : Nat) : FeltCh := sget (fun _ => feltChIdle) s.felt.ch (64 * st + ch)
def State.setFeltCh (s : State) (st ch : Nat) (x : FeltCh) : State :=
  s.modFelt fun f => { f with ch := sset (fun _ => feltChIdle) f.ch (64 * st + ch) x }

/-- The domain a station lies in (R16, R24). -/
def stationDomain (st : Nat) : Nat :=
  if st ≤ 1 then 0 else if st ≤ 9 then st - 1 else if st = 10 then 9 else 10

/-- Slotted messages discarded or replaced: LOSS and LOSS_CNT (R30, R31, R33, R34). The counters lie in DC0. -/
def State.feltLoss (s : State) (n : Nat) : State :=
  if n = 0 ∨ !s.domOn 0 then s
  else (s.flag Reg.MILL_FELT_STAT 1).addSat Reg.MILL_FELT_LOSS_CNT 31 0 n

/-- Does a channel own a slot in the active table? -/
def ownsSlot (s : State) (st ch : Nat) : Bool :=
  (List.range 64).any fun n => s.bits (Reg.MILL_FELT_ACT n) 9 0 == ch * 16 + st

/-- A new message becomes pending on a channel, replacing one not yet injected (R31). While DC0 is not ON the ring carries
nothing: the message is discarded, uncounted (R33). -/
def State.feltPublish (s : State) (st ch : Nat) (msg : Msg) : State :=
  if !s.domOn 0 then s
  else
    let x := s.feltCh st ch
    let s := s.feltLoss (b2n x.pend.isSome)
    s.setFeltCh st ch { x with pend := some msg }

/-- SLOTTED_PUBLISH (R31): a station whose domain is ON publishes. -/
def execSlottedPublish (st : Fin 13) (ch : Fin 64) (msg : List Word) (s : State) : Out1 :=
  .next (s.ifOn (stationDomain st.val) fun s => s.feltPublish st.val ch.val msg)

/-- A station's channels stop: partly injected and pending messages are discarded, each one loss (R31). -/
def State.feltStop (s : State) (st : Nat) : State :=
  let n := (List.range 64).foldl (fun n c =>
    let x := s.feltCh st c
    n + b2n x.pend.isSome + b2n x.inj.isSome) 0
  let s := s.feltLoss n
  s.modFelt fun f => { f with ch := sdrop (fun k => k / 64 == st) f.ch }

/-! ### The slot table (R34) -/

/-- Setting APPLY requests the copy; setting it again while it reads 1 changes nothing. -/
def State.feltApply (s : State) : State := s.setBit Reg.MILL_FELT_CTL 1 true

def execFeltApply (s : State) : Out1 := .next (s.ifOn 0 State.feltApply)

/-- Slots the shadow table assigns, and whether it names station 13 or 14. -/
def shadowAssigned (s : State) : Nat :=
  (List.range 64).countP fun n => s.bits (Reg.MILL_FELT_SLOT n) 3 0 != 15
def shadowBad (s : State) : Bool :=
  (List.range 64).any fun n => s.bits (Reg.MILL_FELT_SLOT n) 3 0 == 13 || s.bits (Reg.MILL_FELT_SLOT n) 3 0 == 14

/-- Channels with a message but no slot lose both their messages (R34). -/
def State.dropUnowned (s : State) : State :=
  let gone := fun k => !ownsSlot s (k / 64) (k % 64)
  let n := s.felt.ch.foldl (fun n e => if gone e.1 then n + b2n e.2.pend.isSome + b2n e.2.inj.isSome else n) 0
  (s.feltLoss n).modFelt fun f => { f with ch := sdrop gone f.ch }

/-- Channels with a partly injected message but no slot when SLOT_EN is set again lose it (R34). -/
def State.dropHalves (s : State) : State :=
  let gone := fun k => !ownsSlot s (k / 64) (k % 64)
  let n := s.felt.ch.foldl (fun n e => if gone e.1 then n + b2n e.2.inj.isSome else n) 0
  s.felt.ch.foldl (fun s e => if gone e.1 then s.setFeltCh (e.1 / 64) (e.1 % 64) { e.2 with inj := none } else s) (s.feltLoss n)

/-- Copy the shadow table, or refuse it. -/
def State.feltCopy (s : State) : State :=
  let s0 := s.setBit Reg.MILL_FELT_CTL 1 false
  if 48 < shadowAssigned s ∨ shadowBad s then s0.flag Reg.MILL_FELT_STAT 0
  else
    let s1 := (List.range 64).foldl (fun t n => t.wr (Reg.MILL_FELT_ACT n) (t.rd (Reg.MILL_FELT_SLOT n))) s0
    (s1.setBits Reg.MILL_FELT_STAT 14 8 (shadowAssigned s)).dropUnowned

/-- A slot-round boundary: a pending APPLY copies or refuses, and SLOT_EN takes effect. -/
def feltRound (s : State) : State :=
  let s := if s.bit Reg.MILL_FELT_CTL 1 then s.feltCopy else s
  let en := s.bit Reg.MILL_FELT_CTL 0
  let s' := s.modFelt fun f => { f with slotEn := en }
  if en && !s.felt.slotEn then s'.dropHalves else s'

def execFeltRoundBoundary (s : State) : Out1 := .next (s.ifOn 0 feltRound)

end Sys2Proof.Machine
end

