-- ==== Sys2Proof/Machine/CalMath.lean ====
section
/-! DEFINITION. The Calender's arithmetic: elements and their formats, sums over blocks, and where a handle's elements stand in the
tiles' local stores (R97, R156, R157, R159, R161, R172, R184). -/

namespace Sys2Proof.Machine

/-! ### Arithmetic in a computing format (R97: round to nearest even) -/

def fmtOf (dbl : Bool) : FFmt := if dbl then f64 else f32

/-- An encoding in another format, rounded to nearest even. -/
def recast (src dst : Bool) (x : Nat) : Nat := if src = dst then x else (fpCast (fmtOf src) (fmtOf dst) 0 x).1

/-- A binary32 parameter in the computing format. -/
def par (dbl : Bool) (p : Nat) : Nat := recast false dbl p

def cAdd (d : Bool) (x y : Nat) : Nat := (fpAdd (fmtOf d) 0 x y).1
def cSub (d : Bool) (x y : Nat) : Nat := (fpSub (fmtOf d) 0 x y).1
def cMul (d : Bool) (x y : Nat) : Nat := (fpMul (fmtOf d) 0 x y).1
def cDiv (d : Bool) (x y : Nat) : Nat := (fpDiv (fmtOf d) 0 x y).1
def cSqrt (d : Bool) (x : Nat) : Nat := (fpSqrt (fmtOf d) 0 x).1
def cFma (d : Bool) (a x y : Nat) : Nat := (fpFma (fmtOf d) 0 false a x y).1
def cAbs (d : Bool) (x : Nat) : Nat := fpMag (fmtOf d) x
def cNeg (d : Bool) (x : Nat) : Nat :=
  if fpSign (fmtOf d) x then fpMag (fmtOf d) x else fpMag (fmtOf d) x + 2 ^ ((fmtOf d).eb + (fmtOf d).mb)
def cLt (d : Bool) (x y : Nat) : Bool := fpLtB (fmtOf d) x y
def cLe (d : Bool) (x y : Nat) : Bool := fpLeB (fmtOf d) x y
def cOfInt (d : Bool) (v : Int) : Nat := (fpOfInt (fmtOf d) 0 v).1
def cOne (d : Bool) : Nat := par d 0x3F800000
def cInf (d : Bool) : Nat := (fmtOf d).inf false
def cFinite (d : Bool) (x : Nat) : Bool := decide (cAbs d x < cInf d)

/-- Is an encoding infinite, a NaN or larger than 2^100 in magnitude (R172)? -/
def tooBig (dbl : Bool) (x : Nat) : Bool := decide ((recast false dbl 0x71800000) < fpMag (fmtOf dbl) x)

/-! ### Sums (R156) -/

/-- The product of a term is exactly zero. -/
def termZero (d : Bool) (p : Nat × Nat) : Bool :=
  (cAbs d p.1 == 0 && cFinite d p.2) || (cAbs d p.2 == 0 && cFinite d p.1)

/-- The terms of an `n`-term sum that fall into block `b`. -/
def blockTerms (xs : List (Nat × Nat)) (b : Nat) : List (Nat × Nat) :=
  (xs.zipIdx.filter fun e => Config.blockOf xs.length e.2 % 192 == b).map Prod.fst

/-- acc + Σ x × y by one lane, term after term: in whatever order, where at most one product is not zero. -/
def chainSum (d : Bool) (acc : Nat) (xs : List (Nat × Nat)) : Nat := xs.foldl (fun a p => cFma d a p.1 p.2) acc

/-- At most one product of the terms is not zero. -/
def plainSum (d : Bool) (xs : List (Nat × Nat)) : Bool := decide (xs.countP (fun p => !termZero d p) ≤ 1)

/-- A block's partial result: in the order of its lanes, which the spec does not give. -/
def blockSum (d : Bool) (xs : List (Nat × Nat)) : Nat := if plainSum d xs then chainSum d 0 xs else Config.laneSum d xs

/-- acc + Σ x × y: the partial results of the blocks, in ascending block order; the blocks do not depend on the tiles (R156, R157). -/
def calSum (d : Bool) (acc : Nat) (xs : List (Nat × Nat)) : Nat :=
  if plainSum d xs then chainSum d acc xs
  else (List.range 192).foldl (fun a b => match blockTerms xs b with | [] => a | ts => cAdd d a (blockSum d ts)) acc

/-- acc − Σ x y. -/
def cDotSub (d : Bool) (acc : Nat) (xs : List (Nat × Nat)) : Nat := calSum d acc (xs.map fun p => (cNeg d p.1, p.2))

/-! ### Matrices -/

/-- A matrix: its rows, each element an encoding in the computing format. -/
abbrev Mat := List (List Nat)

def Mat.at (m : Mat) (i j : Nat) : Nat := ((m[i]?).getD [])[j]?.getD 0
def Mat.col (m : Mat) (j : Nat) : List Nat := m.map fun r => (r[j]?).getD 0
def Mat.set2 (m : Mat) (i j v : Nat) : Mat := m.set i (((m[i]?).getD []).set j v)
def Mat.tr (m : Mat) (rows cols : Nat) : Mat := (List.range cols).map fun j => (List.range rows).map fun i => m.at i j

/-! ### Handles (R159) -/

/-- Bytes of one element. -/
def Hdl.esz (h : Hdl) : Nat := if h.dbl then 8 else 4

/-- The bytes a handle spans in a store that holds all its columns. -/
def Hdl.span (h : Hdl) : Nat := ((h.cols - 1) * h.ld + h.rows) * h.esz

/-- Is element (i, j) stored? -/
def Hdl.stored (h : Hdl) (i j : Nat) : Bool :=
  match h.str with
  | 1 | 2 => decide (j ≤ i)
  | 3 => decide (i ≤ j)
  | 4 => decide (i ≤ j + h.bw) && decide (j ≤ i + h.bw)
  | _ => true

/-- The first row stored of column j, and how many are. -/
def Hdl.colFrom (h : Hdl) (j : Nat) : Nat := match h.str with | 1 | 2 => j | 4 => j - h.bw | _ => 0
def Hdl.colLen (h : Hdl) (j : Nat) : Nat :=
  match h.str with
  | 1 | 2 => h.rows - j
  | 3 => min (j + 1) h.rows
  | 4 => min h.rows (j + h.bw + 1) - (j - h.bw)
  | _ => h.rows

/-- Elements stored in the columns before j. -/
def Hdl.before (h : Hdl) (j : Nat) : Nat := ((List.range j).map h.colLen).sum

/-- The block a column belongs to. DESIGN CHOICE: the stored elements, column after column, are dealt into 192 equal parts, and a column goes
with its first. -/
def Hdl.block (h : Hdl) (j : Nat) : Nat := 192 * h.before j / max (h.before h.cols) 1

/-- Which of the tiles `ts` holds column j: blocks are dealt evenly, 192, 96, 64 or 48 in succession (R156). -/
def Hdl.home (h : Hdl) (ts : List Nat) (j : Nat) : Nat := (ts[h.block j * ts.length / 192]?).getD 0

/-- Where a job's handles lie: the tiles that run it, and its region in each. -/
structure CalLay where
  tiles : List Nat
  base  : Nat
  size  : Nat
  deriving DecidableEq, Repr

/-- On a job of more tiles than one, a handle too long for the region at its own offsets, of which each tile holds its columns alone, one
after another, the stored part of each (R184). DESIGN CHOICE: R159's offsets hold wherever they fit. -/
def Hdl.packed (h : Hdl) (l : CalLay) : Bool := decide (1 < l.tiles.length) && decide (l.size < h.off + h.span)

/-- Elements that a tile holds of the columns before j. -/
def Hdl.held (h : Hdl) (l : CalLay) (t j : Nat) : Nat :=
  (((List.range j).filter fun c => h.home l.tiles c == t).map h.colLen).sum

/-- Local store address of element (i, j), the tiles' stores in succession. -/
def Hdl.addr (h : Hdl) (l : CalLay) (i j : Nat) : Nat :=
  let t := h.home l.tiles j
  2 ^ 20 * t + l.base + h.off + (if h.packed l then h.held l t j + (i - h.colFrom j) else j * h.ld + i) * h.esz

/-- Does the handle lie within the region on every tile? -/
def Hdl.fits (h : Hdl) (l : CalLay) : Bool :=
  if h.packed l then l.tiles.all fun t => decide (h.off + h.held l t h.cols * h.esz ≤ l.size)
  else decide (h.off + h.span ≤ l.size)

/-- Element (i, j) in the handle's own format; the unstored part is the mirror image (symmetric) or 0. -/
def Hdl.elem (h : Hdl) (m : SMap Byte) (l : CalLay) (i j : Nat) : Nat :=
  if h.stored i j then rdz m (h.addr l i j) h.esz
  else if h.str = 1 then rdz m (h.addr l j i) h.esz
  else 0

/-- The handle's matrix in the computing format. -/
def Hdl.mat (h : Hdl) (m : SMap Byte) (l : CalLay) (dbl : Bool) : Mat :=
  (List.range h.rows).map fun i => (List.range h.cols).map fun j => recast h.dbl dbl (h.elem m l i j)

/-- Store the elements of a matrix that `w` names and the handle stores, each on the tile that holds its column. -/
def Hdl.put (h : Hdl) (m : SMap Byte) (l : CalLay) (dbl : Bool) (x : Mat) (w : Nat → Nat → Bool) : SMap Byte :=
  (List.range h.rows).foldl (fun m i => (List.range h.cols).foldl (fun m j =>
    if h.stored i j && w i j then wrz m (h.addr l i j) h.esz (recast dbl h.dbl (x.at i j)) else m) m) m

end Sys2Proof.Machine
end

