-- ==== Sys2Proof/Machine/Calender.lean ====
section
/-! DEFINITION. The Calender solver array: queues, job start and checks, preemption, endings, warm starts and fallbacks
(R153-R185). The macro-instructions are in CalMacro.lean; arming events in Compare.lean. -/

namespace Sys2Proof.Machine

def State.modCal (s : State) (f : CalSt → CalSt) : State := { s with cal := f s.cal }

/-! ### Descriptor fields (R165) -/

def dW (d : List Word) (o : Nat) : Nat := ((d[o / 4]?).getD 0).toNat
def dD (d : List Word) (o : Nat) : Nat := dW d o + 2 ^ 32 * dW d (o + 4)

def dKind (d : List Word) : Nat := fget (dW d 0) 2 0
def dNamed (d : List Word) : List Nat := (List.range 4).filter fun n => fbit (dW d 0) (4 + n)
def dId (d : List Word) : Nat := fget (dW d 0) 31 16
def dIrq (d : List Word) : Bool := fbit (dW d 0) 10
def dLsBase (d : List Word) : Nat := fget (dW d 0x30) 19 0
def dLsSize (d : List Word) : Nat := dW d 0x34
def dNThr (d : List Word) : Nat := fget (dW d 0x3C) 15 0
def dNStep (d : List Word) : Nat := fget (dW d 0x3C) 31 16
def isAlloc (d : List Word) : Bool := dKind d == 1

/-- Descriptor address: 0x08_0000_0000 + DESC × 256; the descriptor's words, none where it lies outside DRAM. -/
def readDesc (s : State) (desc : Nat) : Option (List Word) :=
  if inDram (dramBase + desc * 256) 128 then some (s.dramWords (dramBase + desc * 256) 32) else none

/-- A job as it enters the array. -/
def newJob (cls slot desc ext clk runs : Nat) : CalJob :=
  { cls, slot, desc, run := .waiting, startExt := ext, startClk := clk, runs, d := [], tiles := [], started := false, hdls := [],
    prog := [], pc := 0, staged := [], views := [], facts := [], iters := 0, limited := false, pivots := 0, firstPiv := none,
    clipped := 0, ratio := 0, flags := 0, hash := 0, shift := 0, fallback := [], fbActive := [], fbSig := [], fbVars := [], warm := [],
    vars := [], active := [] }

/-- The tiles a resident job occupies: those it names. -/
def jobNamed (j : CalJob) : List Nat := dNamed j.d

def isResident (j : CalJob) : Bool := j.run == .running || j.run == .suspended

/-- Queue depths and tile states follow the list of jobs. -/
def State.calSync (s : State) : State :=
  let depth := fun c => s.cal.jobs.countP fun j => j.cls == c && j.run == .waiting
  let s := (s.setBits (Reg.CAL_Q_STAT 0) 4 0 (depth 1)).setBits (Reg.CAL_Q_STAT 1) 4 0 (depth 2)
  (List.range 4).foldl (fun s n =>
    let here := s.cal.jobs.filter fun j => (jobNamed j).contains n
    let susp := here.any fun j => j.run == .suspended
    let (st, id) := match here.find? fun j => j.run == .running with
      | some j => (if susp then 2 else 1, dId j.d)
      | none => (0, 0)
    if s.bits (Reg.CAL_T_STAT n) 1 0 = 3 then s
    else (s.setBits (Reg.CAL_T_STAT n) 1 0 st).setBits (Reg.CAL_T_STAT n) 31 16 id) s

def State.setJobs (s : State) (js : List CalJob) : State := (s.modCal fun c => { c with jobs := js }).calSync
def State.setJob (s : State) (k : Nat) (j : CalJob) : State := s.setJobs (s.cal.jobs.set k j)

/-- CAL_STAT bits with their enables: ARM_MISS on source 22, THROTTLE_EVT and QDROP on 23. -/
def State.calEvt (s : State) (i : Nat) : State :=
  let s' := s.flag Reg.CAL_STAT i
  if s.bit Reg.CAL_STAT i then s' else
  if i = 2 then (if s.bit Reg.CAL_IRQ_EN 2 then s'.raiseIrq 22 else s')
  else if i = 3 ∨ i = 4 then (if s.bit Reg.CAL_IRQ_EN 3 then s'.raiseIrq 23 else s')
  else s'

/-- CAL_QUEUE_PUSH (R166): a FIFO of 16; a push to a full one is dropped. -/
def calPush (q : Nat) (v : Word) (s : State) : State :=
  if 16 ≤ s.cal.jobs.countP (fun j => j.cls == q + 1 && j.run == .waiting) then
    (s.flag (Reg.CAL_Q_STAT q) 8).calEvt 4
  else s.setJobs (s.cal.jobs ++ [newJob (q + 1) 0 (wbits v 22 0) 0 0 0])

def execCalQueuePush (q : Fin 2) (v : Word) (s : State) : Out1 := .next (s.ifOn 5 (calPush q.val v))

/-! ### Plans: the state area, the shifted plan and the fallback (R176-R180) -/

/-- The structure table's entries: word 0 and the set-points (R177). -/
def structTab (s : State) (d : List Word) : List (Nat × Word × Word × Word) :=
  (List.range (min (dNThr d) 24)).map fun i =>
    match s.dramWords (dD d 0x40 + 16 * i) 4 with
    | [w, r, p, a] => (w.toNat, r, p, a)
    | _ => (0, 0, 0, 0)

def structIds (s : State) (d : List Word) : List Nat := (structTab s d).map fun e => fget e.1 4 0

/-- HASH: CRC-32 of word 0 of every entry. -/
def structHash (s : State) (d : List Word) : Nat :=
  crc32 0xFFFFFFFF true (wordBytes ((structTab s d).map fun e => BitVec.ofNat 32 e.1))

/-- The signature as four words: N_THR, N_STEP, HASH, CSET_ID. -/
def jobSig (s : State) (d : List Word) : List Word :=
  [BitVec.ofNat 32 (dNThr d), BitVec.ofNat 32 (dNStep d), BitVec.ofNat 32 (structHash s d), BitVec.ofNat 32 (fget (dW d 0x38) 15 0)]

/-- Entry ID of the hold table (R176): the azimuth in force; 0 with HOLD 0. -/
def holdAz (s : State) (d : List Word) (id : Nat) : Word :=
  if dD d 0x4C = 0 then 0 else ((s.dramWords (dD d 0x4C + 4 * id) 1).head?).getD 0

/-- A published step: an ID outside the structure table carries rpm 0, pitch 0 and its azimuth from the hold table (R176). -/
def holdStep (s : State) (d : List Word) (ws : List Word) : List Word :=
  let ids := structIds s d
  (List.range 24).flatMap fun id =>
    if ids.contains id then [ws.getD (3 * id) 0, ws.getD (3 * id + 1) 0, ws.getD (3 * id + 2) 0]
    else [0, 0, holdAz s d id]

/-- Word j of a thruster's entry of the configuration record in force (R174). -/
def thrWord (s : State) (id j : Nat) : Word := (s.lib.record[16 + 16 * id + j]?).getD 0

/-- The bounds of a thruster's rpm and pitch (R174, R175), binary32; all 0 in a job on an empty set, whose CSET_ID is 0xFFFF (R72).
DESIGN CHOICE: only a tunnel turns backwards, and a fixed pitch is the full one. -/
def thrBounds (s : State) (d : List Word) (id q : Nat) : Word × Word :=
  let kind := (thrWord s id 0).toNat
  let top := thrWord s id 4
  if fget (dW d 0x38) 15 0 = 0xFFFF then (0, 0)
  else if q = 0 then (if kind = 2 then top ^^^ 0x80000000 else 0, top)
  else if kind = 4 then (0x3F800000, 0x3F800000)
  else (0xBF800000, 0x3F800000)

/-- A set-point clipped onto its bounds; the azimuth of a thruster that does not turn is pinned, to 0 or for a tunnel to a quarter turn
(R174, R179). Without a record in force nothing is known to clip to. -/
def clipBound (s : State) (d : List Word) (id q : Nat) (x : Word) : Word :=
  let kind := (thrWord s id 0).toNat
  if s.lib.record = [] then x
  else if q = 2 then (if kind = 1 then x else if kind = 2 then 0x3E800000 else 0)
  else
    let (lo, hi) := thrBounds s d id q
    if fpLtB f32 x.toNat lo.toNat then lo else if fpLtB f32 hi.toNat x.toNat then hi else x

/-- A step of the neutral allocation: set-points clipped onto their bounds (R179). -/
def neutralStep (s : State) (d : List Word) : List Word :=
  let tab := structTab s d
  (List.range 24).flatMap fun id =>
    match tab.find? fun e => fget e.1 4 0 == id with
    | some (_, r, p, a) => [clipBound s d id 0 r, clipBound s d id 1 p, clipBound s d id 2 a]
    | none => [0, 0, holdAz s d id]

def neutralPlan (s : State) (d : List Word) : List Word := (List.replicate (dNStep d) (neutralStep s d)).flatten

/-- Step k of a stored plan, the last step repeated beyond its end. -/
def planStep (plan : List Word) (n k : Nat) : List Word := (plan.drop (72 * min k (n - 1))).take 72

/-- Active constraints moved up by `k` steps; those moved out are dropped. -/
def shiftActive (k : Nat) (as : List Word) : List Word :=
  as.filterMap fun w => if wbits w 28 24 < k then none else some (wset w 28 24 (wbits w 28 24 - k))

/-- The QP variables of a plan of the thrusters `ids`, binary64 (R178). DESIGN CHOICE: thruster after thruster in the order of the structure
table, step after step, rpm, pitch and azimuth. -/
def planVars (ids : List Nat) (steps : Nat) (plan : List Word) : List DWord :=
  ids.flatMap fun id => (List.range steps).flatMap fun k => (List.range 3).map fun q =>
    BitVec.ofNat 64 (recast false true ((plan.getD (72 * k + 3 * id + q) 0).toNat))

/-- QP variables moved up by `sh` steps, the last step repeated. -/
def shiftVars (n oldSteps steps sh : Nat) (vars : List DWord) : List DWord :=
  (List.range n).flatMap fun e => (List.range steps).flatMap fun k => (List.range 3).map fun q =>
    vars.getD (3 * (oldSteps * e + min (k + sh) (oldSteps - 1)) + q) 0

/-- The active constraints of thrusters that stay, at their new places; those of no one thruster stay as well (R179). -/
def remapActive (old new : List Nat) (as : List Word) : List Word :=
  as.filterMap fun w =>
    let i := wbits w 23 0
    match Config.conEntry old.length i with
    | none => some w
    | some e => match old[e]?.bind fun id => new.findIdx? (· == id) with
      | some e' => some (wset w 23 0 (Config.conMove old.length new.length i e' % 2 ^ 24))
      | none => none

/-- WARM_START_SELECT (R179): s, the fallback and the warm start with its flag. -/
def warmStart (s : State) (j : CalJob) : CalJob :=
  let d := j.d
  let st := dD d 0x18
  let rd := fun o n => s.dramWords (st + o) n
  let sig := rd 0 4
  let valid := ((rd 0x18 1).head?).getD 0 == 0x0A1C0001
  let sh := (j.runs + 65536 - (((rd 0x10 1).head?).getD 0).toNat % 65536) % 65536
  let ok := valid && decide (1 ≤ sh) && decide (sh ≤ 19)
  let oldN := min ((sig[0]?).getD 0).toNat 24
  let oldS := min ((sig[1]?).getD 0).toNat 20
  let steps := dNStep d
  let stored := rd 0x40 (oldS * 72)
  let shifted := (List.range steps).flatMap fun k => planStep stored oldS (k + sh)
  let act := shiftActive sh (rd 0x4800 (min (((rd 0x14 1).head?).getD 0).toNat 8192))
  let neutral := neutralPlan s d
  let mine := jobSig s d
  let ids := structIds s d
  let neutralV := planVars ids steps neutral
  let oldV := (List.range (3 * oldS * oldN)).map fun i => BitVec.ofNat 64 (rdz s.dram (st + 0x1740 + 8 * i - dramBase) 8)
  let shiftedV := shiftVars oldN oldS steps sh oldV
  let oldIds := Config.planIds (sig ++ stored)
  let mapped := (List.range steps).flatMap fun k =>
    let ws := shifted.drop (72 * k)
    let nt := neutralStep s d
    (List.range 24).flatMap fun id =>
      if ids.contains id && oldIds.contains id then [ws.getD (3 * id) 0, ws.getD (3 * id + 1) 0, ws.getD (3 * id + 2) 0]
      else [nt.getD (3 * id) 0, nt.getD (3 * id + 1) 0, nt.getD (3 * id + 2) 0]
  let mappedV := ids.zipIdx.flatMap fun (id, e) => (List.range (3 * steps)).map fun i =>
    match oldIds.findIdx? (· == id) with
    | some e' => shiftedV.getD (3 * steps * e' + i) 0
    | none => neutralV.getD (3 * steps * e + i) 0
  let (warm, wa, wv, fl) :=
    if !fbit (dW d 0) 8 then (neutral, [], neutralV, 0)
    else if !ok then (neutral, [], neutralV, 2 ^ 9)
    else if sig = mine then (shifted, act, shiftedV, 2 ^ 8)
    else if fbit (dW d 0) 9 then (mapped, remapActive oldIds ids act, mappedV, 2 ^ 10)
    else (neutral, [], neutralV, 2 ^ 9)
  { j with hash := BitVec.ofNat 32 (structHash s d), shift := sh, fallback := if ok then shifted else neutral,
           fbActive := if ok then act else [], fbVars := if ok then shiftedV else neutralV, fbSig := if ok then sig else mine,
           warm, active := wa, vars := wv, flags := j.flags ||| fl }

/-- Write a plan into the state area, the valid word last (R178). -/
def State.putPlan (s : State) (d : List Word) (sig : List Word) (runs : Nat) (plan : List Word) (vars : List DWord)
    (act : List Word) : State :=
  let st := dD d 0x18
  if !inDram st 0x10000 then s
  else
    let o := st - dramBase
    let s := s.dramPut none o (sig ++ [BitVec.ofNat 32 (runs % 65536), BitVec.ofNat 32 (min act.length 8192)])
    let s := s.dramPut none (o + 0x40) (plan.take (dNStep d * 72))
    let s := s.dramPut none (o + 0x1740) (vars.take 1440 |>.flatMap fun v => wordsOf v.toNat 2)
    let s := s.dramPut none (o + 0x4800) (act.take 8192)
    s.dramPut none (o + 0x18) [0x0A1C0001]

/-- The station a job publishes from: that of its lowest-numbered named tile (R158). -/
def pubStation (d : List Word) : Nat := 6 + ((dNamed d).head?).getD 0

/-! ### Endings (R162, R169, R170, R180) -/

/-- FALLBACK_PUBLISH: step 0 released on PUB_CH and the fallback put in force. -/
def State.calFallback (s : State) (j : CalJob) : State :=
  let step := (holdStep s j.d (j.fallback.take 72)).take (dW j.d 0x48 / 4)
  (s.feltPublish (pubStation j.d) (fget (dW j.d 0x38) 21 16) step).putPlan j.d j.fbSig j.runs j.fallback j.fbVars j.fbActive

/-- JOB_COMMIT: DRAM outputs first, the ALLOC state area with the plan, Felt messages last. -/
def State.calCommit (s : State) (j : CalJob) : State :=
  let s := j.staged.foldl (fun s o => match o with | .dram a ws => s.dmaPut a ws | .felt _ _ => s) s
  let plan := (j.staged.findSome? fun o => match o with | .dram _ ws => some ws | .felt _ _ => none).getD []
  let s := if isAlloc j.d then s.putPlan j.d (jobSig s j.d) j.runs plan j.vars j.active else s
  let st := pubStation j.d
  (j.staged.foldl (fun (p : State × Bool) o => match o with
    | .dram _ _ => p
    | .felt ch ws =>
      let ws' := if isAlloc j.d && !p.2 && ws.length == 72 then holdStep p.1 j.d ws else ws
      (p.1.feltPublish st ch ws', true)) (s, false)).1

/-- The status record (R169). -/
def statusRec (s : State) (j : CalJob) (code flags : Nat) : List Word :=
  let d := j.d
  let mask := j.tiles.foldl (fun m n => m + 2 ^ n) 0
  let plan := s.dramWords (dD d 0x18 + 0x40) 72
  let alloc := isAlloc d
  [code + flags, dId d + 65536 * mask, j.startExt, s.rdN Reg.TIM_NOW, j.iters, min j.pivots 0xFFFF + 65536 * min j.clipped 0xFFFF,
    j.firstPiv.getD 0xFFFFFFFF, j.ratio.toNat, j.hash.toNat, dW d 0x3C,
    if alloc then (((s.dramWords (dD d 0x18 + 0x10) 1).head?).getD 0).toNat else 0, j.shift].map (BitVec.ofNat 32)
  ++ (if alloc then [Config.achieved plan 0, Config.achieved plan 1, Config.achieved plan 2] else [0, 0, 0]) ++ [0]

/-- Which endings publish an ALLOC job's fallback (R170); `bad`: a faulted tile. -/
def publishesFallback (code : Nat) (bad : Option Nat) (d : List Word) : Bool :=
  (code == 2 || code == 3 || code == 6 || code == 8 || code == 11) || (code == 7 && bad != (dNamed d).head?)

/-- The descriptor of a job that may not have started: read from DRAM. -/
def jobDesc (s : State) (j : CalJob) : List Word := if j.d = [] then (readDesc s j.desc).getD [] else j.d

/-- DEADLINE_NS after the start event has come; a waiting FIFO job has had no start event (R165, R167). -/
def deadlineDue (s : State) (j : CalJob) : Bool :=
  let ns := dW (jobDesc s j) 0x14
  decide (ns ≠ 0) && decide (j.startClk + ns ≤ s.clk) && !(j.run == .waiting && j.cls != 0)

/-- The library offers a survey's result: the RMS has fallen by 10 % at least, and every update lies within three standard deviations of
its prior (R185). -/
def surveyOffer (outs : List Staged) : Bool :=
  let (was, now, ups) := Config.surveyResult (outs.filterMap fun o => match o with | .dram a ws => some (a, ws) | .felt _ _ => none)
  cLe true (cMul true (cOfInt true 10) now) (cMul true (cOfInt true 9) was) &&
    ups.all fun u => cLe true (cAbs true u.1) (cMul true (cOfInt true 3) u.2)

/-- JOB_END (R170): job k ends with a code; STALE wins over another ending of the same instant. An ESTIM job publishes nothing unless DONE
(R182). -/
def State.endJob (s : State) (k code : Nat) (bad : Option Nat) : State :=
  match s.cal.jobs[k]? with
  | none => s
  | some j =>
    let code := if deadlineDue s j then 2 else code
    let good := code ≤ 1
    let s := if good ∧ (code = 0 ∨ dKind j.d ≠ 2) then s.calCommit j else s
    let s := if code = 0 ∧ dKind j.d = 4 then { s with lib := { s.lib with offered := surveyOffer j.staged } } else s
    let fb := !good && isAlloc j.d && j.started && publishesFallback code bad j.d
    let s := if fb then s.calFallback j else s
    let flags := j.flags ||| (if fb then 2 ^ 13 else 0)
    let s := if j.d = [] then s else s.dmaPut (dD j.d 0x20) (statusRec s j code flags)
    let s := s.flag Reg.CAL_STAT 0
    let s := if good then s else s.flag Reg.CAL_STAT 1
    let s := if !dIrq j.d then s
      else if good then (if s.bit Reg.CAL_IRQ_EN 0 then s.raiseIrq 20 else s)
      else if s.bit Reg.CAL_IRQ_EN 1 then s.raiseIrq 21 else s
    s.setJobs (s.cal.jobs.eraseIdx k)

/-- End every job that satisfies `p`, oldest first. -/
def State.endJobsWhere (s : State) (p : CalJob → Bool) (code : Nat) (bad : Option Nat) : State :=
  (List.range s.cal.jobs.length).reverse.foldl (fun s k =>
    match s.cal.jobs[k]? with
    | some j => if p j then s.endJob k code bad else s
    | none => s) s

/-- CAL_ABORT: every running, suspended or waiting job with the JOB_ID. -/
def calAbort (id : Nat) (s : State) : State :=
  let s := s.modCal fun c => { c with jobs := c.jobs.map fun j => { j with d := jobDesc s j } }
  s.endJobsWhere (fun j => dId j.d == id && j.d != []) 6 none

def execCalAbort (id : BitVec 16) (s : State) : Out1 := .next (s.ifOn 5 (calAbort id.toNat))

/-! ### Checks before the first macro-instruction (R162, R165) -/

/-- The handle table entry in four words (R159). -/
def hdlOf (ws : List Word) : Hdl :=
  let w := fun i => ((ws[i]?).getD 0).toNat
  ⟨fget (w 0) 19 0, fget (w 1) 15 0, fget (w 1) 31 16, fget (w 2) 15 0, fbit (w 2) 16, fget (w 2) 19 17, fget (w 2) 31 24⟩

def macroOf (ws : List Word) : Macro :=
  let w := fun i => ((ws[i]?).getD 0).toNat
  ⟨fget (w 0) 7 0, fget (w 0) 15 8, fget (w 0) 31 16, fget (w 1) 7 0, fget (w 1) 15 8, fget (w 1) 23 16, fget (w 1) 31 24, w 2, w 3⟩

/-- How many of H0-H3 an OP uses, given its FLAGS. -/
def opHandles (m : Macro) : List Nat :=
  match m.op with
  | 1 => if m.flags % 4 = 2 then [m.h0, m.h1] else [m.h0]
  | 2 | 3 | 4 | 14 => [m.h0]
  | 5 | 11 | 12 => [m.h0, m.h1]
  | 6 | 7 => if m.flags % 2 = 1 then [m.h0, m.h1, m.h2] else [m.h0, m.h1]
  | 8 | 9 => [m.h0, m.h1, m.h2]
  | 10 => [m.h0, m.h2]
  | 13 => if m.h2 = 255 then [m.h0, m.h1, m.h3] else [m.h0, m.h1, m.h2, m.h3]
  | _ => []

/-- FLAGS an OP admits. -/
def opFlagsOk (m : Macro) : Bool :=
  match m.op with
  | 1 => decide (m.flags < 8) && m.flags % 4 != 3
  | 2 | 6 | 7 | 8 | 10 | 12 => decide (m.flags < 2)
  | 9 => decide (m.flags < 4)
  | 3 | 4 | 5 | 11 | 13 | 14 | 15 => m.flags == 0
  | _ => false

/-- Do the operands' shapes conform? DESIGN CHOICE: a SHIFT by blocks of no rows, or of more than H0 has, does not. -/
def opShapeOk (hs : List Hdl) (m : Macro) : Bool :=
  let h := fun i => (hs[i]?).getD ⟨0, 0, 0, 0, false, 0, 0⟩
  let a := h m.h0
  let b := h m.h1
  let c := h m.h2
  let t := m.flags % 2 == 1
  let ar := if t then a.cols else a.rows
  let ac := if t then a.rows else a.cols
  match m.op with
  | 1 => m.flags % 4 != 2 || (a.rows == b.rows && a.cols == b.cols)
  | 3 | 4 => a.rows == a.cols
  | 5 => b.rows == min a.rows a.cols && b.cols == 1
  | 6 => if t then b.rows == a.rows && c.rows == min a.rows a.cols else a.rows == a.cols && b.rows == a.rows
  | 7 => if t then a.rows == a.cols && decide (a.rows ≤ 64) && b.rows == a.rows && b.cols == 1 && c.rows == a.rows && c.cols == 1
    else decide (a.cols ≤ a.rows) && (b.rows == a.rows || b.rows == a.cols)
  | 8 => b.rows == ac && b.cols == 1 && c.rows == ar && c.cols == 1
  | 9 =>
    let bt := fbit m.flags 1
    let br := if bt then b.cols else b.rows
    let bc := if bt then b.rows else b.cols
    ac == br && c.rows == ar && c.cols == bc
  | 10 => c.rows == ar && c.cols == ar
  | 11 => a.rows == b.rows && a.cols == b.cols
  | 13 =>
    let mr := if m.h2 = 255 then 0 else c.rows
    let q := h m.h3
    a.rows == a.cols && b.rows == a.rows && b.cols == 1 && (m.h2 == 255 || c.cols == a.rows) && q.rows == a.rows + mr && q.cols == 4
  | 14 => decide (1 ≤ m.p1) && decide (m.p1 ≤ a.rows)
  | _ => true

/-- Where a job's handles lie: on the tiles that run it, in its region. -/
def jobLay (d : List Word) (tiles : List Nat) : CalLay := ⟨tiles, dLsBase d, dLsSize d⟩

/-- PROGRAM_CHECK: the code a rejected job ends with. DESIGN CHOICE: an offset that is not 64-byte aligned and a structure code of 5 to 7
give BAD_DESC, a leading dimension below the rows BAD_DIM; R162 names neither. -/
def progCheck (d : List Word) (tiles : List Nat) (nh : Nat) (hs : List Hdl) (ms : List Macro) : Option Nat :=
  if nh < 1 ∨ 64 < nh ∨ hs.any (fun h => h.off % 64 != 0 || decide (4 < h.str)) ∨
      ms.any (fun m => !opFlagsOk m || (opHandles m).any fun i => decide (nh ≤ i)) ∨
      hs.any (fun h => !h.fits (jobLay d tiles)) then some 5
  else if hs.any (fun h => h.rows == 0 || h.cols == 0 || decide (h.ld < h.rows)) ∨ ms.any (fun m => !opShapeOk hs m) then some 4
  else none

/-- The descriptor's own checks. -/
def descCheck (d : List Word) : Option Nat :=
  let base := dW d 0x30
  let size := dLsSize d
  if 5 ≤ dKind d ∨ dNamed d = [] ∨ dW d 4 < 1 ∨ 200 < dW d 4 ∨ dD d 8 % 16 ≠ 0 ∨ dW d 0x10 < 1 ∨ 4096 < dW d 0x10 ∨
      base % 4096 ≠ 0 ∨ size % 4096 ≠ 0 ∨ size = 0 ∨ 0x100000 < base + size ∨ !inDram (dD d 8) (16 * dW d 0x10) ∨
      (isAlloc d ∧ (dW d 0x48 < 4 ∨ 512 < dW d 0x48 ∨ dW d 0x48 % 4 ≠ 0)) then some 5
  else if isAlloc d ∧ (dNThr d = 0 ∨ 24 < dNThr d ∨ dNStep d = 0 ∨ 20 < dNStep d) then some 4
  else none

/-- Do two jobs' local store regions meet on a common tile (R168)? -/
def lsOverlap (d e : List Word) : Bool :=
  (dNamed d).any (fun n => (dNamed e).contains n) && decide (dLsBase d < dLsBase e + dLsSize e) &&
    decide (dLsBase e < dLsBase d + dLsSize d)

/-- May job k start (R167)? FIFO order in its class; its tiles free of running jobs and of suspended ones of its class or
higher. -/
def mayStart (s : State) (k : Nat) (j : CalJob) (d : List Word) : Bool :=
  (j.cls == 0 || (s.cal.jobs.take k).all fun e => !(e.cls == j.cls && e.run == .waiting)) &&
  s.cal.jobs.all fun e => !((jobNamed e).any fun n => (dNamed d).contains n) ||
    !(e.run == .running || (e.run == .suspended && decide (e.cls ≤ j.cls)))

/-- A job bound to its descriptor: its tiles, those named and not masked, and MASKED where they are fewer (R158, R169). -/
def CalJob.bind (j : CalJob) (s : State) (d : List Word) : CalJob :=
  let tiles := (dNamed d).filter fun n => !s.bit Reg.CAL_TILE_MASK n
  { j with d, tiles, flags := if tiles.length < (dNamed d).length then 2 ^ 17 else 0 }

/-- A tile of a job runs below 600 MHz (R169). -/
def calSlow (s : State) (tiles : List Nat) : Bool := tiles.any fun n => s.bits (Reg.CAL_T_STAT n) 3 2 != 0

/-- The job as it runs its first macro-instruction, with the mailbox views of every tile it names, or the code it ends with at once. -/
def prepare (s : State) (j : CalJob) (d : List Word) : Sum Nat CalJob :=
  let j := j.bind s d
  match descCheck d with
  | some c => .inl c
  | none =>
    if j.tiles = [] then .inl 9
    else if s.cal.jobs.any (fun e => isResident e && lsOverlap d e.d) then .inl 10
    else
      let pa := dD d 8
      let nh := fget (((s.dramWords pa 1).head?).getD 0).toNat 7 0
      let hs := (List.range nh).map fun i => hdlOf (s.dramWords (pa + 16 + 16 * i) 4)
      let ms := (List.range (dW d 0x10)).map fun i => macroOf (s.dramWords (pa + 16 + 16 * nh + 16 * i) 4)
      match progCheck d j.tiles nh hs ms with
      | some c => .inl c
      | none =>
        let j := { j with hdls := hs, prog := ms, run := .running, started := true,
                          views := s.cal.box.filter fun e => (dNamed d).contains (e.1 / 8),
                          flags := j.flags ||| (if calSlow s j.tiles then 2 ^ 16 else 0) }
        .inr (if isAlloc d then warmStart s j else j)

/-- JOB_START. -/
def jobStart (k : Nat) (s : State) : State :=
  match s.cal.jobs[k]? with
  | none => s
  | some j =>
    if j.run ≠ .waiting then s
    else
      -- A FIFO job's deadline counts from here.
      let j := if j.cls = 0 then j else { j with startExt := s.rdN Reg.TIM_NOW, startClk := s.clk }
      match readDesc s j.desc with
      | none => if mayStart s k j [] then s.endJob k 5 none else s
      | some d =>
        if !mayStart s k j d then s
        else
          let asleep := (dNamed d).filter fun n => !s.domOn (5 + n)
          if asleep ≠ [] then asleep.foldl (fun s n => s.wake (5 + n)) s
          else match prepare s j d with
            | .inl c => (s.setJob k (j.bind s d)).endJob k c none
            | .inr j' => s.setJob k j'

def execJobStart (j : Nat) (s : State) : Out1 := .next (s.ifOn 5 fun s => s.ifOn 0 (jobStart j))

/-- JOB_PREEMPT (R167): a running job of a lower class than a waiting one on its tiles is suspended. -/
def jobPreempt (k : Nat) (s : State) : State :=
  match s.cal.jobs[k]? with
  | none => s
  | some j =>
    if j.run = .waiting then
      let named := dNamed (jobDesc s j)
      s.setJobs (s.cal.jobs.map fun e =>
        if e.run == .running && decide (j.cls < e.cls) && (jobNamed e).any (fun n => named.contains n) then { e with run := .suspended }
        else e)
    else s

def execJobPreempt (j : Nat) (s : State) : Out1 := .next (s.ifOn 5 (jobPreempt j))

/-- JOB_RESUME (R167): on tiles free again of running jobs and of suspended ones of a higher class. -/
def jobResume (k : Nat) (s : State) : State :=
  match s.cal.jobs[k]? with
  | none => s
  | some j =>
    let free := s.cal.jobs.all fun e => !((jobNamed e).any fun n => (jobNamed j).contains n) ||
      !(e.run == .running || (e.run == .suspended && decide (e.cls < j.cls)))
    if j.run = .suspended ∧ free then
      s.setJob k { j with run := .running, flags := j.flags ||| (if calSlow s j.tiles then 2 ^ 16 else 0) }
    else s

def execJobResume (j : Nat) (s : State) : Out1 := .next (s.ifOn 5 (jobResume j))

/-- JOB_END of a job whose program has ended: DONE, or ITLIMIT where QP.STEP stopped at its limit (R164). -/
def jobEnd (k : Nat) (s : State) : State :=
  match s.cal.jobs[k]? with
  | none => s
  | some j => if j.run = .running ∧ j.prog.length ≤ j.pc then s.endJob k (b2n j.limited) none else s

def execJobEnd (j : Nat) (s : State) : Out1 := .next (s.ifOn 5 (jobEnd j))

/-- JOB_DEADLINE: DEADLINE_NS after the start event the job ends STALE. -/
def jobDeadline (k : Nat) (s : State) : State :=
  match s.cal.jobs[k]? with
  | none => s
  | some j =>
    if deadlineDue s j then (s.setJob k { j with d := jobDesc s j }).endJob k 2 none else s

def execJobDeadline (j : Nat) (s : State) : Out1 := .next (s.ifOn 5 (jobDeadline j))

/-! ### Throttling and faults (R154, R155) -/

/-- CAL_THROTTLE: the tile's clock stage by its sensor; every change sets THROTTLE_EVT and is reported. -/
def calThrottle (t : Nat) (temp : Int) (s : State) : State :=
  let old := s.bits (Reg.CAL_T_STAT t) 3 2
  let new := if 1184 < temp then 2 else if 1168 < temp then 1 else if temp < 1152 then 0 else old
  if new = old then s
  else
    let s := (s.setBits (Reg.CAL_T_STAT t) 3 2 new).ifOn 5 fun s => s.calEvt 3
    let s := s.dcReportLimited (5 + t) 1 10 new 0 0
    s.modCal fun c => { c with jobs := c.jobs.map fun j =>
      if j.run == .running && j.tiles.contains t && new != 0 then { j with flags := j.flags ||| 2 ^ 16 } else j }

def execCalThrottle (t : Fin 4) (temp : Int) (s : State) : Out1 := .next (s.ifOn (5 + t.val) (calThrottle t.val temp))

/-- A tile faults or leaves ON: its jobs end TILE_FAULT, its local store and mailboxes are lost; with tile 0, which holds the common logic,
the queues go as well (R153, R154). DESIGN CHOICE: with tile 0 running and suspended jobs of other tiles end TILE_FAULT too, and waiting
ones vanish with no ending and no status record. -/
def State.calTileLost (s : State) (t : Nat) : State :=
  let s := s.endJobsWhere (fun j => isResident j && (t == 0 || (jobNamed j).contains t)) 7 (some t)
  let s := s.modCal fun c => { c with mem := sdrop (fun a => a / 2 ^ 20 == t) c.mem, box := sdrop (fun k => k / 8 == t) c.box,
                                      jobs := if t = 0 then [] else c.jobs }
  s.calSync

end Sys2Proof.Machine
end

