-- ==== Sys2Proof/Machine/Fusion.lean ====
section
/-! DEFINITION. The Fusion unit's sensors, clock models, submission ring, transform banks and serial ports (R216-R226,
R238-R242). The alignment close is in FusionClose.lean. -/

namespace Sys2Proof.Machine

def State.modFsn (s : State) (f : FsnSt → FsnSt) : State := { s with fsn := f s.fsn }
def State.snsH (s : State) (k : Nat) : FsnSns := sget (fun _ => fsnSnsIdle) s.fsn.sns k
def State.setSnsH (s : State) (k : Nat) (x : FsnSns) : State :=
  s.modFsn fun f => { f with sns := sset (fun _ => fsnSnsIdle) f.sns k x }

/-- FSN_STAT: bits 0, 1, 7 on source 29; 4, 5 on 30; 10 on 28; the others on 31. -/
def State.fsnStat (s : State) (i : Nat) : State :=
  s.setStat Reg.FSN_STAT Reg.FSN_IRQ_EN
    (if i = 0 ∨ i = 1 ∨ i = 7 then 29 else if i = 4 ∨ i = 5 then 30 else if i = 10 then 28 else 31) i

/-! ### Transform banks (R218-R220) -/

/-- The bank in force. -/
def xfActive (s : State) : Nat := s.bits Reg.FSN_XF_CTL 0 0

/-- Word w of a sensor's entry in a bank. -/
def xfW (s : State) (bank k w : Nat) : Word := s.rd (Reg.FSN_XF_W (64 * bank + k) w)

/-- The bank a sample is transformed with: at a close the bank in force; a late sample's the one in force at its epoch, the old one being
kept for 400 ms after a switch (R219, R220). -/
def xfBank (s : State) (late : Bool) (epoch : Int) : Nat :=
  match late, s.fsn.switch with
  | true, some (_, at_) => if epoch < at_ then 1 - xfActive s else xfActive s
  | _, _ => xfActive s

/-- XF_COMMIT: refused with XF_REFUSED while BUSY. -/
def xfCommit (s : State) : State :=
  if s.bit Reg.FSN_XF_CTL 2 then s.fsnStat 9
  else ((s.setBit Reg.FSN_XF_CTL 1 true).setBit Reg.FSN_XF_CTL 2 true).modFsn fun f => { f with commit := some s.clk }

def execXfCommit (s : State) : Out1 := .next (s.ifOn 10 xfCommit)

/-- XF_HOLD_END: 400 ms after the switch. -/
def xfHoldEnd (s : State) : State :=
  match s.fsn.switch with
  | none => s
  | some (t, _) =>
    if s.clk < t + 400000000 then s
    else (s.modFsn fun f => { f with switch := none }).setBit Reg.FSN_XF_CTL 2 (s.fsn.commit.isSome)

def execXfHoldEnd (s : State) : Out1 := .next (s.ifOn 10 xfHoldEnd)

/-! ### Clock models (R222, R223): CLOCK 0 OFF, 1 ACQUIRE, 2 VALID, 3 SUSPECT -/

def snsClock (s : State) (k : Nat) : Nat := s.bits (Reg.FSN_SNS_STAT k) 1 0

/-- Each change of state sets SNS. -/
def State.setClock (s : State) (k st : Nat) : State :=
  if snsClock s k = st then s else (s.setBits (Reg.FSN_SNS_STAT k) 1 0 st).fsnStat 3

def snsOfs (s : State) (k : Nat) : Int := (BitVec.ofNat 64 (s.rd64 (Reg.FSN_SNS_OFS_LO k) (Reg.FSN_SNS_OFS_HI k))).toInt
def snsDrift (s : State) (k : Nat) : Int := (s.rd (Reg.FSN_SNS_DRIFT k)).toInt

def State.setModel (s : State) (k : Nat) (o d : Int) : State :=
  (s.wr64 (Reg.FSN_SNS_OFS_LO k) (Reg.FSN_SNS_OFS_HI k) (BitVec.ofInt 64 o).toNat).wr (Reg.FSN_SNS_DRIFT k) (BitVec.ofInt 32 d)

/-- A tag mapped through the clock model: tag + o + d × (tag − a). -/
def mapTag (s : State) (k : Nat) (tag : Int) : Int :=
  tag + snsOfs s k + snsDrift s k * (tag - (s.snsH k).anchor) / 2 ^ 40

/-- PERIOD in ns. -/
def snsPeriod (s : State) (k : Nat) : Nat := s.bits (Reg.FSN_SNS_CFG k) 27 8 * 1000

/-- The residual of a sample (R223). -/
def residual (s : State) (k : Nat) (tag : Option Int) (stamped epoch : Int) : Int :=
  match tag with
  | some t => stamped - mapTag s k t
  | none =>
    let p := snsPeriod s k
    if p = 0 then 0
    else
      let iv := epoch - (s.snsH k).last
      let n := max 1 ((2 * iv + p) / (2 * p : Int))
      iv - n * p - n * p * snsDrift s k / 2 ^ 40

/-- Start a model from a sample: o from it, d = 0, a = its tag. -/
def State.startModel (s : State) (k : Nat) (tag : Option Int) (stamped : Int) : State :=
  let s := s.setModel k (match tag with | some t => stamped - t | none => 0) 0
  s.setSnsH k { s.snsH k with anchor := tag.getD 0, started := true, good := 0, last := stamped }

/-- CLOCK_MODEL_UPDATE (R223): a sample that starts a model anew has its stamp, less LATENCY, as its epoch. -/
def State.clockUpdate (s : State) (k : Nat) (tag : Option Int) (stamped epoch : Int) : State :=
  let x := s.snsH k
  if !x.started then s.startModel k tag stamped
  else
    let r := residual s k tag stamped epoch
    let p := snsPeriod s k
    let thr : Int := min p 50000000
    let s := s.wr (Reg.FSN_SNS_RES k) (BitVec.ofInt 32 r)
    let far := p ≠ 0 ∧ thr < r.natAbs
    let near := p = 0 ∨ 2 * (r.natAbs : Int) ≤ thr
    let dt := max 1 (epoch - x.last)
    let upd := fun (s : State) =>
      (s.setModel k (snsOfs s k + r / 16) (snsDrift s k + r * 2 ^ 40 / (256 * dt))).setSnsH k { s.snsH k with last := epoch }
    match snsClock s k with
    | 2 =>
      if far then ((s.setClock k 3).startModel k tag stamped) else upd s
    | 0 => s
    | _ =>
      if far then (s.setClock k (if snsClock s k = 3 then 3 else 1)).startModel k tag stamped
      else
        let good := if near then x.good + 1 else 0
        let s := upd s
        let s := s.setSnsH k { s.snsH k with good }
        if 20 ≤ good then s.setClock k 2 else s

/-- SENSOR_EN_WRITE: setting EN starts ACQUIRE, clearing it returns to OFF. -/
def sensorEn (k : Nat) (v : Word) (s : State) : State :=
  let was := s.bit (Reg.FSN_SNS_CFG k) 0
  let s := s.wr (Reg.FSN_SNS_CFG k) (v &&& 0x0FFFFF7F)
  let fresh := (s.setSnsH k fsnSnsIdle).setBit (Reg.FSN_SNS_STAT k) 2 false
  if wbit v 0 && !was then fresh.setClock k 1
  else if !wbit v 0 && was then fresh.setClock k 0
  else s

def execSensorEnWrite (k : Fin 64) (v : Word) (s : State) : Out1 := .next (s.ifOn 10 (sensorEn k.val v))

/-! ### Accepting a sample (R225, R226) -/

/-- Count in a field of FSN_SNSs_CNT: 0 LATE_DISC, 1 EXCESS, 2 DUP, 3 INVALID. -/
def State.snsCount (s : State) (k f : Nat) : State := s.addSat (Reg.FSN_SNS_CNT k) (8 * f + 7) (8 * f) 1

/-- The secondary IMU named in FSN_EGO_CFG. -/
def secondary (s : State) : Option Nat :=
  let n := s.bits Reg.FSN_EGO_CFG 5 0
  if 4 ≤ n then some n else none

/-- The step, counted back from the last close, whose window holds an epoch. -/
def stepBack (s : State) (epoch : Int) : Int := (s.fsn.lastTr - epoch) / 10000000

/-- Is a sample that of the IMU being integrated: ID 3, or the secondary while it stands in (R226, R230)? -/
def isEgo (s : State) (x : FsnSmp) : Bool := x.kind == 5 && (x.id == 3 || (s.fsn.sec && secondary s == some x.id))

/-- A valid sample of ID 3: the primary is integrated (R230). -/
def State.imuPrimary (s : State) : State :=
  if !wbit (xfW s (xfActive s) 3 7) 0 then s
  else s.modFsn fun f => { f with lastImu := s.clk, sec := false, since := if f.sec then s.ext else f.since }

/-- Does a sample find its step full (R226)? 4 samples a step, the observables of one epoch being one. -/
def stepFull (s : State) (x : FsnSmp) (epoch : Int) : Bool :=
  let h := s.snsH x.id
  let inStep := fun (e : Int × Bool) => e.2 && stepBack s e.1 == stepBack s epoch
  !isEgo s x && decide (4 ≤ (h.recent.countP inStep) + ((h.obs.filter fun e => e.1 != epoch).countP inStep))

/-- Remember an accepted epoch, and whether it takes part. -/
def State.noteEpoch (s : State) (k kind : Nat) (epoch : Int) (used : Bool) : State :=
  let h := s.snsH k
  if kind ≠ 0 then s.setSnsH k { h with recent := (epoch, used) :: h.recent }
  else if h.obs.any fun e => e.1 == epoch then s
  else s.setSnsH k { h with obs := (epoch, used) :: h.obs }

/-- A sample of an enabled sensor: duplicates (R225), the clock model, which the observables of one epoch update once (R223), the future and
the limit of 4 in a step (R226). -/
def State.fsnSample (s : State) (x : FsnSmp) (stamp : Int) (tag : Option Int) : State :=
  let k := x.id
  let stamped := stamp - (xfW s (xfActive s) k 6).toInt
  let tag := if s.bit (Reg.FSN_SNS_CFG k) 4 then tag else none
  let epoch := match tag with | some t => if (s.snsH k).started then mapTag s k t else stamped | none => stamped
  if x.kind ≠ 0 ∧ (s.snsH k).recent.any (fun e => decide ((e.1 - epoch).natAbs ≤ 1000)) then s.snsCount k 2
  else
    let again := x.kind == 0 && (s.snsH k).obs.any fun e => e.1 == epoch
    let s := if again then s else s.clockUpdate k tag stamped epoch
    let future := decide ((s.ext : Int) + 50000000 < epoch)
    let live := snsClock s k == 2 && !future
    let full := stepFull s x epoch
    let s := if future || (live && full) then s.snsCount k 1 else s
    let used := live && !full
    let s := s.noteEpoch k x.kind epoch used
    if !used then s
    else
      let s := if k = 3 ∧ x.kind = 5 then s.imuPrimary else s
      s.modFsn fun f => { f with buf := f.buf ++ [{ x with epoch, procAt := s.clk, ego := isEgo s x }] }

/-- Values and standard deviations a kind carries. -/
def kindVals (kind : Nat) : Nat × Nat := match kind with | 4 => (2, 2) | 5 => (6, 2) | _ => (3, 3)

/-- Is a binary32 word finite? -/
def finite32 (w : Word) : Bool := wbits w 30 23 != 255

/-- A record of the submission ring (R224, R225). -/
def State.fsnRecord (s : State) (ws : List Word) : State :=
  let w0 := ws.getD 0 0
  let w1 := ws.getD 1 0
  let k := wbits w0 5 0
  let kind := wbits w0 11 8
  let (nv, ns) := kindVals kind
  let vals := (ws.drop 6).take 6
  let sds := (ws.drop 12).take 3
  let i64 := fun i => (BitVec.ofNat 64 ((ws.getD i 0).toNat + 2 ^ 32 * (ws.getD (i + 1) 0).toNat)).toInt
  if kind = 0 ∨ 6 ≤ kind ∨ !s.bit (Reg.FSN_SNS_CFG k) 0 ∨ !((vals.take nv).all finite32) ∨ !((sds.take ns).all finite32) then s.fsnStat 6
  else s.fsnSample ⟨k, kind, 0, 0, vals, sds, wbits w1 7 0, wbits w1 15 8, false, 0, false⟩ (i64 2) (if wbit w0 12 then some (i64 4) else none)

/-- SUBQ_WRITE: bits [5:0] are ignored. -/
def subqWrite (v : Word) (s : State) : State := s.wr Reg.FSN_SUBQ_WR (v &&& 0xFFFFFFC0)

def execSubqWrite (v : Word) (s : State) : Out1 := .next (s.ifOn 10 (subqWrite v))

/-- SAMPLE_RECORD_PROCESS: the record at RD; RD advances. -/
def sampleRecord (s : State) : State :=
  let cfg := s.rd Reg.FSN_SUBQ_CFG
  let size := 2 ^ min (wbits cfg 27 24) 8 * 4096
  let rd := s.rdN Reg.FSN_SUBQ_RD % size
  if !wbit cfg 19 ∨ rd = s.rdN Reg.FSN_SUBQ_WR % size then s
  else (s.fsnRecord (s.dramWords (dramBase + wbits cfg 18 0 * 4096 + rd) 16)).wrN Reg.FSN_SUBQ_RD ((rd + 64) % size)

def execSampleRecordProcess (s : State) : Out1 := .next (s.ifOn 10 sampleRecord)

/-- IMU_SECONDARY_SWITCH: no valid ID 3 sample for 5 ms. -/
def imuSwitch (s : State) : State :=
  if s.fsn.sec ∨ s.clk < s.fsn.lastImu + 5000000 then s else s.modFsn fun f => { f with sec := true, since := s.ext }

def execImuSecondarySwitch (s : State) : Out1 := .next (s.ifOn 10 imuSwitch)

/-- An IMU message of station 12: the nine words of R254. -/
def State.fsnImu (s : State) (msg : Msg) : State :=
  if !s.bit (Reg.FSN_SNS_CFG 3) 0 ∨ msg.length < 9 then s
  else
    let t : Int := (msg.getD 0 0).toNat + 2 ^ 32 * (msg.getD 1 0).toNat
    s.fsnSample ⟨3, 5, 0, 0, (msg.drop 2).take 6, [], 255, 0, false, 0, false⟩ (t + (xfW s (xfActive s) 3 6).toInt) none

/-- Observable records of the baseband (R202, R233): one GNSS sample per record of a channel in TRACK, which is not in PULLIN, with PLL_LOCK,
at the epoch's time; its C/N0 and flags stand where another sample has standard deviations (R229). -/
def State.fsnObs (s : State) (time : Nat) (msg : Msg) : State :=
  (List.range (msg.length / 8)).foldl (fun s i =>
    let r := (msg.drop (8 * i)).take 8
    let w0 := r.getD 0 0
    let a := wbits w0 9 8
    if !wbit (r.getD 7 0) 0 ∨ wbit (r.getD 7 0) 1 ∨ !s.bit (Reg.FSN_SNS_CFG a) 0 then s
    else s.fsnSample ⟨a, 0, 0, 0, (r.drop 2).take 5 ++ [0], [r.getD 1 0 &&& 0xFFF, r.getD 7 0, 0], 255, 0, false, wbits w0 7 0, false⟩
      (time + (xfW s (xfActive s) a 6).toInt) none) s

def State.trkH (s : State) (t : Nat) : FsnTrk := sget (fun _ => fsnTrkIdle) s.fsn.trk t
def State.setTrkH (s : State) (t : Nat) (x : FsnTrk) : State :=
  s.modFsn fun f => { f with trk := sset (fun _ => fsnTrkIdle) f.trk t x }

/-- TRACK_FIX (R236): FIX words and FIXED; a reference from then on, with no position implied yet. -/
def trackFix (t : Nat) (n e d : Word) (s : State) : State :=
  let s := ((s.wr (Reg.FSN_TRK_FIX t 0) n).wr (Reg.FSN_TRK_FIX t 1) e).wr (Reg.FSN_TRK_FIX t 2) d
  if s.bits (Reg.FSN_TRK_W t 0) 1 0 = 0 then s
  else
    let s := s.setTrkH t { s.trkH t with fix := none, rej := false, passes := 0 }
    (s.setBit (Reg.FSN_TRK_W t 0) 2 true).setBit (Reg.FSN_TRK_FIXED t) 0 true

def execTrackFix (t : Fin 128) (n e d : Word) (s : State) : Out1 := .next (s.ifOn 10 (trackFix t.val n e d))

/-! ### Serial ports (R238-R242) -/

def State.serH (s : State) (n : Nat) : SerSt := sget (fun _ => serIdle) s.fsn.ser n
def State.setSerH (s : State) (n : Nat) (x : SerSt) : State :=
  let s := s.modFsn fun f => { f with ser := sset (fun _ => serIdle) f.ser n x }
  (s.setBits (Reg.FSN_SER_STAT n) 16 8 x.rx.length).setBits (Reg.FSN_SER_STAT n) 25 17 x.tx.length

/-- A port's event bit, and FSN_STAT.SER. -/
def State.serEvent (s : State) (n i : Nat) : State := (s.flag (Reg.FSN_SER_STAT n) i).fsnStat 10

/-- FSN_STAT.SER: some port's event bit is set. -/
def State.serSync (s : State) : State :=
  s.setBit Reg.FSN_STAT 10 ((List.range 8).any fun n => s.bits (Reg.FSN_SER_STAT n) 4 0 != 0)

def serBaud (s : State) (n : Nat) : Nat :=
  let b := s.bits (Reg.FSN_SER_CFG n) 23 4
  if b < 1200 ∨ 460800 < b then 4800 else b

def serParity (s : State) (n : Nat) : Bool := s.bits (Reg.FSN_SER_CFG n) 3 2 == 1 || s.bits (Reg.FSN_SER_CFG n) 3 2 == 2

/-- Does the port take no character: EN clear, or it drives the RS-485 line itself (R239)? -/
def serDeaf (n : Nat) (s : State) : Bool := !s.bit (Reg.FSN_SER_CFG n) 0 || (s.bit (Reg.FSN_SER_CFG n) 1 && (s.serH n).drive)

/-- SER_CHAR_RX (R238, R239): a delimiter event arms the capture line for the next start bit (R240). -/
def serRx (n : Nat) (b : Byte) (fe pe : Bool) (s : State) : State :=
  let x := s.serH n
  if serDeaf n s then s
  else if 256 ≤ x.rx.length then s.serEvent n 4
  else
    let s := s.setSerH n { x with armed := !fe && !pe && (b == 0x24 || b == 0x21), rx := x.rx ++ [BitVec.ofNat 32 (b.toNat + 256 + 512 * b2n fe + 1024 * b2n pe)] }
    let s := if fe then s.serEvent n 2 else s
    let s := if pe then s.serEvent n 3 else s
    if fe || pe then s
    else if b = 0x24 ∨ b = 0x21 then s.serEvent n 0
    else if b = 0x0A then s.serEvent n 1
    else s

/-- SER_DATA_READ: pops a character with its status; VALID is clear on an empty FIFO. -/
def serRead (n : Nat) (s : State) : State :=
  let x := s.serH n
  match x.rx with
  | [] => { s with resp := .data 0 }
  | w :: ws => { s.setSerH n { x with rx := ws } with resp := .data (BitVec.ofNat 64 w.toNat) }

def execSerDataRead (n : Fin 8) (s : State) : Out1 := .next (s.ifOn 10 (serRead n.val))

/-- Take the next character into an empty shift register. -/
def serLoad (rs485 : Bool) (x : SerSt) : SerSt :=
  match x.shift, x.tx with
  | none, b :: bs => { x with shift := some b, tx := bs, drive := x.drive || rs485 }
  | _, _ => x

/-- SER_DATA_WRITE: a character for a full FIFO is lost. -/
def serWrite (n : Nat) (b : Byte) (s : State) : State :=
  let x := s.serH n
  if 256 ≤ x.tx.length then s
  else
    let y := { x with tx := x.tx ++ [b] }
    s.setSerH n (if s.bit (Reg.FSN_SER_CFG n) 0 then serLoad (s.bit (Reg.FSN_SER_CFG n) 1) y else y)

def execSerDataWrite (n : Fin 8) (b : Byte) (s : State) : Out1 := .next (s.ifOn 10 (serWrite n.val b))

/-- SER_CHAR_TX: the character in the shift register has gone out; the next one is taken. -/
def serTx (n : Nat) (s : State) : State :=
  let x := s.serH n
  if !s.bit (Reg.FSN_SER_CFG n) 0 then s
  else match x.shift with
    | none => s.setSerH n (serLoad (s.bit (Reg.FSN_SER_CFG n) 1) x)
    | some b => (s.setSerH n (serLoad (s.bit (Reg.FSN_SER_CFG n) 1) { x with shift := none, ended := s.clk })).emit (.ser n b)

def execSerCharTx (n : Fin 8) (s : State) : Out1 := .next (s.ifOn 10 (serTx n.val))

/-- SER_TX_RELEASE: one bit time after the last stop bit. -/
def serRelease (n : Nat) (s : State) : State :=
  let x := s.serH n
  if !x.drive ∨ x.shift.isSome ∨ x.tx ≠ [] ∨ (s.clk - x.ended) * serBaud s n < 1000000000 then s
  else (s.setSerH n { x with drive := false }).emit (.serRelease n)

def execSerTxRelease (n : Fin 8) (s : State) : Out1 := .next (s.ifOn 10 (serRelease n.val))

/-- Does the port's capture line present the next start bit (R240): EN, CAPT, and no start bit since the last delimiter event? -/
def serLine (s : State) (n : Nat) : Bool := s.bit (Reg.FSN_SER_CFG n) 0 && s.bit (Reg.FSN_SER_CFG n) 24 && (s.serH n).armed

/-- A start bit has come. -/
def State.serStarted (s : State) (n : Nat) : State :=
  s.modFsn fun f => { f with ser := sset (fun _ => serIdle) f.ser n { sget (fun _ => serIdle) f.ser n with armed := false } }

/-- 9.5 bit times in ns, 10.5 with parity. -/
def delimBits (s : State) (n : Nat) : Nat := (if serParity s n then 21 else 19) * 1000000000 / (2 * serBaud s n)

/-- A character's length in ns: 10 bit times, 11 with parity. -/
def charTime (s : State) (n : Nat) : Nat := (if serParity s n then 11 else 10) * 1000000000 / serBaud s n

/-- The receive stamp of a Ply frame: the MAC's less the ingress delay, by the port's speed (R221). -/
def plyIngress (gbit : Bool) (tMac : Int) : Int := tMac - if gbit then 184 else 376

end Sys2Proof.Machine
end

