-- ==== Sys2Proof/Machine/Angle.lean ====
section
/-! DEFINITION. Angles: arctangents, sines and cosines in fixed point of 96 fraction bits, rounded once to binary64. The rules name these
functions and not their rounding (R190, R200, R218). -/

namespace Sys2Proof.Machine

/-! ### Fixed point of 96 fraction bits -/

def qOne : Int := 2 ^ 96
def mulQ (a b : Int) : Int := a * b / 2 ^ 96
def divQ (a b : Int) : Int := a * 2 ^ 96 / b

/-- 2π and 1 / 2π. -/
def twoPiQ : Int := 497805226624462170461043889244
def perTurnQ : Int := 12609553696233175933233255924

/-- A finite binary64 value in fixed point, its fraction beyond 96 bits cut off; none for infinities and NaNs. -/
def toQ (x : Nat) : Option Int :=
  match fpDecode f64 x with
  | .fin s m e => some (roundInt 2 s m (e + 96)).1
  | _ => none

/-- Fixed point to binary64, to nearest. -/
def ofQ (v : Int) : Nat := (fpMul f64 0 (fpOfInt f64 0 v).1 0x39F0000000000000).1

/-- Σ (−1)^n z^(2n+1) / (2n+1) for |z| below tan(π/8): the arctangent in radians. -/
def atanSeries (z : Int) : Int :=
  ((List.range 40).foldl (fun (p : Int × Int) n =>
    (p.1 + (if n % 2 = 0 then p.2 else -p.2) / (2 * n + 1), mulQ p.2 (mulQ z z))) (0, z)).1

/-- The arctangent of y / x in turns, 0 ≤ y ≤ x, 0 < x: at most an eighth of a turn. -/
def atanFirst (y x : Nat) : Int :=
  if y = x then qOne / 8
  else if 5 * y ≤ 2 * x then mulQ (atanSeries (divQ y x)) perTurnQ
  else qOne / 8 - mulQ (atanSeries (divQ (x - y : Nat) (x + y : Nat))) perTurnQ

/-- The arctangent of y / x in turns, of magnitudes: 0 to a quarter turn. -/
def atanQuarter (y x : Nat) : Int := if y ≤ x then atanFirst y x else qOne / 4 - atanFirst x y

/-- atan2(y, x) in turns, −1/2 to 1/2; none at the origin. -/
def atan2Q (y x : Int) : Option Int :=
  if y = 0 ∧ x = 0 then none
  else
    let a := atanQuarter y.natAbs x.natAbs
    let a := if x < 0 then qOne / 2 - a else a
    some (if y < 0 then -a else a)

/-- atan(y / x) in turns, −1/4 to 1/4; none at the origin. -/
def atanQ (y x : Int) : Option Int :=
  if y = 0 ∧ x = 0 then none
  else
    let a := atanQuarter y.natAbs x.natAbs
    some (if decide (y < 0) != decide (x < 0) then -a else a)

/-- In binary64; at the origin a free value. -/
def atan2Turns (y x : Int) : Nat := match atan2Q y x with | some a => ofQ a | none => Config.noAngle
def atanTurns (y x : Int) : Nat := match atanQ y x with | some a => ofQ a | none => Config.noAngle

/-- Σ (−1)^n z^(2n+1) / (2n+1)! for an angle of up to a quarter turn, in radians. -/
def sinSeries (z : Int) : Int :=
  ((List.range 20).foldl (fun (p : Int × Int) n => (p.1 + p.2, -(mulQ p.2 (mulQ z z)) / ((2 * n + 2) * (2 * n + 3)))) (0, z)).1

/-- The sine of an angle in turns, in fixed point. -/
def sinQ (t : Int) : Int :=
  let t := t % qOne
  let half := if t < qOne / 2 then t else t - qOne / 2
  let up := if half ≤ qOne / 4 then half else qOne / 2 - half
  let v := sinSeries (mulQ up twoPiQ)
  if t < qOne / 2 then v else -v
def cosQ (t : Int) : Int := sinQ (t + qOne / 4)

/-- Sine and cosine of a binary64 angle in turns; of an angle that is no number the canonical NaN. -/
def sinTurns (x : Nat) : Nat := match toQ x with | some t => ofQ (sinQ t) | none => 0x7FF8000000000000
def cosTurns (x : Nat) : Nat := match toQ x with | some t => ofQ (cosQ t) | none => 0x7FF8000000000000

end Sys2Proof.Machine
end

