-- ==== Sys2Proof/Machine/Rotate.lean ====
section
/-! DEFINITION. Rotation of a sensor's values into vessel axes by words 3-5 of its transform entry (R218), in binary64. The rule names the
order of the angles and not the rounding: DESIGN CHOICE. -/

namespace Sys2Proof.Machine

def g64A (x y : Nat) : Nat := (fpAdd f64 0 x y).1
def g64S (x y : Nat) : Nat := (fpSub f64 0 x y).1
def g64M (x y : Nat) : Nat := (fpMul f64 0 x y).1
def g64D (x y : Nat) : Nat := (fpDiv f64 0 x y).1
def g64Neg (x : Nat) : Nat := x ^^^ 2 ^ 63

/-- binary32 to binary64 and back. -/
def wide (w : Word) : Nat := (fpCast f32 f64 0 w.toNat).1
def narrow (x : Nat) : Word := BitVec.ofNat 32 (fpCast f64 f32 0 x).1

/-- Degrees as turns, and turns as degrees. -/
def degTurns (w : Word) : Nat := g64D (wide w) 0x4076800000000000
def turnsDeg (x : Nat) : Nat := g64M x 0x4076800000000000

/-- The angle of (x, y) in degrees; of components that are no numbers the canonical NaN. -/
def angleOf (y x : Nat) : Nat :=
  match toQ y, toQ x with
  | some a, some b => turnsDeg (atan2Turns a b)
  | _, _ => 0x7FF8000000000000

/-- A vector of three, and a matrix by its rows. -/
structure Vec3 where
  x : Nat
  y : Nat
  z : Nat
  deriving DecidableEq, Repr

structure Mat3 where
  x : Vec3
  y : Vec3
  z : Vec3
  deriving DecidableEq, Repr

def dot3 (a b : Vec3) : Nat := g64A (g64A (g64M a.x b.x) (g64M a.y b.y)) (g64M a.z b.z)
def Mat3.app (m : Mat3) (v : Vec3) : Vec3 := ⟨dot3 m.x v, dot3 m.y v, dot3 m.z v⟩

/-- m × n, n given transposed: its columns as rows. -/
def Mat3.mulT (m n : Mat3) : Mat3 :=
  let row := fun v => (⟨dot3 v n.x, dot3 v n.y, dot3 v n.z⟩ : Vec3)
  ⟨row m.x, row m.y, row m.z⟩

/-- From the axes reached by yaw, then pitch, then roll, back to the axes they start from: Rz(yaw) Ry(pitch) Rx(roll), x forward, y
starboard, z down. -/
def dcm (roll pitch yaw : Word) : Mat3 :=
  let (sr, cr) := (sinTurns (degTurns roll), cosTurns (degTurns roll))
  let (sp, cp) := (sinTurns (degTurns pitch), cosTurns (degTurns pitch))
  let (sy, cy) := (sinTurns (degTurns yaw), cosTurns (degTurns yaw))
  ⟨⟨g64M cy cp, g64S (g64M (g64M cy sp) sr) (g64M sy cr), g64A (g64M (g64M cy sp) cr) (g64M sy sr)⟩,
   ⟨g64M sy cp, g64A (g64M (g64M sy sp) sr) (g64M cy cr), g64S (g64M (g64M sy sp) cr) (g64M cy sr)⟩,
   ⟨g64Neg sp, g64M cp sr, g64M cp cr⟩⟩

def vecOf (ws : List Word) : Vec3 := ⟨wide (ws.getD 0 0), wide (ws.getD 1 0), wide (ws.getD 2 0)⟩
def Vec3.words (v : Vec3) : List Word := [narrow v.x, narrow v.y, narrow v.z]

/-- Heading (0 to 360), pitch and roll of a matrix from body to site axes. -/
def Mat3.attitude (m : Mat3) : List Word :=
  let h := angleOf m.y.x m.x.x
  let h := if fpLtB f64 h 0 then g64A h 0x4076800000000000 else h
  [narrow h, narrow (angleOf (g64Neg m.z.x) (fpSqrt f64 0 (g64A (g64M m.x.x m.x.x) (g64M m.y.x m.y.x))).1), narrow (angleOf m.z.y m.z.z)]

/-- The direction of a bearing and an elevation, degrees, elevation upwards. -/
def direction (bearing elev : Word) : Vec3 :=
  let ce := cosTurns (degTurns elev)
  ⟨g64M ce (cosTurns (degTurns bearing)), g64M ce (sinTurns (degTurns bearing)), g64Neg (sinTurns (degTurns elev))⟩

/-- Bearing and elevation of a direction. -/
def Vec3.bearing (v : Vec3) : List Word :=
  [narrow (angleOf v.y v.x), narrow (angleOf (g64Neg v.z) (fpSqrt f64 0 (g64A (g64M v.x v.x) (g64M v.y v.y))).1)]

/-- A sample's six values rotated into vessel axes, `rpy` being roll, pitch and yaw of the sensor's axes (R218): 1 POSITION as a vector, 2
ATTITUDE of the vessel in place of the sensor's, 3 RANGE_BEARING by its direction, 4 WATER_SPEED as a vector with no vertical part, 5 IMU as
two vectors. -/
def rotateVals (kind : Nat) (rpy vals : List Word) : List Word :=
  let c := dcm (rpy.getD 0 0) (rpy.getD 1 0) (rpy.getD 2 0)
  if rpy.all fun w => w &&& 0x7FFFFFFF == 0 then vals
  else match kind with
    | 1 => (c.app (vecOf vals)).words ++ vals.drop 3
    | 2 => ((dcm (vals.getD 2 0) (vals.getD 1 0) (vals.getD 0 0)).mulT c).attitude ++ vals.drop 3
    | 3 => vals.take 1 ++ (c.app (direction (vals.getD 1 0) (vals.getD 2 0))).bearing ++ vals.drop 3
    | 4 => (c.app (vecOf (vals.take 2))).words.take 2 ++ vals.drop 2
    | 5 => (c.app (vecOf vals)).words ++ (c.app (vecOf (vals.drop 3))).words
    | _ => vals

end Sys2Proof.Machine
end

