-- ==== Sys2Proof/Machine/FusionClose.lean ====
section
/-! DEFINITION. The alignment close: bank switch, voting, tracks, degradation, rows and the aligned block (R219, R227-R237),
and the messages and writes that follow it. -/

namespace Sys2Proof.Machine

/-! ### binary32 helpers -/

def g32A (x y : Word) : Word := BitVec.ofNat 32 (fpAdd f32 0 x.toNat y.toNat).1
def g32S (x y : Word) : Word := BitVec.ofNat 32 (fpSub f32 0 x.toNat y.toNat).1
def g32M (x y : Word) : Word := BitVec.ofNat 32 (fpMul f32 0 x.toNat y.toNat).1
def g32D (x y : Word) : Word := BitVec.ofNat 32 (fpDiv f32 0 x.toNat y.toNat).1
def g32Sqrt (x : Word) : Word := BitVec.ofNat 32 (fpSqrt f32 0 x.toNat).1
def g32Lt (x y : Word) : Bool := fpLtB f32 x.toNat y.toNat
def g32I (n : Int) : Word := BitVec.ofNat 32 (fpOfInt f32 0 n).1
def g32Abs (x : Word) : Word := x &&& 0x7FFFFFFF

/-! ### Voting (R234) -/

/-- A reference: sensor (64 + track for a fixed target), value at t_r, standard deviation. -/
structure VRef where
  id  : Nat
  val : Word × Word
  sd  : Word
  deriving DecidableEq, Repr

/-- A heading difference, taken into ±180°. -/
def hdgDiff (a b : Word) : Word :=
  let d := g32S a b
  if g32Lt (g32I 180) d then g32S d (g32I 360) else if g32Lt d (g32I (-180)) then g32A d (g32I 360) else d

def refDist (hdg : Bool) (a b : Word × Word) : Word :=
  if hdg then g32Abs (hdgDiff a.1 b.1)
  else
    let x := g32S a.1 b.1
    let y := g32S a.2 b.2
    g32Sqrt (g32A (g32M x x) (g32M y y))

/-- Insert into an ascending list. -/
def insAsc (w : Word) : List Word → List Word
  | [] => [w]
  | v :: vs => if g32Lt w v then w :: v :: vs else v :: insAsc w vs

/-- Median; of an even number the mean of the middle two. -/
def median (ws : List Word) : Word :=
  let v := ws.foldr insAsc []
  let n := v.length
  if n % 2 = 1 then v.getD (n / 2) 0 else g32D (g32A (v.getD (n / 2 - 1) 0) (v.getD (n / 2) 0)) (g32I 2)

/-- Farther from a value than MED, or than three standard deviations where that is larger. -/
def refFar (hdg : Bool) (med : Word) (r : VRef) (x : Word × Word) : Bool :=
  let t := g32M (g32I 3) r.sd
  g32Lt (if g32Lt med t then t else med) (refDist hdg r.val x)

/-- Does a reference fail the test that the counted references make? -/
def refFails (hdg : Bool) (med : Word) (counted : List VRef) (pred : Option (Word × Word)) (r : VRef) : Bool :=
  match counted with
  | [] => match pred with | some p => refFar hdg med r p | none => true
  | [_] => match pred with
    | some p => refFar hdg med r p
    | none => false
  | [a, b] => match pred with
    | none => false
    | some p =>
      if r.id = a.id then refFar hdg med r b.val && refFar hdg med r p && !refFar hdg med b p
      else if r.id = b.id then refFar hdg med r a.val && refFar hdg med r p && !refFar hdg med a p
      else refFar hdg med r a.val && refFar hdg med r b.val && refFar hdg med r p
  | c :: _ =>
    if hdg then
      let m := median (counted.map fun x => hdgDiff x.val.1 c.val.1)
      refFar hdg med r (g32A c.val.1 m, 0)
    else refFar hdg med r (median (counted.map fun x => x.val.1), median (counted.map fun x => x.val.2))

def rejected (s : State) (k : Nat) : Bool := s.bit (Reg.FSN_SNS_STAT k) 2

/-- The latest estimate issued, and how many closes ago its step closed (0: the last one). -/
def latestEst (s : State) : Option (Nat × Msg) :=
  (List.range s.fsn.ests.length).findSome? fun i => match (s.fsn.ests[i]?).getD none with | some m => some (i, m) | none => none

def estWords (s : State) : List Word := match latestEst s with | some (_, m) => m | none => []

/-- The increments of the newest `n` steps, this one first. -/
def incsOver (s : State) (incr : List Word) (n : Nat) : List (List Word) := (incr :: s.fsn.incs).take n

/-- A reference's value at t_r: as it is, or moved along over its age (R234). -/
def movedTo (s : State) (tr : Int) (incr : List Word) (x : FsnSmp) : List Word :=
  let age := tr - x.epoch
  if age = 0 then x.vals else Config.moveRef x.vals age (estWords s) (incsOver s incr ((age / 10000000).toNat + 1))

/-- No older than three times its sensor's PERIOD, or 1 s if that is smaller (R234). -/
def stillFresh (s : State) (tr : Int) (x : FsnSmp) : Bool :=
  let p := 3 * snsPeriod s x.id
  decide (tr - x.epoch ≤ (if p = 0 then 1000000000 else min p 1000000000 : Nat))

/-- The larger of a position's two horizontal standard deviations. -/
def posSd (x : FsnSmp) : Word := if g32Lt (x.sds.getD 0 0) (x.sds.getD 1 0) then x.sds.getD 1 0 else x.sds.getD 0 0

/-- A sensor's reference of a kind at t_r: EN, REF, VALID, fresh (R234). -/
def snsRef (s : State) (hdg : Bool) (tr : Int) (incr : List Word) (k : Nat) : Option VRef :=
  let cfg := s.rd (Reg.FSN_SNS_CFG k)
  match if hdg then (s.snsH k).hdg else (s.snsH k).pos with
  | none => none
  | some x =>
    if wbit cfg 0 && wbit cfg 1 && snsClock s k == 2 && stillFresh s tr x then
      let v := movedTo s tr incr x
      some (if hdg then ⟨k, (v.getD 0 0, 0), x.sds.getD 0 0⟩ else ⟨k, (v.getD 0 0, v.getD 1 0), posSd x⟩)
    else none

/-- A CONFIRMED fixed target as a reference: the position it implied last, while its sensor is EN and VALID and it is fresh (R236). -/
def fixRef (s : State) (tr : Int) (incr : List Word) (t : Nat) : Option VRef :=
  match (s.trkH t).fix with
  | none => none
  | some x =>
    if s.bits (Reg.FSN_TRK_W t 0) 2 0 == 6 && s.bit (Reg.FSN_SNS_CFG x.id) 0 && snsClock s x.id == 2 && stillFresh s tr x then
      let v := movedTo s tr incr x
      some ⟨64 + t, (v.getD 0 0, v.getD 1 0), posSd x⟩
    else none

/-- The references of a kind at t_r. -/
def refsOf (s : State) (hdg : Bool) (tr : Int) (incr : List Word) : List VRef :=
  ((List.range 64).filterMap (snsRef s hdg tr incr)) ++ (if hdg then [] else (List.range 128).filterMap (fixRef s tr incr))

/-- Is a reference rejected, whichever of its two values failed? -/
def refRejected (s : State) (r : VRef) : Bool := if 64 ≤ r.id then (s.trkH (r.id - 64)).rej else rejected s r.id

/-- Its rejection by the test of one kind, and the passes since. -/
def refRej (s : State) (hdg : Bool) (r : VRef) : Bool × Nat :=
  if 64 ≤ r.id then ((s.trkH (r.id - 64)).rej, (s.trkH (r.id - 64)).passes)
  else if hdg then ((s.snsH r.id).rejHdg, (s.snsH r.id).passHdg)
  else ((s.snsH r.id).rejPos, (s.snsH r.id).passPos)

/-- Set them; a sensor's REJECTED is that of either kind. -/
def State.setRej (s : State) (hdg : Bool) (r : VRef) (rej : Bool) (passes : Nat) : State :=
  if 64 ≤ r.id then s.setTrkH (r.id - 64) { s.trkH (r.id - 64) with rej, passes }
  else
    let h := s.snsH r.id
    let h := if hdg then { h with rejHdg := rej, passHdg := passes } else { h with rejPos := rej, passPos := passes }
    (s.setSnsH r.id h).setBit (Reg.FSN_SNS_STAT r.id) 2 (h.rejPos || h.rejHdg)

/-- VOTING (R234): rejections, acceptances after 10 passes, and the number counted. -/
def State.vote (s : State) (hdg : Bool) (refs : List VRef) (pred : Option (Word × Word)) : State × Nat :=
  let med := if hdg then g32D (g32I (s.bits Reg.FSN_DEGR_CFG 31 24)) (g32I 20) else g32D (g32I (s.bits Reg.FSN_DEGR_CFG 23 16)) (g32I 10)
  let counted := refs.filter fun r => !refRejected s r
  refs.foldl (fun (p : State × Nat) r =>
    let (s, n) := p
    let bad := refFails hdg med counted pred r
    let (rej, passes) := refRej s hdg r
    if rej then
      let passes := if bad then 0 else passes + 1
      if 10 ≤ passes then ((s.setRej hdg r false 0).fsnStat 3, n) else (s.setRej hdg r true passes, n)
    else if bad then ((s.setRej hdg r true 0).fsnStat 3, n)
    else if refRejected s r then (s, n)
    else if 64 ≤ r.id then (s, n + 1)
    else (s.setBit (Reg.FSN_SNS_STAT r.id) 3 true, n + 1)) (s, 0)

/-! ### Degradation (R237) -/

def dStep (n nreq : Nat) (inert timedOut : Bool) : Nat :=
  if 2 ≤ n then (if inert && decide (nreq ≤ n) then 0 else 1)
  else if !inert then 4
  else if n = 1 then 2
  else if timedOut then 4 else 3

def nreqOf (s : State) (hdg : Bool) : Nat :=
  let v := if hdg then s.bits Reg.FSN_DEGR_CFG 5 3 else s.bits Reg.FSN_DEGR_CFG 2 0
  if 2 ≤ v ∧ v ≤ 4 then v else if hdg then 2 else 3

def d3Limit (s : State) : Nat :=
  let v := s.bits Reg.FSN_DEGR_CFG 15 6
  1000 * (if v = 0 then 60 else min v 600)

/-- DEGRADATION_EVAL. -/
def State.degrade (s : State) (npos nhdg : Nat) (inert : Bool) : State :=
  let out := decide (d3Limit s ≤ s.fsn.d3)
  let sp := dStep npos (nreqOf s false) inert out
  let sh := dStep nhdg (nreqOf s true) inert out
  let old := s.bits Reg.FSN_DEGR_STAT 2 0
  let d := max sp sh
  let d3 := if d ≤ 2 then 0 else if d = 3 then s.fsn.d3 + 10 else s.fsn.d3
  let s := s.modFsn fun f => { f with d3 }
  let v := d + 8 * sp + 64 * sh + 512 * min npos 15 + 8192 * min nhdg 15 + 131072 * b2n inert + 2 ^ 18 * min (d3 / 1000) 0x3FFF
  let s := s.wrN Reg.FSN_DEGR_STAT v
  if old = d then s else s.fsnStat 2

/-! ### Tracks (R235, R236) -/

def trkState (s : State) (t : Nat) : Nat := s.bits (Reg.FSN_TRK_W t 0) 1 0
def trkVec (s : State) (t : Nat) : List Word := (List.range 7).map fun w => s.rd (Reg.FSN_TRK_W t (1 + w))
def State.setTrkVec (s : State) (t : Nat) (v : List Word) : State :=
  (List.range 7).foldl (fun s w => s.wr (Reg.FSN_TRK_W t (1 + w)) (v.getD w 0)) s

def trkGateW (s : State) : Word :=
  let g := s.bits Reg.FSN_TRK_CFG 7 0
  g32D (g32I (if g = 0 then 92 else g)) (g32I 10)

def inGate (s : State) (v : List Word) (p : Word × Word) : Bool := !g32Lt (trkGateW s) (Config.trkGate v p)

/-- Where a scan stands among its sensor's last 8, the newest being 0. -/
def scanPlace (s : State) (k scan : Nat) : Nat := (s.snsH k).scans.findIdx (· == scan)

/-- A track takes a detection: its filter, hit, sensor and time; a detection of an earlier scan hits that scan's bit. -/
def State.trkTake (s : State) (t : Nat) (x : FsnSmp) (p : Word × Word) (restart : Bool) : State :=
  let v := trkVec s t
  let s := s.setTrkVec t (if restart then Config.trkNew [p] else Config.trkUpdate v p)
  let place := scanPlace s x.id x.scan
  let s := if place < 8 then s.setBit (Reg.FSN_TRK_W t 0) (8 + place) true else s
  let s := s.setBits (Reg.FSN_TRK_W t 0) 29 24 x.id
  let last : Int := s.rd64 (Reg.FSN_TRK_W t 8) (Reg.FSN_TRK_W t 9)
  let s := s.wr64 (Reg.FSN_TRK_W t 8) (Reg.FSN_TRK_W t 9) (BitVec.ofInt 64 (max last x.epoch)).toNat
  s.setTrkH t { s.trkH t with scans := (x.id, x.scan) :: (s.trkH t).scans }

/-- The nearest of some tracks, ties to the lower number. -/
def nearest (s : State) (p : Word × Word) (ts : List Nat) : Option Nat :=
  ts.foldl (fun (b : Option Nat) t => match b with
    | none => some t
    | some u => if g32Lt (Config.trkGate (trkVec s t) p) (Config.trkGate (trkVec s u) p) then some t else b) none

/-- A candidate with 3 detections within 1 s becomes a TENTATIVE track. -/
def State.trkBirth (s : State) (c : FsnCand) (x : FsnSmp) : State :=
  let free := (List.range 128).find? fun t => trkState s t == 0 &&
    match (s.trkH t).freed with | some u => decide (u + 10000000000 ≤ s.clk) | none => true
  match free with
  | none => s.fsnStat 5
  | some t =>
    let s := (s.wrN (Reg.FSN_TRK_W t 0) (1 + 256 * 7 + 65536 * c.tag + 2 ^ 24 * x.id)).setTrkVec t (Config.trkNew c.dets)
    let s := s.wr64 (Reg.FSN_TRK_W t 8) (Reg.FSN_TRK_W t 9) (BitVec.ofInt 64 x.epoch).toNat
    let s := s.wr64 (Reg.FSN_TRK_W t 10) (Reg.FSN_TRK_W t 11) (BitVec.ofInt 64 x.epoch).toNat
    (s.setTrkH t { fsnTrkIdle with scans := [(x.id, x.scan)] }).fsnStat 4

/-- A detection in no gate seeds or joins a candidate. -/
def State.candidate (s : State) (x : FsnSmp) (p : Word × Word) : State :=
  let fits := fun (c : FsnCand) => c.tag == x.tag && decide ((x.epoch - c.first).natAbs ≤ 1000000000) && inGate s (Config.trkNew c.dets) p
  match s.fsn.cands.findIdx? fits with
  | some i =>
    let c := s.fsn.cands.getD i ⟨[], 0, 0⟩
    let c' := { c with dets := c.dets ++ [p] }
    if 3 ≤ c'.dets.length then (s.modFsn fun f => { f with cands := f.cands.eraseIdx i }).trkBirth c' x
    else s.modFsn fun f => { f with cands := f.cands.set i c' }
  | none =>
    if 64 ≤ s.fsn.cands.length then s
    else s.modFsn fun f => { f with cands := f.cands ++ [⟨[p], x.epoch, x.tag⟩] }

/-- One detection; answers the track it associated with. -/
def State.detect (s : State) (x : FsnSmp) (p : Word × Word) : State × Option Nat :=
  let live := (List.range 128).filter fun t => trkState s t != 0
  let tagged := if x.tag = 255 then none else live.find? fun t => s.bits (Reg.FSN_TRK_W t 0) 23 16 == x.tag
  match tagged with
  | some t =>
    let bad := if inGate s (trkVec s t) p then 0 else (s.trkH t).bad + 1
    let s := s.setTrkH t { s.trkH t with bad := if 3 ≤ bad then 0 else bad }
    (s.trkTake t x p (decide (3 ≤ bad)), some t)
  | none =>
    if x.tag ≠ 255 then (s.candidate x p, none)
    else
      let gated := live.filter fun t => inGate s (trkVec s t) p
      match nearest s p gated with
      | none => (s.candidate x p, none)
      | some t => if (s.trkH t).scans.contains (x.id, x.scan) then (s, none) else (s.trkTake t x p false, some t)

/-- A scan is the set of detections with one number from one sensor (R235), whichever closes they come at: with its first detection the hit
masks of the sensor's tracks move on. -/
def State.scanStart (s : State) (k scan : Nat) : State :=
  if (s.snsH k).scans.contains scan then s
  else
    let s := s.setSnsH k { s.snsH k with scans := (scan :: (s.snsH k).scans).take 8 }
    (List.range 128).foldl (fun s t =>
      if trkState s t = 0 then s
      else
        let s := s.setTrkH t { s.trkH t with scans := (s.trkH t).scans.filter (· != (k, scan)) }
        if s.bits (Reg.FSN_TRK_W t 0) 29 24 = k then s.setBits (Reg.FSN_TRK_W t 0) 15 8 (2 * s.bits (Reg.FSN_TRK_W t 0) 15 8) else s) s

def popcount (n : Nat) : Nat := (List.range 8).countP fun i => fbit n i

/-- Confirmation, loss of it and deletion. -/
def State.trkLife (s : State) (tr : Int) (t : Nat) : State :=
  let st := trkState s t
  if st = 0 then s
  else
    let hits := popcount (s.bits (Reg.FSN_TRK_W t 0) 15 8)
    let s := if st = 1 ∧ 5 ≤ hits then (s.setBits (Reg.FSN_TRK_W t 0) 1 0 2).fsnStat 4
      else if st = 2 ∧ hits < 3 then (s.setBits (Reg.FSN_TRK_W t 0) 1 0 1).fsnStat 4 else s
    let last : Int := s.rd64 (Reg.FSN_TRK_W t 8) (Reg.FSN_TRK_W t 9)
    let cov := g32A (s.rd (Reg.FSN_TRK_W t 5)) (s.rd (Reg.FSN_TRK_W t 7))
    let lim := g32D (g32I (s.bits Reg.FSN_TRK_CFG 23 8)) (g32I 100)
    if 2000000000 ≤ tr - last ∨ g32Lt lim cov then
      (((s.setBits (Reg.FSN_TRK_W t 0) 2 0 0).setBit (Reg.FSN_TRK_FIXED t) 0 false).setTrkH t { fsnTrkIdle with freed := some s.clk }).fsnStat 4
    else s

/-- A detection of a step: the sample, the step back that a late one names, the estimate it is placed by and the increments since that
estimate. -/
structure Det where
  smp  : FsnSmp
  back : Option Nat
  est  : List Word
  incs : List (List Word)
  deriving DecidableEq, Repr

/-- The lever arm of a sensor, words 0-2 of its entry. -/
def leverOf (s : State) (late : Bool) (x : FsnSmp) : List Word := (List.range 3).map fun w => xfW s (xfBank s late x.epoch) x.id w

/-- The position that a detection of a fixed target implies, as a TRACK_POS sample of the detecting sensor (R236). -/
def impliedPos (s : State) (t : Nat) (d : Det) : FsnSmp :=
  let v := Config.fixedPos ((List.range 3).map fun w => s.rd (Reg.FSN_TRK_FIX t w)) d.smp.vals d.smp.sds d.est d.incs
  { d.smp with kind := 7, vals := (List.range 3).map (v.getD · 0) ++ [0, 0, 0], sds := (List.range 3).map fun i => v.getD (3 + i) 0 }

/-- One detection: its scan, its association, and with a CONFIRMED fixed target the position implied. -/
def State.trackDet (s : State) (d : Det) : State × Option (Nat × FsnSmp × Option Nat) :=
  let x := d.smp
  let s := s.scanStart x.id x.scan
  let (s, t) := s.detect x (Config.sitePos d.est d.incs (leverOf s d.back.isSome x) x.vals)
  match t with
  | none => (s, none)
  | some t =>
    if s.bits (Reg.FSN_TRK_W t 0) 2 0 = 6 then
      let y := impliedPos s t d
      let newer := match (s.trkH t).fix with | some z => decide (z.epoch ≤ y.epoch) | none => true
      (if newer then s.setTrkH t { s.trkH t with fix := some y } else s, some (t, y, d.back))
    else (s, none)

/-- TRACK_UPDATE: all detections of the step; answers the TRACK_POS samples of confirmed fixed targets, with the track and the step back. -/
def State.trackUpdate (s : State) (tr : Int) (dets : List Det) : State × List (Nat × FsnSmp × Option Nat) :=
  let s := (List.range 128).foldl (fun s t => if trkState s t = 0 then s else s.setTrkVec t (Config.trkPredict (trkVec s t) 10000000)) s
  let (s, fix) := dets.foldl (fun (p : State × List (Nat × FsnSmp × Option Nat)) d =>
    let (s, f) := p.1.trackDet d
    (s, p.2 ++ f.toList)) (s, [])
  let s := (List.range 128).foldl (fun s t => s.trkLife tr t) s
  (s.modFsn fun f => { f with cands := f.cands.filter fun c => decide (tr - c.first ≤ 1000000000) }, fix)

/-! ### Rows (R217, R229, R232) -/

/-- The level a sensor enters at: antennas and the internal IMU at 0. -/
def levelOf (s : State) (k : Nat) : Nat := if k ≤ 3 then 0 else min (s.bits (Reg.FSN_SNS_CFG k) 6 5) 2

/-- Does a sample become a row (R217, R233)? At level 2 nothing does; POSITION and ATTITUDE at level 1 alone; none of a rejected sensor, of
the antennas none while ID 0 is rejected. -/
def makesRow (s : State) (x : FsnSmp) : Bool :=
  let lv := levelOf s x.id
  (!rejected s (if x.kind = 0 then 0 else x.id)) && !rejected s x.id &&
  match x.kind with
  | 0 => true
  | 1 | 2 => lv == 1
  | _ => decide (lv ≤ 1)

/-- A row of 64 bytes (R229). -/
def rowWords (s : State) (x : FsnSmp) (tr : Int) (back : Option Nat) : List Word :=
  let w0 := x.id + 256 * x.kind + 4096 * b2n back.isSome + 8192 * b2n x.held + 65536 * back.getD 0 + 2 ^ 24 * x.ch
  [BitVec.ofNat 32 w0, BitVec.ofInt 32 (x.epoch - tr)] ++ ((List.range 6).map (x.vals.getD · 0)) ++ ((List.range 3).map (x.sds.getD · 0)) ++
    leverOf s back.isSome x ++ [0, 0]

/-- A sample with its values in vessel axes (R218). -/
def rotated (s : State) (late : Bool) (x : FsnSmp) : FsnSmp :=
  let b := xfBank s late x.epoch
  { x with vals := rotateVals x.kind [xfW s b x.id 3, xfW s b x.id 4, xfW s b x.id 5] x.vals }

/-- A sample becomes its sensor's latest position or heading, unless that one is younger (R233, R234). -/
def State.keepLatest (s : State) (x : FsnSmp) : State :=
  let h := s.snsH x.id
  let newer : Option FsnSmp → Bool := fun y => match y with | some z => decide (z.epoch ≤ x.epoch) | none => true
  if x.kind = 1 ∧ newer h.pos then s.setSnsH x.id { h with pos := some x }
  else if x.kind = 2 ∧ newer h.hdg then s.setSnsH x.id { h with hdg := some x }
  else s

/-- Ascending sensor ID, keeping the order of arrival. -/
def sortById (xs : List FsnSmp) : List FsnSmp := (List.range 64).flatMap fun k => xs.filter fun x => x.id == k

/-- The nearest issued estimate at or before a step back, within 400 ms (R232). -/
def estAt (s : State) (back : Nat) : Option Nat :=
  (List.range 41).find? fun b => decide (back ≤ b) && decide (1 ≤ b) && ((s.fsn.ests[b - 1]?).getD none).isSome

/-- The average of a thruster's shaft speed over the window; NaN where its input gave none, free where no input is known. -/
def shaftWord (s : State) (id : Nat) : Word :=
  match Config.shaftInput id with
  | none => Config.freeWord (s.freeIdx + id)
  | some n =>
    let x := sget (fun _ => encIdle) s.enc n
    if x.avg.2 = 0 then 0x7FC00000
    else BitVec.ofNat 32 (fpCast f64 f32 0 (fpDiv f64 0 x.avg.1 (fpOfInt f64 0 x.avg.2).1).1).1

/-- Four SHAFT rows of six values, in ID order (R230). -/
def shaftRows (s : State) : List (List Word) :=
  (List.range 4).map fun i =>
    [BitVec.ofNat 32 (63 + 256 * 6), 0] ++ ((List.range 6).map fun j => shaftWord s (6 * i + j)) ++ List.replicate 8 0

/-- A step's samples: those of its window, those held for later, the late ones. -/
def splitBuf (s : State) (tr : Int) : List FsnSmp × List FsnSmp × List FsnSmp :=
  let ready := s.fsn.buf.filter fun x => decide (x.procAt < s.clk)
  let fresh := s.fsn.buf.filter fun x => !decide (x.procAt < s.clk)
  (ready.filter (fun x => decide (tr - 10000000 < x.epoch) && decide (x.epoch ≤ tr)),
   (ready.filter (fun x => decide (tr < x.epoch))).map (fun x => { x with held := true }) ++ fresh,
   ready.filter fun x => decide (x.epoch ≤ tr - 10000000))

/-- Samples of sensors without a VALID entry are discarded and counted (R218). -/
def State.dropInvalid (s : State) (late : Bool) (xs : List FsnSmp) : State × List FsnSmp :=
  xs.foldl (fun (p : State × List FsnSmp) x =>
    if wbit (xfW p.1 (xfBank p.1 late x.epoch) x.id 7) 0 then (p.1, p.2 ++ [x]) else (p.1.snsCount x.id 3, p.2)) (s, [])

/-- Late samples that can be applied, with their steps back; the others are counted in LATE_DISC (R232). -/
def State.lateRows (s : State) (tr : Int) (xs : List FsnSmp) : State × List (FsnSmp × Nat) :=
  xs.foldl (fun (p : State × List (FsnSmp × Nat)) x =>
    let age := tr - x.epoch
    let back := (age / 10000000).toNat
    if 400000000 < age then (p.1.snsCount x.id 0, p.2)
    else match estAt p.1 back with
      | none => (p.1.snsCount x.id 0, p.2)
      | some b => (p.1, p.2 ++ [(x, min b 40)])) (s, [])

/-- XF_SWITCH (R219): a COMMIT written before the clock cycle of the close takes effect at it, and the old bank is kept. -/
def switchDue (s : State) : Bool := match s.fsn.commit with | some t => decide (t < s.clk) | none => false

def State.xfSwitch (s : State) (tgt : Nat) : State :=
  if !switchDue s then s
  else (((s.setBit Reg.FSN_XF_CTL 0 (xfActive s == 0)).setBit Reg.FSN_XF_CTL 1 false).fsnStat 8).modFsn fun f =>
    { f with commit := none, switch := some (s.clk, (tgt : Int)) }

/-- Does one IMU's service cover the window, with no 5 ms without a sample (R230)? -/
def covers (tr : Int) (es : List Int) : Bool :=
  let pts := [tr - 10000000] ++ es ++ [tr]
  (pts.zip (pts.drop 1)).all fun p => decide (p.2 - p.1 ≤ 5000000)

/-- Inertial is valid when either IMU served the whole window: none replaced the other within it. -/
def inertialOk (s : State) (tr : Int) (ego : List FsnSmp) : Bool :=
  covers tr (ego.map (·.epoch)) && !(decide (tr - 10000000 < s.fsn.since) && decide (s.fsn.since ≤ tr))

/-- Is the secondary IMU the one integrated? -/
def secondaryUsed (s : State) (tr : Int) (ego : List FsnSmp) : Bool :=
  ego.any (fun x => x.id != 3) || (s.fsn.sec && (secondary s).isSome && decide (s.fsn.since ≤ tr))

/-- The step's detections, late ones first, each with what places it (R235). -/
def stepDets (s : State) (incr : List Word) (now : List FsnSmp) (late : List (FsnSmp × Nat)) : List Det :=
  ((late.filter fun x => x.1.kind == 3).map fun x => ⟨x.1, some x.2, ((s.fsn.ests[x.2 - 1]?).getD none).getD [], []⟩) ++
  (now.filter fun x => x.kind == 3).map fun x =>
    ⟨x, none, estWords s, incsOver s incr (match latestEst s with | some (i, _) => i + 1 | none => 0)⟩

/-- The rows of a step, in order: on time by sensor ID, SHAFT with ID 63, then late ones by sensor ID (R229). -/
def stepRows (s : State) (tr : Int) (now : List FsnSmp) (late : List (FsnSmp × Nat)) (fix : List (Nat × FsnSmp × Option Nat)) :
    List (List Word) × List (List Word) :=
  let fix := fix.filter fun f => !(s.trkH f.1).rej
  let on := (now ++ fix.filterMap fun f => if f.2.2.isNone then some f.2.1 else none).filter (makesRow s)
  let lt := (late ++ fix.filterMap fun f => f.2.2.map fun b => (f.2.1, b)).filter fun x => makesRow s x.1
  ((sortById on).map (fun x => rowWords s x tr none) ++ shaftRows s,
   ((List.range 64).flatMap fun k => lt.filter fun x => x.1.id == k).map fun x => rowWords s x.1 tr (some x.2))

/-- The places of the rows that are dropped: beyond 256, those of the highest sensor IDs (R229). -/
def rowDrops (all : List (List Word)) : List Nat :=
  let ids := all.map fun r => wbits (r.getD 0 0) 5 0
  ((List.range 64).reverse.flatMap fun k => (List.range all.length).filter fun i => ids.getD i 0 == k).take (all.length - 256)

/-- The header of the aligned block (R228). -/
def alignHeader (s : State) (tr : Int) (incr : List Word) (npos nhdg rows : Nat) (late sw full sec : Bool) : List Word :=
  let degr := s.bits Reg.FSN_DEGR_STAT 2 0
  let w1 := degr + 8 * b2n late + 16 * b2n (degr == 4) + 32 * b2n sw + 64 * b2n full + 128 * b2n sec + 65536 * rows
  [BitVec.ofNat 32 (s.fsn.steps + 1), BitVec.ofNat 32 w1] ++ wordsOf (BitVec.ofInt 64 tr).toNat 2 ++
    ((List.range 6).map fun i => incr.getD i 0) ++
    [BitVec.ofNat 32 (xfActive s + 16 * min npos 15 + 256 * min nhdg 15), BitVec.ofNat 32 s.fsn.d3, 0, 0, 0, 0xF5A10001]

/-- ALIGNMENT_CLOSE (R227): the compare event on channel 1, whose target lies 0.5 ms after t_r. -/
def State.fsnClose (s : State) (tgt : Nat) : State :=
  let tr : Int := (tgt : Int) - 500000
  let sw := switchDue s
  let s := s.xfSwitch tgt
  -- The step's samples, in vessel axes
  let (now, later, late) := splitBuf s tr
  let (s, now) := s.dropInvalid false now
  let (s, late) := s.dropInvalid true late
  let (s, late) := s.lateRows tr late
  let now := now.map (rotated s false)
  let late := late.map fun x => (rotated s true x.1, x.2)
  let s := (late.map (·.1) ++ now).foldl (fun s x => s.keepLatest x) s
  -- Ego-motion (R230)
  let ego := now.filter (·.ego)
  let now := now.filter fun x => !x.ego
  let incr := Config.preint (ego.map fun x => (x.epoch, x.vals))
  let inert := inertialOk s tr ego
  -- Tracks, voting and degradation
  let (s, fix) := s.trackUpdate tr (stepDets s incr now late)
  let s := (List.range 64).foldl (fun s k => s.setBit (Reg.FSN_SNS_STAT k) 3 false) s
  let pred := match latestEst s with
    | some (i, m) => if s.bits Reg.FSN_DEGR_STAT 2 0 ≤ 2 then some (Config.predict m (incsOver s incr (i + 1))) else none
    | none => none
  let (s, npos) := s.vote false (refsOf s false tr incr) (pred.map fun p => (p.getD 0 0, p.getD 1 0))
  let (s, nhdg) := s.vote true (refsOf s true tr incr) (pred.map fun p => (p.getD 2 0, 0))
  let s := s.degrade npos nhdg inert
  -- Rows
  let (rowsOn, rowsLate) := stepRows s tr now late fix
  let all := rowsOn ++ rowsLate
  let drop := rowDrops all
  let rows := ((List.range all.length).filter fun i => !drop.contains i).flatMap fun i => all.getD i []
  let s := drop.foldl (fun s i => s.snsCount (wbits ((all.getD i []).getD 0 0) 5 0) 1) s
  let s := if drop = [] then s else s.fsnStat 7
  let block := alignHeader s tr incr npos nhdg (min all.length 256) (rowsLate != []) sw (drop != []) (secondaryUsed s tr ego) ++ rows
  { s.modFsn fun f => { f with
      steps := f.steps + 1, lastTr := tr, buf := later, ests := (none :: f.ests).take 40, incs := (incr :: f.incs).take 100,
      block := if s.bit Reg.FSN_ALIGN_CFG 22 then some block else none, aid := s.bit Reg.FSN_AID_CFG 19 } with
    enc := (s.enc.map fun e => (e.1, { e.2 with avg := (0, 0) })).filter fun e => decide (e.2 ≠ encIdle), freeIdx := s.freeIdx + 24 }

/-- The ESTIM job's estimate message arrives on EST_CHAN (R232). -/
def State.fsnEstimate (s : State) (msg : Msg) : State :=
  s.modFsn fun f => { f with ests := match f.ests with | _ :: es => some msg :: es | [] => [some msg] }

/-! ### What follows a close -/

/-- The block's write lands (R228). -/
def State.alignLand (s : State) : State :=
  match s.fsn.block with
  | none => s
  | some ws =>
    let t := s.bits Reg.FSN_ALIGN_CFG 21 20
    let o := s.bits Reg.FSN_ALIGN_CFG 19 6 * 64
    let s := s.modCal fun c => { c with mem := memPut zeroByte c.mem (2 ^ 20 * t + o) ws }
    (s.modFsn fun f => { f with block := none }).fsnStat 0

/-- The block's write is refused (R228, R404): cause 2 CONTAINED, 3 NOWAKE. -/
def State.alignRefuse (s : State) (cause : Nat) : State :=
  let t := s.bits Reg.FSN_ALIGN_CFG 21 20
  ((s.modFsn fun f => { f with block := none }).fsnStat 1).stallLog .fusion cause (5 + t)
    (0x300000000 + 0x100000 * t + s.bits Reg.FSN_ALIGN_CFG 19 6 * 64)

/-- ALIGN_BLOCK_WRITE: refused where the tile is contained or takes no wake by access; a sleeping tile is woken and the write
stalls. -/
def alignBlockWrite (s : State) : State :=
  if s.fsn.block = none then s
  else
    let t := s.bits Reg.FSN_ALIGN_CFG 21 20
    if s.domOn (5 + t) then s.alignLand
    else if s.contained (5 + t) then s.alignRefuse 2
    else if !s.bit (Reg.PWR_DC_CTL (5 + t)) 2 then s.alignRefuse 3
    else if s.tnd.stalls.any fun x => x.op == .alignBlock then s
    else
      let s := s.wake (5 + t)
      { s with tnd := { s.tnd with stalls := s.tnd.stalls ++
        [⟨.fusion, 0, 0x300000000 + 0x100000 * t + s.bits Reg.FSN_ALIGN_CFG 19 6 * 64, 5 + t, s.clk, .alignBlock⟩] } }

def execAlignBlockWrite (s : State) : Out1 := .next (s.ifOn 10 alignBlockWrite)

/-- Doppler = −(s − v·u + c)/λ and rate = −(ṡ − a·u)/λ of a line-of-sight entry (R231), the antenna moving with `m` (v, then a). -/
def losAid (e m : List Word) : Word × Word :=
  let x := fun i => e.getD i 0
  let dot := fun o => g32A (g32A (g32M (m.getD o 0) (x 0)) (g32M (m.getD (o + 1) 0) (x 1))) (g32M (m.getD (o + 2) 0) (x 2))
  let neg := fun (w : Word) => w ^^^ 0x80000000
  (neg (g32D (g32A (g32S (x 3) (dot 0)) (x 7)) (x 5)), neg (g32D (g32S (x 4) (dot 3)) (x 5)))

/-- An antenna's motion at the close: its lever arm in the bank in force, the latest estimate and the increments since that estimate. -/
def antMotion (s : State) (ant : Nat) : List Word :=
  Config.antMotion ((List.range 3).map fun w => xfW s (xfActive s) ant w) (estWords s)
    (s.fsn.incs.take (match latestEst s with | some (i, _) => i | none => 0))

/-- AID_PUBLISH (R231). -/
def aidPublish (s : State) : State :=
  if !s.fsn.aid then s
  else
    let s := s.modFsn fun f => { f with aid := false }
    let base := dramBase + s.bits Reg.FSN_AID_CFG 18 0 * 4096
    let entry := fun c =>
      let e := s.dramWords (base + 32 * c) 8
      if wbit (e.getD 6 0) 2 then losAid e (antMotion s (wbits (e.getD 6 0) 1 0)) else (0, 0)
    (List.range 3).foldl (fun s i =>
      s.feltPublish 11 ((s.bits Reg.FSN_AID_CFG 25 20 + i) % 64)
        ((List.range 64).flatMap fun k => [(entry (64 * i + k)).1, (entry (64 * i + k)).2])) s

def execAidPublish (s : State) : Out1 := .next (s.ifOn 10 aidPublish)

end Sys2Proof.Machine
end

