-- ==== Sys2Proof/Machine/Headbox.lean ====
section
/-! DEFINITION. The Headbox: sampling chains, calibration, the IMU, publications and the valve loops (R243-R262). -/

namespace Sys2Proof.Machine

def State.modHbx (s : State) (f : HbxSt → HbxSt) : State := { s with hbx := f s.hbx }

/-- HBX_STAT: bits 2, 3, 4 on source 32, the others on 33. -/
def State.hbxStat (s : State) (i : Nat) : State :=
  s.setStat Reg.HBX_STAT Reg.HBX_IRQ_EN (if 2 ≤ i ∧ i ≤ 4 then 32 else 33) i

def State.chainOf (s : State) (c : Nat) : HbxChain := sget (fun _ => hbxChainIdle) s.hbx.chain c
def State.setChain (s : State) (c : Nat) (x : HbxChain) : State :=
  s.modHbx fun h => { h with chain := sset (fun _ => hbxChainIdle) h.chain c x }

/-! ### The filter chain (R246-R250) -/

/-- Chain settings: DEC, FIR entry, S1-S4. -/
structure ChainCfg where
  dec : Nat
  fir : Nat
  s1  : Nat
  s2  : Nat
  s3  : Nat
  s4  : Nat
  deriving DecidableEq, Repr

/-- The settings of a channel: a preset's, or HBX_CHc_CHAIN's (R250). -/
def chainCfg (s : State) (c : Nat) : ChainCfg :=
  let a : Bool := decide (24 ≤ c)
  match s.bits (Reg.HBX_CH_CFG c) 3 1 with
  | 1 => ⟨8, 0, 0, if a then 15 else 0, 15, 0⟩
  | 2 => ⟨32, 8, if a then 6 else 0, if a then 15 else 6, 15, 0⟩
  | 3 => ⟨128, 16, if a then 12 else 0, if a then 15 else 12, 15, 0⟩
  | 4 => ⟨256, 24, if a then 15 else 0, 15, 15, 0⟩
  | _ =>
    let w := s.rd (Reg.HBX_CH_CHAIN c)
    ⟨wbits w 8 0, wbits w 13 9, wbits w 17 14, wbits w 21 18, wbits w 25 22, wbits w 29 26⟩

def ChainCfg.ok (k : ChainCfg) : Bool := decide (8 ≤ k.dec) && decide (k.dec ≤ 256)

/-- Taps of a FIR response (R248). -/
def firTaps (e : Nat) : Nat := if e < 8 then 15 else if e < 16 then 23 else if e < 24 then 31 else 47

/-- Twice the group delay in input periods. -/
def ChainCfg.delay2 (k : ChainCfg) : Nat := 3 * (k.dec - 1) + k.dec * (firTaps k.fir - 1) + 20 * k.dec

/-- Shift right with rounding, and limit to 32 bits; whether it was limited. -/
def shiftLim (sh : Nat) (v : Int) : Int × Bool :=
  let x := if sh = 0 then v else (v + 2 ^ (sh - 1)) / 2 ^ sh
  if 2 ^ 31 - 1 < x then (2 ^ 31 - 1, true) else if x < -(2 ^ 31) then (-(2 ^ 31), true) else (x, false)

/-- Sums of `n` consecutive elements. -/
def boxSums (n : Nat) (xs : List Int) : List Int :=
  (List.range (xs.length + 1 - n)).map fun i => ((xs.drop i).take n).foldl (· + ·) 0

/-- One sinc3 output from the newest 3 DEC − 2 inputs. -/
def sinc3 (n : Nat) (xs : List Int) : Int :=
  ((boxSums n (boxSums n (boxSums n (xs.take (3 * n - 2) ++ List.replicate (3 * n - 2 - xs.length) 0))))[0]?).getD 0

/-- Σ coefficient × value, newest first. -/
def firSum (cs xs : List Int) : Int := (cs.zip xs).foldl (fun a p => a + p.1 * p.2) 0

/-- A stage's outcome: the value and whether a stage limited (bits 0-3). -/
def orBit (ovf i : Nat) (b : Bool) : Nat := if b then ovf ||| 2 ^ i else ovf

/-- Feed DEC inputs (oldest first) to the first stage. -/
def stage1 (k : ChainCfg) (x : HbxChain) (inp : List Int) (ovf : Nat) : HbxChain × Nat :=
  let xs := (inp.reverse ++ x.xs).take (3 * k.dec - 2)
  let (v, l) := shiftLim k.s1 (sinc3 k.dec xs)
  ({ x with xs, y1 := (v :: x.y1).take 47 }, orBit ovf 0 l)

/-- A FIR response of the ROM: linear phase, its coefficients adding up to 2^15 (R248). -/
def firRom (e : Nat) : List Int :=
  let half := (List.range (firTaps e / 2)).map fun i => (Config.firHalf e i).toInt
  half ++ [2 ^ 15 - 2 * half.sum] ++ half.reverse

/-- The 11-tap halfband: linear phase, 2^14 in the middle, 0 at every even distance from it; its coefficients add up to 2^15, by which every
preset brings full scale to 2^24 (R246, R250). DEDUCED. -/
def halfband : List Int :=
  let a := (Config.halfSide 0).toInt
  let b := (Config.halfSide 1).toInt
  let c : Int := 2 ^ 13 - a - b
  [a, 0, b, 0, c, 2 ^ 14, c, 0, b, 0, a]

/-- One output of the FIR and, after two of them, of the halfband and the DC-blocking stage. -/
def chainRun (k : ChainCfg) (dcb frz : Bool) (kk : Nat) (x : HbxChain) (inp : List Int) : Int × HbxChain × Nat :=
  let chunk := fun i => (inp.drop (i * k.dec)).take k.dec
  let two := fun (p : HbxChain × Nat) i =>
    let (x, o) := stage1 k p.1 (chunk (2 * i)) p.2
    let (x, o) := stage1 k x (chunk (2 * i + 1)) o
    let (v, l) := shiftLim k.s2 (firSum (firRom k.fir) x.y1)
    ({ x with y2 := (v :: x.y2).take 11 }, orBit o 1 l)
  let (x, o) := two (two (x, 0) 0) 1
  let (v, l) := shiftLim k.s3 (firSum halfband x.y2)
  let o := orBit o 2 l
  let y := if dcb then v - x.m else v
  let m := if dcb && !frz then x.m + y / 2 ^ kk else x.m
  let (r, l) := shiftLim k.s4 y
  (r, { x with m, n := x.n + 4 * k.dec }, orBit o 3 l)

/-! ### Calibration (R253) -/

/-- An integer times a binary32 value, rounded once. -/
def mulRound (v : Int) (g : Word) : Word :=
  match fpDecode f32 g.toNat with
  | .fin sg m e => BitVec.ofNat 32 (fpRoundZ f32 0 (v * (if sg then -(m : Int) else m)) e sg).1
  | _ => BitVec.ofNat 32 (fpMul f32 0 (fpOfInt f32 0 v).1 g.toNat).1

/-- (RAW − EFF_OFS) × EFF_GAIN. -/
def calValue (s : State) (c : Nat) (raw : Int) : Word := mulRound (raw - (s.rd (Reg.HBX_CH_EFF_OFS c)).toInt) (s.rd (Reg.HBX_CH_EFF_GAIN c))

/-- FAC_GAIN × (1 + USR_TRIM), rounded once. -/
def effGain (fac trim : Word) : Word :=
  match fpDecode f32 trim.toNat, fpDecode f32 fac.toNat with
  | .fin st mt et, .fin sf mf ef =>
    let e := min et 0
    let one : Int := 2 ^ (0 - e).toNat
    let t := scaled st mt et e
    let f : Int := if sf then -(mf : Int) else mf
    BitVec.ofNat 32 (fpRoundZ f32 0 ((one + t) * f) (e + ef) sf).1
  | _, _ => fac

def lim32 (v : Int) : Word := BitVec.ofInt 32 (if 2 ^ 31 - 1 < v then 2 ^ 31 - 1 else if v < -(2 ^ 31) then -(2 ^ 31) else v)

/-- EFF_OFS and EFF_GAIN together. -/
def State.effUpdate (s : State) (c : Nat) : State :=
  (s.wr (Reg.HBX_CH_EFF_OFS c) (lim32 ((s.rd (Reg.HBX_CH_FAC_OFS c)).toInt + (s.rd (Reg.HBX_CH_USR_OFS c)).toInt))).wr
    (Reg.HBX_CH_EFF_GAIN c) (effGain (s.rd (Reg.HBX_CH_FAC_GAIN c)) (s.rd (Reg.HBX_CH_USR_TRIM c)))

/-- USR_CAL_WRITE: a trim that is not finite is ignored and sets CFG_ERR. -/
def usrCal (c : Nat) (trim : Bool) (v : Word) (s : State) : State :=
  if trim && !finite32 v then (s.setBit (Reg.HBX_CH_STAT c) 1 true).hbxStat 0
  else (s.wr (if trim then Reg.HBX_CH_USR_TRIM c else Reg.HBX_CH_USR_OFS c) v).effUpdate c

def execUsrCalWrite (c : Fin 40) (trim : Bool) (v : Word) (s : State) : Out1 := .next (s.ifOn 10 (usrCal c.val trim v))

/-! ### Outputs and restarts (R244-R252) -/

/-- Input samples as the chain takes them: a bitstream's by sign, an analog one's 16 bits (R243). -/
def chainInput (c : Nat) (v : Int) : Int := if 24 ≤ c then (BitVec.ofInt 16 v).toInt else if 0 < v then 1 else -1

/-- OPEN_LOAD (R261): ON for 2 ms with slow current below 0.02 A. -/
def State.openEval (s : State) (v : Nat) : State :=
  let st := Reg.HBX_VLV_STAT v
  let x := sget (fun _ => hbxValveIdle) s.hbx.valve v
  if !s.bit st 0 then s.setBit st 2 false
  else if !(s.bit (Reg.HBX_CH_CFG v) 0 && (chainCfg s v).ok) then s
  else if x.at_ + 2000000 ≤ s.clk ∧ g32Lt (s.rd (Reg.HBX_CH_OUT v)) 0x3CA3D70A then
    if s.bit st 2 then s else (s.setBit st 2 true).hbxStat 4
  else s.setBit st 2 false

/-- A channel flag with HBX_STAT.INPUT. -/
def State.inputFlag (s : State) (c i : Nat) (b : Bool) : State :=
  let s' := s.setBit (Reg.HBX_CH_STAT c) i b
  if b && !s.bit (Reg.HBX_CH_STAT c) i then s'.hbxStat 6 else s'

/-- DEC invalid (R247). -/
def State.chainOff (s : State) (c : Nat) : State :=
  let s := ((s.wr (Reg.HBX_CH_OUT c) 0).wr (Reg.HBX_CH_RAW c) 0).setBits (Reg.HBX_CH_STAT c) 1 0 2
  s.hbxStat 0

/-- CHAIN_OUTPUT. -/
def chainOutput (c : Nat) (xs : List Int) (ns1024 : Nat) (s : State) : State :=
  let cfg := s.rd (Reg.HBX_CH_CFG c)
  let k := chainCfg s c
  if !wbit cfg 0 ∨ s.bit (Reg.HBX_CH_STAT c) 6 then s
  else if !k.ok then s.chainOff c
  else
    let inp := (List.range (4 * k.dec)).map fun i => match xs[i]? with | some v => chainInput c v | none => 0
    let kk := max 4 (min (wbits cfg 12 8) 20)
    let (r, x, ovf) := chainRun k (wbit cfg 6) (wbit cfg 7) kk (s.chainOf c) inp
    let s := (s.setChain c x).wr (Reg.HBX_CH_RAW c) (BitVec.ofInt 32 r)
    let s := s.wr (Reg.HBX_CH_OUT c) (calValue s c r)
    -- The stamp names the input instant: half of twice the group delay, in periods of 50 ns, 8 µs or the measured clock.
    let gd := if c < 16 then k.delay2 * 25 else if 24 ≤ c then k.delay2 * 4000 else k.delay2 * ns1024 / 2048
    let s := s.wr64 (Reg.HBX_CH_TIME_LO c) (Reg.HBX_CH_TIME_HI c) (s.ext - gd)
    let s := s.setBits (Reg.HBX_CH_STAT c) 1 0 (b2n (decide (k.delay2 ≤ x.n)))
    let s := if ovf = 0 then s else (s.setBits (Reg.HBX_CH_STAT c) 5 2 (s.bits (Reg.HBX_CH_STAT c) 5 2 ||| ovf)).hbxStat 1
    let s := if 24 ≤ c then
      if !wbit cfg 4 then s.setBits (Reg.HBX_CH_STAT c) 8 7 0
      else
        let out := s.rd (Reg.HBX_CH_OUT c)
        (s.inputFlag c 7 (g32Lt out 0x40666666)).inputFlag c 8 (g32Lt 0x41A80000 out)
      else s
    if c < 16 then s.openEval c else s

def execChainOutput (c : Fin 40) (xs : List Int) (ns1024 : Nat) (s : State) : Out1 :=
  .next (s.ifOn 10 (chainOutput c.val xs ns1024))

/-- Every stage's state is cleared; OUT and RAW hold with VALID clear (R251). -/
def State.chainClear (s : State) (c : Nat) : State := (s.setChain c hbxChainIdle).setBit (Reg.HBX_CH_STAT c) 0 false

/-- A channel's factory values (R253, R428): the pair of the MODE written, from the factory calibration block; with FAC_BAD the
nominal values (R408). -/
def facPair (s : State) (c : Nat) : Word × Word :=
  let m : Bool := decide (24 ≤ c) && s.bit (Reg.HBX_CH_CFG c) 4
  if s.bit Reg.TND_STAT 7 then (0, if m then 0x35CCCCCD else BitVec.ofNat 32 (hbxNominalGain c))
  else
    let o := if m then 0x300 + 8 * (c - 24) else 0x100 + 8 * c
    (BitVec.ofNat 32 (memRd erasedByte s.nor o 4), BitVec.ofNat 32 (memRd erasedByte s.nor (o + 4) 4))

/-- FAC_OFS and FAC_GAIN take the pair of the MODE written. -/
def State.facSelect (s : State) (c : Nat) : State :=
  let (o, g) := facPair s c
  ((s.wr (Reg.HBX_CH_FAC_OFS c) o).wr (Reg.HBX_CH_FAC_GAIN c) g).effUpdate c

/-- DC10's factory values, loaded at every wake and reset of it (R253, R408). -/
def State.facLoad (s : State) : State := (List.range 40).foldl State.facSelect s

/-- CHAIN_RESTART: a write of HBX_CHc_CFG or HBX_CHc_CHAIN. -/
def chainWrite (c : Nat) (chain : Bool) (v : Word) (s : State) : State :=
  let r := if chain then Reg.HBX_CH_CHAIN c else Reg.HBX_CH_CFG c
  let old := s.rd r
  let v := v &&& (if chain then 0x3FFFFFFF else 0x1FFF)
  let s := s.wr r v
  let s := if !chain && decide (24 ≤ c) && wbits v 4 4 != wbits old 4 4 then s.facSelect c else s
  -- LOOP_LOW and LOOP_HIGH belong to the 4-20 mA mode (R245).
  let s := if !chain && decide (24 ≤ c) && !wbit v 4 then s.setBits (Reg.HBX_CH_STAT c) 8 7 0 else s
  let changed := if chain then v != old else wbits v 5 0 != wbits old 5 0
  let s := if changed then s.chainClear c else s
  if (chainCfg s c).ok then s.setBit (Reg.HBX_CH_STAT c) 1 false else s.chainOff c

def execChainRestart (c : Fin 40) (chain : Bool) (v : Word) (s : State) : Out1 := .next (s.ifOn 10 (chainWrite c.val chain v))

/-- CLK_ERR: the clock is measured continuously, EN or not; the output is held with VALID clear. -/
def clkErr (b : Nat) (s : State) : State := (s.inputFlag (16 + b) 6 true).setBit (Reg.HBX_CH_STAT (16 + b)) 0 false

def execClkErr (b : Fin 8) (s : State) : Out1 := .next (s.ifOn 10 (clkErr b.val))

/-- BS_CLOCK_RECOVER: the chain restarts. -/
def clkRecover (b : Nat) (s : State) : State :=
  if s.bit (Reg.HBX_CH_STAT (16 + b)) 6 then (s.setBit (Reg.HBX_CH_STAT (16 + b)) 6 false).chainClear (16 + b) else s

def execBsClockRecover (b : Fin 8) (s : State) : Out1 := .next (s.ifOn 10 (clkRecover b.val))

/-! ### Publications (R255, R256) -/

/-- The word an item takes at the latch instant. -/
def itemWord (s : State) (item : Word) : Word :=
  let i := wbits item 9 4
  let f := wbits item 11 10
  match wbits item 3 0 with
  | 1 => if i < 40 then s.rd (Reg.HBX_CH_OUT i) else 0
  | 2 => if i < 40 then s.rd (Reg.HBX_CH_RAW i) else 0
  | 3 => if i < 40 then s.rd (Reg.HBX_CH_TIME_LO i) else 0
  | 4 => if i < 40 then s.rd (Reg.HBX_CH_TIME_HI i) else 0
  | 5 => if i < 40 then s.rd (Reg.HBX_CH_STAT i) else 0
  | 6 =>
    if i < 16 then
      match f with
      | 0 => s.rd (Reg.ENC_IN_POS i)
      | 1 => s.rd (Reg.ENC_IN_SPD i)
      | 2 => s.rd (Reg.ENC_IN_ACC i)
      | _ => s.rd (Reg.ENC_IN_STEP_LO i)
    else 0
  | 7 => if i < 9 then s.hbx.imu.getD i 0 else 0
  | 8 => if i < 16 then s.rd (Reg.HBX_VLV_STAT i) else 0
  | 9 => if i < 16 then (sget (fun _ => hbxValveIdle) s.hbx.valve i).fast else 0
  | 10 => BitVec.ofNat 32 s.ext
  | 11 => BitVec.ofNat 32 (s.ext / 2 ^ 32)
  | _ => 0

/-- SNAPSHOT_LATCH: every publication of a trigger latches its items in one instant. -/
def State.hbxTrigger (s : State) (trig : Nat) : State :=
  let snap := s
  (List.range 16).foldl (fun s p =>
    let cfg := s.rd (Reg.HBX_PUB_CFG p)
    if !wbit cfg 0 ∨ wbits cfg 5 1 ≠ trig then s
    else
      let first := wbits cfg 20 12
      let n := wbits cfg 28 21
      if n = 0 ∨ 512 < first + n then s.hbxStat 0
      else
        let msg := (List.range (min n 128)).map fun i => itemWord snap (snap.rd (Reg.HBX_ITEM (first + i)))
        s.modHbx fun h => { h with pub := sset (fun _ => none) h.pub p (some msg) }) s

/-- HBX_PUB_SEND: the latched message becomes ready at the source. -/
def pubSend (p : Nat) (s : State) : State :=
  match sget (fun _ => none) s.hbx.pub p with
  | none => s
  | some m => (s.modHbx fun h => { h with pub := sset (fun _ => none) h.pub p none }).feltPublish 12
      (s.bits (Reg.HBX_PUB_CFG p) 11 6) m

def execHbxPubSend (p : Fin 16) (s : State) : Out1 := .next (s.ifOn 10 (pubSend p.val))

/-- The IMU's factory values (R428), and the user overrides of the bank in force (R409). -/
def imuFac (s : State) : List Word := (List.range 18).map fun i => BitVec.ofNat 32 (memRd erasedByte s.nor (0x400 + 4 * i) 4)
def imuUsr (s : State) : Option (List Word) :=
  (bankForce s).map fun b => (List.range 18).map fun i => BitVec.ofNat 32 (rdz s.mram (b + 0x200 + 4 * i) 4)

/-- IMU_SAMPLE (R254): every 62,500 ticks while EN. -/
def imuSample (raw : List Int) (rateSat forceSat fail late : Bool) (s : State) : State :=
  if !s.bit Reg.HBX_IMU_CTL 0 ∨ s.clk < s.hbx.imuAt + 500000 then s
  else
    let v := Config.imuCorrect raw (imuFac s) (imuUsr s)
    let n := (s.hbx.imuN + 1) % 256
    let w8 := b2n rateSat + 2 * b2n forceSat + 4 * b2n fail + 256 * n
    let left := if s.bit Reg.HBX_IMU_CTL 1 then (if s.hbx.selft = 0 then 20 else s.hbx.selft) - 1 else 0
    let s' := s.modHbx fun h => { h with
      imu := wordsOf s.ext 2 ++ ((List.range 6).map fun i => v.getD i 0) ++ [BitVec.ofNat 32 w8], imuN := n, imuAt := s.clk,
      imuLate := h.imuLate + b2n late, selft := left }
    let s' := if s.bit Reg.HBX_IMU_CTL 1 && left == 0 then s'.hwBit Reg.HBX_IMU_CTL 1 false else s'
    let s' := if late then s'.hbxStat 5 else s'
    s'.hbxTrigger 16

def execImuSample (raw : List Int) (rateSat forceSat fail late : Bool) (s : State) : Out1 :=
  .next (s.ifOn 10 (imuSample raw rateSat forceSat fail late))

/-! ### The valve loops (R257-R262) -/

def State.valve (s : State) (v : Nat) : HbxValve := sget (fun _ => hbxValveIdle) s.hbx.valve v
def State.setValve (s : State) (v : Nat) (x : HbxValve) : State :=
  s.modHbx fun h => { h with valve := sset (fun _ => hbxValveIdle) h.valve v x }

/-- F: the last seven bits as ±1, weighted 1, 2, 3, 4, 3, 2, 1. -/
def fastF (bits : Nat) : Int :=
  (List.range 7).foldl (fun a i => a + (if fbit bits i then 1 else -1) * (4 - ((i : Int) - 3).natAbs)) 0

/-- Minimum times in ns (R259): TON_X or TON_MIN in units of 50 ns, 10 µs to 1,000 µs. -/
def minTime (x m : Nat) : Nat := 50 * (max 200 (if x ≠ 0 then min x 20000 else m))
def tonMin (s : State) (v : Nat) : Nat := minTime (s.bits (Reg.HBX_VLV_TIME v) 14 0) (s.bits (Reg.HBX_VLV_CFG v) 22 13)
def toffMin (s : State) (v : Nat) : Nat := minTime (s.bits (Reg.HBX_VLV_TIME v) 30 16) (s.bits (Reg.HBX_VLV_CFG v) 31 23)

/-- Switch a driver; each OFF-to-ON transition counts. -/
def State.drive (s : State) (v : Nat) (on : Bool) : State :=
  if s.bit (Reg.HBX_VLV_STAT v) 0 = on then s
  else
    let s := (s.setBit (Reg.HBX_VLV_STAT v) 0 on).setValve v { s.valve v with at_ := s.clk }
    let s := if on then s.addWrap (Reg.HBX_VLV_STAT v) 31 16 1 else s
    s.openEval v

/-- Band timeout in ns: 0 is taken as 3 ms. -/
def bandTmo (s : State) (v : Nat) : Nat :=
  let t := s.bits (Reg.HBX_VLV_CFG v) 12 5
  1000000 * (if t = 0 then 3 else t)

/-- The time since the last accepted band has reached TMO (R260). -/
def bandDue (s : State) (v : Nat) : Bool :=
  match (s.valve v).band with
  | some (_, _, t) => decide (t + bandTmo s v ≤ s.clk)
  | none => false

/-- The valve times out: BAND_TMO; with FAIL OFF the driver goes OFF. -/
def State.bandTimeout (s : State) (v : Nat) : State :=
  let s := if s.bit (Reg.HBX_VLV_STAT v) 4 then s else (s.setBit (Reg.HBX_VLV_STAT v) 4 true).hbxStat 3
  if s.bit (Reg.HBX_VLV_CFG v) 4 then s.drive v false else s

def bandTimeoutCmd (v : Nat) (s : State) : State :=
  if s.bit (Reg.HBX_VLV_CFG v) 0 && bandDue s v then s.bandTimeout v else s

def execBandTimeout (v : Fin 16) (s : State) : Out1 := .next (s.ifOn 10 (bandTimeoutCmd v.val))

/-- OVERCURRENT: 4 consecutive decisions above 3.5 A. -/
def State.overcurrent (s : State) (v : Nat) (i : Word) : State :=
  let x := s.valve v
  let n := if g32Lt 0x40600000 i then x.oc + 1 else 0
  let s := s.setValve v { x with oc := if 4 ≤ n then 0 else n, fast := i, wait := x.wait || decide (4 ≤ n) }
  if 4 ≤ n ∧ !s.bit (Reg.HBX_VLV_STAT v) 1 then ((s.flag (Reg.HBX_VLV_STAT v) 1).hbxStat 4).drive v false
  else s

/-- BAND_DECISION: the order of R262, with the gate of R357 in its first priority. -/
def State.bandDecide (s : State) (v bits : Nat) : State :=
  let i := calValue s v (fastF bits * 2 ^ 20)
  let s := s.overcurrent v i
  let st := Reg.HBX_VLV_STAT v
  let x := s.valve v
  match x.band with
  | none => s.drive v false
  | some (u, lo, _) =>
    if !s.bit Reg.PAIR_LEASE_STAT 8 ∨ !s.bit (Reg.HBX_VLV_CFG v) 0 ∨ s.bit st 3 ∨ s.bit st 1 ∨ x.wait then s.drive v false
    else
      let s := if bandDue s v then s.bandTimeout v else s
      if s.bit st 4 ∧ s.bit (Reg.HBX_VLV_CFG v) 4 then s.drive v false
      else if s.bit st 0 then (if g32Lt u i ∧ x.at_ + tonMin s v ≤ s.clk then s.drive v false else s)
      else if g32Lt i lo ∧ x.at_ + toffMin s v ≤ s.clk then s.drive v true
      else s

/-- With OPEN as it then stands (R261). -/
def bandDecision (v bits : Nat) (s : State) : State := (s.bandDecide v bits).openEval v

def execBandDecision (v : Fin 16) (bits : BitVec 7) (s : State) : Out1 := .next (s.ifOn 10 (bandDecision v.val bits.toNat))

/-- BAND_ACCEPT (R258): one entry for one valve. -/
def State.bandAccept (s : State) (k v : Nat) (c h : Word) : State :=
  if !finite32 c ∨ !finite32 h ∨ g32Lt h 0 then
    (s.addSat (Reg.HBX_BMB_STAT k) 31 16 1).hbxStat 2
  else
    let c' := if g32Lt 0x40400000 c then 0x40400000 else if g32Lt c 0 then 0 else c
    let h' := if g32Lt 0x3F800000 h then 0x3F800000 else h
    let s := if c' ≠ c ∨ h' ≠ h then s.flag (Reg.HBX_VLV_STAT v) 5 else s
    let x := s.valve v
    -- A band accepted after OC was cleared ends the wait (R261).
    let s := s.setValve v { x with band := some (g32A c' h', g32S c' h', s.clk), wait := x.wait && s.bit (Reg.HBX_VLV_STAT v) 1 }
    s.setBit (Reg.HBX_VLV_STAT v) 4 false

/-- A valve's entry in its mailbox, where it has one. -/
def bandEntry (s : State) (v : Nat) : Option Nat :=
  let b := s.rd (Reg.HBX_BMB_CFG (s.bits (Reg.HBX_VLV_CFG v) 3 1))
  let first := wbits b 13 10
  if first ≤ v ∧ v < first + min (wbits b 18 14) 16 then some (v - first) else none

/-- CFG_ERR of an enabled valve without an entry. -/
def State.valveCfg (s : State) (v : Nat) : State :=
  let bad := s.bit (Reg.HBX_VLV_CFG v) 0 && bandEntry s v == none
  let s' := s.setBit (Reg.HBX_VLV_STAT v) 6 bad
  if bad && !s.bit (Reg.HBX_VLV_STAT v) 6 then s'.hbxStat 0 else s'

/-- A message arrives in band mailbox k (R258). -/
def State.bmbArrive (s : State) (k : Nat) (msg : Msg) : State :=
  let s := (s.addWrap (Reg.HBX_BMB_STAT k) 15 0 1).modHbx fun h => { h with bmb := sset (fun _ => none) h.bmb k (some msg) }
  (List.range 16).foldl (fun s v =>
    if s.bits (Reg.HBX_VLV_CFG v) 3 1 ≠ k then s
    else match bandEntry s v with
      | none => s.valveCfg v
      | some e =>
        if 2 * e + 1 < msg.length then s.bandAccept k v (msg.getD (2 * e) 0) (msg.getD (2 * e + 1) 0) else s) s

/-- BMB_CFG_WRITE: a change of STATION or CHAN empties the mailbox; its valves' CFG_ERR follows. -/
def bmbCfg (k : Nat) (v : Word) (s : State) : State :=
  let old := s.rd (Reg.HBX_BMB_CFG k)
  let s := s.wr (Reg.HBX_BMB_CFG k) (v &&& 0xFFFFF)
  let s := if wbits v 9 0 = wbits old 9 0 then s else s.modHbx fun h => { h with bmb := sset (fun _ => none) h.bmb k none }
  (List.range 16).foldl (fun s v => if s.bits (Reg.HBX_VLV_CFG v) 3 1 = k then s.valveCfg v else s) s

def execBmbCfgWrite (k : Fin 8) (v : Word) (s : State) : Out1 := .next (s.ifOn 10 (bmbCfg k.val v))

/-- A write of HBX_VLVv_CFG. -/
def State.valveWrite (s : State) (v : Nat) (w : Word) : State := (s.wr (Reg.HBX_VLV_CFG v) w).valveCfg v

/-- VALVE_UNDERVOLTAGE: below 12.0 V. -/
def valveUv (mv : Nat) (s : State) : State :=
  if 12000 ≤ mv then s
  else
    let s := s.modHbx fun h => { h with uv := true }
    (List.range 16).foldl (fun s v =>
      let s := if s.bit (Reg.HBX_VLV_STAT v) 3 then s else (s.setBit (Reg.HBX_VLV_STAT v) 3 true).hbxStat 4
      s.drive v false) s

def execValveUndervoltage (mv : Nat) (s : State) : Out1 := .next (s.ifOn 10 (valveUv mv))

/-- VALVE_UV_RECOVER: at or above 14.0 V for 10 ms. -/
def valveUvRecover (mv : Nat) (s : State) : State :=
  if !s.hbx.uv ∨ mv < 14000 then s
  else
    let s := s.modHbx fun h => { h with uv := false }
    (List.range 16).foldl (fun s v => s.setBit (Reg.HBX_VLV_STAT v) 3 false) s

def execValveUvRecover (mv : Nat) (s : State) : Out1 := .next (s.ifOn 10 (valveUvRecover mv))

end Sys2Proof.Machine
end

