-- ==== Sys2Proof/Machine/Nbb.lean ====
section
/-! DEFINITION. The Navigation baseband's channels, acquisition, observables, notches, jamming and antennas (R186-R206). The
time model is in NbbTime.lean. -/

namespace Sys2Proof.Machine

def State.modNbb (s : State) (f : NbbSt → NbbSt) : State := { s with nbb := f s.nbb }
def State.nch (s : State) (c : Nat) : NbbCh := sget (fun _ => nbbChIdle) s.nbb.ch c
def State.setNch (s : State) (c : Nat) (x : NbbCh) : State :=
  s.modNbb fun n => { n with ch := sset (fun _ => nbbChIdle) n.ch c x }

/-- NBB_STAT: bits 0-1 on source 24, 3-4 on 25, 2, 5, 6, 7, 9 on 26, 8 on 27. -/
def State.nbbStat (s : State) (i : Nat) : State :=
  s.setStat Reg.NBB_STAT Reg.NBB_IRQ_EN (if i ≤ 1 then 24 else if i = 3 ∨ i = 4 then 25 else if i = 8 then 27 else 26) i

def chState (s : State) (c : Nat) : Nat := s.bits (Reg.NBB_CH_STAT c) 2 0
def State.setChState (s : State) (c st : Nat) : State := s.setBits (Reg.NBB_CH_STAT c) 2 0 st

/-! ### Signals (R186) -/

/-- Is the PRN inside the table for a signal code? -/
def prnOk (sig prn : Nat) : Bool :=
  match sig with
  | 0 | 1 | 2 => decide (1 ≤ prn) && decide (prn ≤ 32)
  | 3 | 4 | 5 | 6 => decide (1 ≤ prn) && decide (prn ≤ 36)
  | 7 | 8 | 9 | 10 => decide (1 ≤ prn) && decide (prn ≤ 63)
  | 11 => decide (prn ≤ 13)
  | 12 | 13 => decide (120 ≤ prn) && decide (prn ≤ 158)
  | _ => false

/-- A pilot component. -/
def isPilot (sig : Nat) : Bool := sig == 2 || sig == 4 || sig == 6 || sig == 8 || sig == 10
/-- A BOC(1,1) component: E1 and B1C. -/
def isBoc (sig : Nat) : Bool := sig == 3 || sig == 4 || sig == 7 || sig == 8
/-- Lower band: L5, E5a, B2a, SBAS L5. -/
def isLower (sig : Nat) : Bool := sig == 1 || sig == 2 || sig == 5 || sig == 6 || sig == 9 || sig == 10 || sig == 13
/-- Chips per second and carrier in Hz; GLONASS carriers are 1,602 + 0.5625 k MHz. -/
def chipRate (sig : Nat) : Nat := if isLower sig then 10230000 else if sig = 11 then 511000 else 1023000
def carrierHz (sig prn : Nat) : Nat :=
  if isLower sig then 1176450000 else if sig = 11 then 1602000000 + 562500 * prn - 7 * 562500 else 1575420000
/-- Milliseconds of the primary code: 4 of E1, 10 of B1C (R188; PRESUMED lengths), and half-chips of a millisecond. -/
def codeMs (sig : Nat) : Nat := if sig = 3 ∨ sig = 4 then 4 else if sig = 7 ∨ sig = 8 then 10 else 1
def halfPerMs (sig : Nat) : Nat := 2 * chipRate sig / 1000

/-! ### Arithmetic: binary64 -/

def fOfInt (v : Int) : Nat := (fpOfInt f64 0 v).1
def fA (x y : Nat) : Nat := (fpAdd f64 0 x y).1
def fS (x y : Nat) : Nat := (fpSub f64 0 x y).1
def fM (x y : Nat) : Nat := (fpMul f64 0 x y).1
def fD (x y : Nat) : Nat := (fpDiv f64 0 x y).1

/-! ### Configuration (R187, R188, R194, R201) -/

/-- LEADER names another channel with the same signal and PRN on a different antenna. -/
def leaderOk (s : State) (c : Nat) (v : Word) : Bool :=
  let l := wbits v 31 24
  l == 0xFF || (decide (l < 192) && l != c && s.bits (Reg.NBB_CH_CFG l) 23 11 == wbits v 23 11 &&
    s.bits (Reg.NBB_CH_CFG l) 9 8 != wbits v 9 8)

/-- The current f_aid, extrapolated with its rate (R193); binary64. -/
def aidNow (s : State) (x : NbbCh) : Nat :=
  match x.aid with
  | none => 0
  | some (d, r, t) =>
    let ms := fpOfInt f64 0 (s.clk - t : Nat)
    let dt := (fpDiv f64 0 ms.1 (fpOfInt f64 0 1000000000).1).1
    (fpFma f64 0 false (fpCast f32 f64 0 d.toNat).1 (fpCast f32 f64 0 r.toNat).1 dt).1

/-- Aiding stops: the current f_aid is added to acc1 (R193). -/
def State.aidStop (s : State) (c : Nat) : State :=
  let x := s.nch c
  if x.aided then s.setNch c { x with acc1 := (fpAdd f64 0 x.acc1 (aidNow s x)).1, aided := false } else s

/-- The channel starts in PULLIN at a Doppler and a code phase in half-chips: the whole milliseconds of the phase start the count, so that
its position in the code holds (R200). -/
def State.startAt (s : State) (c : Nat) (dop phase : Word) : State :=
  let cfg := s.rd (Reg.NBB_CH_CFG c)
  let sig := wbits cfg 15 11
  let d := (fpCast f32 f64 0 dop.toNat).1
  let r := fM (fOfInt (chipRate sig)) (fA (fOfInt 1) (fD d (fOfInt (carrierHz sig (wbits cfg 23 16)))))
  (s.setNch c { nbbChIdle with acc1 := d, fCar := d, rCode := r, last := s.clk, since := phase.toNat / halfPerMs sig,
                               phase := (phase.toNat % halfPerMs sig : Nat), aid := (s.nch c).aid, aidNew := (s.nch c).aidNew }).setChState c 1

/-- NBB_CH_CFG_WRITE. Rejected whole: a new identity outside IDLE, an identity outside the table, a bad leader. EN set in IDLE starts
PULLIN; no register holds the Doppler and the code phase that R192 says software has written, so both are free values. -/
def nbbCfgWrite (c : Nat) (v : Word) (s : State) : State :=
  let old := s.rd (Reg.NBB_CH_CFG c)
  let newId := wbits v 9 8 != wbits old 9 8 || wbits v 23 11 != wbits old 23 11
  let badId := wbits v 9 8 == 3 || !prnOk (wbits v 15 11) (wbits v 23 16)
  if (newId && chState s c != 0) || badId || !leaderOk s c v then s.flag (Reg.NBB_CH_STAT c) 3
  else
    let s := s.wr (Reg.NBB_CH_CFG c) (v &&& 0xFFFFFB7F)
    let s := if wbit v 2 then s else s.aidStop c
    if wbit v 0 && chState s c == 0 then
      let (d, s) := s.free
      let (p, s) := s.free
      s.startAt c d p
    else s

def execNbbChCfgWrite (c : Fin 192) (v : Word) (s : State) : Out1 := .next (s.ifOn 9 (nbbCfgWrite c.val v))

/-- NBB_SPC_WRITE: ESP 1-8, VSP above ESP. -/
def nbbSpcWrite (c : Nat) (v : Word) (s : State) : State :=
  let e := wbits v 3 0
  if e < 1 ∨ 8 < e ∨ wbits v 7 4 ≤ e then s.flag (Reg.NBB_CH_STAT c) 3
  else s.wr (Reg.NBB_CH_SPC c) (v &&& 0xFFFFF)

def execNbbSpcWrite (c : Fin 192) (v : Word) (s : State) : Out1 := .next (s.ifOn 9 (nbbSpcWrite c.val v))

/-- TOW_WRITE (R201): additions of writes before one update, and half cycles before one epoch, add up. -/
def towWrite (c : Nat) (v : Word) (s : State) : State :=
  let x := s.nch c
  (s.wr (Reg.NBB_CH_TOW c) v).setNch c
    (if wbit v 31 then { x with ms := if x.tow then x.ms else x.since, addMs := x.addMs + wbits v 29 0,
                                addHalf := x.addHalf + b2n (wbit v 30), tow := true, half := true }
     else { x with addMs := 0, tow := false, half := false })

def execTowWrite (c : Fin 192) (v : Word) (s : State) : Out1 := .next (s.ifOn 9 (towWrite c.val v))

/-! ### The observation and symbol rings (R201, R203) -/

/-- Ring size in bytes of a configuration word. -/
def ringSize (cfg : Word) : Nat := 2 ^ min (wbits cfg 27 24) 12 * 4096

/-- Bytes in use between RD and WR. -/
def ringUsed (wr rd size : Nat) : Nat := (wr + size - rd % size) % size

/-- Write words into a DRAM ring at WR, wrapping at its end. -/
def State.ringPut (s : State) (base size off : Nat) (ws : List Word) : State :=
  let o := dramBase + base * 4096
  let n := (size - off) / 4
  if ws.length ≤ n then s.dmaPut (o + off) ws else (s.dmaPut (o + off) (ws.take n)).dmaPut o (ws.drop n)

/-- Append a block of whole words where it fits; else RING_OVF. -/
def State.nbbRing (s : State) (cfgR wrR rdR : Nat) (ws : List Word) : State × Bool :=
  let cfg := s.rd cfgR
  let size := ringSize cfg
  let wr := s.rdN wrR
  if !wbit cfg 19 then (s, false)
  else if size ≤ ringUsed wr (s.rdN rdR) size + 4 * ws.length then (s.nbbStat 2, false)
  else ((s.ringPut (wbits cfg 18 0) size wr ws).wrN wrR ((wr + 4 * ws.length) % size), true)

/-- SYMBOL_WRITE. -/
def State.symWrite (s : State) (c ms : Nat) (v : BitVec 16) : State :=
  (s.nbbRing Reg.NBB_SYM_CFG Reg.NBB_SYM_WR Reg.NBB_SYM_RD [BitVec.ofNat 32 (c + 256 * (ms % 2 ^ 24)), BitVec.ofNat 32 v.toNat]).1

/-! ### LOOP_UPDATE (R189-R195) -/

/-- The coefficient k of a gain set, as binary64. -/
def gainF (s : State) (g k : Nat) : Nat := (fpCast f32 f64 0 (s.rdN (Reg.NBB_GAIN_W g k))).1

/-- All ten words finite (R195). -/
def gainValid (s : State) (g : Nat) : Bool := (List.range 10).all fun k => s.bits (Reg.NBB_GAIN_W g k) 30 23 != 255

/-- |x| of a dump. -/
def magF (p : Int × Int) : Nat := (fpSqrt f64 0 (fOfInt (p.1 * p.1 + p.2 * p.2))).1

/-- LI over the last updates (R192). -/
def lockInd (h : List (Int × Int)) : Nat :=
  let i2 := h.foldl (fun n p => n + p.1 * p.1) (0 : Int)
  let q2 := h.foldl (fun n p => n + p.2 * p.2) (0 : Int)
  fD (fOfInt (i2 - q2)) (fOfInt (i2 + q2))

/-- The discriminators e_p, e_f, e_c (R190). -/
def discr (pilot : Bool) (esp : Nat) (prev e p l : Int × Int) : Nat × Nat × Nat :=
  let at_ := fun y x => if pilot then atan2Turns y x else atanTurns y x
  let cross := prev.1 * p.2 - prev.2 * p.1
  let dot := prev.1 * p.1 + prev.2 * p.2
  let d := fD (fOfInt (2 * esp)) (fOfInt 16)
  let ec := fM (fS (fOfInt 1) (fD d (fOfInt 2))) (fD (fS (magF e) (magF l)) (fA (magF e) (magF l)))
  (at_ p.2 p.1, fM (at_ cross dot) (fOfInt 1000), ec)

/-- The filter of R191. -/
def loopFilter (s : State) (g sig prn : Nat) (x : NbbCh) (faid ep ef ec : Nat) : NbbCh :=
  let k := gainF s g
  let acc2 := fA (fA x.acc2 (fM (k 2) ep)) (fM (k 4) ef)
  let acc1 := fA (fA (fA x.acc1 (fM (k 1) ep)) (fM (k 3) ef)) acc2
  let fCar := fA (fA faid acc1) (fM (k 0) ep)
  let acc3 := fA x.acc3 (fM (k 6) ec)
  let r := fA (fA (fM (fOfInt (chipRate sig)) (fA (fOfInt 1) (fD fCar (fOfInt (carrierHz sig prn))))) (fM (k 5) ec)) acc3
  { x with acc1, acc2, acc3, fCar, rCode := r, ef }

/-- Half a chip towards VE or VL on 10 updates (R189). -/
def bumpStep (boc : Bool) (ve p vl : Nat) (x : NbbCh) : NbbCh :=
  let nve := if boc && fpLtB f64 p ve then x.ve + 1 else 0
  let nvl := if boc && fpLtB f64 p vl then x.vl + 1 else 0
  if 10 ≤ nve then { x with ve := 0, vl := 0, phase := x.phase + 1, bump := true }
  else if 10 ≤ nvl then { x with ve := 0, vl := 0, phase := x.phase - 1, bump := true }
  else { x with ve := nve, vl := nvl }

/-- Milliseconds in the system's week, or the GLONASS day (R201). -/
def weekMs (sig : Nat) : Nat := if sig = 11 then 86400000 else 604800000

/-- A rate per second times a time in ns, in 2^-32 units, to nearest; of a rate that is no number a free value. -/
def overTime (rate : Nat) (ns : Int) : Int :=
  match fpDecode f64 rate with
  | .fin neg m e =>
    let n : Int := (if neg then -(m : Int) else m) * ns * 2 ^ (e + 32).toNat
    let d : Int := 1000000000 * 2 ^ (-(e + 32)).toNat
    (2 * n + d) / (2 * d)
  | _ => Config.adrStep rate ns

/-- What one code millisecond adds: the counts (with the TOW additions due), the carrier phase, which is the integral of Doppler (R200). -/
def chanAdvance (sig now : Nat) (x : NbbCh) : NbbCh :=
  { x with ms := (x.ms + 1 + x.addMs) % weekMs sig, since := (x.since + 1) % 2 ^ 30, addMs := 0, phase := 0,
           adr := (((x.adr : Int) + overTime x.fCar (now - x.last : Nat)) % 2 ^ 64).toNat, last := now }

/-- The channel's millisecond count (R200, R201). -/
def NbbCh.count (x : NbbCh) : Nat := if x.tow then x.ms else x.since

/-- LOSS_CN0 and LOSS_MS (R192). -/
def lossHit (s : State) (g cn0 : Nat) : Bool := fpLtB f64 (fD (fOfInt cn0) (fOfInt 16)) (gainF s g 8)
def lossLong (s : State) (g n : Nat) : Bool := fpLeB f64 (gainF s g 9) (fOfInt n)

/-- Word 3 of a channel's own request: within the ranges of R196, else free. -/
def ownWord3 : Word :=
  let w := Config.reacqWord3
  wset (wset w 3 0 (1 + wbits w 3 0 % 10)) 11 4 (1 + wbits w 11 4 % 255)

/-- A LOST channel with AUTO_REACQ queues its own request: ±20 chips, ±250 Hz about its last estimate (R192). -/
def State.reacq (s : State) (c : Nat) : State :=
  let x := s.nch c
  if x.own then s
  else if 32 ≤ s.nbb.acq.length then s.nbbStat 4
  else
    let cfg := s.rd (Reg.NBB_CH_CFG c)
    let w0 := BitVec.ofNat 32 (wbits cfg 9 8 * 256 + wbits cfg 15 11 * 2048 + wbits cfg 23 16 * 65536 + c * 2 ^ 24)
    let w1 := BitVec.ofNat 32 (fpCast f64 f32 0 x.fCar).1
    (s.setNch c { x with own := true }).modNbb fun n =>
      { n with acq := n.acq ++ [([w0, w1, BitVec.ofNat 32 (250 + 65536 * 40), ownWord3], true)] }

/-- The transitions of R192 after an update. -/
def State.chanTransit (s : State) (c g sig cn0 : Nat) : State :=
  let st := chState s c
  let x := s.nch c
  let li := lockInd x.hist
  let thr := gainF s g 7
  let up := if st = 1 ∧ fpLeB f64 thr li then x.up + 1 else 0
  let down := if st = 2 ∧ fpLtB f64 li (fS thr 0x3FD3333333333333) then x.down + 1 else 0
  let loss := if lossHit s g cn0 then x.loss + 1 else 0
  let x := { x with up, down, loss }
  if lossHit s g cn0 && lossLong s g loss then
    ((s.setNch c { x with up := 0, down := 0, loss := 0, lockMs := 0 }).setChState c 3).nbbStat 5
  else if 20 ≤ up then
    (s.setNch c { x with up := 0, lockMs := 0, half := x.half || isPilot sig }).setChState c 2
  else if 20 ≤ down then
    ((s.setNch c { x with down := 0, lockMs := 0, slip := true, since := x.since % codeMs sig }).setChState c 1).addWrap (Reg.NBB_CH_STAT c) 15 8 1
  else s.setNch c x

/-- Aiding (R193): an aid that has arrived takes effect; the first one starts aiding (acc1 falls by the first f_aid). -/
def State.aidTake (s : State) (c : Nat) : State :=
  let x := s.nch c
  let x := match x.aidNew with | some a => { x with aid := some a, aidNew := none } | none => x
  s.setNch c (if s.bit (Reg.NBB_CH_CFG c) 2 && !x.aided && x.aid.isSome then { x with aided := true, acc1 := fS x.acc1 (aidNow s x) } else x)

/-- A channel that follows: its LEADER is in TRACK (R194). -/
def following (s : State) (c : Nat) : Bool :=
  let l := s.bits (Reg.NBB_CH_CFG c) 31 24
  l != 0xFF && chState s l == 2

/-- The loops of a channel at an update: the discriminators of its dumps, the filter, and for a follower the leader's code and FLL terms
(R190, R191, R194). `st`: PULLIN or TRACK. -/
def chanLoops (s : State) (c st : Nat) (prev : Int × Int) (dump : Nat → Int × Int) (x : NbbCh) : NbbCh :=
  let cfg := s.rd (Reg.NBB_CH_CFG c)
  let sig := wbits cfg 15 11
  let lead := s.nch (wbits cfg 31 24)
  let (ep, ef, ec) := discr (isPilot sig) (s.bits (Reg.NBB_CH_SPC c) 3 0) prev (dump 1) (dump 2) (dump 3)
  let ep := if st = 2 then ep else 0
  let ef := if following s c then lead.ef else if st = 2 ∧ !wbit cfg 1 then 0 else ef
  let y := loopFilter s (wbits cfg 6 4) sig (wbits cfg 23 16) x (if x.aided then aidNow s x else 0) ep ef ec
  let y := if following s c then { y with rCode := lead.rCode, acc3 := lead.acc3, ve := 0, vl := 0 }
    else bumpStep (isBoc sig) (magF (dump 0)) (magF (dump 2)) (magF (dump 4)) y
  { y with lockMs := if st = 2 then min (y.lockMs + 1) 0xFFFFF else y.lockMs }

/-- LOOP_UPDATE. -/
def loopUpdate (c : Nat) (iq : List (Int × Int)) (cn0 : Nat) (sym : Option (BitVec 16)) (s : State) : State :=
  let cfg := s.rd (Reg.NBB_CH_CFG c)
  let st := chState s c
  if st = 0 then s
  else if !wbit cfg 0 then
    ((s.setNch c { nbbChIdle with aid := (s.nch c).aid, aidNew := (s.nch c).aidNew }).setChState c 0).setBits (Reg.NBB_CH_STAT c) 5 4 0
  else
    let g := wbits cfg 6 4
    let sig := wbits cfg 15 11
    let dump := fun k => (iq[k]?).getD (0, 0)
    let prev := (s.nch c).prev
    let s := (List.range 7).foldl (fun s k => s.wrN (Reg.NBB_CH_CORR c k) (fpCast f64 f32 0 (magF (dump k))).1) s
    let s := s.setBits (Reg.NBB_CH_STAT c) 27 16 cn0
    let s := s.setNch c { chanAdvance sig s.clk (s.nch c) with prev := dump 2, hist := (dump 2 :: (s.nch c).hist).take 20 }
    if !gainValid s g then
      let s := if st = 4 then s else s.setNch c { s.nch c with back := st }
      (s.setChState c 4).setBit (Reg.NBB_CH_STAT c) 5 true
    else if st = 3 then (if wbit cfg 3 then s.reacq c else s)
    else
      let st := if st = 4 then (s.nch c).back else st
      let s := ((s.setChState c st).setBit (Reg.NBB_CH_STAT c) 5 false).aidTake c
      let s := s.setBit (Reg.NBB_CH_STAT c) 4 (wbits cfg 31 24 != 0xFF && !following s c)
      let x := chanLoops s c st prev dump (s.nch c)
      let s := (s.setNch c x).chanTransit c g sig cn0
      match sym with
      | some v => if st = 2 then s.symWrite c x.count v else s
      | none => s

def execLoopUpdate (c : Fin 192) (iq : List (Int × Int)) (cn0 : BitVec 12) (sym : Option (BitVec 16)) (s : State) : Out1 :=
  .next (s.ifOn 9 (loopUpdate c.val iq cn0.toNat sym))

/-- AID_EXPIRE: no new aid for AID_AGE ms. -/
def aidAge (s : State) : Nat := if s.bits Reg.NBB_AID_CFG 15 8 = 0 then 50 else s.bits Reg.NBB_AID_CFG 15 8

def aidExpire (c : Nat) (s : State) : State :=
  match (s.nch c).aidNew.orElse fun _ => (s.nch c).aid with
  | none => s
  | some (_, _, t) =>
    if s.clk < t + aidAge s * 1000000 then s
    else
      let s := s.aidStop c
      s.setNch c { s.nch c with aid := none, aidNew := none }

def execAidExpire (c : Fin 192) (s : State) : Out1 := .next (s.ifOn 9 (aidExpire c.val))

/-- A Doppler-aid message arrives in mailbox i (R193): 8 bytes for each of channels 64 i to 64 i + 63, in effect at its next update. -/
def State.nbbAid (s : State) (i : Nat) (msg : Msg) : State :=
  (List.range (min (msg.length / 2) 64)).foldl (fun s k =>
    let c := 64 * i + k
    s.setNch c { s.nch c with aidNew := some (msg.getD (2 * k) 0, msg.getD (2 * k + 1) 0, s.clk) }) s

/-! ### Acquisition (R196-R198) -/

/-- A request with an invalid signal, PRN, coherent time or sum count. -/
def badReq (r : List Word) : Bool :=
  let w0 := r.getD 0 0
  let w3 := r.getD 3 0
  !prnOk (wbits w0 15 11) (wbits w0 23 16) || decide (wbits w3 3 0 < 1) || decide (10 < wbits w3 3 0) || wbits w3 11 4 == 0

/-- The result's words: the request's word 0; Doppler; code phase; [0] FOUND, [3:1] status (0 none, 1 done, 2 refused,
3 BAD_REQ), [31:16] ratio. -/
def resWords (w0 dop phase : Word) (found : Bool) (status ratio : Nat) : List Word :=
  [w0, dop, phase, BitVec.ofNat 32 (b2n found + 2 * status + 65536 * ratio)]

/-- The result registers show the head of the FIFO; with none left they hold free values. -/
def State.showRes (s : State) : State :=
  match s.nbb.res with
  | r :: _ => (List.range 4).foldl (fun s k => s.wr (Reg.NBB_ACQ_RES k) (r.getD k 0)) s
  | [] => (List.range 4).foldl (fun s k => let (w, s) := s.free; s.wr (Reg.NBB_ACQ_RES k) w) s

def State.queueRes (s : State) (r : List Word) : State :=
  if 32 ≤ s.nbb.res.length then s.nbbStat 4
  else
    let s := s.modNbb fun n => { n with res := n.res ++ [r] }
    (if s.nbb.res.length = 1 then s.showRes else s).nbbStat 3

/-- ACQ_PUSH: a request that is not valid completes at once. -/
def acqPush (s : State) : State :=
  let r := (List.range 4).map fun k => s.rd (Reg.NBB_ACQ_REQ k)
  if 32 ≤ s.nbb.acq.length then s.nbbStat 4
  else if badReq r then s.queueRes (resWords (r.getD 0 0) 0 0 false 3 0)
  else s.modNbb fun n => { n with acq := n.acq ++ [(r, false)] }

def execAcqPush (s : State) : Out1 := .next (s.ifOn 9 acqPush)

/-- Doppler bins on either side of the centre: ceil(span / bin), the bin 500 / (coherent ms) Hz (R197). -/
def dopBins (r : List Word) : Nat := (wbits (r.getD 2 0) 15 0 * wbits (r.getD 3 0) 3 0 + 499) / 500

/-- Bin i's Doppler, binary32; i counts from the lowest. -/
def binDop (r : List Word) (i : Nat) : Nat :=
  (fpCast f64 f32 0 (fA (fpCast f32 f64 0 (r.getD 1 0).toNat).1
    (fM (fOfInt ((i : Int) - dopBins r)) (fD (fOfInt 500) (fOfInt (wbits (r.getD 3 0) 3 0)))))).1

/-- Is a peak one of the search's cells (R197)? Code phases are half-chips of the primary code. -/
def inGrid (r : List Word) (dop phase : Word) : Bool :=
  let sig := wbits (r.getD 0 0) 15 11
  decide (phase.toNat < codeMs sig * halfPerMs sig) && (List.range (2 * dopBins r + 1)).any fun i => binDop r i == dop.toNat

/-- The hand-off to a channel: an IDLE one takes the identity; its own LOST one resumes (R192). -/
def State.handOff (s : State) (own : Bool) (w0 dop phase : Word) : State × Nat :=
  let c := wbits w0 31 24
  if 192 ≤ c then (s, if c = 0xFF then 0 else 2)
  else if own then
    if chState s c = 3 then (s.startAt c dop phase, 1) else (s, 2)
  else if chState s c = 0 then
    let cfg := s.rd (Reg.NBB_CH_CFG c)
    let cfg := wset (wset (wset cfg 9 8 (wbits w0 9 8)) 23 11 (wbits w0 23 11)) 0 0 1
    ((s.wr (Reg.NBB_CH_CFG c) cfg).startAt c dop phase, 1)
  else (s, 2)

/-- ACQ_RESULT: the oldest request ends with the peak found, a cell of its search (R197, R198). -/
def acqResult (dop phase : Word) (ratio : Nat) (s : State) : State :=
  match s.nbb.acq with
  | [] => s
  | (r, own) :: rest =>
    if !inGrid r dop phase then s
    else
      let s := s.modNbb fun n => { n with acq := rest }
      let w0 := r.getD 0 0
      let c := wbits w0 31 24
      let s := if own ∧ c < 192 then s.setNch c { s.nch c with own := false } else s
      let thr := if wbits (r.getD 3 0) 31 16 = 0 then 0x280 else wbits (r.getD 3 0) 31 16
      if ratio < thr then s.queueRes (resWords w0 dop phase false 0 ratio)
      else
        let (s, st) := s.handOff own w0 dop phase
        s.queueRes (resWords w0 dop phase true st ratio)

def execAcqResult (dop phase : Word) (ratio : BitVec 16) (s : State) : Out1 := .next (s.ifOn 9 (acqResult dop phase ratio.toNat))

/-- ACQ_POP: reading NBB_ACQ_RES3. -/
def acqPop (s : State) : State :=
  let s := { s with resp := .data (BitVec.ofNat 64 (s.rdN (Reg.NBB_ACQ_RES 3))) }
  match s.nbb.res with
  | [] => s
  | _ :: rest => (s.modNbb fun n => { n with res := rest }).showRes

def execAcqPop (s : State) : Out1 := .next (s.ifOn 9 acqPop)

/-! ### Observables (R199-R203) -/

/-- Code since the last update or start, in 2^-32 ms: the half-chips and the rate over `dt` ns (R200). -/
def codeSince (sig : Nat) (x : NbbCh) (dt : Int) : Int :=
  x.phase * 2 ^ 32 / (halfPerMs sig : Int) + overTime (fD x.rCode (fOfInt (chipRate sig / 1000 : Nat))) dt

/-- A channel's observable record (R200), `ago` ns before now; a follower's code is the leader's (R194). -/
def obsRecord (s : State) (c count : Nat) (ago : Int) (x : NbbCh) : List Word :=
  let cfg := s.rd (Reg.NBB_CH_CFG c)
  let sig := wbits cfg 15 11
  let st := chState s c
  let code := if following s c then s.nch (wbits cfg 31 24) else x
  let since := fun (y : NbbCh) => (s.clk : Int) - y.last - ago
  let tx := ((x.count : Int) * 2 ^ 32 + codeSince sig code (since code)) % 2 ^ 62
  let w0 := c + 256 * wbits cfg 9 8 + 1024 * b2n (isLower sig) + 2048 * sig + 65536 * wbits cfg 23 16 + 2 ^ 24 * (count % 256)
  let w7 := b2n (st == 2) + 2 * b2n (st == 1) + 4 * b2n x.tow + 8 * b2n x.half + 16 * b2n x.aided + 32 * b2n x.bump +
    64 * b2n x.slip + 256 * s.bits (Reg.NBB_CH_STAT c) 15 8
  [BitVec.ofNat 32 w0, BitVec.ofNat 32 (s.bits (Reg.NBB_CH_STAT c) 27 16 + 4096 * x.lockMs)] ++ wordsOf tx.toNat 2 ++
  wordsOf (((x.adr : Int) + overTime x.fCar (since x)) % 2 ^ 64).toNat 2 ++
  [BitVec.ofNat 32 (fpCast f64 f32 0 x.fCar).1, BitVec.ofNat 32 w7]

/-- DECIM and NAVDIV are 1-100. -/
def measOk (cfg : Word) : Bool :=
  decide (1 ≤ wbits cfg 11 5) && decide (wbits cfg 11 5 ≤ 100) && decide (1 ≤ wbits cfg 18 12) && decide (wbits cfg 18 12 ≤ 100)

/-- MEASUREMENT_EPOCH: an event on the epochs' compare channel, of local time `tgt`, to which the NCO states refer (R199). -/
def State.nbbMeasure (s : State) (tgt : Nat) : State :=
  let cfg := s.rd Reg.NBB_MEAS_CFG
  if !wbit cfg 0 ∨ !measOk cfg then s
  else
    let ev := s.nbb.events + 1
    if ev < wbits cfg 11 5 then s.modNbb fun n => { n with events := ev }
    else
      let count := s.nbb.epochs + 1
      let nav := count % wbits cfg 18 12 == 0
      let live := (List.range 192).filter fun c => chState s c != 0
      let s := live.foldl (fun s c =>
        let x := s.nch c
        if x.addHalf = 0 then s else s.setNch c { x with adr := (x.adr + x.addHalf * 2 ^ 31) % 2 ^ 64, addHalf := 0 }) s
      let recs := live.map fun c => (c, obsRecord s c count ((s.ext : Int) - tgt) (s.nch c))
      let s := live.foldl (fun s c => s.setNch c { s.nch c with slip := false, bump := false }) s
      let s := s.modNbb fun n => { n with events := 0, epochs := count, ep := some ⟨tgt, count, nav, recs, false, false⟩ }
      if nav then s.nbbStat 1 else s

/-- OBS_RECORD_PUBLISH (R202): message j carries the records of channels 16 j to 16 j + 15. -/
def obsPublish (s : State) : State :=
  match s.nbb.ep with
  | none => s
  | some e =>
    if e.pub then s
    else
      let s := s.modNbb fun n => { n with ep := some { e with pub := true } }
      (List.range 12).foldl (fun s j =>
        let ws := (e.recs.filter fun r => r.1 / 16 == j).flatMap fun r => r.2
        if ws = [] then s else s.feltPublish 10 j ws) s

def execObsRecordPublish (s : State) : Out1 := .next (s.ifOn 9 obsPublish)

/-! ### Interference (R204, R205) -/

/-- The line an auto notch locks to: the strongest at least 12 dB above the noise floor that no other auto notch of the band holds (R204). A
line: its offset from the band's centre and its height in 0.01 dB. -/
def notchLine (s : State) (a b k : Nat) (lines : List (BitVec 16 × Nat)) : Option (BitVec 16) :=
  let held := fun (f : BitVec 16) => (List.range 4).any fun q =>
    let r := Reg.NBB_ANT_B_NOTCH a b q
    q != k && s.bits r 1 0 == 2 && s.bit r 3 && s.bits r 19 4 == f.toNat
  (((lines.filter fun l => decide (1200 ≤ l.2) && !held l.1).foldl (fun (m : Option (BitVec 16 × Nat)) l => match m with
    | none => some l
    | some x => if x.2 < l.2 then some l else some x) none)).map Prod.fst

/-- NOTCH_UPDATE. `lines`: the narrowband lines of the band. -/
def notchUpdate (a b k : Nat) (lines : List (BitVec 16 × Nat)) (s : State) : State :=
  let r := Reg.NBB_ANT_B_NOTCH a b k
  let key := 8 * a + 4 * b + k
  if 0 < a ∧ s.bit r 2 then s.setBits r 23 3 (s.bits (Reg.NBB_ANT_B_NOTCH 0 b k) 23 3)
  else match s.bits r 1 0 with
    | 1 => s.setBit r 3 true
    | 2 => match notchLine s a b k lines with
      | some f => ((s.setBits r 19 4 f.toNat).setBit r 3 true).modNbb fun n => { n with noLine := sset (fun _ => none) n.noLine key none }
      | none => match sget (fun _ => none) s.nbb.noLine key with
        | none => s.modNbb fun n => { n with noLine := sset (fun _ => none) n.noLine key (some s.clk) }
        | some t => if s.clk < t + 100000000 then s else s.setBit r 3 false
    | _ => s.setBit r 3 false

def execNotchUpdate (a : Fin 3) (b : Fin 2) (k : Fin 4) (lines : List (BitVec 16 × Nat)) (s : State) : Out1 :=
  .next (s.ifOn 9 (notchUpdate a.val b.val k.val lines))

/-- The quiet reference that a band starts from, AGC gain and noise floor in 0.01 dB: of the factory calibration block at 0x0518, antenna by
antenna, upper band first (R205, R428); where that block has failed, which gives no nominal values, a free one (R408). -/
def quietStart (s : State) (a b : Nat) : Int × Int :=
  if s.bit Reg.TND_STAT 7 then Config.quietRef a b
  else
    let v := fun o => (fpToInt f64 0 (-(2 ^ 31)) (2 ^ 31) (fM (fpCast f32 f64 0 (memRd erasedByte s.nor (0x518 + 8 * (2 * a + b) + o) 4)).1 (fOfInt 100))).1
    (v 0, v 4)

/-- The jamming indicator: min(15, floor(max(ΔAGC, ΔN0) / 2 dB)). -/
def jamInd (ref : Int × Int) (agc n0 : Int) : Nat := min 15 ((max (max (ref.1 - agc) (n0 - ref.2)) 0).toNat / 200)

/-- JAM_EVAL. -/
def jamEval (a b : Nat) (agc n0 : Int) (clip : Nat) (s : State) : State :=
  let key := 2 * a + b
  let ref := (sget (fun _ => none) s.nbb.quiet key).getD (quietStart s a b)
  let s := s.modNbb fun n => { n with
    clip := sset (fun _ => 0) n.clip key clip,
    cap := match sget (fun _ => none) n.cap key with
      | some (t, x, y, c) => sset (fun _ => none) n.cap key (some (t, x + agc, y + n0, c + 1))
      | none => n.cap }
  let st := Reg.NBB_ANT_STAT a
  let j := jamInd ref agc n0
  let old := if b = 0 then s.bits st 19 16 else s.bits st 23 20
  let s := if b = 0 then s.setBits st 19 16 j else s.setBits st 23 20 j
  let s := s.setBits st 31 24 (max (sget (fun _ => 0) s.nbb.clip (2 * a)) (sget (fun _ => 0) s.nbb.clip (2 * a + 1)))
  let thr := s.bits (Reg.NBB_ANT_CTL a) 6 3
  if thr ≠ 0 ∧ old < thr ∧ thr ≤ j then s.nbbStat 7 else s

def execJamEval (a : Fin 3) (b : Fin 2) (agc n0 : Int) (clip : Byte) (s : State) : Out1 :=
  .next (s.ifOn 9 (jamEval a.val b.val agc n0 clip.toNat))

/-- QUIET_CAPTURE: both bands; the bit reads 1 until done. -/
def quietCapture (a : Nat) (s : State) : State :=
  if s.bit (Reg.NBB_ANT_CTL a) 7 then s
  else (s.setBit (Reg.NBB_ANT_CTL a) 7 true).modNbb fun n =>
    { n with cap := sset (fun _ => none) (sset (fun _ => none) n.cap (2 * a) (some (s.clk, 0, 0, 0))) (2 * a + 1) (some (s.clk, 0, 0, 0)) }

def execQuietCapture (a : Fin 3) (s : State) : Out1 := .next (s.ifOn 9 (quietCapture a.val))

/-- QUIET_CAPTURE_DONE: after 10 s the averages replace the reference. -/
def quietDone (a : Nat) (s : State) : State :=
  match sget (fun _ => none) s.nbb.cap (2 * a) with
  | none => s
  | some (t, _) =>
    if s.clk < t + 10000000000 then s
    else
      let s := s.setBit (Reg.NBB_ANT_CTL a) 7 false
      [2 * a, 2 * a + 1].foldl (fun s key =>
        match sget (fun _ => none) s.nbb.cap key with
        | none => s
        | some (_, x, y, c) => s.modNbb fun n =>
          { n with quiet := if c = 0 then n.quiet else sset (fun _ => none) n.quiet key (some (x / (c : Int), y / (c : Int))),
                   cap := sset (fun _ => none) n.cap key none }) s

def execQuietCaptureDone (a : Fin 3) (s : State) : Out1 := .next (s.ifOn 9 (quietDone a.val))

/-! ### Antenna supervision (R206): STATE 0 OFF, 1 NORMAL, 2 OPEN, 3 SHORT -/

def State.setAnt (s : State) (a st : Nat) (ma : Nat) : State :=
  (s.setBits (Reg.NBB_ANT_STAT a) 1 0 st).setBits (Reg.NBB_ANT_STAT a) 15 8 (min ma 255)

/-- PWR as it acts: 3 is off. -/
def antPower (s : State) (a : Nat) : Bool := s.bits (Reg.NBB_ANT_CTL a) 1 0 == 1 || s.bits (Reg.NBB_ANT_CTL a) 1 0 == 2

def antOpen (a ma : Nat) (s : State) : State :=
  if s.bits (Reg.NBB_ANT_STAT a) 1 0 = 1 ∧ ma < 3 then (s.setAnt a 2 ma).nbbStat 6 else s

def execAntOpen (a : Fin 3) (ma : Nat) (s : State) : Out1 := .next (s.ifOn 9 (antOpen a.val ma))

def antShort (a ma : Nat) (s : State) : State :=
  let st := s.bits (Reg.NBB_ANT_STAT a) 1 0
  if (st = 1 ∨ st = 2) ∧ 60 < ma then
    ((s.setAnt a 3 0).nbbStat 6).modNbb fun n => { n with short := sset (fun _ => false) n.short a true }
  else s

def execAntShort (a : Fin 3) (ma : Nat) (s : State) : Out1 := .next (s.ifOn 9 (antShort a.val ma))

/-- After a SHORT the supply stays off until RETRY; the registers' part of a write of PWR. -/
def State.antPwr (s : State) (a : Nat) : State :=
  let st := s.bits (Reg.NBB_ANT_STAT a) 1 0
  if !antPower s a then s.setAnt a 0 0
  else if sget (fun _ => false) s.nbb.short a then s.setBits (Reg.NBB_ANT_STAT a) 1 0 3
  else if st = 0 then s.setBits (Reg.NBB_ANT_STAT a) 1 0 1 else s

def antRetry (a : Nat) (s : State) : State :=
  if sget (fun _ => false) s.nbb.short a then
    let s := s.modNbb fun n => { n with short := sset (fun _ => false) n.short a false }
    if antPower s a then s.setBits (Reg.NBB_ANT_STAT a) 1 0 1 else s
  else s

def execAntRetry (a : Fin 3) (s : State) : Out1 := .next (s.ifOn 9 (antRetry a.val))

def antOpenClear (a ma : Nat) (s : State) : State :=
  if s.bits (Reg.NBB_ANT_STAT a) 1 0 = 2 ∧ 3 ≤ ma ∧ ma ≤ 60 then s.setAnt a 1 ma else s

def execAntOpenClear (a : Fin 3) (ma : Nat) (s : State) : Out1 := .next (s.ifOn 9 (antOpenClear a.val ma))

end Sys2Proof.Machine
end

