-- ==== Sys2Proof/Machine/NbbTime.lean ====
section
/-! DEFINITION. The baseband's time model: commits, slews, steps, holdover and PPS_OUT (R208-R213). Times on the scale are held
in units of 2^-40 ns. -/

namespace Sys2Proof.Machine

def State.modTime (s : State) (f : NbbTime → NbbTime) : State := s.modNbb fun n => { n with time := f n.time }

/-- Scale time of a model at an extended local time, in 2^-40 ns. -/
def TModel.eval (m : TModel) (t : Int) : Int := t * 2 ^ 40 + m.ofs + m.rate * (t - m.anchor)

/-- |r| falls at 200 ns/s to 0 (R209). -/
def slewNow (x : NbbTime) (t : Int) : Int :=
  let fall := (max 0 (t - x.rAt)) * (200 * 2 ^ 40) / 1000000000
  let m := max 0 ((x.r0.natAbs : Int) - fall)
  if x.r0 < 0 then -m else m

/-- The effective scale time now. -/
def effNow (s : State) : Int := s.nbb.time.model.eval s.ext - slewNow s.nbb.time s.ext

/-- The whole second of scale time plus ADV. -/
def ppsSec (s : State) (scale : Int) : Int :=
  (scale + (s.bits Reg.NBB_PPS_CFG 31 12 : Int) * 2 ^ 40) / (1000000000 * 2 ^ 40)

/-- The written model (R209). -/
def writtenModel (s : State) : TModel :=
  let ofs : Int := (BitVec.ofNat 64 (s.rd64 Reg.NBB_TSOL_OFS_LO Reg.NBB_TSOL_OFS_HI)).toInt
  ⟨ofs * 2 ^ 40 + (s.bits Reg.NBB_TSOL_OFS_FR 15 0 : Int) * 2 ^ 24, (s.rd Reg.NBB_TSOL_RATE).toInt,
   (s.rd64 Reg.NBB_TSOL_ANCH_LO Reg.NBB_TSOL_ANCH_HI : Nat)⟩

/-- SCALE: 2 and 3 are taken as 0. -/
def scaleOf (s : State) : Nat := if s.bits Reg.NBB_TSOL_CTL 2 1 = 1 then 1 else 0

/-- A new time state; a change sets TIME. -/
def State.timeState (s : State) (st : Nat) : State :=
  if s.bits Reg.NBB_TIME_STAT 1 0 = st then s
  else
    let s := s.setBits Reg.NBB_TIME_STAT 1 0 st
    s.ifOn 9 fun s => s.nbbStat 8

/-- Whole ns of a magnitude in 2^-40 ns, rounded to nearest. -/
def ns40 (x : Int) : Nat := (x.natAbs + 2 ^ 39) / 2 ^ 40

/-- The extended local time at which the effective scale time plus ADV reaches a whole second, to 1 ns (R212): the model solved for it,
the slew as it then is. -/
def secLocal (s : State) (sec : Int) : Int :=
  let x := s.nbb.time
  let goal := (sec * 1000000000 - (s.bits Reg.NBB_PPS_CFG 31 12 : Int)) * 2 ^ 40
  let solve := fun (r : Int) =>
    let d := 2 ^ 40 + x.model.rate
    (goal + r - x.model.ofs + x.model.rate * x.model.anchor + d - 1) / d
  solve (slewNow x (solve (slewNow x (solve (slewNow x s.ext)))))

/-- U0 + ρ t + ½ a t², rounded to a whole ns and saturating (R211). -/
def holdUnc (s : State) : Nat :=
  let t := fD (fOfInt (s.clk - s.nbb.time.commit : Nat)) (fOfInt 1000000000)
  let w := fun r => (fpCast f32 f64 0 (s.rdN r)).1
  let q := fM (fM (fD (w Reg.NBB_HOLD_DRIFT) (fOfInt 2)) t) t
  (fpToInt f64 0 0 (2 ^ 32 - 1) (fA (fA (fOfInt s.nbb.time.u0) (fM (w Reg.NBB_HOLD_RATE) t)) q)).1.toNat

/-- The reported uncertainty now (R211). -/
def timeUnc (s : State) : Nat :=
  match s.bits Reg.NBB_TIME_STAT 1 0 with
  | 1 => min (s.nbb.time.unc + ns40 (slewNow s.nbb.time s.ext)) (2 ^ 32 - 1)
  | 2 => holdUnc s
  | _ => 2 ^ 32 - 1

def State.refreshUnc (s : State) : State := s.wrN Reg.NBB_TIME_UNC (timeUnc s)

/-- Adopt a model at a local time: PPS from its next whole second on. -/
def State.adopt (s : State) (m : TModel) (t : Int) : State :=
  let s := s.modTime fun x => { x with model := m, r0 := 0, rAt := s.ext, step := none }
  (s.setBit Reg.NBB_TIME_STAT 2 false).modTime fun x => { x with next := ppsSec s (m.eval t) + 1 }

/-- A leap second of UTC (R212): the commit's e is one second, forward or back, but for less than 2,000 ns; the pulses stay where they
are and their labels move. DESIGN CHOICE: R212 does not say how the baseband knows. -/
def leapOf (scale : Nat) (e : Int) : Int :=
  let one : Int := 1000000000 * 2 ^ 40
  if scale = 1 ∧ (e - one).natAbs < 2000 * 2 ^ 40 then 1
  else if scale = 1 ∧ (e + one).natAbs < 2000 * 2 ^ 40 then -1 else 0

/-- TSOL_COMMIT (R209, R210). -/
def tsolCommit (s : State) : State :=
  let m := writtenModel s
  let sc := scaleOf s
  let fresh := s.bits Reg.NBB_TIME_STAT 1 0 = 0 ∨ sc ≠ s.nbb.time.scale
  let e := m.eval s.ext - effNow s
  let s := s.modTime fun x => { x with unc := s.rdN Reg.NBB_TSOL_UNC, commit := s.clk, scale := sc }
  let s :=
    if fresh then s.adopt m s.ext
    else match s.nbb.time.step with
      | some (_, _, sec) => s.modTime fun x => { x with step := some (m, e, sec) }
      | none =>
        let l := leapOf sc e
        let e := e - l * (1000000000 * 2 ^ 40)
        if e.natAbs < 2000 * 2 ^ 40 then
          (s.modTime fun x => { x with model := m, r0 := e, rAt := s.ext, next := x.next + l }).setBit Reg.NBB_TIME_STAT 2 (e != 0)
        else s.modTime fun x => { x with step := some (m, e, ppsSec s (effNow s) + 1) }
  let s := s.modTime fun x => { x with u0 := min (x.unc + ns40 (slewNow x s.ext)) (2 ^ 32 - 1) }
  (s.timeState 1).refreshUnc

def execTsolCommit (s : State) : Out1 := .next (s.ifOn 9 tsolCommit)

/-- A step size in ns, saturating at ±2^31. -/
def stepSize (e : Int) : Word :=
  let n := e / 2 ^ 40
  BitVec.ofInt 32 (if 2 ^ 31 - 1 < n then 2 ^ 31 - 1 else if n < -(2 ^ 31) then -(2 ^ 31) else n)

/-- TIME_STEP (R210): at the withheld whole second the new model replaces the old one. -/
def timeStep (s : State) : State :=
  match s.nbb.time.step with
  | none => s
  | some (m, e, sec) =>
    if ppsSec s (effNow s) < sec then s
    else
      let t := secLocal s sec
      let s := (s.wr64 Reg.NBB_STEP_AT_LO Reg.NBB_STEP_AT_HI (t % 2 ^ 64).toNat).wr Reg.NBB_STEP_SIZE (stepSize e)
      let s := (s.flag Reg.NBB_TIME_STAT 3).nbbStat 8
      (s.adopt m t).refreshUnc

/-- SLEW_END (R209). -/
def slewEnd (s : State) : State :=
  if s.bit Reg.NBB_TIME_STAT 2 ∧ slewNow s.nbb.time s.ext = 0 then
    ((s.modTime fun x => { x with r0 := 0 }).setBit Reg.NBB_TIME_STAT 2 false).refreshUnc
  else s

def execSlewEnd (s : State) : Out1 := .next (s.ifOn 9 slewEnd)

/-- HOLD_TIMEOUT in ms. -/
def holdTimeout (s : State) : Nat := if s.bits Reg.NBB_HOLD_CFG 15 0 = 0 then 2000 else s.bits Reg.NBB_HOLD_CFG 15 0

/-- PPS_OUT_PULSE (R212): emitted unless NOTIME, disabled or withheld for a step. -/
def ppsPulse (s : State) : State :=
  let sec := ppsSec s (effNow s)
  let x := s.nbb.time
  let held : Bool := match x.step with | some (_, _, w) => decide (w ≤ sec) | none => false
  if s.bits Reg.NBB_TIME_STAT 1 0 = 0 ∨ !s.bit Reg.NBB_PPS_CFG 0 ∨ sec < x.next ∨ held then s
  else
    let s := (s.wr64 Reg.NBB_PPS_LAST_LO Reg.NBB_PPS_LAST_HI (secLocal s sec % 2 ^ 64).toNat).wr64 Reg.NBB_PPS_SEC_LO Reg.NBB_PPS_SEC_HI
      (sec % 2 ^ 64).toNat
    (s.modTime fun x => { x with next := sec + 1, pulse := some s.clk }).emit (.pps true)

def execPpsOutPulse (s : State) : Out1 := .next (s.ifOn 9 ppsPulse)

/-- WIDTH in ms; outside 1-500 it is taken as 100. -/
def ppsWidth (s : State) : Nat :=
  let w := s.bits Reg.NBB_PPS_CFG 11 2
  if w < 1 ∨ 500 < w then 100 else w

/-- PPS_PULSE_END. -/
def ppsPulseEnd (s : State) : State :=
  match s.nbb.time.pulse with
  | none => s
  | some t =>
    if s.clk < t + ppsWidth s * 1000000 then s
    else (s.modTime fun x => { x with pulse := none }).emit (.pps false)

/-- PPS_OUT is inactive while EN is clear (R212): a write that clears it ends a pulse. -/
def State.ppsOff (s : State) : State :=
  if s.bit Reg.NBB_PPS_CFG 0 ∨ s.nbb.time.pulse.isNone then s
  else (s.modTime fun x => { x with pulse := none }).emit (.pps false)

def execPpsPulseEnd (s : State) : Out1 := .next (s.ifOn 9 ppsPulseEnd)

/-- A model that reads the same scale time as `m` read at `t`, from local time `t'` on, with the rate of local time changed from
`i` to `i'` (R213). -/
def TModel.rebase (m : TModel) (t t' : Int) (i i' : Nat) : TModel :=
  let v := m.eval t
  let r := if i = i' then m.rate else ((2 ^ 40 + m.rate) * i + (i' / 2 : Nat)) / (i' : Int) - 2 ^ 40
  ⟨v - t' * 2 ^ 40, r, t'⟩

/-- NBB_INFORM (R213): OFS and RATE change so that the scale time is unchanged by a correction of local time. `t0`: the local
time without the correction; `i`: the increment before. -/
def State.nbbInform (s : State) (t0 : Int) (i : Nat) : State :=
  let i' := s.rdN Reg.TIM_INC
  s.modTime fun x =>
    { x with model := x.model.rebase t0 s.ext i i', r0 := slewNow x t0, rAt := s.ext,
             step := x.step.map fun p => (p.1.rebase t0 s.ext i i', p.2) }

/-- DC9 goes to sleep: the model runs on in HOLDOVER (R214), and PPS_OUT goes inactive. -/
def State.nbbSleep (s : State) : State :=
  let s := if s.bits Reg.NBB_TIME_STAT 1 0 = 1 then s.setBits Reg.NBB_TIME_STAT 1 0 2 else s
  let t := { s.nbb.time with pulse := none }
  let s := if s.nbb.time.pulse.isSome then s.emit (.pps false) else s
  { s with nbb := { nbbReset with time := t } }

/-! ### The epoch block (R203) -/

/-- The epoch block: header and records, padded to 64 bytes; the valid word is the header's last (R203). -/
def epochBlock (s : State) (e : NbbEpoch) : List Word :=
  let jam := (List.range 3).foldl (fun n a => n + 2 ^ (8 * a) * s.bits (Reg.NBB_ANT_STAT a) 23 16) 0
  let ants := (List.range 3).foldl (fun n a => n + 4 ^ a * s.bits (Reg.NBB_ANT_STAT a) 1 0) 0
  let body := e.recs.flatMap fun r => r.2
  wordsOf e.time 2 ++ [BitVec.ofNat 32 e.count, BitVec.ofNat 32 (e.recs.length + 256 * b2n e.nav),
    BitVec.ofNat 32 (s.bits Reg.NBB_TIME_STAT 1 0), BitVec.ofNat 32 (timeUnc s), BitVec.ofNat 32 jam, BitVec.ofNat 32 ants] ++
  List.replicate 7 0 ++ [0x6E0B0001] ++ body ++ List.replicate (body.length % 16) 0

/-- EPOCH_BLOCK_WRITE. -/
def epochBlockWrite (s : State) : State :=
  match s.nbb.ep with
  | none => s
  | some e =>
    if e.blk then s
    else
      let s := s.modNbb fun n => { n with ep := some { e with blk := true } }
      let (s, ok) := s.nbbRing Reg.NBB_RING_CFG Reg.NBB_RING_WR Reg.NBB_RING_RD (epochBlock s e)
      if ok then s.nbbStat 0 else s

def execEpochBlockWrite (s : State) : Out1 := .next (s.ifOn 9 epochBlockWrite)

end Sys2Proof.Machine
end

