-- ==== Sys2Proof/Machine/Fp.lean ====
section
/-! DEFINITION. Floating-point instructions (R95-R99). -/

namespace Sys2Proof.Machine

/-- The format field P selects (R95). -/
def fpFmt (p : Bool) : FFmt := if p then f64 else f32

/-- A binary32 operand is the low 32 bits of its register (R95). -/
def fpArg (p : Bool) (x : DWord) : Nat := if p then x.toNat else x.toNat % 2 ^ 32

/-- An instruction of the FP opcode: P = 1 is FQ-M only, RM 5-7 are ILLEGAL, RM must be 0 where it is not used. -/
def fpInsn (c : CoreId) (op : Nat) (d a b : BitVec 6) (p : Bool) (rm : BitVec 3) (rmUsed mbz bSel : Bool) : Insn :=
  { word := wordA 0x03 d a b (b2n p * 128 + rm.toNat * 16 + op), onT := false, onP := true, onM := true,
    regs := if bSel then [d, a] else [d, a, b],
    bad := (p && coreWidth c != 64) || decide (5 ≤ rm.toNat) || (!rmUsed && rm != 0) || mbz, pfxOk := false }

/-- Write a result and its flags, and retire. -/
def State.finishFp (s : State) (c : CoreId) (k : CoreSt) (cyc : Nat) (d : BitVec 6) (r : Nat × Flags) : State :=
  s.finish c (k.orFlags r.2) cyc cyc d (BitVec.ofNat 64 r.1)

/-- `d` receives `f` of a, b (and the old d), rounded as RM says. -/
def fp2 (op cyc : Nat) (rmUsed mbz : Bool) (f : FFmt → Rm → Nat → Nat → Nat → Nat × Flags) (c : CoreId) (d a b : BitVec 6)
    (p : Bool) (rm : BitVec 3) (s : State) : State :=
  s.issue c (fpInsn c op d a b p rm rmUsed mbz false) fun k =>
    s.finishFp c k cyc d (f (fpFmt p) (k.rm rm) (fpArg p (k.g a)) (fpArg p (k.g b)) (fpArg p (k.g d)))

/-- FADD, OP 0 (R96): a + b. -/
def execFadd (c : CoreId) (d a b : BitVec 6) (p : Bool) (rm : BitVec 3) (s : State) : Out1 :=
  .next (fp2 0 1 true false (fun f r x y _ => fpAdd f r x y) c d a b p rm s)

/-- FSUB, OP 1 (R96): a − b. -/
def execFsub (c : CoreId) (d a b : BitVec 6) (p : Bool) (rm : BitVec 3) (s : State) : Out1 :=
  .next (fp2 1 1 true false (fun f r x y _ => fpSub f r x y) c d a b p rm s)

/-- FMUL, OP 2 (R96): a × b. -/
def execFmul (c : CoreId) (d a b : BitVec 6) (p : Bool) (rm : BitVec 3) (s : State) : Out1 :=
  .next (fp2 2 1 true false (fun f r x y _ => fpMul f r x y) c d a b p rm s)

/-- FDIV, OP 3 (R96): a ÷ b. -/
def execFdiv (c : CoreId) (d a b : BitVec 6) (p : Bool) (rm : BitVec 3) (s : State) : Out1 :=
  .next (fp2 3 14 true false (fun f r x y _ => fpDiv f r x y) c d a b p rm s)

/-- FSQRT, OP 4 (R96): √a; b must be g0. -/
def execFsqrt (c : CoreId) (d a b : BitVec 6) (p : Bool) (rm : BitVec 3) (s : State) : Out1 :=
  .next (fp2 4 16 true (b != 0) (fun f r x _ _ => fpSqrt f r x) c d a b p rm s)

/-- FMADD, OP 5 (R96): d + a × b, rounded once. -/
def execFmadd (c : CoreId) (d a b : BitVec 6) (p : Bool) (rm : BitVec 3) (s : State) : Out1 :=
  .next (fp2 5 1 true false (fun f r x y d => fpFma f r false d x y) c d a b p rm s)

/-- FMSUB, OP 6 (R96): d − a × b, rounded once. -/
def execFmsub (c : CoreId) (d a b : BitVec 6) (p : Bool) (rm : BitVec 3) (s : State) : Out1 :=
  .next (fp2 6 1 true false (fun f r x y d => fpFma f r true d x y) c d a b p rm s)

/-- FMIN, OP 7 (R96): minimum (R98). -/
def execFmin (c : CoreId) (d a b : BitVec 6) (p : Bool) (rm : BitVec 3) (s : State) : Out1 :=
  .next (fp2 7 1 false false (fun f _ x y _ => fpMinMax f false x y) c d a b p rm s)

/-- FMAX, OP 8 (R96): maximum (R98). -/
def execFmax (c : CoreId) (d a b : BitVec 6) (p : Bool) (rm : BitVec 3) (s : State) : Out1 :=
  .next (fp2 8 1 false false (fun f _ x y _ => fpMinMax f true x y) c d a b p rm s)

/-- FEQ, OP 9 (R96): 1 if a = b; NV only for a signalling NaN. -/
def execFeq (c : CoreId) (d a b : BitVec 6) (p : Bool) (rm : BitVec 3) (s : State) : Out1 :=
  .next (fp2 9 1 false false (fun f _ x y _ => (b2n (fpEqB f x y), snanFlag f [x, y])) c d a b p rm s)

/-- FLT, OP 10 (R96): 1 if a < b; NV for any NaN. -/
def execFlt (c : CoreId) (d a b : BitVec 6) (p : Bool) (rm : BitVec 3) (s : State) : Out1 :=
  .next (fp2 10 1 false false (fun f _ x y _ => (b2n (fpLtB f x y), nanFlag f x y)) c d a b p rm s)

/-- FLE, OP 11 (R96): 1 if a ≤ b; NV for any NaN. -/
def execFle (c : CoreId) (d a b : BitVec 6) (p : Bool) (rm : BitVec 3) (s : State) : Out1 :=
  .next (fp2 11 1 false false (fun f _ x y _ => (b2n (fpLeB f x y), nanFlag f x y)) c d a b p rm s)

/-- FSGNJ, OP 12 (R96): magnitude of a, sign of b; no flag. -/
def execFsgnj (c : CoreId) (d a b : BitVec 6) (p : Bool) (rm : BitVec 3) (s : State) : Out1 :=
  .next (fp2 12 1 false false (fun f _ x y _ => (fpMag f x + f.zero (fpSign f y), 0)) c d a b p rm s)

/-- FSGNJN, OP 13 (R96): magnitude of a, inverted sign of b; no flag. -/
def execFsgnjn (c : CoreId) (d a b : BitVec 6) (p : Bool) (rm : BitVec 3) (s : State) : Out1 :=
  .next (fp2 13 1 false false (fun f _ x y _ => (fpMag f x + f.zero (!fpSign f y), 0)) c d a b p rm s)

/-- FCLASS, OP 15 (R96): class mask of a; b must be g0. -/
def execFclass (c : CoreId) (d a b : BitVec 6) (p : Bool) (rm : BitVec 3) (s : State) : Out1 :=
  .next (fp2 15 1 false (b != 0) (fun f _ x _ _ => (fpClass f x, 0)) c d a b p rm s)

/-- A W-bit register value as a signed or unsigned integer. -/
def regInt (w : Nat) (signed : Bool) (x : DWord) : Int :=
  if signed then (x.setWidth w).toInt else ((x.setWidth w).toNat : Int)

/-- An integer result as a 64-bit register value, before the register's own width applies. -/
def intReg (r : Int × Flags) : Nat × Flags := ((BitVec.ofInt 64 r.1).toNat, r.2)

/-- FCVT by selector (R99); `w` is the level's register width. -/
def fcvt (w : Nat) (p : Bool) (rm : Rm) (sel : Nat) (x : DWord) : Nat × Flags :=
  let f := fpFmt p
  let v := fpArg p x
  match sel with
  | 0 => intReg (fpToInt f rm (-(2 ^ (w - 1))) (2 ^ (w - 1) - 1) v)
  | 1 => intReg (fpToInt f rm 0 (2 ^ w - 1) v)
  | 2 => fpOfInt f rm (regInt w true x)
  | 3 => fpOfInt f rm (regInt w false x)
  | 4 => fpCast (fpFmt !p) f rm (fpArg (!p) x)
  | 5 => intReg (fpToInt f rm (-(2 ^ 31)) (2 ^ 31 - 1) v)
  | 6 => intReg (fpToInt f rm 0 (2 ^ 32 - 1) v)
  | 7 => fpOfInt f rm (regInt 32 true x)
  | _ => fpOfInt f rm (regInt 32 false x)

/-- FCVT, OP 14 (R99): selectors 4-63 are ILLEGAL on FQ-P, 9-63 on FQ-M. -/
def execFcvt (c : CoreId) (d a b : BitVec 6) (p : Bool) (rm : BitVec 3) (s : State) : Out1 :=
  let lim := if coreWidth c = 64 then 9 else 4
  .next (s.issue c (fpInsn c 14 d a b p rm true (decide (lim ≤ b.toNat)) true) fun k =>
    s.finishFp c k 1 d (fcvt (coreWidth c) p (k.rm rm) b.toNat (k.g a)))

end Sys2Proof.Machine
end

