-- ==== Sys2Proof/Machine/PressExt.lean ====
section
/-! DEFINITION. The control extension of FQ-P: binary32 control instructions and fixed point (R141-R149). -/

namespace Sys2Proof.Machine

/-- An A-format instruction of opcode 0x38 or 0x39, FQ-P only. -/
def extInsn (op fn : Nat) (d a b : BitVec 6) (bad : Bool) (regs : List (BitVec 6)) : Insn :=
  { word := wordA op d a b fn, onT := false, onP := true, onM := false, regs := regs, bad := bad, pfxOk := false }

/-- Register group checks (R142): a pair at an even b of 4-30, a quad at a multiple of 4 of 4-28. -/
def pairBad (b : BitVec 6) : Bool := !(decide (b.toNat % 2 = 0) && decide (4 ≤ b.toNat) && decide (b.toNat ≤ 30))
def quadBad (b : BitVec 6) : Bool := !(decide (b.toNat % 4 = 0) && decide (4 ≤ b.toNat) && decide (b.toNat ≤ 28))
def inQuad (d b : BitVec 6) : Bool := decide (b.toNat ≤ d.toNat) && decide (d.toNat ≤ b.toNat + 3)

/-- Register r of a lane as a 32-bit number. -/
def CoreSt.g32 (k : CoreSt) (r : BitVec 6) : Nat := (k.g r).toNat % 2 ^ 32

/-- Flags of an arithmetic step of these instructions: NV only where a rule names it (R142). -/
def stepFlags (fl : Flags) : Flags := fl % 16

/-- Raise to lo if below, lower to hi if above; a NaN limit is ignored (R144). -/
def clampF (lo hi x : Nat) : Nat :=
  let x := if fpLtB f32 x lo then lo else x
  if fpLtB f32 hi x then hi else x

/-! ### HYS, CLMP, RMP, INTG, LUT -/

/-- HYS (R143). -/
def execHys (c : CoreId) (d a b : BitVec 6) (s : State) : Out1 :=
  .next (s.issue c (extInsn 0x38 0 d a b (pairBad b) [d, a, b]) fun k =>
    let x := k.g32 a
    let r := if fpLtB f32 (k.g32 (b + 1)) x then 1 else if fpLtB f32 x (k.g32 b) then 0 else b2n (k.g32 d != 0)
    s.finishFp c k 1 d (r, if isNan f32 x then 16 else 0))

/-- CLMP (R144). -/
def execClmp (c : CoreId) (d a b : BitVec 6) (s : State) : Out1 :=
  .next (s.issue c (extInsn 0x38 1 d a b (pairBad b) [d, a, b]) fun k =>
    let nan := isNan f32 (k.g32 a)
    s.finishFp c k 1 d (clampF (k.g32 b) (k.g32 (b + 1)) (if nan then 0 else k.g32 a), if nan then 16 else 0))

/-- A limit of RMP: negative or NaN counts as 0. -/
def rampLimit (x : Nat) : Nat := if isNan f32 x || fpLtB f32 x 0 then 0 else x

/-- RMP's result, its rate-limited flag and its flags (R145). -/
def rmp (d a fall rise : Nat) : Nat × Nat × Flags :=
  if isNan f32 a || isNan f32 d then (d, 1, 16)
  else
    let dl := fpSub f32 0 a d
    let up := rampLimit rise
    let dn := rampLimit fall
    if fpLtB f32 up dl.1 then
      let r := fpAdd f32 0 d up
      (r.1, 1, stepFlags (dl.2 ||| r.2))
    else if fpLtB f32 dl.1 (f32.zero true ^^^ dn) then
      let r := fpSub f32 0 d dn
      (r.1, 1, stepFlags (dl.2 ||| r.2))
    else (a, 0, stepFlags dl.2)

def execRmp (c : CoreId) (d a b : BitVec 6) (s : State) : Out1 :=
  .next (s.issue c (extInsn 0x38 2 d a b (quadBad b || inQuad d b) [d, a, b]) fun k =>
    let (r, lim, fl) := rmp (k.g32 d) (k.g32 a) (k.g32 b) (k.g32 (b + 1))
    s.finishFp c (k.setG 32 (b + 2) (BitVec.ofNat 64 lim)) 1 d (r, fl))

/-- INTG's result, status and flags (R146). -/
def intg (d a lo hi freeze : Nat) : Nat × Nat × Flags :=
  if freeze ≠ 0 then (d, 4, 0)
  else if isNan f32 a || isNan f32 d then (d, 8, 16)
  else
    let r := fpAdd f32 0 d a
    let v := clampF lo hi r.1
    (v, b2n (fpEqB f32 v lo) + 2 * b2n (fpEqB f32 v hi), stepFlags r.2)

def execIntg (c : CoreId) (d a b : BitVec 6) (s : State) : Out1 :=
  .next (s.issue c (extInsn 0x38 3 d a b (quadBad b || inQuad d b) [d, a, b]) fun k =>
    let (r, st, fl) := intg (k.g32 d) (k.g32 a) (k.g32 b) (k.g32 (b + 1)) (k.g32 (b + 2))
    s.finishFp c (k.setG 32 (b + 3) (BitVec.ofNat 64 st)) 1 d (r, fl))

/-- Where a lane's local address lies in the tile memories, as an offset in the PRS window: own data memory and the shared
memory (R126). -/
def laneDataAt (t l a : Nat) : Option Nat :=
  if 0x10000 ≤ a ∧ a < 0x12000 then some (0x40000 * t + 0x20000 + 0x2000 * l + (a - 0x10000))
  else if 0x20000 ≤ a ∧ a < 0x30000 then some (0x40000 * t + 0x30000 + (a - 0x20000)) else none

/-- The table of LUT: 4-aligned (LALIGN), 2-1024 entries wholly in data or shared memory (LBUS); the offset it starts at. -/
def lutTable (t l a n : Nat) : Except Nat Nat :=
  if a % 4 ≠ 0 then .error Cause.lalign
  else if n < 2 ∨ 1024 < n then .error Cause.lbus
  else match laneDataAt t l a, laneDataAt t l (a + 4 * n - 1) with
    | some x, some y => if y = x + 4 * n - 1 then .ok x else .error Cause.lbus
    | _, _ => .error Cause.lbus

/-- A table entry returned as stored, unless it is a NaN (R147). -/
def lutEntry (y : Nat) : Nat × Flags := if isNan f32 y then nanOf f32 [fpDecode f32 y] else (y, 0)

/-- LUT's value (R147): `y` reads entry i. -/
def lutValue (y : Nat → Nat) (a x0 inv n : Nat) : Nat × Flags :=
  let d := fpSub f32 0 a x0
  let u := fpMul f32 0 d.1 inv
  let fl := stepFlags (d.2 ||| u.2)
  if isNan f32 a || isNan f32 u.1 then (f32.qnan, fl ||| 16)
  else if fpLeB f32 u.1 0 then
    let e := lutEntry (y 0)
    (e.1, fl ||| e.2)
  else if fpLeB f32 (fpOfInt f32 0 (n - 1 : Nat)).1 u.1 then
    let e := lutEntry (y (n - 1))
    (e.1, fl ||| e.2)
  else
    let i := (fpToInt f32 1 0 1024 u.1).1.toNat
    let f := (fpSub f32 0 u.1 (fpOfInt f32 0 i).1).1
    let df := fpSub f32 0 (y (i + 1)) (y i)
    let r := fpFma f32 0 false (y i) f df.1
    (r.1, fl ||| stepFlags (df.2 ||| r.2))

def execLut (c : CoreId) (d a b : BitVec 6) (s : State) : Out1 :=
  .next (s.issue c (extInsn 0x38 4 d a b (quadBad b) [d, a, b]) fun k =>
    match c with
    | .lane t l =>
      match lutTable t l (k.g32 b) (k.g32 (b + 3)) with
      | .error cause => s.takeTrap c cause (k.g32 b)
      | .ok at_ => s.finishFp c k 1 d
          (lutValue (fun i => rdz s.prs.mem (at_ + 4 * i) 4) (k.g32 a) (k.g32 (b + 1)) (k.g32 (b + 2)) (k.g32 (b + 3)))
    | _ => s)

/-! ### Fixed point (R148, R149) -/

/-- Limit an exact value to a format's range; true when it had to be limited. -/
def qLimit (bits : Nat) (v : Int) : Int × Bool :=
  if v < -(2 ^ (bits - 1)) then (-(2 ^ (bits - 1)), true)
  else if 2 ^ (bits - 1) - 1 < v then (2 ^ (bits - 1) - 1, true) else (v, false)

/-- An operand as Q15 (low 16 bits) or Q31. -/
def qArg (bits : Nat) (x : DWord) : Int := (x.setWidth bits).toInt

/-- Write a limited result sign-extended to 32 bits, set QSAT where it was limited, and retire. -/
def State.finishQ (s : State) (c : CoreId) (k : CoreSt) (d : BitVec 6) (r : Int × Bool) (fl : Flags) : State :=
  let s' := s.finish c (k.orFlags fl) 1 1 d (BitVec.ofInt 64 r.1)
  match c with
  | .lane t l => s'.setQsat t l r.2
  | _ => s'

/-- A fixed-point operation on two operands and the old d. -/
def qOp (bits fn : Nat) (bG0 : Bool) (f : Int → Int → Int → Int) (c : CoreId) (d a b : BitVec 6) (s : State) : State :=
  s.issue c (extInsn 0x39 fn d a b (bG0 && b != 0) [d, a, b]) fun k =>
    s.finishQ c k d (qLimit bits (f (qArg bits (k.g a)) (qArg bits (k.g b)) (qArg bits (k.g d)))) 0

/-- A rounded product: half added, then shifted arithmetically. -/
def qRound (v : Int) (sh : Nat) : Int := (v + 2 ^ (sh - 1)) / 2 ^ sh

/-- QADD15, fn 0x00 (R148): a + b, limited. -/
def execQadd15 (c : CoreId) (d a b : BitVec 6) (s : State) : Out1 :=
  .next (qOp 16 0x00 false (fun x y _ => x + y) c d a b s)

/-- QADD31, fn 0x08 (R148): a + b, limited. -/
def execQadd31 (c : CoreId) (d a b : BitVec 6) (s : State) : Out1 :=
  .next (qOp 32 0x08 false (fun x y _ => x + y) c d a b s)

/-- QSUB15, fn 0x01 (R148): a − b, limited. -/
def execQsub15 (c : CoreId) (d a b : BitVec 6) (s : State) : Out1 :=
  .next (qOp 16 0x01 false (fun x y _ => x - y) c d a b s)

/-- QSUB31, fn 0x09 (R148): a − b, limited. -/
def execQsub31 (c : CoreId) (d a b : BitVec 6) (s : State) : Out1 :=
  .next (qOp 32 0x09 false (fun x y _ => x - y) c d a b s)

/-- QMUL15, fn 0x02 (R148): (a × b + 2^14) >> 15, limited. -/
def execQmul15 (c : CoreId) (d a b : BitVec 6) (s : State) : Out1 :=
  .next (qOp 16 0x02 false (fun x y _ => qRound (x * y) 15) c d a b s)

/-- QMUL31, fn 0x0a (R148): (a × b + 2^30) >> 31, limited. -/
def execQmul31 (c : CoreId) (d a b : BitVec 6) (s : State) : Out1 :=
  .next (qOp 32 0x0a false (fun x y _ => qRound (x * y) 31) c d a b s)

/-- QMAC15, fn 0x03 (R148): d + ((a × b + 2^14) >> 15), limited. -/
def execQmac15 (c : CoreId) (d a b : BitVec 6) (s : State) : Out1 :=
  .next (qOp 16 0x03 false (fun x y d => d + qRound (x * y) 15) c d a b s)

/-- QMAC31, fn 0x0b (R148): d + ((a × b + 2^30) >> 31), limited. -/
def execQmac31 (c : CoreId) (d a b : BitVec 6) (s : State) : Out1 :=
  .next (qOp 32 0x0b false (fun x y d => d + qRound (x * y) 31) c d a b s)

/-- QNEG15, fn 0x04 (R148): −a, limited. -/
def execQneg15 (c : CoreId) (d a b : BitVec 6) (s : State) : Out1 :=
  .next (qOp 16 0x04 true (fun x _ _ => -x) c d a b s)

/-- QNEG31, fn 0x0c (R148): −a, limited. -/
def execQneg31 (c : CoreId) (d a b : BitVec 6) (s : State) : Out1 :=
  .next (qOp 32 0x0c true (fun x _ _ => -x) c d a b s)

/-- QABS15, fn 0x05 (R148): |a|, limited. -/
def execQabs15 (c : CoreId) (d a b : BitVec 6) (s : State) : Out1 :=
  .next (qOp 16 0x05 true (fun x _ _ => (x.natAbs : Int)) c d a b s)

/-- QABS31, fn 0x0d (R148): |a|, limited. -/
def execQabs31 (c : CoreId) (d a b : BitVec 6) (s : State) : Out1 :=
  .next (qOp 32 0x0d true (fun x _ _ => (x.natAbs : Int)) c d a b s)

/-- QSHL31, fn 0x10 (R148): a << b[4:0], limited. -/
def execQshl31 (c : CoreId) (d a b : BitVec 6) (s : State) : Out1 :=
  .next (qOp 32 0x10 false (fun x y _ => x * 2 ^ (y % 32).toNat) c d a b s)

/-- QSHR31, fn 0x11 (R148): a, or (a + 2^(s-1)) >> s, limited. -/
def execQshr31 (c : CoreId) (d a b : BitVec 6) (s : State) : Out1 :=
  .next (qOp 32 0x11 false (fun x y _ => let n := (y % 32).toNat; if n = 0 then x else qRound x n) c d a b s)

/-- binary32 × 2^(bits − 1) rounded to nearest even: a NaN gives 0 and NV; out of range is limited, QSAT only; an in-range
inexact result sets NX (R149). -/
def f2q (bits : Nat) (x : Nat) : (Int × Bool) × Flags :=
  match fpDecode f32 x with
  | .nan _ => ((0, false), 16)
  | .inf s => ((if s then -(2 ^ (bits - 1)) else 2 ^ (bits - 1) - 1, true), 0)
  | .fin s m e =>
    let (v, ix) := roundInt 0 s m (e + (bits - 1 : Nat))
    let r := qLimit bits v
    (r, if r.2 then 0 else b2n ix)

def f2qOp (bits fn : Nat) (c : CoreId) (d a b : BitVec 6) (s : State) : State :=
  s.issue c (extInsn 0x39 fn d a b (b != 0) [d, a, b]) fun k =>
    let r := f2q bits (k.g32 a)
    s.finishQ c k d r.1 r.2

/-- F2Q15, fn 0x18. -/
def execF2q15 (c : CoreId) (d a b : BitVec 6) (s : State) : Out1 := .next (f2qOp 16 0x18 c d a b s)

/-- F2Q31, fn 0x1a. -/
def execF2q31 (c : CoreId) (d a b : BitVec 6) (s : State) : Out1 := .next (f2qOp 32 0x1A c d a b s)

/-- a × 2^-(bits − 1) as binary32, rounded to nearest even. -/
def q2fOp (bits fn : Nat) (c : CoreId) (d a b : BitVec 6) (s : State) : State :=
  s.issue c (extInsn 0x39 fn d a b (b != 0) [d, a, b]) fun k =>
    s.finishFp c k 1 d (fpRoundZ f32 0 (qArg bits (k.g a)) (-((bits : Int) - 1)) false)

/-- Q2F15, fn 0x19: exact. -/
def execQ2f15 (c : CoreId) (d a b : BitVec 6) (s : State) : Out1 := .next (q2fOp 16 0x19 c d a b s)

/-- Q2F31, fn 0x1b. -/
def execQ2f31 (c : CoreId) (d a b : BitVec 6) (s : State) : Out1 := .next (q2fOp 32 0x1B c d a b s)

end Sys2Proof.Machine
end

