-- ==== Sys2Proof/Machine/PressLane.lean ====
section
/-! DEFINITION. Press lanes' periods, mailboxes and transmit channels, and the host's side of a tile (R122-R140). -/

namespace Sys2Proof.Machine

def boxOf (s : State) (t m : Nat) : PrsBox := sget (fun _ => prsBoxEmpty) s.prs.box (32 * t + m)
def State.setBox (s : State) (t m : Nat) (x : PrsBox) : State :=
  { s with prs := { s.prs with box := sset (fun _ => prsBoxEmpty) s.prs.box (32 * t + m) x } }

/-- The local address of a transmit channel's staging buffer (R126). -/
def stageAddr (c : Nat) : Nat := 0x50000 + 0x200 * c

/-! ### Release (R133, R140) -/

/-- Release one channel's staged message: staging becomes pending, the old pending buffer becomes staging (R140). DESIGN CHOICE: the spec
does not say what becomes of the pending buffer when injection begins; its contents stay in it, and the injecting buffer is not seen, so
that staging after a release shows the message released before. -/
def State.releaseTx (s : State) (t c : Nat) : State :=
  let x := prsTxOf s t c
  match x.len with
  | none => s
  | some n =>
    let s := s.setPrsTx t c { x with stage := x.pend, pend := x.stage, len := none, lane := 0 }
    s.feltPublish (2 + t) c (memWords zeroByte x.stage 0 (n / 4))

/-- Every channel on which the lane executed PUB in the period passes its message to pending. -/
def State.releasePubs (s : State) (t l : Nat) : State :=
  (List.range 32).foldl (fun s c => if pubBy s t l c then s.releaseTx t c else s) s

/-- PRS_Tn_Ll_MAXRUN: the longest period, saturating. -/
def State.noteMaxRun (s : State) (t l n : Nat) : State :=
  if s.rdN (Reg.PRS_T_L_MAXRUN t l) < n then s.wrN (Reg.PRS_T_L_MAXRUN t l) (min n 0xFFFFFFFF) else s

/-- Let a lane go: d receives the status word and a new period starts (R132). -/
def State.letGo (s : State) (t : Fin 4) (l : Fin 8) (k : CoreSt) (d : BitVec 6) (cyc missed : Nat) (ovr : Bool) : State :=
  let id := CoreId.lane t l
  let s := s.finish id { k with run := .running } cyc cyc d (BitVec.ofNat 64 (missed + 256 * b2n ovr))
  (s.setBits (Reg.PRS_T_L_STAT t l) 1 0 1).setLane t l { inPeriod := true, overran := false, events := [], cycles := 0 }

/-- SYNC (R132, R133): end the period, then wait for an event or complete at once. -/
def laneSync (t : Fin 4) (l : Fin 8) (d : BitVec 6) (ch : Nat) (k : CoreSt) (s : State) : State :=
  let x := laneOf s t l
  let ovr := x.inPeriod && x.overran
  let missed := if x.inPeriod then sget (fun _ => 0) x.events ch else 0
  let s := if ovr then s.discardPubs t l else s.releasePubs t l
  let s := if x.inPeriod then s.noteMaxRun t l (x.cycles + 1) else s
  let s := s.setBits (Reg.PRS_T_L_STAT t l) 7 4 ch
  if missed = 0 then
    ((s.setCore (.lane t l) { k with run := .syncWait d ch ovr s.clk }).setBits (Reg.PRS_T_L_STAT t l) 1 0 2).setLane t l laneIdle
  else s.letGo t l k d 1 missed ovr

/-- SYNC d, ch: opcode 0x3a; a must be g0, imm[13:4] must be 0 (R141). -/
def execSync (c : CoreId) (d a : BitVec 6) (imm : BitVec 14) (s : State) : Out1 :=
  .next (s.issue c { word := wordI 0x3A d a imm, onT := false, onP := true, onM := false, regs := [d, a],
                     bad := a != 0 || decide (16 ≤ imm.toNat), pfxOk := false } fun k =>
    match c with
    | .lane t l => laneSync t l d imm.toNat k s
    | _ => s)

/-- Clock cycles a tile's lanes count in a stretch of time: 800 MHz, or 400 MHz while throttled (R124). -/
def laneCycles (s : State) (t ns : Nat) : Nat := if s.bit (Reg.PRS_T_STAT t) 9 then ns * 4 / 10 else ns * 8 / 10

/-- Compare events of this tick that the tile has yet to sample; their view points come before any lane is let go (R136). -/
def eventsDue (s : State) : Bool := s.domOn 10 && (List.range 16).any (cmpDue s)

/-- An event on the SYNC channel lets a waiting lane go; MISSED is 0 (R132). -/
def syncWake (t : Fin 4) (l : Fin 8) (s : State) : State :=
  let k := s.core (.lane t l)
  match k.run with
  | .syncWait d ch ovr since =>
    if sget (fun _ => 0) (laneOf s t l).events ch = 0 ∨ eventsDue s then s
    else s.letGo t l k d (1 + laneCycles s t (s.clk - since)) 0 ovr
  | _ => s

def execSyncWake (t : Fin 4) (l : Fin 8) (s : State) : Out1 := .next (s.ifOn (1 + t.val) (syncWake t l))

/-- PUB a, c (R139): mark the staging buffer, withdraw it (length 0), or SBUS. -/
def lanePub (t : Fin 4) (l : Fin 8) (a : BitVec 6) (c : Nat) (k : CoreSt) (s : State) : State :=
  let n := k.g32 a
  if !txOwned s t l c ∨ (n ≠ 0 ∧ ¬(4 ≤ n ∧ n ≤ 512 ∧ n % 4 = 0)) then s.takeTrap (.lane t l) Cause.sbus (stageAddr c)
  else (s.setPrsTx t c { prsTxOf s t c with len := if n = 0 then none else some n, lane := if n = 0 then 0 else l.val }).retire (.lane t l) k 1 1

/-- The I-format of opcode 0x3b: selector in imm[13:12], imm[11:5] must be 0. -/
def mboxInsn (sel : Nat) (d a : BitVec 6) (imm : BitVec 12) (mbz : Bool) : Insn :=
  { word := 0x3B * 2 ^ 26 + d.toNat * 2 ^ 20 + a.toNat * 2 ^ 14 + sel * 2 ^ 12 + imm.toNat, onT := false, onP := true,
    onM := false, regs := [d, a], bad := mbz || decide (32 ≤ imm.toNat), pfxOk := false }

def execPub (c : CoreId) (d a : BitVec 6) (imm : BitVec 12) (s : State) : Out1 :=
  .next (s.issue c (mboxInsn 0 d a imm (d != 0)) fun k =>
    match c with
    | .lane t l => lanePub t l a imm.toNat k s
    | _ => s)

/-- The status word of a mailbox's view (R138). -/
def viewStatus (x : PrsBox) : Nat :=
  match x.view with
  | none => b2n x.vnew
  | some m => b2n x.vnew + 2 + 256 * m.length + 65536 * (x.varr % 65536)

def execSubMailbox (c : CoreId) (d a : BitVec 6) (imm : BitVec 12) (s : State) : Out1 :=
  .next (s.issue c (mboxInsn 1 d a imm (a != 0)) fun k =>
    match c with
    | .lane t _ => s.finish c k 1 1 d (BitVec.ofNat 64 (viewStatus (boxOf s t imm.toNat)))
    | _ => s)

/-! ### Starting and stopping (R129, R130) -/

def laneRun (t : Fin 4) (l : Fin 8) (s : State) : State :=
  let id := CoreId.lane t l
  let st := s.bits (Reg.PRS_T_L_STAT t l) 1 0
  let s := s.setBit (Reg.PRS_T_L_CTL t l) 0 true
  if st = 1 ∨ st = 2 then s
  else
    let k := s.core id
    let k' := { ((k.setSr 0 0).setSr 2 0) with regs := [], pc := 0, pfx := none, run := .running }
    ((s.setCore id k').setBits (Reg.PRS_T_L_STAT t l) 1 0 1).wrN (Reg.PRS_T_L_PC t l) 0 |>.setLane t l laneIdle

def execLaneRun (t : Fin 4) (l : Fin 8) (s : State) : Out1 := .next (s.ifOn (1 + t.val) (laneRun t l))

def laneStop (t : Fin 4) (l : Fin 8) (s : State) : State :=
  let id := CoreId.lane t l
  let s := s.setBit (Reg.PRS_T_L_CTL t l) 0 false
  let st := s.bits (Reg.PRS_T_L_STAT t l) 1 0
  if st = 0 ∨ st = 3 then s
  else
    let s := s.setCore id { s.core id with run := .held, pfx := none }
    ((s.setBits (Reg.PRS_T_L_STAT t l) 1 0 0).setLane t l laneIdle).discardPubs t l

def execLaneStop (t : Fin 4) (l : Fin 8) (s : State) : Out1 := .next (s.ifOn (1 + t.val) (laneStop t l))

/-! ### Receive mailboxes (R135, R137) -/

/-- A write of PRS_Tn_RXm_CFG: a change of STATION or CHAN empties the mailbox and its view and clears its count. -/
def prsRxCfg (t m : Nat) (v : Nat) (s : State) : State :=
  let old := s.bits (Reg.PRS_T_RX_CFG t m) 9 0
  let s := s.wrN (Reg.PRS_T_RX_CFG t m) (v % 2 ^ 15)
  if v % 2 ^ 10 = old then s else (s.setBox t m prsBoxEmpty).wrN (Reg.PRS_T_RX_CNT t m) 0

def execPrsRxCfgWrite (t : Fin 4) (m : Fin 32) (v : Word) (s : State) : Out1 :=
  .next (s.ifOn (1 + t.val) (prsRxCfg t.val m.val v.toNat))

/-- Does receive mailbox m bind a source station and channel? -/
def prsBinds (s : State) (t m st ch : Nat) : Bool :=
  s.bit (Reg.PRS_T_RX_CFG t m) 14 && s.bits (Reg.PRS_T_RX_CFG t m) 9 0 == 16 * ch + st

/-- A complete message into the mailboxes of tile `t` that bind it; longer than 512 bytes is rejected, a Felt loss
(R137). DESIGN CHOICE: one loss for each mailbox at which it arrives. -/
def prsDeliver (t st ch : Nat) (msg : Msg) (s : State) : State :=
  (List.range 32).foldl (fun s m =>
    if !prsBinds s t m st ch then s
    else if 128 < msg.length then s.feltLoss 1
    else (s.setBox t m { boxOf s t m with msg := some msg, fresh := true }).addWrap (Reg.PRS_T_RX_CNT t m) 31 0 1) s

/-- A view point of mailbox m: the view takes the latest complete message (R135, R138). -/
def viewPoint (t m : Nat) (s : State) : State :=
  let x := boxOf s t m
  s.setBox t m { x with view := x.msg, vnew := x.fresh, varr := if x.msg.isSome then s.bits (Reg.PRS_T_RX_CNT t m) 15 0 else 0,
                        fresh := false }

/-- The deadline channel of a lane (R134). -/
def deadlineCh (s : State) (t l : Nat) : Nat :=
  if s.bit (Reg.PRS_T_L_CTL t l) 8 then s.bits (Reg.PRS_T_L_CTL t l) 7 4 else s.bits (Reg.PRS_T_L_STAT t l) 7 4

/-- The deadline event before the lane's next SYNC: the period overruns (R134). -/
def laneOverrun (t l : Nat) (s : State) : State :=
  let first := !s.bit (Reg.PRS_T_L_STAT t l) 2
  let s := (s.addSat (Reg.PRS_T_L_OVR_CNT t l) 31 0 1).flag (Reg.PRS_T_L_STAT t l) 2
  let s := (s.laneEvt t l).setLane t l { laneOf s t l with overran := true }
  if first then s.dcReportLimited (1 + t) 1 6 l (s.bits (Reg.PRS_T_L_STAT t l) 7 4) 0 else s

/-- A compare event on channel `ch` at one lane: deadline, then the event count. -/
def laneEvent (t l ch : Nat) (s : State) : State :=
  let x := laneOf s t l
  let waiting : Bool := match (sget coreReset s.cores (0x100 + 8 * t + l)).run with | .syncWait _ c _ _ => c == ch | _ => false
  let s := if x.inPeriod && !x.overran && deadlineCh s t l == ch then laneOverrun t l s else s
  if x.inPeriod || waiting then
    let x := laneOf s t l
    s.setLane t l { x with events := sset (fun _ => 0) x.events ch (min (sget (fun _ => 0) x.events ch + 1) 255) }
  else s

/-- A compare event at an awake tile: view points first, then the lanes (R136). -/
def prsEvent (t ch : Nat) (s : State) : State :=
  let s := (List.range 32).foldl (fun s m => if s.bits (Reg.PRS_T_RX_CFG t m) 13 10 = ch then viewPoint t m s else s) s
  (List.range 8).foldl (fun s l => laneEvent t l ch s) s

/-! ### The host's side (R128) -/

/-- The word of tile memory at a tile offset of 0x1_0000 or above. -/
def prsHostRead (t off : Nat) (s : State) : Nat := rdz s.prs.mem (0x40000 * t + off) 4

/-- Is lane l STOPPED or TRAPPED? -/
def laneIdleState (s : State) (t l : Nat) : Bool :=
  s.bits (Reg.PRS_T_L_STAT t l) 1 0 == 0 || s.bits (Reg.PRS_T_L_STAT t l) 1 0 == 3

/-- May the host write tile memory at this offset now? -/
def prsHostMay (t off : Nat) (s : State) : Bool :=
  if off < 0x20000 then laneIdleState s t ((off - 0x10000) / 0x2000)
  else if off < 0x30000 then laneIdleState s t ((off - 0x20000) / 0x2000)
  else
    let own := fget (s.rdN (Reg.PRS_T_BANK t)) (4 * ((off - 0x30000) / 0x2000) + 3) (4 * ((off - 0x30000) / 0x2000))
    own == 8 || (decide (own < 8) && laneIdleState s t own)

/-- A host write of one word of tile memory; none: a bus error that changes nothing. -/
def prsHostWrite (t off v : Nat) (s : State) : Option State :=
  if off < 0x10000 ∨ 0x40000 ≤ off ∨ !prsHostMay t off s then none
  else some { s with prs := { s.prs with mem := wrz s.prs.mem (0x40000 * t + off) 4 v } }

/-! ### Throttling (R124) -/

/-- The tile sensor above 146 °C throttles the tile to 400 MHz; below 144 °C it returns to 800 MHz. -/
def pressThrottle (t : Nat) (temp : Int) (s : State) : State :=
  let on := s.bit (Reg.PRS_T_STAT t) 9
  let report := fun (b : Bool) (mhz : Nat) =>
    (s.setBit (Reg.PRS_T_STAT t) 9 b).dcReportLimited (1 + t) 1 10 mhz (BitVec.ofInt 32 temp).toNat 0
  if !on ∧ 1168 < temp then report true 400
  else if on ∧ temp < 1152 then report false 800 else s

def execPressThrottle (t : Fin 4) (temp : Int) (s : State) : Out1 := .next (s.ifOn (1 + t.val) (pressThrottle t.val temp))

end Sys2Proof.Machine
end

