-- ==== Sys2Proof/Machine/Bind.lean ====
section
/-! DEFINITION. The receive bindings of the Felt stations (R471) and the delivery of slotted messages (R28-R33). -/

namespace Sys2Proof.Machine

/-- Does Headbox band mailbox k bind a source? -/
def bmbBinds (s : State) (k src ch : Nat) : Bool :=
  s.bit (Reg.HBX_BMB_CFG k) 19 && s.bits (Reg.HBX_BMB_CFG k) 9 0 == 16 * ch + src

/-- Does baseband mailbox i bind a source (R193)? -/
def aidBinds (s : State) (i src ch : Nat) : Bool :=
  s.bit Reg.NBB_AID_CFG 6 && src == 11 && ch == (s.bits Reg.NBB_AID_CFG 5 0 + i) % 64

/-- Does the Fusion unit take a source: observables, the IMU, the estimate (R202, R230, R232)? DESIGN CHOICE: its mailboxes have no EN of
their own; the EN of the sensors they serve (IDs 0-2; ID 3) and of the aligned block stand for it, so that reset values bind nothing. -/
def fsnBinds (s : State) (src ch : Nat) : Bool :=
  (src == 10 && decide (ch ≤ 11) && (List.range 3).any fun k => s.bit (Reg.FSN_SNS_CFG k) 0) ||
  (src == 12 && ch == Config.imuChan && s.bit (Reg.FSN_SNS_CFG 3) 0) ||
  (src == 6 + s.bits Reg.FSN_ALIGN_CFG 21 20 && ch == s.bits Reg.FSN_ALIGN_CFG 29 24 && s.bit Reg.FSN_ALIGN_CFG 22)

/-- Does a station's receive side hold a source, as its registers stand? -/
def bindsNow (s : State) (st src ch : Nat) : Bool :=
  if st = 0 then src == 6 && ch == Config.planChan
  else if st = 1 then false
  else if st ≤ 5 then (List.range 32).any fun m => prsBinds s (st - 2) m src ch
  else if st ≤ 9 then (List.range 8).any fun m => Config.calBind (st - 6) m == some (src, ch)
  else if st = 10 then (List.range 3).any fun i => aidBinds s i src ch
  else if st = 11 then fsnBinds s src ch
  else (List.range 8).any fun k => bmbBinds s k src ch

/-- A station's bindings in full, as its stage keeps them when its domain leaves ON. -/
def bindList (s : State) (st : Nat) : List (Nat × Nat) :=
  (List.range 13).flatMap fun src => ((List.range 64).filter fun ch => bindsNow s st src ch).map fun ch => (src, ch)

/-- Is a message addressed to a station: by its registers while its domain is ON, else by what the stage keeps (R471)? -/
def addressed (s : State) (st src ch : Nat) : Bool :=
  if s.domOn (stationDomain st) then bindsNow s st src ch
  else (sget (fun _ => []) s.felt.kept st).contains (src, ch)

/-- An estimate for the control law (R40, R44): that of this cycle's first estimator step, whose solve starts at t0 + 2.0 ms, where it
arrives by t0 + 5.5 ms; another one the library does not use. -/
def State.estArrive (s : State) (msg : Msg) : State :=
  if s.domOn 0 ∧ s.lib.t0 + 2000000 ≤ s.ext ∧ s.ext ≤ s.lib.t0 + 5500000 then { s with lib := { s.lib with estNew := some msg } } else s

/-- A message into a live station's mailboxes. -/
def State.intoStation (s : State) (st src ch : Nat) (msg : Msg) : State :=
  if st = 0 then { s with lib := { s.lib with plan := some msg } }
  else if st = 1 then s
  else if st ≤ 5 then prsDeliver (st - 2) src ch msg s
  else if st ≤ 9 then
    { s with cal := { s.cal with box := (List.range 8).foldl (fun b m =>
        if Config.calBind (st - 6) m == some (src, ch) then sset (fun _ => none) b (8 * (st - 6) + m) (some msg) else b) s.cal.box } }
  else if st = 10 then (List.range 3).foldl (fun s i => if aidBinds s i src ch then s.nbbAid i msg else s) s
  else if st = 11 then
    if src = 10 then s.fsnObs ((s.nbb.ep.map (·.time)).getD 0) msg
    else if src = 12 then s.fsnImu msg
    else (s.fsnEstimate msg).estArrive msg
  else (List.range 8).foldl (fun s k => if bmbBinds s k src ch then s.bmbArrive k msg else s) s

/-- Deliver to every addressed station; at one whose domain is not ON the message is discarded with one loss (R33, R471). -/
def State.feltDeliver (s : State) (src ch : Nat) (msg : Msg) : State :=
  (List.range 13).foldl (fun s st =>
    if !addressed s st src ch then s
    else if s.domOn (stationDomain st) then s.intoStation st src ch msg
    else s.feltLoss 1) s

/-- Would a message's arrival overtake another of the same source at a common station (R29)? One of a single slot-load is wholly sent
where it begins, so what began behind it arrives behind it; of a longer one the last slot-load may be sent later. -/
def State.overtakes (s : State) (src ch : Nat) : Bool :=
  (s.felt.order.takeWhile (· != 64 * src + ch)).any fun k =>
    k / 64 == src && (match (s.feltCh src (k % 64)).inj with | some m => decide (m.length ≤ 32) | none => false) &&
      (List.range 13).any fun d => addressed s d src ch && addressed s d src (k % 64)

/-- A message begins injection, behind those of its source that have begun (R29, R31). -/
def State.feltBegin (s : State) (src ch : Nat) (m : Option Msg) : State :=
  (s.setFeltCh src ch ⟨none, m⟩).modFelt fun f => { f with order := f.order.filter (· != 64 * src + ch) ++ [64 * src + ch] }

/-- An uncorrectable beat is flagged and reported to DC0's controller: 1 slotted, 0 best-effort, and the source station (R32, R469). -/
def State.feltUncorr (s : State) (slotted src : Nat) : State :=
  (s.flag Reg.MILL_FELT_STAT 2).dcReportLimited 0 2 11 slotted src 0

/-- What a slotted message on the ring meets: its first slot begins (R31); its last slot-load arrives; a slot-load is lost (R30);
a beat is corrected or uncorrectable (R32), the latter reported and the message discarded. An uncorrectable beat of a channel with no
message on the ring belongs to a best-effort message of that station: the next access over Felt is the one it makes fail. -/
def mailboxDeliver (src ch : Nat) (ph : FeltPhase) (s : State) : State :=
  let x := s.feltCh src ch
  match ph with
  | .begins =>
    if x.pend.isSome ∧ x.inj.isNone ∧ ownsSlot s src ch ∧ s.felt.slotEn then s.feltBegin src ch x.pend else s
  | .arrives =>
    match x.inj with
    | none => s
    | some m => if s.overtakes src ch then s else (s.setFeltCh src ch { x with inj := none }).feltDeliver src ch m
  | .lost => if x.inj.isSome then (s.setFeltCh src ch { x with inj := none }).feltLoss 1 else s
  | .corrected => s.addSat Reg.MILL_FELT_CORR 31 0 1
  | .uncorrectable =>
    if x.inj.isSome then ((s.setFeltCh src ch { x with inj := none }).feltLoss 1).feltUncorr 1 src
    else (s.feltUncorr 0 src).modFelt fun f => { f with hit := true }

/-- MAILBOX_DELIVER (R30). -/
def execMailboxDeliver (src : Fin 13) (ch : Fin 64) (ph : FeltPhase) (s : State) : Out1 :=
  .next (s.ifOn 0 (mailboxDeliver src.val ch.val ph))

end Sys2Proof.Machine
end

