-- ==== Sys2Proof/Machine/Imm.lean ====
section
/-! DEFINITION. The immediate instructions and the L prefix (R81-R83, R90). -/

namespace Sys2Proof.Machine

/-- An I-format instruction. -/
def immInsn (op : Nat) (d a : BitVec 6) (imm : BitVec 14) : Insn :=
  { word := wordI op d a imm, onT := true, onP := true, onM := true, regs := [d, a], bad := false, pfxOk := true }

/-- `d` receives `f a imm` with the sign-extended immediate. -/
def immSOp (op : Nat) (f : (w : Nat) → BitVec w → BitVec w → BitVec w) (c : CoreId) (d a : BitVec 6) (imm : BitVec 14)
    (s : State) : State :=
  s.issue c (immInsn op d a imm) fun k =>
    s.finish c k 1 1 d (apply2 (coreWidth c) f (k.g a) (BitVec.ofInt 64 (k.immS imm)))

/-- `d` receives `f a imm` with the zero-extended immediate. -/
def immUOp (op : Nat) (f : (w : Nat) → BitVec w → BitVec w → BitVec w) (c : CoreId) (d a : BitVec 6) (imm : BitVec 14)
    (s : State) : State :=
  s.issue c (immInsn op d a imm) fun k =>
    s.finish c k 1 1 d (apply2 (coreWidth c) f (k.g a) (BitVec.ofNat 64 (k.immU imm)))

/-- A shift by imm[5:0]: imm[13:6] must be 0, and imm[5] too on FQ-T and FQ-P (R90). -/
def shiftOp (op : Nat) (f : (w : Nat) → BitVec w → Nat → BitVec w) (c : CoreId) (d a : BitVec 6) (imm : BitVec 14)
    (s : State) : State :=
  s.issue c { immInsn op d a imm with bad := decide (coreWidth c ≤ imm.toNat), pfxOk := false } fun k =>
    s.finish c k 1 1 d (apply2 (coreWidth c) (fun w x _ => f w x imm.toNat) (k.g a) 0)

/-- L (R82, R83): supplies 26 immediate bits to the following instruction; another L before it is ILLEGAL. A word that spells no
instruction raises ILLEGAL (R86); one that spells another is not this row's and does nothing here. -/
def execLPrefix (c : CoreId) (w : BitVec 32) (s : State) : Out1 :=
  let unit : Insn := { word := w.toNat, onT := true, onP := true, onM := true, regs := [], bad := false, pfxOk := false }
  if fqField w 26 6 = 0x30 then .next (s.issue c unit fun k => s.setCore c { k with pfx := some (fqField w 0 26) })
  else if fqDecode c w = none then .next (s.issue c { unit with bad := true, pfxOk := true } fun _ => s)
  else .next s

/-- ADDI, opcode 0x04 (R90). -/
def execAddi (c : CoreId) (d a : BitVec 6) (imm : BitVec 14) (s : State) : Out1 :=
  .next (immSOp 0x04 (fun _ x y => x + y) c d a imm s)

/-- ANDI, opcode 0x05 (R90). -/
def execAndi (c : CoreId) (d a : BitVec 6) (imm : BitVec 14) (s : State) : Out1 :=
  .next (immUOp 0x05 (fun _ x y => x &&& y) c d a imm s)

/-- ORI, opcode 0x06 (R90). -/
def execOri (c : CoreId) (d a : BitVec 6) (imm : BitVec 14) (s : State) : Out1 :=
  .next (immUOp 0x06 (fun _ x y => x ||| y) c d a imm s)

/-- XORI, opcode 0x07 (R90). -/
def execXori (c : CoreId) (d a : BitVec 6) (imm : BitVec 14) (s : State) : Out1 :=
  .next (immUOp 0x07 (fun _ x y => x ^^^ y) c d a imm s)

/-- SLTI, opcode 0x08 (R90). -/
def execSlti (c : CoreId) (d a : BitVec 6) (imm : BitVec 14) (s : State) : Out1 :=
  .next (immSOp 0x08 (fun w x y => flagW w (x.slt y)) c d a imm s)

/-- SLTIU, opcode 0x09 (R90). -/
def execSltiu (c : CoreId) (d a : BitVec 6) (imm : BitVec 14) (s : State) : Out1 :=
  .next (immSOp 0x09 (fun w x y => flagW w (x.ult y)) c d a imm s)

/-- SHLI, opcode 0x0a (R90). -/
def execShli (c : CoreId) (d a : BitVec 6) (imm : BitVec 14) (s : State) : Out1 :=
  .next (shiftOp 0x0a (fun _ x n => x <<< n) c d a imm s)

/-- SHRI, opcode 0x0b (R90). -/
def execShri (c : CoreId) (d a : BitVec 6) (imm : BitVec 14) (s : State) : Out1 :=
  .next (shiftOp 0x0b (fun _ x n => x >>> n) c d a imm s)

/-- SRAI, opcode 0x0c (R90). -/
def execSrai (c : CoreId) (d a : BitVec 6) (imm : BitVec 14) (s : State) : Out1 :=
  .next (shiftOp 0x0c (fun _ x n => x.sshiftRight n) c d a imm s)

/-- LIH, opcode 0x0d (R90): the immediate in bits [63:24], a's bits [23:0]; FQ-M only. -/
def execLih (c : CoreId) (d a : BitVec 6) (imm : BitVec 14) (s : State) : Out1 :=
  .next (s.issue c { immInsn 0x0d d a imm with onT := false, onP := false } fun k =>
    s.finish c k 1 1 d ((BitVec.ofInt 64 (k.immS imm) <<< 24) ||| (k.g a &&& 0xFFFFFF)))

/-- ADDIW, opcode 0x0e (R90): low 32 bits of a + imm, sign-extended; FQ-M only. -/
def execAddiw (c : CoreId) (d a : BitVec 6) (imm : BitVec 14) (s : State) : Out1 :=
  .next (s.issue c { immInsn 0x0e d a imm with onT := false, onP := false } fun k =>
    s.finish c k 1 1 d (((k.g a + BitVec.ofInt 64 (k.immS imm)).setWidth 32).signExtend 64))

/-- ADDPC, opcode 0x0f (R85, R90): the unit address plus the immediate; a must be g0. -/
def execAddpc (c : CoreId) (d a : BitVec 6) (imm : BitVec 14) (s : State) : Out1 :=
  .next (s.issue c { immInsn 0x0f d a imm with bad := a != 0 } fun k =>
    s.finish c k 1 1 d (k.pc + BitVec.ofInt 64 (k.immS imm)))

end Sys2Proof.Machine
end

