-- ==== Sys2Proof/Machine/Branch.lean ====
section
/-! DEFINITION. Branches and jumps (R85, R93, R94). -/

namespace Sys2Proof.Machine

/-- The conditions of BR (R93) on W-bit values; none for 8-15. -/
def brTaken (cond : Nat) (w : Nat) (x y : BitVec w) : Option Bool :=
  match cond with
  | 0 => some (x == y)
  | 1 => some (x != y)
  | 2 => some (x.slt y)
  | 3 => some (!x.slt y)
  | 4 => some (x.ult y)
  | 5 => some (!x.ult y)
  | 6 => some ((x &&& y) != 0)
  | 7 => some ((x &&& y) == 0)
  | _ => none

/-- A PC-relative target: the unit's address plus 4 × `off` instructions, modulo 2^W (R85). -/
def relTarget (c : CoreId) (pc : DWord) (off : Int) : Nat :=
  (pc + BitVec.ofInt 64 (4 * off)).toNat % 2 ^ coreWidth c

/-- BR, opcode 0x20 (R93). -/
def execBr (c : CoreId) (cond : BitVec 4) (a b : BitVec 6) (off : BitVec 10) (s : State) : Out1 :=
  .next (s.issue c { word := wordB 0x20 cond a b off, onT := true, onP := true, onM := true, regs := [a, b],
                     bad := decide (8 ≤ cond.toNat), pfxOk := true } fun k =>
    let w := coreWidth c
    match brTaken cond.toNat w ((k.g a).setWidth w) ((k.g b).setWidth w) with
    | some true => s.retireTo c k 2 1 (relTarget c k.pc (k.offB off))
    | _ => s.retire c k 1 1)

/-- The J format: all levels, no prefix. -/
def jInsn (op : Nat) (off : BitVec 26) : Insn :=
  { word := wordJ op off, onT := true, onP := true, onM := true, regs := [], bad := false, pfxOk := false }

/-- J, opcode 0x24 (R94). -/
def execJ (c : CoreId) (off : BitVec 26) (s : State) : Out1 :=
  .next (s.issue c (jInsn 0x24 off) fun k => s.retireTo c k 2 1 (relTarget c k.pc off.toInt))

/-- The return address: the unit address plus the unit's length (R85). -/
def returnAddr (k : CoreSt) : DWord := k.pc + BitVec.ofNat 64 k.unitLen

/-- JL, opcode 0x25 (R94): as J, the return address in g1. -/
def execJl (c : CoreId) (off : BitVec 26) (s : State) : Out1 :=
  .next (s.issue c (jInsn 0x25 off) fun k =>
    s.retireTo c (k.setG (coreWidth c) 1 (returnAddr k)) 2 1 (relTarget c k.pc off.toInt))

/-- JR, opcode 0x26 (R94): target a + imm, return address to d; a misaligned target raises IALIGN and writes nothing. -/
def execJr (c : CoreId) (d a : BitVec 6) (imm : BitVec 14) (s : State) : Out1 :=
  .next (s.issue c (immInsn 0x26 d a imm) fun k =>
    let t := (k.g a + BitVec.ofInt 64 (k.immS imm)).toNat % 2 ^ coreWidth c
    if t % 4 ≠ 0 then s.takeTrap c Cause.ialign t
    else s.retireTo c (k.setG (coreWidth c) d (returnAddr k)) 2 1 t)

end Sys2Proof.Machine
end

