-- ==== Sys2Proof/Machine/Encoder.lean ====
section
/-! DEFINITION. Position and speed feedback: counting, indices, observers, absolute inputs and latches (R263-R274). -/

namespace Sys2Proof.Machine

def State.encH (s : State) (n : Nat) : EncIn := sget (fun _ => encIdle) s.enc n
def State.setEnc (s : State) (n : Nat) (x : EncIn) : State := { s with enc := sset (fun _ => encIdle) s.enc n x }

/-- An event bit of ENC_STAT, on source 34. -/
def State.encEvent (s : State) (n : Nat) : State := s.setStat Reg.ENC_STAT Reg.ENC_IRQ_EN 34 n

/-- A sticky status bit of an input, with its event. -/
def State.encErr (s : State) (n i : Nat) : State := (s.flag (Reg.ENC_IN_STAT n) i).encEvent n

def encShaft (s : State) (n : Nat) : Bool := s.bit (Reg.ENC_IN_CFG n) 1
def encCpr (s : State) (n : Nat) : Nat := s.bits (Reg.ENC_IN_CPR n) 24 0
def encCount (s : State) (n : Nat) : Int :=
  (BitVec.ofNat 64 (s.rd64 (Reg.ENC_IN_COUNT_LO n) (Reg.ENC_IN_COUNT_HI n))).toInt
def State.setCount (s : State) (n : Nat) (v : Int) : State :=
  s.wr64 (Reg.ENC_IN_COUNT_LO n) (Reg.ENC_IN_COUNT_HI n) (BitVec.ofInt 64 v).toNat

/-- Is the configuration valid (R266, R273)? -/
def encCfgOk (s : State) (n : Nat) : Bool :=
  let c := encCpr s n
  decide (4 ≤ c) && decide (c ≤ 0x1000000) && decide (s.bits (Reg.ENC_IN_IDX n) 23 0 < c) &&
  (decide (n < 12) ||
    (let b := s.bits (Reg.ENC_IN_ABS n) 6 1
     let d := s.bits (Reg.ENC_IN_ABS n) 16 8
     decide (8 ≤ b) && decide (b ≤ 32) && decide (13 ≤ d) && decide (d ≤ 500) && 2 ^ c.log2 == c && decide (c ≤ 2 ^ b)))

/-- Pairs of an input in disagreement: bit 0 A or data, 1 B, 2 Z. -/
def encWire (s : State) (n : Nat) : Nat := s.bits (Reg.ENC_IN_STAT n) 7 5

/-- A or B of an incremental input in disagreement (R265). -/
def abBad (s : State) (n : Nat) : Bool := decide (n < 12) && encWire s n % 4 != 0

/-- Are the outputs numbers (R271)? -/
def encValid (s : State) (n : Nat) : Bool :=
  s.bit (Reg.ENC_IN_CFG n) 0 && encCfgOk s n && !abBad s n && (decide (n < 12) || ((s.encH n).absOk && decide ((s.encH n).rej < 10)))

/-- Outputs of an input that is not VALID are the canonical NaN (R271). -/
def State.encNan (s : State) (n : Nat) : State :=
  ((s.wr (Reg.ENC_IN_POS n) 0x7FC00000).wr (Reg.ENC_IN_SPD n) 0x7FC00000).wr (Reg.ENC_IN_ACC n) 0x7FC00000

/-- VALID and CFG_ERR follow; losing VALID is an event. -/
def State.encSync (s : State) (n : Nat) : State :=
  let ok := encValid s n
  let was := s.bit (Reg.ENC_IN_STAT n) 0
  let s := (s.setBit (Reg.ENC_IN_STAT n) 0 ok).setBit (Reg.ENC_IN_STAT n) 11 (s.bit (Reg.ENC_IN_CFG n) 0 && !encCfgOk s n)
  let s := if ok then s else s.encNan n
  if was && !ok then s.encEvent n else s

def cprF (s : State) (n : Nat) : Nat := fOfInt (encCpr s n)

/-- Position output (R268): turns from 0 to less than 1. -/
def encPos (s : State) (n : Nat) (p : Nat) : Word :=
  let x := s.encH n
  let base : Int := if encShaft s n then (match x.index with | some (c, _) => c | none => 0) else 0
  let q := fD (fS p (fOfInt base)) (cprF s n)
  let fl := (fpToInt f64 2 (-(2 ^ 62)) (2 ^ 62) q).1
  let r := BitVec.ofNat 32 (fpCast f64 f32 0 (fS q (fOfInt fl))).1
  if r = 0x3F800000 then 0 else r

/-- Standstill's outputs and observer: speed and acceleration 0, position follows the count (R269). -/
def State.encStill (s : State) (n : Nat) : State :=
  let p := fOfInt (encCount s n)
  let x := s.encH n
  let s := (s.setEnc n { x with pHat := p, wHat := 0, pair := none, seed := none, rev := false }).setBit (Reg.ENC_IN_STAT n) 2 true
  if encValid s n then ((s.wr (Reg.ENC_IN_POS n) (encPos s n p)).wr (Reg.ENC_IN_SPD n) 0).wr (Reg.ENC_IN_ACC n) 0 else s

/-! ### Edges (R263, R264, R269, R270) -/

/-- Place of a quadrature state in the sequence 00, 10, 11, 01: A leads B in the positive direction. -/
def quadPos (ab : Nat) : Nat := match ab with | 0 => 0 | 2 => 1 | 3 => 2 | _ => 3

/-- The stamp of an edge `age` ns ago: local time at 8 ns resolution (R263). -/
def encStamp (s : State) (age : Nat) : Nat := s.ext - age / 8 * 8

/-- A counted edge in a direction, `age` ns ago. -/
def State.encEdge (s : State) (n : Nat) (pos : Bool) (age : Nat) : State :=
  let c := encCount s n
  let cpr : Int := encCpr s n
  let c' := if encShaft s n then (if pos then c + 1 else c - 1) else (if pos then c + 1 else c - 1) % cpr
  let t := encStamp s age
  let x := s.encH n
  let still := s.bit (Reg.ENC_IN_STAT n) 2
  let reversed := match x.last with | some (_, d) => d != pos | none => false
  let (pair, seed) := match still, x.pair with
    | true, some (t0, d) => if d = pos ∧ x.seed = none then (some (t, pos), some (pos, t - t0)) else if d = pos then (x.pair, x.seed) else (some (t, pos), none)
    | true, none => (some (t, pos), none)
    | false, p => (p, x.seed)
  let s := if reversed && !still then s.flag (Reg.ENC_IN_STAT n) 4 else s
  (s.setCount n c').setEnc n { x with
    edges := ((c', t) :: x.edges).take 16, last := some (t, pos), pair, seed, still := s.clk, rev := x.rev || (reversed && !still), revIdx := x.revIdx || reversed }

/-- COUNTED_EDGE: new A and B levels, which have held for `age` ns: the edge filter lets nothing shorter than EFILT × 8 ns pass. -/
def countedEdge (n ab age : Nat) (s : State) : State :=
  let x := s.encH n
  let s1 := s.setEnc n { x with ab }
  if age < s.bits (Reg.ENC_IN_CFG n) 17 15 * 8 then s
  else if !s.bit (Reg.ENC_IN_CFG n) 0 ∨ !encCfgOk s n ∨ abBad s n ∨ ab = x.ab then s1
  else
    let d := (quadPos ab + 4 - quadPos x.ab) % 4
    if d = 2 then
      let s := s1.encErr n 8
      if encShaft s n then s else s.setBit (Reg.ENC_IN_STAT n) 1 false
    else s1.encEdge n ((d == 1) != s.bit (Reg.ENC_IN_CFG n) 2) age

def execCountedEdge (n : Fin 12) (ab : BitVec 2) (age : Nat) (s : State) : Out1 := .next (s.ifOn 10 (countedEdge n.val ab.toNat age))

/-! ### Wire disagreement (R265) -/

/-- Has the input such a pair: A, B and Z, or data? -/
def hasPair (n pair : Nat) : Bool := decide (n < 12) || pair == 0

/-- WFILT in ns: 0 is taken as 10. -/
def wfiltNs (s : State) (n : Nat) : Nat :=
  let w := s.bits (Reg.ENC_IN_CFG n) 25 18
  100 * (if w = 0 then 10 else w)

def wireSame (s : State) (n pair : Nat) : Option Nat := sget (fun _ => none) (s.encH n).same pair
def wireAgree (s : State) (n pair : Nat) : Option Nat := sget (fun _ => none) (s.encH n).agree pair

/-- What the wires of a pair read, and since when. -/
def State.wireNote (s : State) (n pair : Nat) (same agree : Option Nat) : State :=
  s.setEnc n { s.encH n with
    same := sset (fun _ => none) (s.encH n).same pair same, agree := sset (fun _ => none) (s.encH n).agree pair agree }

/-- A pair enters disagreement. -/
def State.wireEnter (s : State) (n pair : Nat) : State :=
  let s := (s.setBit (Reg.ENC_IN_STAT n) (5 + pair) true).encEvent n
  if n < 12 ∧ pair < 2 then
    let s := ((s.setBit (Reg.ENC_IN_STAT n) 1 false).setBit (Reg.ENC_IN_STAT n) 10 false).setEnc n { s.encH n with index := none }
    s.encSync n
  else s

/-- The pair has agreed for 10 ms: counting resumes, the observer restarts as after standstill. -/
def State.wireLeave (s : State) (n pair : Nat) : State :=
  let s := (s.setBit (Reg.ENC_IN_STAT n) (5 + pair) false).wireNote n pair none none
  if n < 12 ∧ pair < 2 ∧ !abBad s n then (s.encSync n).encStill n else s

/-- Time passes: the same state for longer than WFILT is disagreement, 10 ms of agreement ends it. -/
def State.wireEval (s : State) (n pair : Nat) : State :=
  if s.bit (Reg.ENC_IN_STAT n) (5 + pair) then
    match wireAgree s n pair with
    | some t => if t + 10000000 ≤ s.clk then s.wireLeave n pair else s
    | none => s
  else match wireSame s n pair with
    | some t => if t + wfiltNs s n < s.clk then s.wireEnter n pair else s
    | none => s

/-- On every tick, of the pairs whose wires have changed. -/
def State.wiresTick (s : State) : State :=
  s.enc.foldl (fun s e => if e.2.same = [] ∧ e.2.agree = [] then s else (List.range 3).foldl (fun s p => s.wireEval e.1 p) s) s

/-- WIRE_DISAGREEMENT: the two wires of a pair read the same state. -/
def wireBad (n pair : Nat) (s : State) : State :=
  if !hasPair n pair then s
  else (s.wireNote n pair (some ((wireSame s n pair).getD s.clk)) none).wireEval n pair

def execWireDisagreement (n : Fin 16) (pair : Fin 3) (s : State) : Out1 := .next (s.ifOn 10 (wireBad n.val pair.val))

/-- WIRE_AGREE: they read different states. -/
def wireGood (n pair : Nat) (s : State) : State :=
  if !hasPair n pair then s
  else
    let since := if s.bit (Reg.ENC_IN_STAT n) (5 + pair) then some ((wireAgree s n pair).getD s.clk) else none
    (s.wireNote n pair none since).wireEval n pair

def execWireAgree (n : Fin 16) (pair : Fin 3) (s : State) : Out1 := .next (s.ifOn 10 (wireGood n.val pair.val))

/-! ### Latches (R274) -/

/-- A latch set takes a count and a time, or holds them while it is frozen. -/
def State.encLatch (s : State) (n k : Nat) (c : Int) (t : Nat) : State :=
  let x := s.encH n
  if sget (fun _ => false) x.frozen k then s.setEnc n { x with held := sset (fun _ => none) x.held k (some (c, t)) }
  else (s.wr64 (Reg.ENC_IN_LAT n (4 * k + 0)) (Reg.ENC_IN_LAT n (4 * k + 1)) (BitVec.ofInt 64 c).toNat).wr64 (Reg.ENC_IN_LAT n (4 * k + 2)) (Reg.ENC_IN_LAT n (4 * k + 3)) t

/-- LATCH_READ_LO freezes the set. -/
def latchLo (n k : Nat) (s : State) : State :=
  let x := s.encH n
  (s.setEnc n { x with frozen := sset (fun _ => false) x.frozen k true }).answer (s.rdN (Reg.ENC_IN_LAT n (4 * k + 0)))

def execLatchReadLo (n : Fin 16) (k : Fin 3) (s : State) : Out1 := .next (s.ifOn 10 (latchLo n.val k.val))

/-- LATCH_READ_HI releases it and applies a held latch. -/
def latchHi (n k : Nat) (s : State) : State :=
  let x := s.encH n
  let s' := (s.setEnc n { x with frozen := sset (fun _ => false) x.frozen k false, held := sset (fun _ => none) x.held k none }).answer
    (s.rdN (Reg.ENC_IN_LAT n (4 * k + 3)))
  match sget (fun _ => none) x.held k with
  | some (c, t) => s'.encLatch n k c t
  | none => s'

def execLatchReadHi (n : Fin 16) (k : Fin 3) (s : State) : Out1 := .next (s.ifOn 10 (latchHi n.val k.val))

/-- The event of a capture channel latches every bound input (set 1): the count after the last edge at or before the capture. -/
def State.encCapture (s : State) (ch t : Nat) : State :=
  (List.range 16).foldl (fun s n =>
    let cfg := s.rd (Reg.ENC_IN_CFG n)
    if !wbit cfg 0 ∨ !wbit cfg 6 ∨ wbits cfg 10 8 ≠ ch then s
    else
      let es := (s.encH n).edges
      match es.find? fun e => decide (e.2 ≤ t) with
      | some e => s.encLatch n 1 e.1 t
      | none =>
        let s := s.encLatch n 1 (encCount s n) t
        if 16 ≤ es.length then s.encErr n 14 else s) s

/-- The event of a compare channel latches every bound input (set 2). -/
def State.encCompare (s : State) (ch t : Nat) : State :=
  (List.range 16).foldl (fun s n =>
    let cfg := s.rd (Reg.ENC_IN_CFG n)
    if !wbit cfg 0 ∨ !wbit cfg 7 ∨ wbits cfg 14 11 ≠ ch then s else s.encLatch n 2 (encCount s n) t) s

/-! ### Indices (R266, R267) -/

/-- An azimuth count set by an index moves the observer's estimate with it. -/
def State.encAlign (s : State) (n : Nat) : State :=
  let ofs : Int := s.bits (Reg.ENC_IN_IDX n) 23 0
  let c := encCount s n
  let x := s.encH n
  let p := fA x.pHat (fOfInt (ofs - c))
  let cp := cprF s n
  let p := if fpLtB f64 p 0 then fA p cp else if fpLeB f64 cp p then fS p cp else p
  ((s.setCount n ofs).setEnc n { x with pHat := p }).setBit (Reg.ENC_IN_STAT n) 1 true

/-- Distance of a count from INDEX_OFS modulo CPR. -/
def idxDiff (c ofs cpr : Int) : Int :=
  let d := (c - ofs) % cpr
  min d (cpr - d)

/-- INDEX_EVENT. -/
def indexEvent (n age : Nat) (s : State) : State :=
  let cfg := s.rd (Reg.ENC_IN_CFG n)
  let x := s.encH n
  if !wbit cfg 0 ∨ !wbit cfg 3 ∨ !encCfgOk s n ∨ encWire s n ≠ 0 ∨ x.ab ≠ wbits cfg 5 4 then s
  else
    let c := encCount s n
    let tol : Int := s.bits (Reg.ENC_IN_IDX n) 31 24
    let dir := match x.last with | some (_, d) => d | none => true
    let armed := s.bit (Reg.ENC_IN_CTL n) 0
    let s := (s.encLatch n 0 c (encStamp s age)).setBit (Reg.ENC_IN_CTL n) 0 false
    if encShaft s n then
      let s1 := s.setEnc n { s.encH n with index := some (c, dir), revIdx := false }
      match (if armed then none else x.index) with
      | none => s1.setBit (Reg.ENC_IN_STAT n) 10 false
      | some (c0, d0) =>
        if d0 ≠ dir ∨ x.revIdx then s1.setBit (Reg.ENC_IN_STAT n) 10 false
        else
          let cpr : Int := encCpr s n
          let drift := if dir then c - c0 - cpr else c - c0 + cpr
          let s1 := (s1.wr (Reg.ENC_IN_DRIFT n) (BitVec.ofInt 32 drift)).setBit (Reg.ENC_IN_STAT n) 10 true
          let s1 := s1.wrN (Reg.ENC_IN_MAXDRIFT n) (max (s1.rdN (Reg.ENC_IN_MAXDRIFT n)) (min drift.natAbs 0xFFFFFFFF))
          if tol < drift.natAbs then s1.encErr n 9 else s1
    else if armed || !s.bit (Reg.ENC_IN_STAT n) 1 then s.encAlign n
    else if tol < idxDiff c (s.bits (Reg.ENC_IN_IDX n) 23 0 : Nat) (encCpr s n : Nat) then s.encErr n 9
    else s

def execIndexEvent (n : Fin 12) (age : Nat) (s : State) : Out1 := .next (s.ifOn 10 (indexEvent n.val age))

/-- REALIGN arms the next index. -/
def realign (n : Nat) (s : State) : State := s.setBit (Reg.ENC_IN_CTL n) 0 true

def execRealign (n : Fin 16) (s : State) : Out1 := .next (s.ifOn 10 (realign n.val))

/-! ### The observer (R268-R273) -/

/-- 2π in binary64, and the step T = 100 µs. -/
def twoPi : Nat := 0x401921FB54442D18
def stepT : Nat := 0x3F1A36E2EB1C432D

/-- e wrapped into [−CPR/2, CPR/2) on an azimuth input. -/
def encWrap (s : State) (n e : Nat) : Nat :=
  if encShaft s n then e
  else
    let c := cprF s n
    let h := fD c (fOfInt 2)
    if fpLeB f64 h e then fS e c else if fpLtB f64 e (fpSub f64 0 0 h).1 then fA e c else e

/-- p_hat wrapped into [0, CPR). -/
def encWrapP (s : State) (n p : Nat) : Nat :=
  if encShaft s n then p
  else if fpLtB f64 p 0 then fA p (cprF s n) else if fpLeB f64 (cprF s n) p then fS p (cprF s n) else p

/-- The step's measurement error e: none where an absolute input gave no measurement. -/
def encError (s : State) (n : Nat) (x : EncIn) : Nat :=
  if n < 12 then encWrap s n (fS (fOfInt (encCount s n)) x.pHat)
  else match x.meas with
    | none => 0
    | some (p, t) =>
      let dt := fD (fOfInt ((s.ext : Int) - t)) (fOfInt 1000000000)
      encWrap s n (fS p (fS x.pHat (fM x.wHat dt)))

/-- Have 12,500 clock cycles passed since the last step (R268)? -/
def stepDue (s : State) (n : Nat) : Bool := match (s.encH n).stepAt with | some t => decide (t + 100000 ≤ s.clk) | none => true

/-- OBSERVER_STEP. -/
def observerStep (n : Nat) (s : State) : State :=
  if !s.bit (Reg.ENC_IN_CFG n) 0 || !stepDue s n then s
  else
    let s := ((s.setEnc n { s.encH n with stepAt := some s.clk }).wr64 (Reg.ENC_IN_STEP_LO n) (Reg.ENC_IN_STEP_HI n) s.ext).encSync n
    if !encValid s n then s.setBit (Reg.ENC_IN_STAT n) 3 false
    else
      let x := s.encH n
      let s := s.setBit (Reg.ENC_IN_STAT n) 3 x.rev
      let cp := cprF s n
      let put := fun (s : State) (p w a : Nat) =>
        ((s.wr (Reg.ENC_IN_POS n) (encPos s n p)).wrN (Reg.ENC_IN_SPD n) (fpCast f64 f32 0 (fD w cp)).1).wrN (Reg.ENC_IN_ACC n)
          (fpCast f64 f32 0 (fD a cp)).1
      if s.bit (Reg.ENC_IN_STAT n) 2 then
        match x.seed with
        | none => (s.setEnc n { x with rev := false, pHat := fOfInt (encCount s n), meas := none }).encStill n |>.setEnc n
            { x with rev := false, pHat := fOfInt (encCount s n), wHat := 0, meas := none }
        | some (d, iv) =>
          let w := fD (fOfInt (if d then 1000000000 else -1000000000)) (fOfInt (max iv 1 : Nat))
          let p := fOfInt (encCount s n)
          let s := (s.setEnc n { x with
            rev := false, pHat := p, wHat := w, pair := none, seed := none, meas := none, avg := (fA x.avg.1 (fD w cp), x.avg.2 + 1) }).setBit (Reg.ENC_IN_STAT n) 2 false
          put s p w 0
      else
        let bw := max 5 (min (s.bits (Reg.ENC_IN_OBS n) 8 0) 500)
        let om := fM twoPi (fOfInt bw)
        let e := encError s n x
        let acc := fM (fM om om) e
        let p := encWrapP s n (fA x.pHat (fM stepT (fA x.wHat (fM (fM (fOfInt 2) om) e))))
        let w := fA x.wHat (fM stepT acc)
        let s := s.setEnc n { x with rev := false, pHat := p, wHat := w, meas := none, avg := (fA x.avg.1 (fD w cp), x.avg.2 + 1) }
        put s p w acc

def execObserverStep (n : Fin 16) (s : State) : Out1 := .next (s.ifOn 10 (observerStep n.val))

/-- STILL_TMO in ms: 0 is taken as 50, above 1,000 as 1,000. -/
def stillTmo (s : State) (n : Nat) : Nat :=
  let t := s.bits (Reg.ENC_IN_OBS n) 18 9
  if t = 0 then 50 else min t 1000

/-- STANDSTILL: no counted edge for STILL_TMO. -/
def standstill (n : Nat) (s : State) : State :=
  if !s.bit (Reg.ENC_IN_CFG n) 0 ∨ s.bit (Reg.ENC_IN_STAT n) 2 ∨ s.clk < (s.encH n).still + stillTmo s n * 1000000 then s
  else s.encStill n

def execStandstill (n : Fin 16) (s : State) : Out1 := .next (s.ifOn 10 (standstill n.val))

/-- A Gray code's value. -/
def ungray (v : Nat) : Nat := (List.range 32).foldl (fun a i => a ^^^ (v / 2 ^ i)) 0

/-- An accepted value: the count, its edge and the measurement for the next step. -/
def State.absAccept (s : State) (n : Nat) (raw : Nat) (at_ : Nat) : State :=
  let x := s.encH n
  let bits := s.bits (Reg.ENC_IN_ABS n) 6 1
  let v := (if s.bit (Reg.ENC_IN_ABS n) 7 then ungray raw else raw) % 2 ^ bits
  let old := encCount s n
  let was := encValid s n
  let c : Int :=
    if !encShaft s n then ((v % encCpr s n : Nat) : Int)
    else if x.absOk then
      let m : Int := 2 ^ bits
      let d := ((v : Int) - x.absV) % m
      old + (if m / 2 ≤ d then d - m else d)
    else v
  let first := !x.absOk
  let s := s.setEnc n { x with rej := 0, absOk := true, absV := v, meas := some (fOfInt c, at_) }
  let s := (s.setBit (Reg.ENC_IN_STAT n) 1 true)
  let s := if first || c = old then s.setCount n c
    else (s.encEdge n (decide (old < c)) 0).setCount n c
  let s := s.encSync n
  if was then s
  else
    -- VALID again: the observer is reset as at the end of standstill, with w_hat = 0.
    (s.setEnc n { s.encH n with pHat := fOfInt c, wHat := 0, meas := none }).setBit (Reg.ENC_IN_STAT n) 2 false

/-- ABS_TRANSFER (R273). -/
def absTransfer (n raw : Nat) (ok nE nW : Bool) (ns : Nat) (s : State) : State :=
  if !s.bit (Reg.ENC_IN_CFG n) 0 ∨ !encCfgOk s n then s
  else
    let biss := s.bit (Reg.ENC_IN_ABS n) 0
    let s := if biss && !nW then s.flag (Reg.ENC_IN_STAT n) 13 else s
    if !ok ∨ 80000 < ns ∨ (biss ∧ !nE) ∨ encWire s n % 2 = 1 then
      let x := s.encH n
      ((s.encErr n 12).setEnc n { x with rej := min (x.rej + 1) 10, meas := none }).encSync n
    else s.absAccept n raw (s.ext - ns + s.rdN (Reg.ENC_IN_ABS_LAT n))

def execAbsTransfer (n : Fin 4) (val : Word) (ok nE nW : Bool) (ns : Nat) (s : State) : Out1 :=
  .next (s.ifOn 10 (absTransfer (12 + n.val) val.toNat ok nE nW ns))

/-- ENC_CFG_WRITE: a change of EN, CLASS, DIR or CPR restarts the input. -/
def encWrite (n : Nat) (cpr : Bool) (v : Word) (s : State) : State :=
  let r := if cpr then Reg.ENC_IN_CPR n else Reg.ENC_IN_CFG n
  let old := s.rd r
  let v := v &&& (if cpr then 0x1FFFFFF else 0x3FFFFFF)
  let s := s.wr r v
  let changed := if cpr then v != old else wbits v 2 0 != wbits old 2 0
  let s := if changed then
      let x := s.encH n
      let s := (s.setCount n 0).setEnc n { encIdle with ab := x.ab, frozen := x.frozen, held := x.held, still := s.clk, stepAt := x.stepAt, same := x.same, agree := x.agree }
      let s := ((s.setBit (Reg.ENC_IN_STAT n) 1 false).setBit (Reg.ENC_IN_STAT n) 10 false).encSync n
      s.encStill n
    else s
  s.encSync n

def execEncCfgWrite (n : Fin 16) (cpr : Bool) (v : Word) (s : State) : Out1 := .next (s.ifOn 10 (encWrite n.val cpr v))

end Sys2Proof.Machine
end

