-- ==== Sys2Proof/Machine/CalSearch.lean ====
section
/-! DEFINITION. The Calender's two searches: the active-set iterations of QP.STEP (R163, R164) and the integer least-squares search of
SOLVE.B (R183). -/

namespace Sys2Proof.Machine

def numAt (l : List Nat) (i : Nat) : Nat := (l[i]?).getD 0

end Sys2Proof.Machine

namespace Sys2Proof

open Sys2Proof.Machine

/-! ### QP.STEP (R163, R164) -/

/-- Variables come first, then the rows of A. -/
def QpProblem.n (p : QpProblem) : Nat := p.g.length
def QpProblem.m (p : QpProblem) : Nat := p.a.length
def QpProblem.isEq (p : QpProblem) (i : Nat) : Bool := fpEqB (fmtOf p.dbl) (numAt p.lo i) (numAt p.hi i)

/-- The value of constraint i at a point, and how it moves along a step: the variable itself, or its row. -/
def QpProblem.value (p : QpProblem) (x : List Nat) (i : Nat) : Nat :=
  if i < p.n then numAt x i else calSum p.dbl 0 (((p.a[i - p.n]?).getD []).zip x)

/-- Each variable within its bounds, and each row within its own to `tol` (P1 of R164). -/
def QpProblem.feasible (p : QpProblem) (tol : Nat) (x : List Nat) : Bool :=
  ((List.range p.n).all fun i => !cLt p.dbl (numAt x i) (numAt p.lo i) && !cLt p.dbl (numAt p.hi i) (numAt x i)) &&
  (List.range p.m).all fun r =>
    let v := p.value x (p.n + r)
    !cLt p.dbl tol (cSub p.dbl (numAt p.lo (p.n + r)) v) && !cLt p.dbl tol (cSub p.dbl v (numAt p.hi (p.n + r)))

/-- A start clipped onto the variables' own bounds (R164). -/
def QpProblem.clip (p : QpProblem) (x : List Nat) : List Nat :=
  (List.range p.n).map fun i =>
    if cLt p.dbl (numAt x i) (numAt p.lo i) then numAt p.lo i
    else if cLt p.dbl (numAt p.hi i) (numAt x i) then numAt p.hi i else numAt x i

/-- The active set at the start: every equality, the rows that the start violates (R164), and those that a warm start names. DESIGN CHOICE:
an index names no side, so a warm constraint is active at its nearer bound; a bound that is infinite is never active. -/
def QpProblem.start (p : QpProblem) (warm : List Nat) (x : List Nat) : List (Nat × Bool) :=
  (List.range (p.n + p.m)).filterMap fun i =>
    let v := p.value x i
    let lo := numAt p.lo i
    let hi := numAt p.hi i
    if p.isEq i then some (i, false)
    else if p.n ≤ i ∧ cLt p.dbl v lo then some (i, false)
    else if p.n ≤ i ∧ cLt p.dbl hi v then some (i, true)
    else if warm.contains i then
      let up := cLe p.dbl (cSub p.dbl hi v) (cSub p.dbl v lo)
      if cFinite p.dbl (if up then hi else lo) then some (i, up) else none
    else none

/-- How far along a step constraint i lets the point go, as a fraction of the step; none: all the way. -/
def QpProblem.ratio (p : QpProblem) (x dir : List Nat) (i : Nat) : Option (Nat × Bool) :=
  let v := p.value x i
  let w := p.value dir i
  let lim := fun (b : Nat) (up : Bool) =>
    let t := cDiv p.dbl (cSub p.dbl b v) w
    if cFinite p.dbl b && cLt p.dbl t (cOne p.dbl) then some (if cLt p.dbl t 0 then 0 else t, up) else none
  if cLt p.dbl 0 w then lim (numAt p.hi i) true
  else if cLt p.dbl w 0 then lim (numAt p.lo i) false
  else none

/-- The first blocking constraint: the nearest, in index order on a tie. -/
def QpProblem.blocking (p : QpProblem) (x dir : List Nat) (act : List (Nat × Bool)) : Option (Nat × Nat × Bool) :=
  (List.range (p.n + p.m)).foldl (fun b i =>
    if act.any (·.1 == i) then b
    else match p.ratio x dir i, b with
      | none, b => b
      | some (t, up), none => some (i, t, up)
      | some (t, up), some (j, u, up') => if cLt p.dbl t u then some (i, t, up) else some (j, u, up')) none

/-- The active constraint with the most negative multiplier below −P0, no equality. -/
def QpProblem.worst (p : QpProblem) (tol : Nat) (act : List (Nat × Bool)) (mult : List Nat) : Option Nat :=
  (((List.range act.length).filter fun q => match act[q]? with
      | some e => !p.isEq e.1 && cLt p.dbl (numAt mult q) (cNeg p.dbl tol)
      | none => false).foldl (fun (b : Option Nat) q => match b with
        | none => some q
        | some q' => if cLt p.dbl (numAt mult q) (numAt mult q') then some q else some q') none)

/-- The point a fraction of the step on; a variable that blocks lies at its bound. An iteration never leaves the feasible set. -/
def QpProblem.move (p : QpProblem) (tol : Nat) (x dir : List Nat) (t : Nat) (stop : Option (Nat × Bool)) : List Nat :=
  let y := (List.range p.n).map fun i => cFma p.dbl (numAt x i) t (numAt dir i)
  let y := match stop with
    | some (i, up) => if i < p.n then y.set i (numAt (if up then p.hi else p.lo) i) else y
    | none => y
  if p.feasible tol y then y else x

/-- The step on the active set; an active bound does not move. -/
def QpProblem.step (p : QpProblem) (x : List Nat) (act : List (Nat × Bool)) : List Nat × List Nat :=
  let r := Config.qpDir p x act
  ((List.range p.n).map fun i => if act.any (·.1 == i) then 0 else numAt r.1 i, (List.range act.length).map (numAt r.2))

/-- At most `fuel` iterations from a point: each adds the first blocking constraint or drops one (R163). -/
def QpProblem.iterate (p : QpProblem) (p0 p1 : Nat) : (fuel iters : Nat) → (x : List Nat) → (act : List (Nat × Bool)) → QpResult
  | fuel, iters, x, act =>
    let (dir, mult) := p.step x act
    let leave := fun (x : List Nat) (opt : Bool) =>
      { x := x, ax := (List.range p.m).map fun r => p.value x (p.n + r), iters := iters, opt := opt, act := act,
        mult := (List.range (p.n + p.m)).map fun i => match act.findIdx? (·.1 == i) with | some q => numAt mult q | none => 0 : QpResult }
    match p.blocking x dir act with
    | some (i, t, up) =>
      match fuel with
      | 0 => leave x false
      | fuel + 1 => p.iterate p0 p1 fuel (iters + 1) (p.move p1 x dir t (some (i, up))) (act ++ [(i, up)])
    | none =>
      let y := p.move p1 x dir (cOne p.dbl) none
      match p.worst p0 act mult with
      | none => leave y true
      | some q =>
        match fuel with
        | 0 => leave x false
        | fuel + 1 => p.iterate p0 p1 fuel (iters + 1) y (act.eraseIdx q)

/-- QP.STEP from a clipped, feasible start with the constraints a warm start names. -/
def QpProblem.solve (p : QpProblem) (p0 p1 maxit : Nat) (warm : List Nat) (x : List Nat) : QpResult :=
  p.iterate p0 p1 maxit 0 x (p.start warm x)

end Sys2Proof

namespace Sys2Proof.Machine

/-! ### The integer least-squares search (R183) -/

/-- A finite encoding as (−1)^s × m × 2^e, doubled in scale until e ≤ 0: its floor, and whether at least half a unit is left above it. -/
def floorOf (d : Bool) (x : Nat) : Option Int :=
  match fpDecode (fmtOf d) x with
  | .fin s m e => some (roundInt 2 s m e).1
  | _ => none

/-- Is x at least as near to the integer `lo` as to `hi`, exactly? -/
def nearLow (d : Bool) (x : Nat) (lo hi : Int) : Bool :=
  match fpDecode (fmtOf d) x with
  | .fin s m e =>
    let k := (-e).toNat
    decide (2 * scaled s m e (-(k : Int)) ≤ (lo + hi) * 2 ^ k)
  | _ => true

/-- One level of the depth-first search: the conditional float value, the residual of the levels above, and the next integers below and
above that have not been visited. -/
structure IlsLevel where
  cond : Nat
  res  : Nat
  down : Int
  up   : Int
  deriving DecidableEq, Repr

/-- What the search has found: the best vector and the two smallest residuals, and the nodes visited. -/
structure IlsFound where
  best   : Option (List Int × Nat)
  second : Option Nat
  nodes  : Nat
  deriving DecidableEq, Repr

/-- The conditional float value of unknown i, the integers above it being fixed (`z`: those of i + 1, i + 2, …). DESIGN CHOICE:
v_i − (Σ R_ij (z_j − v_j)) / R_ii, and the residual grows by (R_ii (z_i − c_i))². -/
def ilsCond (d : Bool) (r : Mat) (v : List Nat) (i : Nat) (z : List Int) : Nat :=
  if z = [] then numAt v i
  else cSub d (numAt v i) (cDiv d (calSum d 0 ((List.range z.length).map fun q =>
    (r.at i (i + 1 + q), cSub d (cOfInt d ((z[q]?).getD 0)) (numAt v (i + 1 + q))))) (r.at i i))

def ilsRes (d : Bool) (r : Mat) (i : Nat) (l : IlsLevel) (z : Int) : Nat :=
  let e := cMul d (r.at i i) (cSub d (cOfInt d z) l.cond)
  cFma d l.res e e

/-- A level opened with its conditional value; none where that is no number. -/
def ilsOpen (d : Bool) (cond res : Nat) : Option IlsLevel := (floorOf d cond).map fun f => ⟨cond, res, f, f + 1⟩

/-- The next child of a level, in ascending distance, the smaller integer on a tie, and the level after it. -/
def IlsLevel.child (d : Bool) (l : IlsLevel) : Int × IlsLevel :=
  if nearLow d l.cond l.down l.up then (l.down, { l with down := l.down - 1 }) else (l.up, { l with up := l.up + 1 })

/-- A complete candidate: it becomes the best, or the second. -/
def IlsFound.take (d : Bool) (f : IlsFound) (z : List Int) (res : Nat) : IlsFound :=
  match f.best with
  | none => { f with best := some (z, res) }
  | some (b, rb) => if cLt d res rb then { f with best := some (z, res), second := some rb } else { f with best := some (b, rb), second := some res }

/-- The search with an explicit stack: level i is `n - stack.length`; `z` holds the integers fixed above. Ends with none left, or with the
node limit (true). -/
def ilsRun (d : Bool) (r : Mat) (v : List Nat) (limit : Nat) : (fuel : Nat) → List IlsLevel → List Int → IlsFound → IlsFound × Bool
  | 0, _, _, f => (f, true)
  | _ + 1, [], _, f => (f, false)
  | fuel + 1, l :: up, z, f =>
    let i := v.length - (up.length + 1)
    let (c, l') := l.child d
    let res := ilsRes d r i l c
    let inside := match f.second with | some b => cLt d res b | none => true
    if !inside then ilsRun d r v limit fuel up (z.drop 1) f
    else if limit ≤ f.nodes then (f, true)
    else
      let f := { f with nodes := f.nodes + 1 }
      if i = 0 then ilsRun d r v limit fuel (l' :: up) z (f.take d (c :: z) res)
      else match ilsOpen d (ilsCond d r v (i - 1) (c :: z)) res with
        | some n => ilsRun d r v limit fuel (n :: l' :: up) (c :: z) f
        | none => ilsRun d r v limit fuel (l' :: up) z f

/-- ILS: the best vector, the residuals, and whether the search stopped at its node limit. -/
def ilsSolve (d : Bool) (r : Mat) (v : List Nat) (limit : Nat) : IlsFound × Bool :=
  let n := v.length
  match ilsOpen d (ilsCond d r v (n - 1) []) 0 with
  | some l => ilsRun d r v limit (2 * limit + n + 2) [l] [] ⟨none, none, 0⟩
  | none => (⟨none, none, 0⟩, false)

/-- The ratio of the second-best to the best residual, binary32. -/
def IlsFound.ratio (d : Bool) (f : IlsFound) : Option Word :=
  match f.best, f.second with
  | some (_, b), some s => some (BitVec.ofNat 32 (recast d false (cDiv d s b)))
  | _, _ => none

end Sys2Proof.Machine
end

