-- ==== Sys2Proof/Machine/Alloc.lean ====
section
/-! DEFINITION. The allocation problem that the library builds for each solve: the linearisation about the reference plan, the
constraints and the objective (R174, R175). All numbers are binary64 encodings. The forms that R175 leaves open are marked where they are
settled. -/

namespace Sys2Proof.Machine

def aAdd := cAdd true
def aSub := cSub true
def aMul := cMul true
def aDiv := cDiv true
def aNeg := cNeg true

/-- A word of a thruster's entry of the record in force, and a plan's word, in binary64. -/
def thrNum (s : State) (id j : Nat) : Nat := recast false true (thrWord s id j).toNat
def planNum (plan : List Word) (id k q : Nat) : Nat := recast false true (plan.getD (72 * k + 3 * id + q) 0).toNat

/-- The thrust table of a thruster (R174): 33 × 17 binary32 words. -/
def thrTable (s : State) (id : Nat) : List Word :=
  let a := (thrWord s id 14).toNat + 2 ^ 32 * (thrWord s id 15).toNat
  if inDram a 2244 then s.dramWords a 561 else []

/-- x less whole turns: 0 to below 1. -/
def turnPart (x : Nat) : Nat := match floorOf true x with | some f => aSub x (cOfInt true f) | none => x

/-- The azimuth y by whole turns within half a turn of x. DESIGN CHOICE: the problem's azimuths run on over the end of the turn, so that a
step of R175's rate limit is the turn the thruster makes. -/
def nearTurn (x y : Nat) : Nat :=
  match floorOf true (aAdd (aSub y x) 0x3FE0000000000000) with
  | some f => aSub y (cOfInt true f)
  | none => y

/-- Does the entry turn: KIND 1 (R174)? -/
def thrTurns (s : State) (id : Nat) : Bool := thrWord s id 0 == 1

/-- A value of the reference plan clipped as the box bounds say: a pinned azimuth at its pin. -/
def refAz (s : State) (plan : List Word) (id k : Nat) : Nat :=
  if thrTurns s id then planNum plan id k 2
  else if thrWord s id 0 = 2 then recast false true 0x3E800000 else 0

/-- The reference azimuths of a thruster over the horizon, each near the one before, the first near the set-point in force. -/
def refAzs (s : State) (plan : List Word) (id steps held : Nat) : List Nat :=
  ((List.range steps).foldl (fun (p : Nat × List Nat) k =>
    let a := if thrTurns s id then nearTurn p.1 (refAz s plan id k) else refAz s plan id k
    (a, p.2 ++ [a])) (held, [])).2

/-- One thruster at one step, linearised: its three reference values; surge, sway and yaw with their slopes by rpm, pitch and azimuth;
power with its slopes. -/
structure ThrLin where
  ref    : List Nat
  force  : List Nat
  slopes : List (List Nat)
  power  : Nat
  pSlope : List Nat
  deriving DecidableEq, Repr, Inhabited

/-- The direction of a force at an azimuth clockwise from ahead, of a thruster at (x, y): surge, sway and yaw per newton. -/
def forceDir (x y c n : Nat) : List Nat := [c, n, aSub (aMul x n) (aMul y c)]

/-- Thrust is the table's fraction of that at full rpm and pitch; power a fraction of rated power; 2π in turns' slopes. -/
def thrLin (s : State) (id : Nat) (rpm pitch az : Nat) : ThrLin :=
  let top := thrNum s id 4
  let full := thrNum s id 3
  let rated := thrNum s id 12
  let u := aDiv rpm top
  let (t, tr, tp) := Config.thrustLin (thrTable s id) u pitch
  let (p, pr, pp) := Config.powerLin u pitch
  let x := thrNum s id 1
  let y := thrNum s id 2
  let c := cosTurns az
  let n := sinTurns az
  let along := forceDir x y c n
  let turn := forceDir x y (aNeg n) c
  let by_ := fun v (l : List Nat) => l.map (aMul v)
  ⟨[rpm, pitch, az], by_ (aMul full t) along,
    [by_ (aDiv (aMul full tr) top) along, by_ (aMul full tp) along, by_ (aMul 0x401921FB54442D18 (aMul full t)) turn],
    aMul rated p, [aDiv (aMul rated pr) top, aMul rated pp, 0]⟩

/-- value − Σ slope × reference: the constant part of a linearised quantity. -/
def linRest (value : Nat) (slopes ref : List Nat) : Nat := cDotSub true value (slopes.zip ref)

/-! ### Constraints -/

/-- Per-second limits of rpm, pitch and azimuth (degrees), as a step of 20 ms; none where the quantity has no limit of its own. -/
def rateStep (s : State) (id q : Nat) : Option Nat :=
  if q = 0 then some (aMul (thrNum s id 5) 0x3F947AE147AE147B)
  else if q = 1 then some (aMul (thrNum s id 6) 0x3F947AE147AE147B)
  else if thrTurns s id then some (aMul (aDiv (thrNum s id 7) 0x4076800000000000) 0x3F947AE147AE147B)
  else none

/-- Box bounds of rpm and pitch, and a pinned azimuth (R174, R175). -/
def boxRows (s : State) (d : List Word) (id e k v : Nat) : List QpRow :=
  let two := fun kind v lo hi => [⟨kind, e, k, [(v, cOne true)], hi, false⟩, ⟨kind, e, k, [(v, cNeg true (cOne true))], cNeg true lo, false⟩]
  let b := fun q => thrBounds s d id q
  let up := fun (w : Word) => recast false true w.toNat
  two .rpm v (up (b 0).1) (up (b 0).2) ++ two .pitch (v + 1) (up (b 1).1) (up (b 1).2) ++
    (if thrTurns s id && fget (dW d 0x38) 15 0 != 0xFFFF then [] else
      let a := if thrTurns s id then recast false true (clipBound s d id 2 ((s.lib.applied[3 * id + 2]?).getD 0)).toNat else refAz s [] id 0
      two .azimuth (v + 2) a a)

/-- Rate limits of a variable, from the variable of the step before, or at step 0, softly, from the set-point that applies. -/
def rateRows (s : State) (id e k v q held : Nat) : List QpRow :=
  match rateStep s id q with
  | none => []
  | some lim =>
    let one := cOne true
    if k = 0 then
      [⟨.rate, e, k, [(v + q, one)], aAdd held lim, true⟩, ⟨.rate, e, k, [(v + q, aNeg one)], aSub lim held, true⟩]
    else
      [⟨.rate, e, k, [(v + q, one), (v + q - 3, aNeg one)], lim, false⟩, ⟨.rate, e, k, [(v + q, aNeg one), (v + q - 3, one)], lim, false⟩]

/-- The half-plane of a forbidden sector, degrees, at a reference azimuth in turns: below the sector's start or above its end. DESIGN
CHOICE: the nearer edge; from inside the sector the nearer edge as well. -/
def sectorRow (e k v : Nat) (az start stop : Nat) : QpRow :=
  let deg := fun x => aDiv x 0x4076800000000000
  let w := turnPart (aSub (deg stop) (deg start))
  let p := turnPart (aSub az (deg start))
  let inside := cLt true 0 p && cLt true p w
  let up := if inside then aNeg p else aSub (cOne true) p
  let dn := aSub w p
  let below := if p = 0 then true else cLe true (cAbs true up) (cAbs true dn)
  if below then ⟨.sector, e, k, [(v + 2, cOne true)], if p = 0 then az else aAdd az up, false⟩
  else ⟨.sector, e, k, [(v + 2, aNeg (cOne true))], aNeg (aAdd az dn), false⟩

/-- The sectors in force: those whose edges differ (R174). -/
def sectorRows (s : State) (id e k v az : Nat) : List QpRow :=
  [8, 10].filterMap fun j =>
    if thrWord s id j = thrWord s id (j + 1) then none else some (sectorRow e k v az (thrNum s id j) (thrNum s id (j + 1)))

/-- The linearised power of a thruster and step is at most its rated power. -/
def powerRow (s : State) (id e k v : Nat) (l : ThrLin) : QpRow :=
  ⟨.power, e, k, [(v, l.pSlope.getD 0 0), (v + 1, l.pSlope.getD 1 0)], aSub (thrNum s id 12) (linRest l.power l.pSlope l.ref), false⟩

/-- A power group in use, with a limit that is not 0, at a step: the sum over its thrusters. -/
def groupRow (s : State) (steps g k : Nat) (xs : List (Nat × Nat × ThrLin)) : Option QpRow :=
  let lim := recast false true ((s.lib.record[6 + g]?).getD 0).toNat
  let mine := xs.filter fun x => (thrWord s x.1 13).toNat = g
  if cAbs true lim = 0 ∨ mine = [] then none
  else some ⟨.group, g, k, mine.flatMap fun x =>
      let v := 3 * (steps * x.2.1 + k)
      [(v, x.2.2.pSlope.getD 0 0), (v + 1, x.2.2.pSlope.getD 1 0)],
    mine.foldl (fun b x => aSub b (linRest x.2.2.power x.2.2.pSlope x.2.2.ref)) lim, false⟩

/-! ### The problem -/

/-- The allocation problem of a job about its warm start (R175), thruster after thruster as in the structure table: `held` are the
set-points that apply in the current cycle. -/
def allocQp (s : State) (j : CalJob) : AllocQp :=
  let d := j.d
  let steps := dNStep d
  let ids := structIds s d
  let held := fun id q => recast false true ((s.lib.applied[3 * id + q]?).getD 0).toNat
  let lins := ids.map fun id =>
    let azs := refAzs s j.warm id steps (held id 2)
    (List.range steps).map fun k => thrLin s id (planNum j.warm id k 0) (planNum j.warm id k 1) (azs.getD k 0)
  let at_ := fun e k => ((lins[e]?).getD [])[k]?.getD default
  let each := fun (f : Nat → Nat → Nat → List QpRow) =>
    ids.zipIdx.flatMap fun (id, e) => (List.range steps).flatMap fun k => f id e k
  let var := fun e k => 3 * (steps * e + k)
  let w := fun i => recast false true ((s.lib.record[i]?).getD 0).toNat
  { entries := ids.length, steps
    ref := lins.flatMap fun l => l.flatMap (·.ref)
    force := lins.flatMap fun l => l.flatMap (·.slopes)
    offset := (List.range steps).map fun k => (List.range 3).map fun a => (List.range ids.length).foldl (fun b e =>
      let l := at_ e k
      aAdd b (linRest (l.force.getD a 0) (l.slopes.map fun c => c.getD a 0) l.ref)) 0
    power := lins.flatMap fun l => l.flatMap fun x => x.pSlope.map (aMul (w 14))
    held := ids.flatMap fun id => [held id 0, held id 1, held id 2]
    rows := each (fun id e k =>
        boxRows s d id e k (var e k) ++
        ((List.range 3).flatMap fun q => rateRows s id e k (var e k) q (held id q)) ++
        sectorRows s id e k (var e k) ((at_ e k).ref.getD 2 0) ++ [powerRow s id e k (var e k) (at_ e k)]) ++
      (List.range steps).flatMap fun k => (List.range 8).filterMap fun g =>
        groupRow s steps g k (ids.zipIdx.map fun (id, e) => (id, e, at_ e k))
    rateW := w 15
    slackW := aMul (cOfInt true 10000) (w 15) }

end Sys2Proof.Machine

namespace Sys2Proof

open Sys2Proof.Machine

/-- How far a point goes beyond a constraint's bound: 0 where it keeps it. -/
def QpRow.excess (r : QpRow) (x : List Nat) : Nat :=
  let v := calSum true 0 (r.terms.map fun t => (t.2, numAt x t.1))
  if cLt true r.bound v then cSub true v r.bound else 0

/-- Does a point keep every hard constraint? -/
def AllocQp.feasible (p : AllocQp) (x : List Nat) : Bool := p.rows.all fun r => r.soft || cAbs true (r.excess x) == 0

/-- Surge, sway or yaw achieved at a step, linearised. -/
def AllocQp.achieved (p : AllocQp) (x : List Nat) (k a : Nat) : Nat :=
  calSum true (((p.offset[k]?).getD []).getD a 0) ((List.range p.entries).flatMap fun e => (List.range 3).map fun q =>
    let v := 3 * (p.steps * e + k) + q
    (((p.force[v]?).getD []).getD a 0, numAt x v))

/-- The objective at a point under a demand that is held over the horizon: squared force error, weighted power, weighted squared step
changes, and the squared excess of the soft rows. -/
def AllocQp.cost (p : AllocQp) (demand x : List Nat) : Nat :=
  let sq := fun v => (v, v)
  let err := (List.range p.steps).flatMap fun k => (List.range 3).map fun a => sq (cSub true (numAt demand a) (p.achieved x k a))
  let step := (List.range (3 * p.steps * p.entries)).map fun v =>
    let k := v / 3 % p.steps
    let before := if k = 0 then numAt p.held (3 * (v / (3 * p.steps)) + v % 3) else numAt x (v - 3)
    cSub true (numAt x v) before
  let soft := (p.rows.filter (·.soft)).map fun r => r.excess x
  let a := calSum true 0 err
  let a := calSum true a (p.power.zip x)
  let a := calSum true a (step.map fun v => (cMul true p.rateW v, v))
  calSum true a (soft.map fun v => (cMul true p.slackW v, v))

end Sys2Proof
end

