-- ==== Sys2Proof/Machine/Can.lean ====
section
/-! DEFINITION. The six CAN FD controllers (R342-R354). -/

namespace Sys2Proof.Machine

def canOf (s : State) (n : Nat) : CanSt := sget (fun _ => canIdle) s.can n
def State.setCan (s : State) (n : Nat) (x : CanSt) : State := { s with can := sset (fun _ => canIdle) s.can n x }
def State.canStat (s : State) (n i : Nat) : State := s.setStat (Reg.CAN_STAT n) (Reg.CAN_IRQ_EN n) (43 + n) i

/-- STATE: 0 INIT, 1 ERROR_ACTIVE, 2 ERROR_PASSIVE, 3 BUS_OFF, 4 RECOVERING. -/
def canState (s : State) (n : Nat) : Nat := s.bits (Reg.CAN_STATE n) 26 24
def State.setCanState (s : State) (n v : Nat) : State := s.setBits (Reg.CAN_STATE n) 26 24 v

/-- On the bus: neither in INIT nor bus-off. -/
def canOnBus (s : State) (n : Nat) : Bool := canState s n == 1 || canState s n == 2

def canStatus (s : State) (n b : Nat) : Nat := s.bits (Reg.CAN_BUF_CTL n b) 7 4
def State.setCanStatus (s : State) (n b v : Nat) : State := s.setBits (Reg.CAN_BUF_CTL n b) 7 4 v

/-- A transmit buffer reaches a final status (STAT.TX). -/
def State.canFinal (s : State) (n b v : Nat) : State := (s.setCanStatus n b v).canStat n 1

def canWords (s : State) (n b : Nat) (k : Nat) : List Word := (List.range k).map fun w => s.rd (Reg.CAN_BUF_W n b w)

/-! ### Timing (R343, R345) -/

/-- Are the timing fields in their ranges? -/
def canTimingOk (nbt dbt : Nat) : Bool :=
  let nb := fget nbt 4 0 + 1
  let n1 := fget nbt 12 5 + 1
  let n2 := fget nbt 19 13 + 1
  let ns := fget nbt 26 20 + 1
  let db := fget dbt 4 0 + 1
  let d1 := fget dbt 9 5 + 1
  let d2 := fget dbt 13 10 + 1
  let ds := fget dbt 17 14 + 1
  let nl := 1 + n1 + n2
  let dl := 1 + d1 + d2
  decide (2 ≤ n1) && decide (2 ≤ n2) && decide (ns ≤ n2) && decide (8 ≤ nl) && decide (nl ≤ 385) && decide (80 ≤ nb * nl) &&
  decide (ds ≤ d2) && decide (5 ≤ dl) && decide (dl ≤ 49) && decide (10 ≤ db * dl) && decide (db * dl ≤ nb * nl) &&
  (!fbit dbt 18 || decide (db ≤ 2))

/-! ### INIT, joining and recovery (R346, R348) -/

/-- INIT takes effect: a controller that is not bus-off leaves the bus; a recovery in progress is given up. -/
def State.canEnterInit (s : State) (n : Nat) : State :=
  let s := s.setCan n { canOf s n with initPend := false }
  let s := s.setBit (Reg.CAN_MODE n) 4 false
  if canState s n = 4 then (s.setCanState n 3).setBits (Reg.CAN_STATE n) 23 16 0
  else if canState s n = 3 then s
  else s.setCanState n 0

/-- CAN_INIT_WRITE (R343, R346): INIT set waits for the end of a frame being sent; INIT cleared is refused with CFG_ERR where a
timing field is out of range. -/
def canInit (n : Nat) (init : Bool) (s : State) : State :=
  if init then
    let s := s.setBit (Reg.CAN_MODE n) 0 true
    if (canOf s n).active.isSome then s.setCan n { canOf s n with initPend := true } else s.canEnterInit n
  else if !s.bit (Reg.CAN_MODE n) 0 then s
  else if canTimingOk (s.rdN (Reg.CAN_NBT n)) (s.rdN (Reg.CAN_DBT n)) then
    (s.setBit (Reg.CAN_MODE n) 0 false).setCan n { canOf s n with initPend := false }
  else s.canStat n 8

def execCanInitWrite (n : Fin 6) (init : Bool) (s : State) : Out1 := .next (s.ifOn 11 (canInit n.val init))

/-- The error state the counters give (R347). -/
def canErrState (tec rec : Nat) : Nat := if 255 < tec then 3 else if 127 < tec ∨ 127 < rec then 2 else 1

/-- CAN_BUS_JOIN (R346): 11 consecutive recessive bits with INIT clear. -/
def canJoin (n : Nat) (s : State) : State :=
  if s.bit (Reg.CAN_MODE n) 0 ∨ canState s n ≠ 0 then s
  else s.setCanState n (canErrState (s.bits (Reg.CAN_STATE n) 8 0) (s.bits (Reg.CAN_STATE n) 23 16))

def execCanBusJoin (n : Fin 6) (s : State) : Out1 := .next (s.ifOn 11 (canJoin n.val))

/-- CAN_RECOVER (R348): accepted only bus-off with INIT clear. -/
def canRecover (n : Nat) (s : State) : State :=
  if s.bit (Reg.CAN_MODE n) 0 ∨ canState s n ≠ 3 then s
  else ((s.setCanState n 4).setBits (Reg.CAN_STATE n) 23 16 0).setBit (Reg.CAN_MODE n) 4 true

def execCanRecover (n : Fin 6) (s : State) : Out1 := .next (s.ifOn 11 (canRecover n.val))

/-- CAN_RECOVERED (R348): REC counts the occurrences of 11 recessive bits; the 128th completes the recovery. -/
def canRecovered (n occ : Nat) (s : State) : State :=
  if canState s n ≠ 4 then s
  else if occ < 128 then s.setBits (Reg.CAN_STATE n) 23 16 occ
  else ((s.wrN (Reg.CAN_STATE n) (1 * 2 ^ 24)).setBit (Reg.CAN_MODE n) 4 false).canStat n 4

def execCanRecovered (n : Fin 6) (occ : Nat) (s : State) : Out1 := .next (s.ifOn 11 (canRecovered n.val occ))

/-- CAN_FLUSH (R349): every PENDING buffer ends CANCELLED. -/
def canFlush (n : Nat) (s : State) : State :=
  (List.range 64).foldl (fun s b => if canStatus s n b = 1 then s.canFinal n b 4 else s) s

def execCanFlush (n : Fin 6) (s : State) : Out1 := .next (s.ifOn 11 (canFlush n.val))

/-! ### Reception (R350-R352) -/

/-- Data bytes of a frame (R342). -/
def canBytes (w0 w1 : Nat) : Nat :=
  let dlc := fget w1 3 0
  if fbit w0 30 then 0
  else if dlc ≤ 8 then dlc
  else if !fbit w1 4 then 8
  else if dlc = 9 then 12 else if dlc = 10 then 16 else if dlc = 11 then 20 else if dlc = 12 then 24
  else if dlc = 13 then 32 else if dlc = 14 then 48 else 64

/-- Word `k` of the data area, with the bytes beyond `len` reading 0. -/
def canDataWord (len : Nat) (ws : List Word) (k : Nat) : Word :=
  let w := ((ws[k]?).map BitVec.toNat).getD 0
  BitVec.ofNat 32 (w % 256 ^ min 4 (len - 4 * k))

/-- The 19 words of a received frame; `match_` is what bits [21:16] of word 1 hold. -/
def canEntry (w0 w1 : Word) (data : List Word) (match_ : Nat) (stamp : Nat) : List Word :=
  [BitVec.ofNat 32 (w0.toNat % 2 ^ 31), BitVec.ofNat 32 (w1.toNat % 128 + 65536 * match_)] ++
  (List.range 16).map (canDataWord (canBytes w0.toNat w1.toNat) data) ++ [BitVec.ofNat 32 stamp]

/-- Does a filter (identifier and IDE; mask) accept a frame (R351)? -/
def canMatch (w0 cfg mask : Nat) : Bool :=
  fbit w0 29 == fbit cfg 29 && ((w0 ^^^ cfg) &&& mask) % 2 ^ 29 == 0

/-- The lowest-numbered enabled receive buffer that accepts a frame. -/
def canBufFor (s : State) (n w0 : Nat) : Option Nat :=
  (List.range 64).find? fun b =>
    let cfg := s.rdN (Reg.CAN_BUF_CFG n b)
    fbit cfg 31 && !fbit cfg 30 && canMatch w0 cfg (s.rdN (Reg.CAN_BUF_MASK n b))

def State.canOvr (s : State) (n b : Nat) : State := (s.flag (Reg.CAN_BUF_CTL n b) 3).canStat n 6

/-- Store a frame in a receive buffer: one that holds an unread frame is replaced, with OVR. -/
def State.canPut (s : State) (n b : Nat) (e : List Word) : State :=
  let s := if s.bit (Reg.CAN_BUF_CTL n b) 2 then s.canOvr n b else s
  let s := (List.range 19).foldl (fun s k => s.wr (Reg.CAN_BUF_W n b k) ((e[k]?).getD 0)) s
  (s.setBit (Reg.CAN_BUF_CTL n b) 2 true).canStat n 0

def State.canFifoStat (s : State) (n : Nat) : State := s.setBits (Reg.CAN_FIFO_STAT n) 5 0 (canOf s n).fifo.length

/-- Store a validated frame (R351): a locked buffer's frame is held; a newer held frame replaces an older one, with OVR. -/
def State.canStore (s : State) (n : Nat) (w0 w1 : Word) (data : List Word) (stamp : Nat) : State :=
  let x := canOf s n
  match canBufFor s n w0.toNat with
  | some b =>
    let e := canEntry w0 w1 data 0 stamp
    if x.lock = some b then (if x.held.isSome then s.canOvr n b else s).setCan n { x with held := some e }
    else s.canPut n b e
  | none =>
    let cfg := s.rdN (Reg.CAN_FIFO_ID n)
    if fbit cfg 31 && canMatch w0.toNat cfg (s.rdN (Reg.CAN_FIFO_MASK n)) then
      if 32 ≤ x.fifo.length then s.canStat n 5
      else ((s.setCan n { x with fifo := x.fifo ++ [canEntry w0 w1 data 0x3F stamp] }).canFifoStat n).canStat n 0
    else s

/-! ### Error counters (R347) -/

/-- Set the counters and the error state they give. -/
def State.canCount (s : State) (n tec rec : Nat) : State :=
  let was := canState s n
  let now := canErrState tec rec
  let s := ((s.setBits (Reg.CAN_STATE n) 8 0 tec).setBits (Reg.CAN_STATE n) 23 16 (min rec 255)).setCanState n now
  if now = 3 then s.canStat n 3 else if was ≠ now then s.canStat n 2 else s

/-- A frame received without error: REC falls by 1; above 127 it takes a value of 119-127, which the standard leaves open. -/
def State.canRxGood (s : State) (n : Nat) : State :=
  let tec := s.bits (Reg.CAN_STATE n) 8 0
  let rec_ := s.bits (Reg.CAN_STATE n) 23 16
  if s.bit (Reg.CAN_MODE n) 1 ∨ rec_ = 0 then s
  else if rec_ ≤ 127 then s.canCount n tec (rec_ - 1)
  else
    let (w, s) := s.free
    s.canCount n tec (119 + w.toNat % 9)

/-- CAN_FRAME_RX (R351): a validated frame whose start of frame lay `age` ns ago. -/
def canRx (n : Nat) (w0 w1 : Word) (data : List Word) (age : Nat) (s : State) : State :=
  if !canOnBus s n then s
  else (s.canRxGood n).canStore n w0 w1 data ((s.rdN Reg.TIM_NOW + 2 ^ 32 - age % 2 ^ 32) % 2 ^ 32)

def execCanFrameRx (n : Fin 6) (w0 w1 : Word) (data : List Word) (age : Nat) (s : State) : Out1 :=
  .next (s.ifOn 11 (canRx n.val w0 w1 data age))

/-- The end of an ACTIVE buffer's frame: its new status, and INIT where it waited for bus idle. -/
def State.canEndFrame (s : State) (n v : Nat) : State :=
  let x := canOf s n
  match x.active with
  | none => s
  | some (b, _) =>
    let s := s.setCan n { x with active := none, cancel := false }
    let s := if v = 1 then s.setCanStatus n b 1 else s.canFinal n b v
    if x.initPend then s.canEnterInit n else s

/-- A frame being sent fails: it returns to PENDING, or ends CANCELLED_AFTER_ERROR (R349, R354). -/
def State.canTxFail (s : State) (n : Nat) : State := s.canEndFrame n (if (canOf s n).cancel then 6 else 1)

/-- A bus error's effect on the counters, by role; a restricted controller sends no error flag and counts nothing. -/
def State.canError (s : State) (n : Nat) (e : CanErr) : State :=
  let tec := s.bits (Reg.CAN_STATE n) 8 0
  let rec_ := s.bits (Reg.CAN_STATE n) 23 16
  let frozen := s.bit (Reg.CAN_MODE n) 1
  match e with
  | .receiver => if frozen then s else s.canCount n tec (rec_ + 1)
  | .receiver8 => if frozen then s else s.canCount n tec (rec_ + 8)
  | .transmitter => (s.canCount n (tec + 8) rec_).canTxFail n
  | .transmitterUncounted => s.canTxFail n
  | .exception =>
    if s.bit (Reg.CAN_MODE n) 3 then (if frozen then s else s.canCount n tec (rec_ + 1)) else s.canStat n 7

/-- CAN_BUS_ERROR (R347). -/
def canBusError (n : Nat) (e : CanErr) (s : State) : State := if canOnBus s n then s.canError n e else s

def execCanBusError (n : Fin 6) (e : CanErr) (s : State) : Out1 := .next (s.ifOn 11 (canBusError n.val e))

/-! ### Transmission (R353, R354) -/

/-- CAN_TX_REQ (R350, R353): a transmit buffer in IDLE or a final status becomes PENDING, or INVALID. -/
def canReq (n b : Nat) (s : State) : State :=
  let st := canStatus s n b
  if !s.bit (Reg.CAN_BUF_CFG n b) 30 ∨ st = 1 ∨ st = 2 then s
  else
    let w0 := s.rdN (Reg.CAN_BUF_W n b 0)
    let w1 := s.rdN (Reg.CAN_BUF_W n b 1)
    if fbit w0 30 && fbit w1 4 || fbit w1 5 && !fbit w1 4 then s.canFinal n b 7
    else s.setCanStatus n b 1

def execCanTxReq (n : Fin 6) (b : Fin 64) (s : State) : Out1 := .next (s.ifOn 11 (canReq n.val b.val))

/-- Arbitration order: identifier, base before extended, data before remote; less wins. -/
def canKey (w0 : Nat) : Nat :=
  fget w0 28 18 * 2 ^ 21 +
    (if fbit w0 29 then 2 ^ 20 + 2 ^ 19 + fget w0 17 0 * 2 + b2n (fbit w0 30) else b2n (fbit w0 30) * 2 ^ 20)

/-- The PENDING buffer whose frame would win arbitration; the lower number on a tie. -/
def canBest (s : State) (n : Nat) : Option Nat :=
  (List.range 64).foldl (fun best b =>
    if canStatus s n b = 1 && s.rdN (Reg.CAN_BUF_CFG n b) / 2 ^ 30 == 3 then
      match best with
      | none => some b
      | some c => if canKey (s.rdN (Reg.CAN_BUF_W n b 0)) < canKey (s.rdN (Reg.CAN_BUF_W n c 0)) then some b else best
    else best) none

/-- CAN_TX_START (R353, R354). -/
def canStart (n : Nat) (s : State) : State :=
  let x := canOf s n
  if !canOnBus s n ∨ x.active.isSome ∨ x.initPend ∨ s.bit (Reg.CAN_MODE n) 1 then s
  else
    match canBest s n with
    | none => s
    | some b =>
      let s' := (s.setCan n { x with active := some (b, s.rdN Reg.TIM_NOW), cancel := false }).setCanStatus n b 2
      if s.bit (Reg.CAN_MODE n) 2 then s' else s'.emit (.can n (canWords s n b 18))

def execCanTxStart (n : Fin 6) (s : State) : Out1 := .next (s.ifOn 11 (canStart n.val))

/-- A frame sent: TEC falls by 1, word 18 takes the start of frame; in LOOPBACK the frame is received. -/
def State.canSent (s : State) (n b at_ : Nat) : State :=
  let tec := s.bits (Reg.CAN_STATE n) 8 0
  let s := if tec = 0 then s else s.canCount n (tec - 1) (s.bits (Reg.CAN_STATE n) 23 16)
  let s := s.wrN (Reg.CAN_BUF_W n b 18) at_
  let s := if s.bit (Reg.CAN_MODE n) 2 then
      s.canStore n (s.rd (Reg.CAN_BUF_W n b 0)) (s.rd (Reg.CAN_BUF_W n b 1)) ((canWords s n b 18).drop 2) at_
    else s
  s.canEndFrame n (if (canOf s n).cancel then 5 else 3)

/-- CAN_TX_END (R345, R353, R354). -/
def canEnd (n : Nat) (e : CanEnd) (s : State) : State :=
  let x := canOf s n
  match x.active, e with
  | none, _ => s
  | some _, .lost => s.canEndFrame n (if x.cancel then 4 else 1)
  | some _, .error counted => s.canError n (if counted then .transmitter else .transmitterUncounted)
  | some (b, at_), .success tdcv =>
    if !s.bit (Reg.CAN_BUF_W n b 1) 4 then s.canSent n b at_
    else if 127 < tdcv then (s.wrN (Reg.CAN_TDCR n) 0xFF).canError n .transmitter
    else (s.wrN (Reg.CAN_TDCR n) tdcv).canSent n b at_

def execCanTxEnd (n : Fin 6) (e : CanEnd) (s : State) : Out1 := .next (s.ifOn 11 (canEnd n.val e))

/-- CAN_CANCEL (R354). -/
def canCancel (n b : Nat) (s : State) : State :=
  if canStatus s n b = 1 then s.canFinal n b 4
  else if canStatus s n b = 2 then s.setCan n { canOf s n with cancel := true }
  else s

def execCanCancel (n : Fin 6) (b : Fin 64) (s : State) : Out1 := .next (s.ifOn 11 (canCancel n.val b.val))

/-! ### Windows (R352); window 64 is the FIFO head -/

/-- Release the locked window: a buffer's NEW clears and its held frame is stored; the FIFO head is popped. -/
def State.canRelease (s : State) (n : Nat) : State :=
  let x := canOf s n
  match x.lock with
  | none => s
  | some w =>
    let s := s.setCan n { x with lock := none, held := none }
    if w = 64 then (s.setCan n { x with lock := none, held := none, fifo := x.fifo.drop 1 }).canFifoStat n
    else
      let s := s.setBit (Reg.CAN_BUF_CTL n w) 2 false
      match x.held with
      | none => s
      | some e => s.canPut n w e

/-- CAN_WINDOW_LOCK: reading word 0 of a receive buffer or of the FIFO head; a lock elsewhere moves. -/
def canLock (n w : Nat) (s : State) : State :=
  let x := canOf s n
  if x.lock = some w ∨ (w < 64 ∧ s.bit (Reg.CAN_BUF_CFG n w) 30) then s
  else
    let s := s.canRelease n
    if w = 64 ∧ (canOf s n).fifo = [] then s else s.setCan n { canOf s n with lock := some w }

def execCanWindowLock (n : Fin 6) (w : Fin 65) (s : State) : Out1 := .next (s.ifOn 11 (canLock n.val w.val))

/-- CAN_WINDOW_RELEASE: reading word 18 of the locked window. -/
def canUnlock (n w : Nat) (s : State) : State := if (canOf s n).lock = some w then s.canRelease n else s

def execCanWindowRelease (n : Fin 6) (w : Fin 65) (s : State) : Out1 := .next (s.ifOn 11 (canUnlock n.val w.val))

/-- Word `w` of the FIFO head; 0 where the FIFO is empty. -/
def canFifoWord (s : State) (n w : Nat) : Word := (((canOf s n).fifo.head?).bind (·[w]?)).getD 0

end Sys2Proof.Machine
end

