-- ==== Sys2Proof/Machine/Region.lean ====
section
/-! DEFINITION. The cycle region of the mirror store (R364-R367): what the library gathers there, what it adopts from a received one, and
the words that are local to a module (R366). The region's layout is the library's own: where each part stands is free, and the order within
the library's own part is a design choice. -/

namespace Sys2Proof.Machine

def mstBase (s : State) : Nat := s.rd64 Reg.PAIR_MST_BASE_LO Reg.PAIR_MST_BASE_HI

/-- Bytes of the cycle region: MIRROR_LEN units of 512, at most 256 KiB. -/
def mirLen (s : State) : Nat := 512 * min (s.bits Reg.PAIR_MIR_CFG 18 0) 512

/-- The region's words on this module. -/
def regionWords (s : State) : List Word := if inDram (mstBase s) (mirLen s) then s.dramWords (mstBase s) (mirLen s / 4) else []

/-- The words that count for the CRC: those local to a module stay outside (R366). -/
def regionShared (ws : List Word) : List Word := (ws.zipIdx.filter fun x => !Config.regionLocal x.2).map (·.1)

/-- PTP time now (R291). -/
def ptpNow (s : State) : Nat := (((s.ext : Int) + s.lib.oPtp) % 2 ^ 64).toNat

/-! ### The library's own words -/

/-- Lists one after another, each behind its length. -/
def joinLists (ls : List (List Word)) : List Word := ls.flatMap fun l => BitVec.ofNat 32 l.length :: l

/-- The first `n` lists of such words. -/
def splitLists : Nat → List Word → List (List Word)
  | 0, _ => []
  | n + 1, [] => [] :: splitLists n []
  | n + 1, w :: ws => ws.take w.toNat :: splitLists n (ws.drop w.toNat)

def dwordWords (ds : List DWord) : List Word := ds.flatMap fun d => wordsOf d.toNat 2

def wordsDword : List Word → List DWord
  | a :: b :: ws => (b ++ a) :: wordsDword ws
  | _ => []

/-- The modes' and flags' word. -/
def modeWord (l : LibSt) : Nat :=
  l.mode + 8 * b2n l.dbActive + 16 * b2n l.ramping + 32 * b2n l.trackEnd + 64 * b2n l.handover + 128 * b2n l.lost + 256 * b2n l.wsRej +
  512 * b2n l.plStale + 1024 * b2n l.zeroPub + 2048 * (l.clamp % 8) + 16384 * (match l.engage with | some m => 8 + m % 8 | none => 0)

/-- What the library carries across cycles (R364): mode state, set-points and their ramps, demands, integrators, the estimate, commands,
inputs in force, configuration record, waypoint table and plan. A local time goes as a PTP time (R366). -/
def crossLists (s : State) : List (List Word) :=
  let l := s.lib
  [[modeWord l, l.leg, l.staleRun, l.reqSeq, l.result, l.thr, l.prevThr].map (BitVec.ofNat 32) ++ wordsOf (ptpNow s - (s.clk - l.dbSince)) 2,
   dwordWords l.sp, dwordWords l.ramp, l.demand, l.achieved, l.integ, dwordWords l.est, l.cmd, l.input, l.record, l.table, l.plan.getD []]

/-- The library's state after it has taken another module's words. -/
def State.takeLists (s : State) (ls : List (List Word)) : State :=
  let g := fun i => ls.getD i []
  let h := fun i => ((g 0).getD i 0).toNat
  let m := h 0
  { s with lib := { s.lib with
      mode := m % 8, dbActive := fbit m 3, ramping := fbit m 4, trackEnd := fbit m 5, handover := fbit m 6, lost := fbit m 7,
      wsRej := fbit m 8, plStale := fbit m 9, zeroPub := fbit m 10, clamp := fget m 13 11,
      engage := if fbit m 17 then some (fget m 16 14) else none,
      leg := h 1, staleRun := h 2, reqSeq := h 3, result := h 4, thr := h 5, prevThr := h 6,
      dbSince := s.clk - (ptpNow s - (h 7 + 2 ^ 32 * h 8)),
      sp := wordsDword (g 1), ramp := wordsDword (g 2), demand := g 3, achieved := g 4, integ := g 5, est := wordsDword (g 6), cmd := g 7,
      input := g 8, record := g 9, table := g 10, plan := if g 11 = [] then none else some (g 11) } }

/-! ### The allocation's state area (R178) -/

/-- The arm slots of compare channel 4 that name a descriptor of KIND 1, armed or not. -/
def allocSlots (s : State) : List (Nat × List Word) :=
  if !s.domOn 5 then []
  else (List.range 8).filterMap fun k =>
    if s.bits (Reg.CAL_ARM_CFG k) 7 4 = 4 then
      match readDesc s (s.bits (Reg.CAL_ARM_DESC k) 22 0) with
      | some d => if (d.getD 0 0).toNat % 8 = 1 then some (k, d) else none
      | none => none
    else none

/-- The ALLOC job's arm slot: the one armed, or the one that the library itself has disarmed. -/
def allocSlot (s : State) : Option (Nat × List Word) :=
  (allocSlots s).find? fun x => s.bit (Reg.CAL_ARM_CFG x.1) 0 || s.lib.unarmed == some x.1

/-- Where the job's state area stands. -/
def planAt (d : List Word) : Nat := (d.getD 6 0).toNat + 2 ^ 32 * (d.getD 7 0).toNat

/-- Words of the area that hold something (R178), and PLAN_RUN among them. -/
def planLen : Nat := 0x3200
def planRun (ws : List Word) : Nat := (ws.getD 4 0).toNat

/-- PLAN_RUN as the cycle k of its plan (R366). -/
def State.planShared (s : State) (slot : Nat) (ws : List Word) : List Word :=
  let age := (s.bits (Reg.CAL_ARM_CNT slot) 15 0 + 65536 - planRun ws % 65536) % 65536
  ws.set 4 (BitVec.ofNat 32 (s.lib.k % 2 ^ 32 + 2 ^ 32 - age))

/-- PLAN_RUN on adoption: the slot's next RUNS, that of cycle `first`, less the cycles elapsed (R366). -/
def State.planOwn (s : State) (slot first : Nat) (ws : List Word) : List Word :=
  let gone : Nat := (first % 2 ^ 32 + 2 ^ 32 - planRun ws) % 2 ^ 32
  let next : Nat := s.bits (Reg.CAL_ARM_CNT slot) 15 0 + 1
  ws.set 4 (BitVec.ofNat 32 ((next + 2 ^ 32 - gone) % 65536))

/-! ### Gathering and adopting -/

/-- Words written at a word of the region; what would reach beyond it is not written. -/
def State.regionPut (s : State) (i : Nat) (ws : List Word) : State :=
  if 4 * (i + ws.length) ≤ mirLen s then s.dmaPut (mstBase s + 4 * i) ws else s

/-- The library gathers its cross-cycle state by +17.0 ms (R364). -/
def State.gather (s : State) : State :=
  let s := s.regionPut Config.regionLib (joinLists (crossLists s))
  match allocSlot s with
  | some (k, d) => if inDram (planAt d) 0x10000 then s.regionPut Config.regionPlan (s.planShared k (s.dramWords (planAt d) planLen)) else s
  | none => s

/-- The library adopts a received region `ws` (R365, R366, R377) before its solve of cycle `first`. -/
def State.adoptRegion (s : State) (first : Nat) (ws : List Word) : State :=
  let s := (s.dmaPut (mstBase s) ws).takeLists (splitLists 12 (ws.drop Config.regionLib))
  let area := (ws.drop Config.regionPlan).take planLen
  match allocSlot s with
  | some (k, d) => if area.length = planLen then s.dmaPut (planAt d) (s.planOwn k first area) else s
  | none => s

end Sys2Proof.Machine
end

