-- ==== Sys2Proof/Machine/Pair.lean ====
section
/-! DEFINITION. The redundant pair: mirror link, cycle traffic and mirror store (R355-R369), and the lease's own acts: sending
LEASE frames and stepping down (R370-R375). -/

namespace Sys2Proof.Machine

def State.modPair (s : State) (f : PairSt → PairSt) : State := { s with pair := f s.pair }

/-- PAIR_STAT: bits 0, 1, 2, 7 and 10 on source 49, the others on 50. -/
def State.pairStat (s : State) (i : Nat) : State :=
  s.setStat Reg.PAIR_STAT Reg.PAIR_IRQ_EN (if i ≤ 2 ∨ i = 7 ∨ i = 10 then 49 else 50) i

def pairOn (s : State) : Bool := s.domOn 11 && s.bit Reg.PAIR_CFG 0
def roleB (s : State) : Bool := s.bit Reg.PAIR_CFG 3
def holder (s : State) : Bool := s.bits Reg.PAIR_LEASE_STAT 1 0 == 1

/-- Does the module act as holder in this positioning cycle: in TWIN only from the first t0 after its take (R376)? -/
def actsHolder (s : State) : Bool := holder s && s.pair.cont.isNone

/-- The epoch of a command frame: its own, before that t0 the one it followed. -/
def cmdEpoch (s : State) : Nat := (s.pair.cont).getD (s.rdN Reg.PAIR_EPOCH)

/-- MODE: 0 SOLO (3 too), 1 WATCH, 2 TWIN; a non-holder whose partner runs another version acts as in WATCH (R381). -/
def pairMode (s : State) : Nat :=
  let m := s.bits Reg.PAIR_CFG 2 1
  if m = 3 then 0
  else if m = 2 && !holder s && s.bit Reg.PAIR_LEASE_STAT 6 then 1
  else m

/-- Do both modules compute: TWIN, or a proof run (R378)? -/
def twinNow (s : State) : Bool := pairMode s == 2 || s.pair.proof.isSome

/-! ### The mirror link (R359-R361) -/

def inSync (s : State) : Bool := s.bit Reg.PAIR_LINK_STAT 2
def laneUp (s : State) (l : Nat) : Bool := s.bit Reg.PAIR_LINK_STAT l

/-- The lane of a packet: even SEQ on lane 0, odd on lane 1; all on the remaining lane. -/
def laneFor (s : State) (seq : Nat) : Nat :=
  if laneUp s 0 && laneUp s 1 then seq % 2 else if laneUp s 1 then 1 else 0

/-- A packet's words: header, payload, CRC (R360). -/
def mirWords (ty sub seq k ofs : Nat) (pl : List Word) : List Word :=
  let ws := [BitVec.ofNat 32 (ty + 256 * sub + 262144 * pl.length), BitVec.ofNat 32 seq, BitVec.ofNat 32 k, BitVec.ofNat 32 ofs] ++ pl
  ws ++ [BitVec.ofNat 32 (crc32c 0xFFFFFFFF true (wordBytes ws))]

/-- Send a packet while a lane is up; every type but ACK and HELLO awaits an acknowledgement. -/
def State.mirSend (s : State) (ty sub k ofs : Nat) (pl : List Word) : State :=
  if !pairOn s || !(laneUp s 0 || laneUp s 1) then s
  else
    let n := s.pair.seq
    let ws := mirWords ty sub n k ofs pl
    let s := (s.modPair fun p => { p with seq := (n + 1) % 2 ^ 32 }).emit (.mirror (laneFor s n) ws)
    if ty = 5 ∨ ty = 7 then s
    else s.modPair fun p => { p with sent := p.sent ++ [⟨n, ws, s.clk, 1, (ty, k)⟩] }

/-- The chunks of a transfer: offset and at most 4,096 bytes. -/
def mirChunks (ws : List Word) : List (Nat × List Word) :=
  (List.range ((ws.length + 1023) / 1024)).map fun i => (4096 * i, (ws.drop (1024 * i)).take 1024)

/-- MIRROR_RETRANSMIT (R361): unacknowledged for 50 µs, sent once more; the second time, its transfer is abandoned. -/
def mirRetransmit (seq : Nat) (s : State) : State :=
  match s.pair.sent.find? (·.seq == seq) with
  | none => s
  | some x =>
    if s.clk < x.at_ + 50000 then s
    else if x.n = 1 then
      ((s.modPair fun p => { p with sent := p.sent.map fun y => if y.seq = seq then { y with n := 2, at_ := s.clk } else y }).addSat
        Reg.PAIR_LINK_STAT 15 8 1).emit (.mirror (laneFor s seq) x.ws)
    else (s.modPair fun p => { p with sent := p.sent.filter (·.xfer != x.xfer) }).addSat Reg.PAIR_LINK_STAT 23 16 1

def execMirrorRetransmit (seq : Word) (s : State) : Out1 := .next (s.ifOn 11 (mirRetransmit seq.toNat))

/-- HELLO_SEND (R359): every 1 ms on each lane. -/
def pairHello (s : State) : State :=
  if !pairOn s ∨ s.clk < s.pair.helloTx + 1000000 then s
  else
    let n := s.pair.seq
    let s := s.modPair fun p => { p with seq := (n + 2) % 2 ^ 32, helloTx := s.clk }
    (s.emit (.mirror 0 (mirWords 7 0 n 0 0 []))).emit (.mirror 1 (mirWords 7 0 ((n + 1) % 2 ^ 32) 0 0 []))

def execHelloSend (s : State) : Out1 := .next (pairHello s)

/-- A full resynchronisation starts (R368): every page once, then those dirtied meanwhile. -/
def State.resyncStart (s : State) : State :=
  (s.setBit Reg.PAIR_MST_CTL 0 true).modPair fun p => { p with pass := some 0, resync := false }

/-- Is the link in sync: a lane up, and a HELLO within the last 5 ms? A link regained after more than 500 ms resynchronises. -/
def State.syncEval (s : State) : State :=
  let now := (laneUp s 0 || laneUp s 1) && match s.pair.helloRx with
    | none => false
    | some t => decide (s.clk ≤ t + 5000000)
  if now = inSync s then s
  else
    let s := (s.setBit Reg.PAIR_LINK_STAT 2 now).pairStat 6
    if !now then s.modPair fun p => { p with lostAt := s.clk }
    else if holder s ∧ s.pair.lostAt + 500000000 < s.clk then s.resyncStart
    else s

/-- LANE_STATE_CHANGE (R359): a lane came up (aligned for 1 ms with a valid HELLO) or went down; with no lane named, the link's
sync is evaluated. -/
def laneChange (lane : Option (Fin 2 × Bool)) (s : State) : State :=
  let s := match lane with
    | none => s
    | some (l, up) => if laneUp s l.val = up then s else (s.setBit Reg.PAIR_LINK_STAT l.val up).pairStat 6
  s.syncEval

def execLaneStateChange (lane : Option (Fin 2 × Bool)) (s : State) : Out1 := .next (s.ifOn 11 (laneChange lane))

/-! ### Snapshot parts (R362, R363) -/

def snapLen (s : State) (g : Nat) : Nat := s.rdN (Reg.PAIR_SNAP_LEN g)
def snapSrc (s : State) (g : Nat) : Nat := s.rd64 (Reg.PAIR_SNAP_SRC_LO g) (Reg.PAIR_SNAP_SRC_HI g)
def snapDst (s : State) (g : Nat) : Nat := s.rdN (Reg.PAIR_SNAP_DST g) * 256

/-- The segments of a part that are used. -/
def snapSegs (s : State) (p : Nat) : List Nat := ([0, 1, 2, 3].map (4 * p + ·)).filter fun g => snapLen s g != 0

/-- A segment's words on this module; only DRAM is a source. -/
def segWords (s : State) (g : Nat) : List Word :=
  if inDram (snapSrc s g) (snapLen s g) then s.dramWords (snapSrc s g) (snapLen s g / 4) else []

/-- SNAP_GO (R362): the holder sends the part's segments, at most 32 KiB. -/
def snapGo (p : Nat) (s : State) : State :=
  if !actsHolder s ∨ !twinNow s ∨ !s.domOn 0 ∨ 32768 < ((snapSegs s p).map (snapLen s)).sum then s
  else (snapSegs s p).foldl (fun s g =>
    (mirChunks (segWords s g)).foldl (fun s c => s.mirSend 1 (4 * p + g % 4) (s.lib.k % 2 ^ 32) c.1 c.2) s) s

def execSnapGo (p : Fin 2) (s : State) : Out1 := .next (s.ifOn 11 (snapGo p.val))

/-- A segment as received: its words, where every chunk has come. -/
def segGot (s : State) (g : Nat) : Option (List Word) :=
  let n := snapLen s g / 4
  let got := (List.range ((n + 1023) / 1024)).map fun i =>
    s.pair.snap.find? fun c => c.1 == g / 4 && c.2.1 == g % 4 && c.2.2.1 == 4096 * i
  if got.all (·.isSome) then
    let ws := got.flatMap fun c => (c.map fun x => x.2.2.2).getD []
    if ws.length = n then some ws else none
  else none

/-- Does a segment's destination hold the library's input block (R362)? -/
def holdsBlock (s : State) (g : Nat) : Bool :=
  decide (snapDst s g ≤ dramBase + Config.libBlock) && decide (dramBase + Config.libBlock + 512 ≤ snapDst s g + snapLen s g)

/-- The input block's words within a segment's. -/
def blockOf (s : State) (g : Nat) (ws : List Word) : List Word := (ws.drop ((dramBase + Config.libBlock - snapDst s g) / 4)).take 128

/-- The input block among the segments' words, one segment after another. -/
def blockAmong (s : State) : List Nat → List Word → Option (List Word)
  | [], _ => none
  | g :: gs, ws => if holdsBlock s g then some (blockOf s g ws) else blockAmong s gs (ws.drop (snapLen s g / 4))

/-- Write the segments of a part: the valid word (byte 0x3C of the first segment's destination) is 0 meanwhile and written last. -/
def State.snapWrite (s : State) (p : Nat) : State :=
  let v := snapDst s (4 * p) + 0x3C
  let s := s.dmaPut v [0]
  let s := (snapSegs s p).foldl (fun s g =>
    let ws := (segGot s g).getD []
    if g % 4 = 0 then (s.dmaPut (snapDst s g) (ws.take 15)).dmaPut (snapDst s g + 64) (ws.drop 16)
    else s.dmaPut (snapDst s g) ws) s
  s.dmaPut v [((segGot s (4 * p)).bind (·[15]?)).getD 0]

/-- SNAP_MISS: the step runs on the receiver's own inputs. -/
def State.snapMiss (s : State) : State :=
  (s.modPair fun p => { p with snapDone := true, snap := [], miss := true, snapStep := s.fsn.steps }).pairStat 4

def snapDl (s : State) : Nat := s.rd64 Reg.PAIR_SNAP_DL_LO Reg.PAIR_SNAP_DL_HI

/-- SNAP_PART_WRITE (R363): written whole on the non-holder when every packet has come, its own aligned block is written, the first
segment carries one, and the deadline has not passed; else SNAP_MISS. -/
def snapPart (p : Nat) (s : State) : State :=
  if holder s ∨ !twinNow s ∨ s.pair.snapDone then s
  else if (snapSegs s p).all (fun g => (segGot s g).isSome) ∧ snapLen s (4 * p) ≠ 0 ∧ s.fsn.block.isNone ∧
      s.pair.snapStep < s.fsn.steps ∧ s.ext < snapDl s ∧ s.domOn 0 then
    let blk := (snapSegs s p).findSome? fun g => if holdsBlock s g then (segGot s g).map (blockOf s g) else none
    (s.snapWrite p).modPair fun q =>
      { q with snapDone := true, snap := [], snapStep := s.fsn.steps, inBlk := if blk.isSome then blk else q.inBlk }
  else s.snapMiss

def execSnapPartWrite (p : Fin 2) (s : State) : Out1 := .next (s.ifOn 11 (snapPart p.val))

/-- SNAP_DEADLINE (R363): PAIR_SNAP_DL passes with no part written. -/
def snapDeadline (s : State) : State :=
  if holder s ∨ !twinNow s ∨ s.pair.snapDone ∨ s.ext < snapDl s then s else s.snapMiss

def execSnapDeadline (s : State) : Out1 := .next (s.ifOn 11 snapDeadline)

/-! ### The mirror frame (R364-R366) -/

/-- The words of the mirror frame's payload: the cycle region, then both snapshot parts. -/
def mirPayload (s : State) : List Word :=
  regionWords s ++ (snapSegs s 0 ++ snapSegs s 1).flatMap (segWords s)

/-- The input block in a mirror frame's payload goes on in the library's own (R53). -/
def State.adoptBlock (s : State) (ws : List Word) : State :=
  match blockAmong s (snapSegs s 0 ++ snapSegs s 1) (ws.drop (mirLen s / 4)) with
  | some b => s.dmaPut (dramBase + Config.libBlock) b
  | none => s

/-- The words a receiver expects in one, by its own configuration. -/
def mirExpect (s : State) : Nat := mirLen s / 4 + ((snapSegs s 0 ++ snapSegs s 1).map fun g => snapLen s g / 4).sum

/-- This module's hashes of the cycle: over the cycle region and over the command bodies. -/
def mirHash (s : State) : MirHash :=
  { k := s.lib.k % 2 ^ 32
    state := BitVec.ofNat 32 (crc32c 0xFFFFFFFF true (wordBytes (regionShared (regionWords s))))
    cmds := BitVec.ofNat 32 (crc32c 0xFFFFFFFF true s.pair.bodies)
    excuse := s.lib.plStale || s.lib.estStale || s.pair.miss }

def hashWords (h : MirHash) : List Word := [h.state, h.cmds, BitVec.ofNat 32 (b2n h.excuse)]

/-- Compare the two modules' hashes of one cycle (R365): the non-holder sets DIVERGE when the state CRCs differ; the holder counts
for a proof run's verdict (R379). Out of step, nothing is compared (R368). -/
def State.hashCompare (s : State) : State :=
  match s.pair.hashOwn, s.pair.hashRx with
  | some a, some b =>
    if a.k ≠ b.k ∨ !(if holder s then s.pair.resync else s.pair.pResync) then s
    else
      let s := s.modPair fun p => { p with hashOwn := none }
      if !holder s then (if a.state ≠ b.state then (s.modPair fun p => { p with adopt := some a.k }).pairStat 3 else s)
      else if s.pair.proofAt.isNone then s
      else if a.excuse || b.excuse then s.addSat Reg.PAIR_PROOF_STAT 31 16 1
      else
        let s := s.modPair fun p => { p with compared := p.compared + 1 }
        if a.state ≠ b.state ∨ a.cmds ≠ b.cmds then s.addSat Reg.PAIR_PROOF_STAT 15 0 1 else s
  | _, _ => s

/-- MIR_GO (R364, R365): the region is gathered; the holder sends the mirror frame and its HASH, the non-holder in TWIN its HASH. -/
def mirGo (s : State) : State :=
  if !pairOn s ∨ !s.domOn 0 ∨ pairMode s = 0 then s
  else
    let s := if holder s ∨ twinNow s then s.gather else s
    let h := mirHash s
    let s := (s.wr Reg.PAIR_MIR_HASH h.state).modPair fun p => { p with hashOwn := some h, bodies := [], miss := false }
    let s := if holder s then (mirChunks (mirPayload s)).foldl (fun s c => s.mirSend 2 0 h.k c.1 c.2) s else s
    if holder s ∨ twinNow s then (s.mirSend 3 0 h.k 0 (hashWords h)).hashCompare else s

def execMirGo (s : State) : Out1 := .next (s.ifOn 11 mirGo)

/-- The received frame is complete: every chunk, and the HASH of its cycle. It becomes the last complete mirror frame. -/
def State.mirComplete (s : State) : State :=
  let n := mirExpect s
  let got := (List.range ((n + 1023) / 1024)).map fun i => s.pair.asm.find? fun c => c.1 == 4096 * i
  match s.pair.hashRx with
  | none => s
  | some h =>
    if h.k ≠ s.pair.asmK ∨ !got.all (·.isSome) ∨ n = 0 then s
    else
      let ws := got.flatMap fun c => (c.map (·.2)).getD []
      let s := s.modPair fun p => { p with frame := some (h.k, ws, h.state, h.cmds), asm := [], stored := false }
      if s.bits Reg.TND_PSTATE 6 4 = 1 then s.tpend 1 else s

/-- MIRROR_ABANDON (R364): a frame incomplete by +19.5 ms is not used. -/
def mirAbandon (s : State) : State :=
  if s.pair.asm = [] then s else (s.modPair fun p => { p with asm := [] }).pairStat 5

def execMirrorAbandon (s : State) : Out1 := .next (s.ifOn 11 mirAbandon)

/-! ### The mirror store (R367-R369) -/

/-- PAGE_DIRTY (R367): a DRAM write at `a`. -/
def execPageDirty (a : BitVec 40) (s : State) : Out1 := .next (s.ifOn 11 fun s => s.markDirty a.toNat)

def pageDirty (s : State) (pg : Nat) : Bool := sget (fun _ => false) s.pair.dirty pg

/-- Is a page mirrored: all but the cycle region in TWIN, the hot part alone in WATCH? -/
def pageMirrored (s : State) (pg : Nat) : Bool :=
  decide (64 ≤ pg) && decide (pg < if twinNow s then 16384 else 8192)

def State.pageClean (s : State) (pg : Nat) : State :=
  if pageDirty s pg then
    (s.modPair fun p => { p with dirty := sset (fun _ => false) p.dirty pg false }).setBits Reg.PAIR_MST_DIRTY 15 0
      (s.bits Reg.PAIR_MST_DIRTY 15 0 - 1)
  else s

/-- PAGE_SEND (R367, R368): a dirty page, or the next page of a full resynchronisation, which sends every page. -/
def pageSend (pg : Nat) (s : State) : State :=
  let next := s.pair.pass = some pg ∧ pg < 16384
  if !holder s ∨ !inSync s ∨ !s.domOn 0 ∨ !(next ∨ (pageDirty s pg && pageMirrored s pg)) ∨
      !inDram (mstBase s + 4096 * pg) 4096 then s
  else
    let s := if next then s.modPair fun p => { p with pass := some (pg + 1) } else s
    (s.pageClean pg).mirSend 6 0 (s.lib.k % 2 ^ 32) pg (s.dramWords (mstBase s + 4096 * pg) 1024)

def execPageSend (pg : Fin 16384) (s : State) : Out1 := .next (s.ifOn 11 (pageSend pg.val))

/-- RESYNC (R368): PAIR_MST_CTL.RESYNC is set. -/
def execResync (s : State) : Out1 := .next (s.ifOn 11 State.resyncStart)

/-- RESYNC_DONE (R368): every page was sent once and none that is mirrored in TWIN is dirty. -/
def resyncDone (s : State) : State :=
  if s.pair.pass ≠ some 16384 ∨ s.pair.dirty.any (fun e => decide (64 ≤ e.1)) then s
  else
    let s := s.modPair fun p =>
      { p with pass := none, resync := true, proofAt := if p.proof.isSome && p.proofAt.isNone then some s.clk else p.proofAt,
               firstK := if p.proof.isSome && p.proofAt.isNone then s.lib.k else p.firstK }
    (s.setBit Reg.PAIR_MST_CTL 0 false).pairStat 12

def execResyncDone (s : State) : Out1 := .next (s.ifOn 11 resyncDone)

/-- Offset in MRAM of a cycle slot (R403). -/
def cycleSlot (i : Nat) : Nat := 0x100000 + 0x51000 * i

/-- Store the waiting mirror frame in the next cycle slot: commit word cleared first and written last (R369). -/
def State.storeFrame (s : State) : State :=
  match s.pair.frame with
  | none => s
  | some (k, ws, h1, h2) =>
    if s.pair.stored then s
    else
      let o := cycleSlot s.pair.slot
      let m := memPut zeroByte (wrz s.mram (o + 0x50FFC) 4 0) o (ws.take 81920)
      let m := memPut zeroByte m (o + 0x50000) [BitVec.ofNat 32 k, h1, h2]
      { s with mram := wrz m (o + 0x50FFC) 4 0x3C1A0001 }.modPair fun p => { p with stored := true, slot := 1 - p.slot }

/-- Store the oldest waiting page: its table entry cleared, the page written, the entry committed last. What the entry holds then
is not stated. -/
def State.storePage (s : State) : State :=
  match s.pair.pages with
  | [] => s
  | (pg, ws) :: rest =>
    let e := 0x1B0000 + 8 * (pg - 64)
    let m := memPut zeroByte (wrz s.mram e 8 0) (0x200000 + 4096 * (pg - 64)) ws
    let (a, s) := s.free
    let (b, s) := s.free
    { s with mram := memPut zeroByte m e [a, b] }.modPair fun p => { p with pages := rest }

/-- MIRROR_SLOT_STORE (R369): in WATCH the Tender stores the frame or a page that waits. -/
def mirStore (page : Bool) (s : State) : State :=
  if !s.domOn 12 ∨ s.bits Reg.TND_PSTATE 6 4 ≠ 1 then s else if page then s.storePage else s.storeFrame

def execMirrorSlotStore (page : Bool) (s : State) : Out1 := .next (mirStore page s)

/-! ### LEASE frames and stepping down (R370-R372, R375) -/

/-- L in ms. -/
def leaseL (s : State) : Nat := s.bits Reg.PAIR_LEASE_CFG 8 0

/-- Serial comparison (R333): is e newer than h? -/
def newer (e h : Nat) : Bool := decide (1 ≤ (e + 2 ^ 32 - h % 2 ^ 32) % 2 ^ 32) && decide ((e + 2 ^ 32 - h % 2 ^ 32) % 2 ^ 32 < 2 ^ 31)

/-- Keep an epoch: the register and its MRAM record, commit word last (R373, R374, R403). -/
def State.keepEpoch (s : State) (e : Nat) : State :=
  let s := s.wrN Reg.PAIR_EPOCH e
  if s.domOn 12 then { s with mram := wrz (wrz s.mram 0x1000 4 e) 0x1FFC 4 0xE90C0001 } else s

/-- The 28-byte payload (R370). -/
def leaseWords (s : State) (take release : Bool) (epoch : Nat) : List Word :=
  let h := holder s && !release
  let unfit := if holder s then s.pair.pUnfit else s.bit Reg.PAIR_LEASE_STAT 7
  let mode := if s.pair.proof.isSome then 2 else s.bits Reg.PAIR_CFG 2 1
  [BitVec.ofNat 32 (1 + 256 * b2n h + 512 * b2n release + 1024 * b2n take + 2048 * b2n unfit +
     4096 * s.bits Reg.PAIR_LEASE_STAT 5 5 + 8192 * mode + 32768 * b2n (roleB s)),
   BitVec.ofNat 32 epoch, BitVec.ofNat 32 s.ply.node, BitVec.ofNat 32 (leaseL s), BitVec.ofNat 32 s.lib.k,
   s.rd Reg.UPD_VERSION, BitVec.ofNat 32 (b2n s.pair.resync)]

/-- Is some path up: a Ply network with a link at one of its ports, or the mirror link in sync (R372)? -/
def pathUp (s : State) : Bool :=
  (plyAlive s && (portUp s 0 || portUp s 1 || portUp s 2 || portUp s 3)) || inSync s

/-- Send LEASE on Ply A, Ply B and the mirror link. -/
def State.leaseSend (s : State) (take release : Bool) (epoch : Nat) : State :=
  let ws := leaseWords s take release epoch
  let h := holder s && !release
  let up := pathUp s
  let s := s.plySend 3 0 true (wordBytes ws) 6 epoch h
  let s := s.mirSend 4 0 (s.lib.k % 2 ^ 32) 0 ws
  s.modPair fun p => { p with sendAt := s.clk, renewAt := if h && up then s.clk else p.renewAt }

/-- The renewal period in ms: 20, or L/3 rounded down where that is shorter (R371). -/
def leasePeriod (s : State) : Nat := min 20 (leaseL s / 3)

/-- LEASE_SEND (R371, R375). -/
def leaseTick (s : State) : State :=
  if !pairOn s ∨ s.clk < s.pair.sendAt + leasePeriod s * 1000000 then s
  else if s.pair.relLeft ≠ 0 then
    (s.leaseSend false true s.pair.relEp.toNat).modPair fun p => { p with relLeft := p.relLeft - 1 }
  else s.leaseSend false false (s.rdN Reg.PAIR_EPOCH)

def execLeaseSend (s : State) : Out1 := .next (s.ifOn 11 leaseTick)

/-- The gate to the Headbox shuts: every valve driver is OFF (R357). -/
def State.gateShut (s : State) : State :=
  let s := s.setBit Reg.PAIR_LEASE_STAT 8 false
  if s.domOn 10 then (List.range 16).foldl (fun s v => s.drive v false) s else s

/-- Step down (R372): the gate shuts, STEP_DOWN is set, the module is a non-holder in its MODE. A proof run ends without a verdict. -/
def State.stepDown (s : State) : State :=
  if !holder s then s
  else
    let s := ((s.setBits Reg.PAIR_LEASE_STAT 1 0 2).gateShut).pairStat 1
    s.modPair fun p => { p with heard := some s.pair.renewAt, proof := none, proofAt := none, cont := none }

/-- LEASE_RELEASE (R375): three renewal periods of RELEASE; the holder steps down with the first. -/
def leaseRelease (s : State) : State :=
  if !holder s then s
  else
    let e := s.rd Reg.PAIR_EPOCH
    let s := s.leaseSend false true e.toNat
    (s.modPair fun p => { p with relLeft := 2, relEp := e }).stepDown

def execLeaseRelease (s : State) : Out1 := .next (s.ifOn 11 leaseRelease)

/-- A write of PAIR_CFG: EN set starts LISTENING; EN cleared drops the lease and shuts the gate. -/
def pairCfg (wasEn : Bool) (s : State) : State :=
  if s.bit Reg.PAIR_CFG 0 then
    if wasEn then s
    else
      let s := s.modPair fun p => { p with start := s.clk, heard := none, relLeft := 0, sendAt := 0 }
      let s := s.setBits Reg.PAIR_LEASE_STAT 1 0 0
      if s.bits Reg.PAIR_CFG 2 1 = 2 then s.resyncStart else s
  else if wasEn then ((s.stepDown.setBits Reg.PAIR_LEASE_STAT 1 0 0).gateShut)
  else s

end Sys2Proof.Machine
end

