-- ==== Sys2Proof/Machine/Reel.lean ====
section
/-! DEFINITION. The Reel recorder and the lifetime counters (R411-R426). -/

namespace Sys2Proof.Machine

def State.modReel (s : State) (f : ReelSt → ReelSt) : State := { s with reel := f s.reel }

/-- REEL_STAT: bits 0, 1 and 7 on source 54, the others on 55. -/
def State.reelStat (s : State) (i : Nat) : State :=
  s.setStat Reg.REEL_STAT Reg.REEL_IRQ_EN (if i ≤ 1 ∨ i = 7 then 54 else 55) i

/-- RTC time in the form of a log record's bytes 0-7. -/
def State.rtc (s : State) : Nat := s.rd64 Reg.TND_RTC_LO Reg.TND_RTC_HI

def State.bufW (s : State) (o : Nat) : Nat := rdz s.reel.buf o 4
def State.setBufW (s : State) (o v : Nat) : State := s.modReel fun r => { r with buf := wrz r.buf o 4 v }

/-! ### Histograms and extremes (R413-R415) -/

def histAt (h : Nat) : Nat := 0x2000 + 256 * h
def xtrAt (x : Nat) : Nat := 0x12000 + 32 * x
def histHdr (h : Nat) : Nat := 0xC + 12 * h
def xtrHdr (x : Nat) : Nat := 0xC0C + 4 * x

def widen (x : Nat) : Nat := (fpCast f32 f64 0 x).1

/-- The bin of a sample: bounds in binary64 (R413). -/
def histBin (lo width v : Nat) : Nat :=
  let bound := fun j => (fpAdd f64 0 (widen lo) (fpMul f64 0 (fpOfInt f64 0 (j : Nat)).1 (widen width)).1).1
  ((List.range 63).filter fun j => !fpLtB f64 (widen v) (bound j)).length

/-- Is WIDTH finite and positive? -/
def widthOk (w : Nat) : Bool := decide (w % 2 ^ 31 < 0x7F800000) && decide (0 < w) && decide (w < 2 ^ 31)

def State.nanCount (s : State) : State := s.addSat Reg.REEL_NAN_CNT 31 0 1

/-- A sample of histogram `h`. -/
def State.histSample (s : State) (h : Nat) (v : Word) : State :=
  let lo := s.rdN (Reg.REEL_HIST_LO h)
  let wd := s.rdN (Reg.REEL_HIST_WIDTH h)
  if !s.bit (Reg.REEL_HIST_CFG h) 0 ∨ !widthOk wd then s
  else if isNan f32 v.toNat then s.nanCount
  else
    let o := histAt h + 4 * histBin lo wd v.toNat
    s.setBufW o (min (s.bufW o + 1) 0xFFFFFFFF)

/-- A sample of extreme channel `x` (R414). -/
def State.xtrSample (s : State) (x : Nat) (v : Word) : State :=
  let o := xtrAt x
  if !s.bit (Reg.REEL_XTR_CFG x) 0 then s
  else if isNan f32 v.toNat then s.nanCount
  else
    let first := s.bufW (o + 28) % 2 == 0
    let t := s.rtc
    let s := if first || fpLtB f32 v.toNat (s.bufW o) then (s.setBufW o v.toNat).modReel fun r => { r with buf := wrz r.buf (o + 8) 8 t }
      else s
    let s := if first || fpLtB f32 (s.bufW (o + 4)) v.toNat then
        (s.setBufW (o + 4) v.toNat).modReel fun r => { r with buf := wrz r.buf (o + 16) 8 t }
      else s
    (s.setBufW (o + 24) (min (s.bufW (o + 24) + 1) 0xFFFFFFFF)).setBufW (o + 28) 1

/-- A write of REEL_HISTh_*: a change of SRC, LO or WIDTH from the stored values clears the bins; the header follows. -/
def reelHistCfg (h : Nat) (s : State) : State :=
  let o := histHdr h
  let c := s.rdN (Reg.REEL_HIST_CFG h)
  let lo := s.rdN (Reg.REEL_HIST_LO h)
  let wd := s.rdN (Reg.REEL_HIST_WIDTH h)
  let same := fget c 2 1 == fget (s.bufW o) 2 1 && lo == s.bufW (o + 4) && wd == s.bufW (o + 8)
  let s := if same then s else s.modReel fun r => { r with buf := wrz r.buf (histAt h) 256 0 }
  ((s.setBufW o c).setBufW (o + 4) lo).setBufW (o + 8) wd

def reelXtrCfg (x : Nat) (s : State) : State := s.setBufW (xtrHdr x) (s.rdN (Reg.REEL_XTR_CFG x))

/-! ### The alarm ring (R416) -/

def ringMax : Nat := 29952

def State.alarmRegs (s : State) : State :=
  match s.reel.alarms.head? with
  | some a => s.wrN Reg.REEL_ALM_FIRST a.seq
  | none => s.wr Reg.REEL_ALM_FIRST (s.rd Reg.REEL_ALM_NEXT)

/-- Drop the oldest ARCHIVED record. -/
def dropArchived : List ReelAlarm → List ReelAlarm
  | [] => []
  | a :: as => if a.arch then as else a :: dropArchived as

def liveAlarms (s : State) : Nat := (s.reel.alarms.filter fun a => !a.arch).length

/-- A new record; refused when the ring is full of records not ARCHIVED. At 75 % of such records a migration is due. -/
def State.newAlarm (s : State) (key : Nat) (data : Word) (t : Nat) : State :=
  if ringMax ≤ liveAlarms s then
    ((s.addSat Reg.REEL_LOST 31 16 1).reelStat 4).logOwn 19 2
  else
    let n := s.rdN Reg.REEL_ALM_NEXT
    let as := if s.reel.alarms.length < ringMax then s.reel.alarms else dropArchived s.reel.alarms
    let s := (s.modReel fun r => { r with alarms := as ++ [⟨t, key, data, t, 0, false, n⟩] }).wrN Reg.REEL_ALM_NEXT (n + 1)
    let s := s.alarmRegs
    if 4 * liveAlarms s = 3 * ringMax then
      (s.reelStat 3).modReel fun r => { r with queue := r.queue ++ [.capture 1 false] }
    else s

/-- An alarm merges into the newest record, or starts a new one. -/
def State.alarmApply (s : State) (src sev code : Nat) (data : Word) : State :=
  let key := src + 256 * sev + 65536 * code
  let t := s.rtc
  let as := s.reel.alarms
  match as.getLast? with
  | some a =>
    if a.key = key ∧ !a.arch then
      s.modReel fun r => { r with alarms := as.dropLast ++ [{ a with rep := min (a.rep + 1) 0xFFFF, last := t }] }
    else s.newAlarm key data t
  | none => s.newAlarm key data t

/-- A record's 32 bytes as words. -/
def alarmWords (a : ReelAlarm) : List Word :=
  wordsOf a.first 2 ++ [BitVec.ofNat 32 a.key, a.data] ++ wordsOf a.last 2 ++
  [BitVec.ofNat 32 (a.rep + 65536 * b2n a.arch), BitVec.ofNat 32 a.seq]

/-! ### Flush and restore (R412, R421) -/

/-- The 1 MiB image: header, histograms and extremes, and the ring with record n at slot n mod 29,952. -/
def reelImage (s : State) : SMap Byte :=
  let b := memPut zeroByte s.reel.buf 0 [1, s.rd Reg.REEL_ALM_NEXT, s.rd Reg.REEL_ARCH_NEXT]
  s.reel.alarms.foldl (fun b a => memPut zeroByte b (0x16000 + 32 * (a.seq % ringMax)) (alarmWords a)) b

/-- Where the flush area begins in MRAM (R403), and the records of R400: header, data, trailer with the commit word last. -/
def flushArea : Nat := 0x2800000

/-- Write a flush record at an offset of MRAM: the commit word cleared first and written last. -/
def flushRec (m : SMap Byte) (o id len : Nat) (rtc : Nat) (data : SMap Byte) : SMap Byte :=
  let e := o + 16 + len
  let m := wrz m (e + 4) 4 0
  let m := sdrop (fun a => decide (o ≤ a) && decide (a < e + 8)) m
  let m := memPut zeroByte m o (wordsOf id 1 ++ wordsOf len 1 ++ wordsOf rtc 2)
  let m := data.foldl (fun m b => if b.1 < len then sset zeroByte m (o + 16 + b.1) b.2 else m) m
  wrz (wrz m e 4 (len + 24)) (e + 4) 4 0xF1D50001

/-- Write the Reel flush record; its item ID is not stated. -/
def State.reelWrite (s : State) : State :=
  let (id, s) := s.free
  { s with mram := flushRec s.mram flushArea id.toNat 0x100000 s.rtc (reelImage s) }.modReel fun r =>
    { r with flushAt := s.clk }

/-- A flush completes. -/
def State.reelFlushed (s : State) : State :=
  ((s.reelWrite).setBit Reg.REEL_CTL 0 false).reelStat 0

/-- The ring's records as an image holds them. -/
def parseAlarms (b : SMap Byte) (base : Nat) : List ReelAlarm :=
  (List.range ringMax).filterMap fun i =>
    let o := base + 0x16000 + 32 * i
    if rdz b o 32 = 0 then none
    else
      let w := rdz b (o + 24) 4
      some ⟨rdz b o 8, rdz b (o + 8) 4, BitVec.ofNat 32 (rdz b (o + 12) 4), rdz b (o + 16) 8, w % 65536, fbit w 16, rdz b (o + 28) 4⟩

/-- Records by age: those from `next` back round the sequence first. -/
def byAge (next : Nat) (as : List ReelAlarm) : List ReelAlarm :=
  as.mergeSort fun a b => decide ((a.seq + 2 ^ 32 - next) % 2 ^ 32 ≤ (b.seq + 2 ^ 32 - next) % 2 ^ 32)

/-- Take the configuration views from the restored header (R412). -/
def State.reelViews (s : State) : State :=
  let s := (List.range 256).foldl (fun s h =>
    ((s.wrN (Reg.REEL_HIST_CFG h) (s.bufW (histHdr h))).wrN (Reg.REEL_HIST_LO h) (s.bufW (histHdr h + 4))).wrN
      (Reg.REEL_HIST_WIDTH h) (s.bufW (histHdr h + 8))) s
  let s := (List.range 512).foldl (fun s x => s.wrN (Reg.REEL_XTR_CFG x) (s.bufW (xtrHdr x))) s
  s.alarmRegs

/-- The archive's sequence registers. -/
def State.archRegs (s : State) : State :=
  let next := match s.reel.archive.getLast? with | some a => a.seq + 1 | none => s.rdN Reg.REEL_ARCH_NEXT
  let s := s.wrN Reg.REEL_ARCH_NEXT next
  match s.reel.archive.head? with
  | some a => s.wrN Reg.REEL_ARCH_FIRST a.seq
  | none => s.wrN Reg.REEL_ARCH_FIRST next

/-- DC12 comes ON after its supply was removed: restore from the flush record, else from the newest archive record, else empty. -/
def State.reelRestore (s : State) : State :=
  let m := s.mram
  let ok := rdz m (flushArea + 4) 4 == 0x100000 && rdz m (flushArea + 16 + 0x100004) 4 == 0xF1D50001
  let s := s.setBit Reg.REEL_STAT 8 false
  let s :=
    if ok then
      let b := (m.filter fun e => decide (flushArea + 16 ≤ e.1) && decide (e.1 < flushArea + 16 + 0x16000)).map fun e =>
        (e.1 - (flushArea + 16), e.2)
      let next := rdz b 4 4
      let s := s.modReel fun r => { r with buf := b, alarms := byAge next (parseAlarms m (flushArea + 16)) }
      (s.wrN Reg.REEL_ALM_NEXT next).wrN Reg.REEL_ARCH_NEXT (rdz b 8 4)
    else
      match s.reel.archive.getLast? with
      | some a => ((s.modReel fun r => { r with buf := a.hx, alarms := [] }).setBit Reg.REEL_STAT 8 true).logOwn 19 4
      | none => s.modReel fun r => { r with buf := [], alarms := [] }
  let s := s.modReel fun r =>
    { r with cold := false, flushAt := s.clk, migAt := s.clk, pollAt := s.clk, thrAt := s.clk, stale := true, runAt := s.clk,
             queue := [], caps := [] }
  (s.archRegs.reelViews).reelStat 7

/-- DC12 comes ON with the buffer kept: the views follow its header again (R397, R411). -/
def State.reelKept (s : State) : State :=
  (((s.wrN Reg.REEL_ALM_NEXT (s.bufW 4)).wrN Reg.REEL_ARCH_NEXT (s.bufW 8)).archRegs).reelViews

/-! ### Migration (R422) -/

/-- Capture: histograms and extremes, and the records not ARCHIVED. -/
def State.reelCapture (s : State) (reason : Nat) (ring : Bool) : State :=
  let hx := s.reel.buf.filter fun e => decide (0x2000 ≤ e.1) && decide (e.1 < 0x16000)
  let t := s.rtc
  s.modReel fun r =>
    { r with caps := r.caps ++ [⟨0, t, reason, hx, r.alarms.filter (fun a => !a.arch), ring⟩], migAt := s.clk }

/-- Bytes of an archive record. -/
def archLen (a : ReelArch) : Nat := 64 + 0x14000 + 32 * a.alarms.length + 8

/-- Word at an offset of an archive record. -/
def archWord (a : ReelArch) (o : Nat) : Word :=
  let n := archLen a
  if o = 0 then 1
  else if o = 4 then BitVec.ofNat 32 a.seq
  else if o = 8 then BitVec.ofNat 32 a.time
  else if o = 12 then BitVec.ofNat 32 (a.time / 2 ^ 32)
  else if o = 16 then BitVec.ofNat 32 a.reason
  else if o = 20 then BitVec.ofNat 32 ((a.alarms.head?.map (·.seq)).getD 0)
  else if o = 24 then BitVec.ofNat 32 a.alarms.length
  else if o = 28 then BitVec.ofNat 32 n
  else if o < 64 then 0
  else if o < 64 + 0x14000 then BitVec.ofNat 32 (rdz a.hx (0x2000 + o - 64) 4)
  else if o = n - 8 then 0x2EE10001
  else if o = n - 4 then BitVec.ofNat 32 a.seq
  else
    let k := o - (64 + 0x14000)
    (((a.alarms[k / 32]?).map alarmWords).bind (·[k % 32 / 4]?)).getD 0

/-- Bytes of NAND written, counter 71 (R423), in the latch. -/
def latchAt (n : Nat) : Nat := 0x808 + 8 * n
def State.latchAdd (s : State) (n v : Nat) : State :=
  { s with ao := wrz s.ao (latchAt n) 8 (min (rdz s.ao (latchAt n) 8 + v) (2 ^ 64 - 1)) }

/-- The oldest archive records go when the 4 GiB ring is full. -/
def trimArchive : Nat → List ReelArch → List ReelArch
  | _, [] => []
  | room, a :: as => if archLen a + ((as.map archLen).sum) ≤ room then a :: as else trimArchive room as

/-- Write the first capture to NAND, or abandon it (R422). -/
def State.reelArchive (s : State) (ok : Bool) : State :=
  match s.reel.caps with
  | [] => s
  | c :: cs =>
    let s := s.modReel fun r => { r with caps := cs }
    let s := if c.reason = 3 then s.setBit Reg.REEL_CTL 1 false else s
    if !ok then (s.reelStat 2).logOwn 19 3
    else
      let a := { c with seq := s.rdN Reg.REEL_ARCH_NEXT }
      let s := s.modReel fun r =>
        { r with archive := trimArchive 0x100000000 (r.archive ++ [a]), queue := r.queue ++ [.mark a.alarms a.ring] }
      ((s.latchAdd 71 (archLen a)).archRegs).reelStat 1

/-! ### The queue (R418, R420) -/

def State.reelClear (s : State) (what i : Nat) : State :=
  let drop := fun (lo n : Nat) => s.modReel fun r =>
    { r with buf := sdrop (fun a => decide (lo ≤ a) && decide (a < lo + n)) r.buf }
  if what = 0 then (if i < 256 then drop (histAt i) 256 else s)
  else if what = 1 then drop 0x2000 0x10000
  else if what = 2 then (if i < 512 then drop (xtrAt i) 32 else s)
  else if what = 3 then drop 0x12000 0x4000
  else s

/-- Is a record marked ARCHIVED: one of those captured, into which nothing has merged since (R422); on a clear of the ring every captured
one (R420)? -/
def marks (as : List ReelAlarm) (ring : Bool) (a : ReelAlarm) : Bool :=
  if ring then as.any (·.seq == a.seq) else as.contains a

/-- Apply one entry. -/
def State.reelApply (s : State) : ReelEnt → State
  | .sample true i v => s.histSample i v
  | .sample false i v => s.xtrSample i v
  | .alarm src sev code data => s.alarmApply src sev code data
  | .clear what i => s.reelClear what i
  | .flush => s.reelFlushed
  | .capture reason ring => s.reelCapture reason ring
  | .mark as ring =>
    (s.modReel fun r => { r with alarms := r.alarms.map fun a => if marks as ring a then { a with arch := true } else a }).alarmRegs

/-- Apply the entry at the front. -/
def State.reelPop (s : State) : State :=
  match s.reel.queue with
  | [] => s
  | e :: es => (s.modReel fun r => { r with queue := es }).reelApply e

/-- QUEUE_ENTRY_APPLY (R418). -/
def execQueueEntryApply (s : State) : Out1 := .next (s.ifOn 12 State.reelPop)

/-- Apply `n` entries. -/
def State.reelDrain (s : State) : Nat → State
  | 0 => s
  | n + 1 => s.reelPop.reelDrain n

/-- A lost post. -/
def State.postLost (s : State) : State := (s.addSat Reg.REEL_LOST 15 0 1).reelStat 4

/-- Queue a post or hardware sample; one that finds the queue full is dropped. -/
def State.reelPush (s : State) (e : ReelEnt) : State :=
  if !s.domOn 12 then s
  else if 256 ≤ s.reel.queue.length then s.postLost
  else s.modReel fun r => { r with queue := r.queue ++ [e] }

/-- REEL_POST (R417): the write of REEL_POSTr_VAL. -/
def reelPost (r : Nat) (v : Word) (s : State) : State :=
  let a := s.rdN (Reg.REEL_POST_ARG r)
  let i := fget a 11 2
  if fget a 1 0 = 0 then
    (if 256 ≤ i then s.postLost else if s.bits (Reg.REEL_HIST_CFG i) 2 1 = 0 then s.reelPush (.sample true i v) else s)
  else if fget a 1 0 = 1 then
    (if 512 ≤ i then s.postLost else if s.bits (Reg.REEL_XTR_CFG i) 2 1 = 0 then s.reelPush (.sample false i v) else s)
  else if fget a 1 0 = 2 then s.reelPush (.alarm (fget a 9 2) (fget a 11 10) (fget a 31 16) v)
  else s.postLost

def execReelPost (r : Fin 3) (v : Word) (s : State) : Out1 := .next (s.ifOn 12 (reelPost r.val v))

/-- May REEL_CLEAR be written: by the Tender, or by the Mill at level 1 or 2; not while the queue is full (R418, R420)? -/
def reelClearOk (s : State) (rq : Requester) (lvl : Nat) : Bool :=
  (rq == .tender || decide (1 ≤ lvl)) && decide (s.reel.queue.length < 256)

/-- REEL_CLEAR (R420): a migration capture is queued first; the alarm ring is marked when that migration completes. -/
def reelClearWrite (v : Word) (s : State) : State :=
  let what := wbits v 2 0
  if 5 ≤ what then s
  else s.modReel fun r =>
    { r with queue := r.queue ++ [.capture 2 (what == 4)] ++ (if what = 4 then [] else [.clear what (wbits v 12 3)]) }

def execReelClear (rq : Requester) (lvl : Fin 3) (v : Word) (s : State) : Out1 :=
  .next (s.ifOn 12 fun s => if reelClearOk s rq lvl.val then reelClearWrite v s else { s with resp := .busError })

/-- REEL_CTL_WRITE (R421, R422): each bit reads 1 until done. -/
def reelCtl (v : Word) (s : State) : State :=
  let f := wbit v 0 && !s.bit Reg.REEL_CTL 0
  let m := wbit v 1 && !s.bit Reg.REEL_CTL 1
  let s := if f then (s.setBit Reg.REEL_CTL 0 true).modReel fun r => { r with queue := r.queue ++ [.flush] } else s
  if m then (s.setBit Reg.REEL_CTL 1 true).modReel fun r => { r with queue := r.queue ++ [.capture 3 false] } else s

def execReelCtlWrite (v : Word) (s : State) : Out1 := .next (s.ifOn 12 (reelCtl v))

/-- FLUSH_PERIOD and MIG_PERIOD in ns. -/
def flushPeriod (s : State) : Nat :=
  let n := s.bits Reg.REEL_CFG 10 0
  (if n = 0 ∨ 1440 < n then 10 else n) * 60000000000
def migPeriod (s : State) : Nat :=
  let n := s.bits Reg.REEL_CFG 18 11
  (if n = 0 ∨ 168 < n then 24 else n) * 3600000000000

/-- The entries up to and including the first flush. -/
def throughFlush : List ReelEnt → Nat
  | [] => 0
  | .flush :: _ => 1
  | _ :: es => 1 + throughFlush es

/-- REEL_FLUSH (R421): a requested, periodic or fault flush; a fault flush that falls due while one runs is taken after it. -/
def reelFlush (s : State) : State :=
  if s.reel.queue.contains .flush then s.reelDrain (throughFlush s.reel.queue)
  else if s.reel.fault ∨ s.reel.flushAt + flushPeriod s ≤ s.clk then
    let fault := s.reel.fault
    let s := (s.reelDrain s.reel.queue.length).reelFlushed
    let s := s.modReel fun r => { r with fault := false }
    if fault then s.logOwn 19 1 else s
  else s

def execReelFlush (s : State) : Out1 := .next (s.ifOn 12 reelFlush)

/-- MIGRATION (R422): a periodic capture where one is due, then the first capture goes to NAND. -/
def reelMigrate (ok : Bool) (s : State) : State :=
  let s := if s.reel.caps = [] ∧ s.reel.migAt + migPeriod s ≤ s.clk then (s.reelDrain s.reel.queue.length).reelCapture 0 false else s
  s.reelArchive ok

def execMigration (ok : Bool) (s : State) : Out1 := .next (s.ifOn 12 (reelMigrate ok))

/-! ### Lifetime counters (R423, R424) -/

def lifeArea : Nat := 0x24000

def cntCopy (s : State) : Option Nat := copyInForce s.mram lifeArea (lifeArea + 0x1000) 0x1000 0x11FE0001
def cntTotal (s : State) (n : Nat) : Nat :=
  match cntCopy s with | some o => rdz s.mram (o + 16 + 8 * n) 8 | none => 0
def cntSeq (s : State) : Nat := match cntCopy s with | some o => rdz s.mram (o + 4) 4 | none => 0

/-- Does the latch belong to the copy in force? -/
def latchValid (s : State) : Bool := s.aoW 0x800 == cntSeq s

/-- The effective counter: total plus delta; counter 72 is the latest value. -/
def cntEffective (s : State) (n : Nat) : Nat :=
  let d := if latchValid s then rdz s.ao (latchAt n) 8 else 0
  if n = 72 then (if latchValid s then d else cntTotal s n) else min (cntTotal s n + d) (2 ^ 64 - 1)

/-- COUNTER_MERGE (R424): the free copy takes the totals, SEQ + 1 and its commit word; then the latch is cleared. -/
def State.counterMerge (s : State) : State :=
  let o := copyFree (cntCopy s) lifeArea (lifeArea + 0x1000)
  let q := (cntSeq s + 1) % 2 ^ 32
  let keep := cntEffective s 72
  let m := wrz (wrz s.mram (o + 0xFF8) 4 0) o 4 1
  let m := (List.range 73).foldl (fun m n => wrz m (o + 16 + 8 * n) 8 (cntEffective s n)) m
  let m := wrz (wrz (wrz m (o + 4) 4 q) (o + 0xFFC) 4 q) (o + 0xFF8) 4 0x11FE0001
  let ao := (List.range 73).foldl (fun ao n => wrz ao (latchAt n) 8 (if n = 72 then keep else 0)) s.ao
  { s with mram := m, ao := wrz ao 0x800 4 q }.modReel fun r => { r with mergeAt := s.clk }

/-- Every 10 s in RUN and WATCH, every hour in DOZE and HOLD. -/
def mergeDue (s : State) : Bool :=
  let cur := s.bits Reg.TND_PSTATE 6 4
  decide (s.reel.mergeAt + (if cur = 2 ∨ cur = 3 then 3600000000000 else 10000000000) ≤ s.clk)

def execCounterMerge (s : State) : Out1 := .next (if mergeDue s then s.counterMerge else s)

/-- A latch that does not belong to the copy in force gathers afresh (R424). -/
def State.latchFresh (s : State) : State :=
  if latchValid s && (cntCopy s).isSome then s
  else
    let ao := (List.range 73).foldl (fun ao n => wrz ao (latchAt n) 8 (if n = 72 then cntTotal s 72 else 0)) s.ao
    { s with ao := wrz ao 0x800 4 (cntSeq s) }

/-- At boot: the flush item is adopted if its SEQ is newer; with no valid copy, counting restarts and CNT_BAD is set (R424); a latch that was merged already is not added again. -/
def State.countersBoot (s : State) : State :=
  let o := flushArea + 0x100018
  let f := o + 16
  let ok := rdz s.mram (o + 4) 4 == 0xC000 && rdz s.mram (o + 16 + 0xC004) 4 == 0xF1D50001
  let item := if ok then copyInForce s.mram f (f + 0x1000) 0x1000 0x11FE0001 else none
  State.latchFresh <| match item with
  | some c =>
    if (cntCopy s).isNone ∨ serialNewer (rdz s.mram (c + 4) 4) (cntSeq s) then
      let d := copyFree (cntCopy s) lifeArea (lifeArea + 0x1000)
      { s with mram := memPut zeroByte s.mram d (memWords zeroByte s.mram c 1024) }
    else s
  | none => if (cntCopy s).isNone then (s.reelStat 9).logOwn 19 6 else s

/-- One thruster's run time up to now, in ns with the rest that is not counted yet: until 1 s after the last write (R423). -/
def runNs (s : State) (i : Nat) : Nat :=
  sget (fun _ => 0) s.reel.runFrac i +
    (if s.bit Reg.REEL_THR_RUN i && !s.reel.stale then min s.clk (s.reel.thrAt + 1000000000) - s.reel.runAt else 0)

/-- Thruster run time is counted, in ms. -/
def State.runCount (s : State) : State :=
  let t := (List.range 24).foldl (fun t i => t.latchAdd (1 + i) (runNs s i / 1000000)) s
  t.modReel fun r =>
    { r with runAt := s.clk, runFrac := (List.range 24).foldl (fun m i => sset (fun _ => 0) m i (runNs s i % 1000000)) r.runFrac }

/-- RUN_STALE (R423): REEL_THR_RUN unwritten for 1 s. -/
def runStale (s : State) : State :=
  if s.reel.stale ∨ s.clk < s.reel.thrAt + 1000000000 then s
  else (s.runCount.modReel fun r => { r with stale := true }).reelStat 5

def execRunStale (s : State) : Out1 := .next (s.ifOn 12 runStale)

/-- A write of REEL_THR_RUN: what has run so far is counted first. -/
def reelThrRun (s : State) : State := s.runCount.modReel fun r => { r with thrAt := s.clk, stale := false }

/-- Azimuth travel of a difference of counts: |Δ| × 2^16 / CPR to nearest. -/
def travel (d : Int) (cpr : Nat) : Nat :=
  let w := (d + cpr / 2) % cpr - cpr / 2
  (2 * w.natAbs * 65536 + cpr) / (2 * cpr)

def State.pollAz (s : State) (i : Nat) : State :=
  let c := s.rdN (Reg.REEL_THR_AZ i)
  let n := fget c 3 0
  let cpr := encCpr s n
  let base := sget (fun _ => none) s.reel.azBase i
  let now := if fbit c 4 && s.domOn 10 && encValid s n && decide (0 < cpr) then some (encCount s n, cpr, n) else none
  let s := s.modReel fun r => { r with azBase := sset (fun _ => none) r.azBase i now }
  match base, now with
  | some (a, p), some (b, q) => if p = q then s.latchAdd (25 + i) (travel (b - a) q.1) else s
  | _, _ => s

def State.pollSw (s : State) (v : Nat) : State :=
  let base := sget (fun _ => none) s.reel.swBase v
  let now := if s.domOn 10 then some (s.bits (Reg.HBX_VLV_STAT v) 31 16) else none
  let s := s.modReel fun r => { r with swBase := sset (fun _ => none) r.swBase v now }
  match base, now with
  | some a, some b => s.latchAdd (49 + v) ((b + 65536 - a) % 65536)
  | _, _ => s

/-- COUNTER_POLL (R423): every 100 ms; `wear` is the NAND's reported wear level. -/
def counterPoll (wear : Nat) (s : State) : State :=
  if s.clk < s.reel.pollAt + 100000000 then s
  else
    let s := (s.modReel fun r => { r with pollAt := s.clk }).runCount
    let s := (List.range 24).foldl State.pollAz s
    let s := (List.range 16).foldl State.pollSw s
    { s with ao := wrz s.ao (latchAt 72) 8 wear }

def execCounterPoll (wear : Nat) (s : State) : Out1 := .next (s.ifOn 12 (counterPoll wear))

/-! ### The calendar (R425, R426) -/

def calendarCopy (s : State) : Option Nat := copyInForce s.mram (lifeArea + 0x6000) (lifeArea + 0x7000) 0x1000 0xCA1E0001
def calendarW (s : State) (o n : Nat) : Nat := match calendarCopy s with | some c => rdz s.mram (c + o) n | none => 0

/-- Commit a calendar copy with one field changed and SEQ + 1. -/
def State.calendarPut (s : State) (f : SMap Byte → Nat → SMap Byte) : State :=
  let old := calendarCopy s
  let o := copyFree old (lifeArea + 0x6000) (lifeArea + 0x7000)
  let q := (match old with | some c => rdz s.mram (c + 4) 4 + 1 | none => 1) % 2 ^ 32
  let m := wrz s.mram (o + 0xFF8) 4 0
  let m := match old with
    | some c => memPut zeroByte m o (memWords zeroByte s.mram c 1022)
    | none => memPut zeroByte m o (1 :: List.replicate 1021 0)
  let m := f m o
  { s with mram := wrz (wrz (wrz m (o + 4) 4 q) (o + 0xFFC) 4 q) (o + 0xFF8) 4 0xCA1E0001 }

/-- LEAP_DELTA (R426). -/
def leapDelta (v : Word) (s : State) : State :=
  let t := s.rd64 Reg.REEL_LEAP_T_LO Reg.REEL_LEAP_T_HI
  let n := calendarW s 0x10 4
  let ent := fun i => (calendarW s (0x20 + 16 * i) 8, BitVec.ofNat 32 (calendarW s (0x28 + 16 * i) 4))
  if (List.range n).any fun i => ent i == (t, v) then s
  else
    let fits := n == 0 || (decide ((ent (n - 1)).1 < t) && (v == (ent (n - 1)).2 + 1 || v == (ent (n - 1)).2 - 1))
    if 120 ≤ n ∨ !fits then s.reelStat 6
    else
      (s.calendarPut fun m o => wrz (wrz (wrz m (o + 0x20 + 16 * n) 8 t) (o + 0x28 + 16 * n) 4 v.toNat) (o + 0x10) 4 (n + 1)).logOwn 19 5

def execLeapDelta (v : Word) (s : State) : Out1 := .next (s.ifOn 12 (leapDelta v))

/-! ### The cursor (R419) -/

/-- The window's 64 words for a space and position; none: MISS. -/
def cursorWords (s : State) (space pos ofs : Nat) : Option (List Word) :=
  let ws := fun f => some ((List.range 64).map fun i => BitVec.ofNat 32 (f (4 * i)))
  if space = 0 then (if pos < 256 then ws fun o => s.bufW (histAt pos + o) else none)
  else if space = 1 then (if pos < 64 then ws fun o => s.bufW (0x12000 + 256 * pos + o) else none)
  else if space = 2 then
    if s.reel.alarms.any (·.seq == pos) then
      some ((List.range 8).flatMap fun i =>
        match s.reel.alarms.find? (·.seq == (pos + i) % 2 ^ 32) with
        | some a => alarmWords a
        | none => List.replicate 8 0)
    else none
  else if space = 3 then
    match s.reel.archive.find? (·.seq == pos) with
    | some a => some ((List.range 64).map fun i => archWord a (ofs / 256 * 256 + 4 * i))
    | none => none
  else if space = 4 then
    (if pos = 0 then some ((List.range 64).map fun i =>
      let o := ofs / 4 * 4 + 4 * i
      BitVec.ofNat 32 (if o / 8 < 73 then cntEffective s (o / 8) / 2 ^ (32 * (o / 4 % 2)) else 0)) else none)
  else if space = 5 then (if pos = 0 then ws fun o => calendarW s (ofs / 4 * 4 + o) 4 else none)
  else none

/-- CURSOR_LATCH: a write of REEL_CUR_POS. -/
def cursorLatch (pos : Word) (s : State) : State :=
  let s := (s.wr Reg.REEL_CUR_POS pos).wr Reg.REEL_CUR_STAT 0
  let c := cursorWords s (s.bits Reg.REEL_CUR_CTL 2 0) pos.toNat (s.rdN Reg.REEL_CUR_OFS)
  let s := s.modReel fun r => { r with cur := some (c.getD []) }
  s.setBit Reg.REEL_CUR_STAT 1 false

def execCursorLatch (pos : Word) (s : State) : Out1 := .next (s.ifOn 12 (cursorLatch pos))

/-- CURSOR_READY: the window takes the copy. -/
def cursorReady (s : State) : State :=
  match s.reel.cur with
  | none => s
  | some ws =>
    let s := (List.range 64).foldl (fun s i => s.wr (Reg.REEL_WIN i) ((ws[i]?).getD 0)) s
    (s.modReel fun r => { r with cur := none }).wrN Reg.REEL_CUR_STAT (if ws = [] then 2 else 1)

def execCursorReady (s : State) : Out1 := .next (s.ifOn 12 cursorReady)

/-- The Reel loses power or is reset: registers go with class D; the buffer goes only with the supply, and its header holds what the
registers show of it (R411). -/
def State.reelLost (s : State) (supply : Bool) : State :=
  let head := memPut zeroByte s.reel.buf 4 [s.rd Reg.REEL_ALM_NEXT, s.rd Reg.REEL_ARCH_NEXT]
  s.modReel fun r =>
    { r with queue := [], caps := [], cur := none, azBase := [], swBase := [], stale := true, fault := false,
             buf := if supply then [] else head, alarms := if supply then [] else r.alarms, cold := r.cold || supply }

end Sys2Proof.Machine
end

