-- ==== Sys2Proof/Machine/Panel.lean ====
section
/-! DEFINITION. The status panel driver (R443-R451). -/

namespace Sys2Proof.Machine

def State.modPnl (s : State) (f : PnlSt → PnlSt) : State := { s with pnl := f s.pnl }
def State.pnlStat (s : State) (i : Nat) : State := s.setStat Reg.PNL_STAT Reg.PNL_IRQ_EN 57 i

/-- Baseplate temperature, Tender sensor 5, in 0.125 °C. -/
def baseTemp (s : State) : Int := (s.rd (Reg.TND_SENS 5)).toInt

/-- The baseplate's reading, if it lies in −20 to +60 °C. -/
def tempIn (s : State) : Option Int := if -160 ≤ baseTemp s ∧ baseTemp s ≤ 480 then some (baseTemp s) else none

/-- The band of a reading in the range (R445). -/
def bandOf (t : Int) : Nat := min 7 ((t + 160) / 80).toNat

/-! ### The waveform set in NOR -/

def norRd (s : State) (o n : Nat) : Nat := memRd erasedByte s.nor o n
def bandAt (b : Nat) : Nat := 0x1000 + 0x200 * b
def waveL (s : State) (b : Nat) : Nat := norRd s (bandAt b) 4
def compStep (s : State) (b : Nat) : Nat := norRd s (bandAt b + 4) 4

/-- The record of a transition, or of clear-unknown. -/
def waveAt (b : Nat) (clear : Bool) (old new : Nat) : Nat := bandAt b + (if clear then 0x110 else 0x10 + 16 * (4 * old + new))
def waveLen (s : State) (b : Nat) (clear : Bool) (old new : Nat) : Nat := norRd s (waveAt b clear old new) 1

/-- Drive code `i` of a waveform; 3 is taken as none. -/
def waveCode (s : State) (b : Nat) (clear : Bool) (old new i : Nat) : Nat :=
  let c := norRd s (waveAt b clear old new + 1 + i / 4) 1 / 4 ^ (i % 4) % 4
  if c = 3 then 0 else c

/-- Is the band's record usable (R445)? -/
def bandUsable (s : State) (b : Nat) : Bool :=
  !s.bit Reg.TND_STAT 7 && decide (20 ≤ waveL s b) && decide (waveL s b ≤ 60) && decide (2 ^ 20 ≤ compStep s b) &&
  decide (compStep s b ≤ 2 ^ 31) && ((List.range 16).all fun i => decide (waveLen s b false (i / 4) (i % 4) ≤ waveL s b)) &&
  decide (20 ≤ waveLen s b true 0 0) && decide (waveLen s b true 0 0 ≤ 60)

/-! ### Images and stress counters (R443, R444, R449) -/

/-- Grey level of pixel (x, y) in an image given by its bytes. -/
def grey (byte : Nat → Nat) (x y : Nat) : Nat := byte (74 * y + x / 4) / 4 ^ (x % 4) % 4
def targetByte (s : State) (o : Nat) : Nat := s.rdN (Reg.PNL_TARGET (o / 4)) / 256 ^ (o % 4) % 256
def imageByte (s : State) (o : Nat) : Nat := rdz s.ao (0x8000 + o) 1
def imageOk (s : State) : Bool := s.aoW 0xA500 == 0x1A6E0001

def stressA : Nat := lifeArea + 0x2000
def stressB : Nat := lifeArea + 0x4000
def stressCopy (s : State) : Option Nat := copyInForce s.mram stressA stressB 0x2000 0x9A1E0001
def stressSeq (s : State) : Nat := match stressCopy s with | some o => rdz s.mram (o + 4) 4 | none => 0
def stress (s : State) (k : Nat) : Nat := match stressCopy s with | some o => rdz s.mram (o + 16 + 8 * k) 8 | none => 0

/-- The blocks a rectangle touches, by number 37 × (y / 8) + x / 8. -/
def rectBlocks (r : Nat × Nat × Nat × Nat) : List Nat :=
  let (x0, y0, x1, y1) := r
  (List.range (y1 / 8 + 1 - y0 / 8)).flatMap fun j =>
    (List.range (x1 / 8 + 1 - x0 / 8)).map fun i => 37 * (y0 / 8 + j) + x0 / 8 + i

/-- The pixels of a rectangle. -/
def rectPixels (r : Nat × Nat × Nat × Nat) : List (Nat × Nat) :=
  let (x0, y0, x1, y1) := r
  (List.range (y1 + 1 - y0)).flatMap fun j => (List.range (x1 + 1 - x0)).map fun i => (x0 + i, y0 + j)

def compOf (s : State) (b k : Nat) : Nat := min 8 (stress s k / compStep s b)

/-- Charge a rectangle's blocks (R449): the free copy takes the totals, SEQ + 1 and its commit word. -/
def State.pnlCharge (s : State) (r : Nat × Nat × Nat × Nat) (len : Nat) (comp : Nat → Nat) : State :=
  let bs := rectBlocks r
  let o := copyFree (stressCopy s) stressA stressB
  let q := (stressSeq s + 1) % 2 ^ 32
  let m := wrz (wrz s.mram (o + 0x1FF8) 4 0) o 4 1
  let m := (List.range 592).foldl (fun m k =>
    wrz m (o + 16 + 8 * k) 8 (stress s k + if bs.contains k then len + comp k else 0)) m
  { s with mram := wrz (wrz (wrz m (o + 4) 4 q) (o + 0x1FFC) 4 q) (o + 0x1FF8) 4 0x9A1E0001 }

/-! ### Requests (R446) -/

def pnlRect (s : State) : Nat × Nat × Nat × Nat :=
  (s.bits Reg.PNL_RECT 8 0, s.bits Reg.PNL_RECT 15 9, s.bits Reg.PNL_RECT 24 16, s.bits Reg.PNL_RECT 31 25)

def rectOk (r : Nat × Nat × Nat × Nat) : Bool :=
  decide (r.1 ≤ r.2.2.1) && decide (r.2.1 ≤ r.2.2.2) && decide (r.2.2.1 ≤ 295) && decide (r.2.2.2 ≤ 127)

def State.pnlState (s : State) (v : Nat) : State := s.setBits Reg.PNL_STATE 1 0 v

/-- What waits reads the baseplate: in the range it starts with that reading at the next panel frame boundary (R446). -/
def State.pnlWait (s : State) : State :=
  ((s.modPnl fun p => { p with temp := tempIn s }).pnlState 1).setBit Reg.PNL_STATE 2 (tempIn s).isNone

/-- PNL_GO. -/
def pnlGo (s : State) : State :=
  if s.pnl.upd.isSome ∨ s.pnl.req.isSome ∨ s.pnl.unknown.isSome then s.pnlStat 2
  else if !rectOk (pnlRect s) then s.pnlStat 1
  else ((s.modPnl fun p => { p with req := some (pnlRect s) }).setBit Reg.PNL_CTL 0 true).pnlWait

def execPnlGo (s : State) : Out1 := .next (s.ifOn 12 pnlGo)

/-- No request waits any more. -/
def State.pnlDrop (s : State) : State :=
  (((s.modPnl fun p => { p with req := none, temp := none }).setBit Reg.PNL_CTL 0 false).pnlState 0).setBit Reg.PNL_STATE 2 false

/-- PNL_CANCEL. -/
def pnlCancel (s : State) : State := if s.pnl.req.isSome ∧ s.pnl.upd.isNone then s.pnlDrop else s

def execPnlCancel (s : State) : Out1 := .next (s.ifOn 12 pnlCancel)

/-! ### Updates (R447, R448, R450) -/

/-- The update a rectangle gets at a temperature band. -/
def pnlBuild (s : State) (r : Nat × Nat × Nat × Nat) (b : Nat) (clear : Bool) : PnlUpd :=
  let px := (rectPixels r).map fun p =>
    (p.1, p.2, if clear then 0 else grey (imageByte s) p.1 p.2, if clear then 3 else grey (targetByte s) p.1 p.2)
  let comp := (rectBlocks r).foldl (fun m k => sset (fun _ => 0) m k (compOf s b k)) []
  let len := if clear then waveLen s b true 0 0 else waveL s b
  ⟨r, b, clear, px, comp, len, len + (comp.foldl (fun m e => max m e.2) 0), 0⟩

/-- Write the journal, commit word last. -/
def State.journal (s : State) (u : PnlUpd) : State :=
  let (x0, y0, x1, y1) := u.rect
  let ao := wrz s.ao 0xF3C 4 0
  let ao := memPut zeroByte ao 0xF00
    ([BitVec.ofNat 32 (x0 + 512 * y0 + 65536 * x1 + 33554432 * y1), BitVec.ofNat 32 (u.band + 8 * b2n u.clear),
      BitVec.ofNat 32 (stressSeq s)] ++ List.replicate 12 0)
  { s with ao := wrz ao 0xF3C 4 0x7A1E0001 }

/-- The reading an update would start with now: the one taken when it was accepted, or a later one back inside the range. -/
def startTemp (s : State) : Option Int := match s.pnl.temp with | some t => some t | none => tempIn s

/-- An update of a rectangle starts in band b. -/
def State.pnlBegin (s : State) (r : Nat × Nat × Nat × Nat) (b : Nat) (clear : Bool) : State :=
  let u := pnlBuild s r b clear
  let s := (s.journal u).modPnl fun p => { p with upd := some u, req := none, temp := none }
  let s := ((s.setBit Reg.PNL_STATE 2 false).setBit Reg.PNL_STATE 4 false).pnlState 2
  (s.setBits Reg.PNL_STATE 7 5 b).setBits Reg.PNL_STATE 14 8 0

/-- UPDATE_START: at a panel frame boundary, or at the reading back inside the range, of the recovery or of the request that waits; not
once the module has shed load, when the driver has stopped (R399). -/
def updateStart (s : State) : State :=
  let clear := s.pnl.unknown.isSome
  match (if clear then s.pnl.unknown else s.pnl.req) with
  | none => s
  | some r =>
    if s.pnl.upd.isSome ∨ s.tnd.supply = .shed then s
    else match startTemp s with
    | none => s.setBit Reg.PNL_STATE 2 true
    | some t =>
      if bandUsable s (bandOf t) then s.pnlBegin r (bandOf t) clear
      else
        let s := s.setBit Reg.PNL_STATE 4 true
        if clear then s.modPnl fun p => { p with temp := none } else s.pnlDrop

def execUpdateStart (s : State) : Out1 := .next (s.ifOn 12 updateStart)

/-- The last non-zero code of a waveform of length n. -/
def lastCode (s : State) (u : PnlUpd) (old new n : Nat) : Nat :=
  (List.range n).foldl (fun c i => let d := waveCode s u.band u.clear old new i; if d = 0 then c else d) 0

/-- The drive of a pixel in frame f: the last n frames of L, then its block's COMP frames. -/
def pixelCode (s : State) (u : PnlUpd) (f : Nat) (p : Nat × Nat × Nat × Nat) : Nat :=
  let (x, y, old, new) := p
  let n := waveLen s u.band u.clear old new
  let comp := sget (fun _ => 0) u.comp (37 * (y / 8) + x / 8)
  if f < u.len - n then 0
  else if f < u.len then waveCode s u.band u.clear old new (f - (u.len - n))
  else if f < u.len + comp then lastCode s u old new n
  else 0

/-- UPDATE_END: image copy, stress counters, journal, DONE. -/
def State.updateEnd (s : State) (u : PnlUpd) : State :=
  let ao := u.px.foldl (fun ao p =>
    let o := 0x8000 + 74 * p.2.1 + p.1 / 4
    let w := rdz ao o 1
    wrz ao o 1 (fset w (2 * (p.1 % 4) + 1) (2 * (p.1 % 4)) p.2.2.2)) s.ao
  let ao := if u.clear then wrz ao 0xA500 4 0x1A6E0001 else ao
  let s := ({ s with ao := ao }).pnlCharge u.rect u.len fun k => sget (fun _ => 0) u.comp k
  let s := { s with ao := wrz s.ao 0xF3C 4 0 }
  let s := s.modPnl fun p => { p with upd := none, unknown := if u.clear then none else p.unknown }
  let s := s.pnlState 0
  if u.clear then ((s.setBit Reg.PNL_STATE 3 false).pnlStat 3).pnlStat 0
  else (s.setBit Reg.PNL_CTL 0 false).pnlStat 0

/-- The running update stops before its end: its journal stands. -/
def State.pnlStop (s : State) : State :=
  ((s.modPnl fun p => { p with upd := none }).setBit Reg.PNL_CTL 0 false).pnlState (if s.pnl.unknown.isSome then 1 else 0)

/-- PANEL_FRAME: each 20 ms; the driver stops once the module has shed load (R399). -/
def panelFrame (s : State) : State :=
  match s.pnl.upd with
  | none => s
  | some u =>
    if s.tnd.supply = .shed then s.pnlStop
    else
      let px := (u.px.map fun p => (p.1, p.2.1, pixelCode s u u.frame p)).filter fun p => p.2.2 != 0
      let s := (s.emit (.panel px)).setBits Reg.PNL_STATE 14 8 u.frame
      let u := { u with frame := u.frame + 1 }
      let s := s.modPnl fun p => { p with upd := some u }
      if u.total ≤ u.frame then s.updateEnd u else s

def execPanelFrame (s : State) : Out1 := .next (s.ifOn 12 panelFrame)

/-- DC12 comes ON (R444, R451): a journalled update is charged once and its rectangle is unknown; without a valid image copy the
whole panel is. -/
def State.panelRecovery (s : State) : State :=
  let jok := s.aoW 0xF3C == 0x7A1E0001
  let w := s.aoW 0xF00
  let r := (fget w 8 0, fget w 15 9, fget w 24 16, fget w 31 25)
  let b := fget (s.aoW 0xF04) 2 0
  let clear := fbit (s.aoW 0xF04) 3
  let s' := if jok && s.aoW 0xF08 == stressSeq s then
      s.pnlCharge r (if clear then waveLen s b true 0 0 else waveL s b) fun k => compOf s b k
    else s
  let unk := if !imageOk s then some (0, 0, 295, 127) else if jok then some r else none
  let s' := s'.modPnl fun _ => { pnlReset with unknown := unk }
  if unk.isSome then (s'.setBit Reg.PNL_STATE 3 true).pnlWait else s'

end Sys2Proof.Machine
end

