-- ==== Sys2Proof/Machine/Update.lean ====
section
/-! DEFINITION. The field update engine: header checks, download, verification, installation and the boot selector (R427-R442). -/

namespace Sys2Proof.Machine

def State.modUpd (s : State) (f : UpdSt → UpdSt) : State := { s with upd := f s.upd }
def State.updStat (s : State) (i : Nat) : State := s.setStat Reg.UPD_STAT Reg.UPD_IRQ_EN 56 i
def updStage (s : State) : Nat := s.bits Reg.UPD_STATE 2 0
def State.setStage (s : State) (v : Nat) : State := s.setBits Reg.UPD_STATE 2 0 v

/-! ### The boot selector (R436) -/

def selCopy (s : State) : Option Nat := copyInForce s.mram 0 0x800 0x800 0xB0C50001
def selW (s : State) (o : Nat) : Nat := match selCopy s with | some c => rdz s.mram (c + o) 4 | none => 0
def selActive (s : State) : Nat := selW s 8 % 2
def selTrial (s : State) : Bool := fbit (selW s 8) 1
def selBoots (s : State) : Nat := fget (selW s 8) 5 3
def selFloor (s : State) : Nat := selW s 0x14

/-- Commit a selector: flags, versions, FLOOR, trial start and window, to the other copy with SEQ + 1, commit word last. -/
def State.selCommit (s : State) (flags ver fallback floor start window : Nat) : State :=
  let o := copyFree (selCopy s) 0 0x800
  let q := match selCopy s with | some c => (rdz s.mram (c + 4) 4 + 1) % 2 ^ 32 | none => 1
  let m := wrz s.mram (o + 0x7F8) 4 0
  let m := memPut zeroByte m o ([1, q, flags, ver, fallback, floor, start, window].map fun v => BitVec.ofNat 32 v)
  { s with mram := wrz (wrz m (o + 0x7FC) 4 q) (o + 0x7F8) 4 0xB0C50001 }

/-- The seconds left in the trial window. -/
def trialLeft (s : State) : Nat := selW s 0x18 + selW s 0x1C - s.rtcSec

/-- The registers that show the selector. -/
def State.updRegs (s : State) : State :=
  let s := ((s.setBits Reg.UPD_STATE 7 7 (selActive s)).setBits Reg.UPD_STATE 8 8 (b2n (selTrial s))).setBits Reg.UPD_STATE 11 9 (selBoots s)
  (s.wrN Reg.UPD_VERSION (selW s 0xC)).wrN Reg.UPD_TRIAL_LEFT (if selTrial s then trialLeft s else 0)

/-! ### The Watermark header (R429, R430) -/

def hw (ws : List Word) (i : Nat) : Nat := ((ws[i]?).map BitVec.toNat).getD 0
def hdrLen (ws : List Word) : Nat := hw ws 11
def hdrVersion (ws : List Word) : Nat := hw ws 5

/-- Trial window in s: 0 means 600. -/
def hdrWindow (ws : List Word) : Nat := let w := fget (hw ws 7) 23 8; if w = 0 then 600 else w

/-- Image i: type, offset, size. -/
def hdrImage (ws : List Word) (i : Nat) : Nat × Nat × Nat := (fget (hw ws (16 + 4 * i)) 7 0, hw ws (17 + 4 * i), hw ws (18 + 4 * i))
def hdrImages (ws : List Word) : List (Nat × Nat × Nat) := (List.range (min (hw ws 10) 8)).map (hdrImage ws)

def imageLimit (ty : Nat) : Nat := if ty ≤ 2 then 0x20000 else if ty = 3 then 0x1800000 else 2 ^ 32

def noOverlap : List (Nat × Nat × Nat) → Bool
  | [] => true
  | (_, o, n) :: is => is.all (fun i => decide (o + n ≤ i.2.1) || decide (i.2.1 + i.2.2 ≤ o)) && noOverlap is

/-- Failure 4: the image table, the body length, the window and the reserved bytes. -/
def tableBad (ws : List Word) : Bool :=
  let n := hw ws 10
  let is := hdrImages ws
  let one := fun ty => (is.filter (·.1 == ty)).length == 1
  n == 0 || decide (8 < n) || is.any (fun i => i.2.2 == 0 || i.1 == 0 || decide (4 < i.1) || decide (imageLimit i.1 < i.2.2) ||
    decide (hdrLen ws < i.2.1 + i.2.2)) || !(one 1 && one 2 && one 3) || !noOverlap is || decide (0x1F80000 - 512 < hdrLen ws) ||
  (let w := fget (hw ws 7) 23 8; w != 0 && (decide (w < 60) || decide (3600 < w))) || fget (hw ws 7) 31 24 != 0 ||
  ((List.range 4).any fun i => hw ws (12 + i) != 0) || ((List.range 44).any fun i => hw ws (60 + i) != 0) ||
  ((List.range n).any fun i => fget (hw ws (16 + 4 * i)) 31 8 != 0)

/-- The first failure of a header, 0 for none (R430). -/
def hdrCheck (s : State) (ws : List Word) : Nat :=
  let code := norRd s 0x10 2
  if hw ws 0 ≠ 0x574D4B31 ∨ hw ws 1 ≠ 1 then 1
  else if hw ws 2 ≠ 0x2D46524D ∨ hw ws 3 ≠ 0x00383447 then 2
  else if code < fget (hw ws 4) 15 0 ∨ fget (hw ws 4) 31 16 < code then 3
  else if tableBad ws then 4
  else if hdrVersion ws < selFloor s then 5
  else if 3 < fget (hw ws 7) 7 0 ∨ !Config.romKey (fget (hw ws 7) 7 0) then 6
  else if !Config.ecdsaOk (fget (hw ws 7) 7 0) (wordBytes (ws.take 104)) (wordBytes ((ws.drop 104).take 24)) then 7
  else 0

def hdrDigest (ws : List Word) : List Byte := wordBytes ((ws.drop 48).take 12)

/-! ### Download (R431-R433) -/

def blockCount (ws : List Word) : Nat := (hdrLen ws + 65535) / 65536

/-- The bitmap registers follow the record. -/
def State.bitmapRegs (s : State) : State :=
  (List.range 512).foldl (fun s i => s.setBit (Reg.UPD_BITMAP (i / 32)) (i % 32) (sget (fun _ => false) s.upd.map_ i)) s

/-- Are all blocks there? -/
def allBlocks (s : State) (ws : List Word) : Bool := (List.range (blockCount ws)).all fun i => sget (fun _ => false) s.upd.map_ i

def hdrWindowWords (s : State) : List Word := (List.range 128).map fun w => s.rd (Reg.UPD_HDR w)

/-- The header of the download record in NAND, where its commit word is valid (R11, R432). -/
def dlRecord (s : State) : Option (List Word) := if s.upd.commit = 0xD0A10001 then s.upd.hdr else none

/-- The stage that a valid record is restored to: a staged or installing furnish keeps its stage (R442), else by the bitmap (R433). -/
def recStage (s : State) (ws : List Word) : Nat :=
  if s.upd.stage = 4 then 4 else if s.upd.stage = 3 then 3 else if allBlocks s ws then 2 else 1

/-- A download is restored: stage, bitmap, RESUMED (R433). -/
def State.resumeRec (s : State) (ws : List Word) : State :=
  let st := recStage s ws
  let s := if st = 4 then s.wrN Reg.UPD_STAGED_VER (hdrVersion ws) else s
  ((s.setStage st).bitmapRegs).updStat 3

/-- A verification or an installation that runs for a record that goes ends without a result. -/
def State.updStop (s : State) : State := (s.setBit Reg.UPD_CTL 1 false).setBit Reg.UPD_CTL 2 false

/-- UPD_CHECK (R431), with the header check of R430. -/
def updCheck (s : State) : State :=
  let ws := hdrWindowWords s
  let r := hdrCheck s ws
  let s := s.setBits Reg.UPD_STATE 6 3 r
  if r ≠ 0 then s.updStat 1
  else if dlRecord s = some ws then
    (if updStage s = 0 then s.resumeRec ws else s).updStat 0
  else
    let s := s.modUpd fun u => { u with hdr := some ws, map_ := [], body := [], stage := 1, block := none, commit := 0xD0A10001 }
    (((s.updStop).bitmapRegs).setStage 1).updStat 0

def execUpdCheck (s : State) : Out1 := .next (s.ifOn 12 updCheck)

/-- UPD_BLOCK_SUBMIT (R431, R432): refused outside LOADING or out of range. -/
def updSubmit (v : Word) (s : State) : State :=
  let i := wbits v 8 0
  match s.upd.hdr with
  | some ws =>
    if updStage s = 1 ∧ i < blockCount ws then
      s.modUpd fun u => { u with block := some (i, s.rd64 Reg.UPD_BLK_ADDR_LO Reg.UPD_BLK_ADDR_HI / 64 * 64) }
    else s.updStat 2
  | none => s.updStat 2

def execUpdBlockSubmit (v : Word) (s : State) : Out1 := .next (s.ifOn 12 (updSubmit v))

/-- BLOCK_COMMIT (R432): the block is copied to NAND, then a record with its bit is committed; with every bit set the stage is DOWNLOADED. -/
def blockCommit (s : State) : State :=
  match s.upd.block, s.upd.hdr with
  | some (i, a), some ws =>
    let n := min 65536 (hdrLen ws - 65536 * i)
    if !s.domOn 0 ∨ !inDram a n then (s.modUpd fun u => { u with block := none }).updStat 2
    else
      let bs := memBytes zeroByte s.dram (a - dramBase) n
      let s := s.modUpd fun u =>
        { u with block := none, body := memPutBytes zeroByte u.body (65536 * i) bs, map_ := sset (fun _ => false) u.map_ i true,
                 commit := 0xD0A10001 }
      let s := (s.latchAdd 71 n).bitmapRegs
      if allBlocks s ws then (s.modUpd fun u => { u with stage := 2 }).setStage 2 else s
  | _, _ => s

def execBlockCommit (s : State) : Out1 := .next (s.ifOn 12 blockCommit)

/-- DOWNLOAD_RESUME (R433, R442): after a reset the record is checked again and its stage restored. -/
def updResume (s : State) : State :=
  let s := s.updRegs
  let s := if s.upd.sched then ((s.setBit Reg.UPD_ACT_CTL 0 false).modUpd fun u => { u with sched := false }).updStat 9 else s
  match dlRecord s with
  | none => s
  | some ws =>
    if updStage s ≠ 0 then s
    else if hdrCheck s ws ≠ 0 then s.modUpd fun _ => updReset
    else s.resumeRec ws

def execDownloadResume (s : State) : Out1 := .next (s.ifOn 12 updResume)

/-- UPD_ABORT (R433): the record goes in any stage up to VERIFIED; a schedule is cancelled. -/
def updAbort (s : State) : State :=
  let s := (s.setBit Reg.UPD_ACT_CTL 0 false).modUpd fun u => { u with sched := false }
  if updStage s ≤ 3 then (((s.modUpd fun _ => updReset).updStop).setStage 0).bitmapRegs else s

def execUpdAbort (s : State) : Out1 := .next (s.ifOn 12 updAbort)

/-! ### Verification and installation (R434, R435) -/

/-- UPD_VERIFY: in DOWNLOADED the hashing starts; VERIFY reads 1 until done. -/
def updVerify (s : State) : State := if updStage s = 2 then s.setBit Reg.UPD_CTL 1 true else s

def execUpdVerify (s : State) : Out1 := .next (s.ifOn 12 updVerify)

/-- Does a body match its header's digest? -/
def bodyOk (ws : List Word) (body : List Byte) : Bool := Config.sha384 body == hdrDigest ws

/-- VERIFY_DONE. -/
def verifyDone (s : State) : State :=
  match s.upd.hdr with
  | none => s
  | some ws =>
    if !s.bit Reg.UPD_CTL 1 then s
    else
      let s := s.setBit Reg.UPD_CTL 1 false
      if bodyOk ws (memBytes zeroByte s.upd.body 0 (hdrLen ws)) then (s.setStage 3).updStat 4
      else (((s.modUpd fun u => { u with map_ := [], stage := 1 }).bitmapRegs).setStage 1).updStat 5

def execVerifyDone (s : State) : Out1 := .next (s.ifOn 12 verifyDone)

/-- Offset of a slot in NOR (R427). -/
def slotAt (i : Nat) : Nat := if i = 0 then 0x100000 else 0x2080000
def slotHdr (s : State) (i : Nat) : List Word := memWords erasedByte s.nor (slotAt i) 128

/-- Erase a slot's header sector: the slot is absent. -/
def State.eraseHdr (s : State) (i : Nat) : State :=
  { s with nor := sdrop (fun a => decide (slotAt i ≤ a) && decide (a < slotAt i + 512)) s.nor }

/-- UPD_INSTALL: refused during TRIAL; in VERIFIED the free slot's header is erased first. -/
def updInstall (s : State) : State :=
  if selTrial s then s.updStat 8
  else if updStage s ≠ 3 then s
  else ((s.setBit Reg.UPD_CTL 2 true).modUpd fun u => { u with stage := 3 }).eraseHdr (1 - selActive s)

def execUpdInstall (s : State) : Out1 := .next (s.ifOn 12 updInstall)

/-- INSTALL_DONE: body, read-back (`ok`), header with its magic word last; a mismatch erases the header. -/
def installDone (ok : Bool) (s : State) : State :=
  match s.upd.hdr with
  | none => s
  | some ws =>
    if !s.bit Reg.UPD_CTL 2 then s
    else
      let i := 1 - selActive s
      let s := s.setBit Reg.UPD_CTL 2 false
      let bs := memBytes zeroByte s.upd.body 0 (hdrLen ws)
      let s := { s with nor := memPutBytes erasedByte s.nor (slotAt i + 512) bs }
      if !ok then (((s.modUpd fun u => { u with stage := 2 }).eraseHdr i).setStage 3).updStat 7
      else
        let s := { s with nor := memPut erasedByte s.nor (slotAt i) ws }
        let s := (s.modUpd fun u => { u with stage := 4 }).setStage 4
        (s.wrN Reg.UPD_STAGED_VER (hdrVersion ws)).updStat 6

def execInstallDone (ok : Bool) (s : State) : Out1 := .next (s.ifOn 12 (installDone ok))

/-- Is a slot valid: its header passes and its body matches (R427)? -/
def slotValid (s : State) (i : Nat) : Bool :=
  let ws := slotHdr s i
  hdrCheck s ws == 0 && bodyOk ws (memBytes erasedByte s.nor (slotAt i + 512) (hdrLen ws))

/-! ### Trial (R440) -/

/-- UPD_CONFIRM: the value 0xC0F1_7E11 in TRIAL commits the selector with TRIAL clear and the new FLOOR. -/
def updConfirm (v : Word) (s : State) : State :=
  if v ≠ 0xC0F17E11 ∨ !selTrial s then s
  else
    let floor := max (selFloor s) (hw (slotHdr s (selActive s)) 6)
    (s.selCommit (selActive s) (selW s 0xC) (selW s 0x10) floor 0 0).updRegs

def execUpdConfirm (v : Word) (s : State) : Out1 := .next (s.ifOn 12 (updConfirm v))

/-- A write of UPD_ACT_CTL: SCHED counts only in STAGED. -/
def updActCtl (v : Word) (s : State) : State :=
  let sched := wbit v 0 && (updStage s == 4)
  ((s.setBit Reg.UPD_ACT_CTL 0 sched).setBit Reg.UPD_ACT_CTL 1 (wbit v 1)).modUpd fun u => { u with sched := sched }

end Sys2Proof.Machine
end

