-- ==== Sys2Proof/Machine/Tender.lean ====
section
/-! DEFINITION. The Tender's own work: sensors, log, watchdog services, the RTC, calibration banks and flush segments (R383-R410). -/

namespace Sys2Proof.Machine

def State.modTnd (s : State) (f : TndSt → TndSt) : State := { s with tnd := f s.tnd }

/-- TND_PSTATE.CUR: 0 RUN, 1 WATCH, 2 DOZE, 3 HOLD, 4 entering, 5 waking. -/
def curState (s : State) : Nat := s.bits Reg.TND_PSTATE 6 4
def State.setCur (s : State) (v : Nat) : State := s.setBits Reg.TND_PSTATE 6 4 v

/-- The module is in WATCH or on its way there: the wake sources of WATCH alone count (R388, R389). -/
def inWatch (s : State) : Bool := curState s == 1 || (curState s == 4 && s.tnd.entry.any (·.1 == 1))

/-- A wake source is heard: a supply holds the module up, no shedding has begun (R402), and no cold boot is due. -/
def canWake (s : State) : Bool :=
  !s.tnd.bootDue && !s.tnd.recovery && match s.tnd.supply with | .good | .warned _ => true | _ => false

/-! ### Sensors (R385) -/

/-- A sensor's resolution as a divisor of its unit. -/
def sensDiv (i : Nat) : Nat := if i ≤ 5 then 8 else if i ≤ 9 then 100 else if i ≤ 13 then 1000 else if i = 14 then 2 else 100

/-- A reading in its unit, binary32. -/
def sensF32 (i : Nat) (r : Int) : Word := BitVec.ofNat 32 (fpDiv f32 0 (fpOfInt f32 0 r).1 (fpOfInt f32 0 (sensDiv i : Nat)).1).1

/-- A reading against its thresholds: the first outside after one inside is reported. -/
def State.senseCheck (s : State) (i : Nat) (r : Int) : State :=
  let lim := s.rdN (Reg.TND_SENS_LIM i)
  let lo := (BitVec.ofNat 16 lim).toInt
  let hi := (BitVec.ofNat 16 (lim / 65536)).toInt
  let out := decide (r < lo) || decide (hi < r)
  let was := sget (fun _ => false) s.tnd.sensOut i
  let s := s.modTnd fun t => { t with sensOut := sset (fun _ => false) t.sensOut i out }
  if out && !was then
    ((s.tndStat 0).tpend 4).logRec 0 2 0 i (BitVec.ofInt 32 r).toNat (b2n (decide (hi < r)))
  else s

/-- The Reel's samples of a Tender sensor (R415). -/
def State.senseReel (s : State) (i : Nat) (r : Int) : State :=
  let takes := fun c => fbit c 0 && fget c 2 1 == 1 && fget c 7 3 == i
  let s := (List.range 256).foldl (fun s h =>
    if takes (s.rdN (Reg.REEL_HIST_CFG h)) then s.reelPush (.sample true h (sensF32 i r)) else s) s
  (List.range 512).foldl (fun s x =>
    if takes (s.rdN (Reg.REEL_XTR_CFG x)) then s.reelPush (.sample false x (sensF32 i r)) else s) s

/-- The sum of the terms x^k / k! of the exponential series, in units of 2^-160: `t` is the term reached, the k-th. -/
def expSum (x : Nat) : Nat → Nat → Nat → Nat
  | 0, _, t => t
  | fuel + 1, k, t => t + expSum x fuel (k + 1) (t * x / 2 ^ 160 / (k + 1))

/-- e^x in units of 2^-160, x ≥ 0 in the same units. -/
def expFix (x : Nat) : Nat := expSum x 160 0 (2 ^ 160)

/-- Thermal age of one 10 Hz sample in 2^-24 s (R423): 0.1 s × exp(8,123 K × (1/358.15 K − 1/T)), rounded, T in kelvin from a reading in
0.125 °C between −55 and +175 °C. -/
def thermalAge (r : Int) : Nat :=
  if r < -440 ∨ 1400 < r then Config.thermalAge r
  else
    let t := (125 * r + 273150).toNat
    let e := expFix (8123000 * (t - 358150 + (358150 - t)) * 2 ^ 160 / (358150 * t))
    let e := if 358150 ≤ t then e else 2 ^ 320 / e
    (2 * e * 2 ^ 24 + 10 * 2 ^ 160) / (20 * 2 ^ 160)

/-- The Tender's lifetime counters at a 10 Hz sample: power-on time and thermal age (R423). -/
def State.senseLife (s : State) (rs : List Int) : State :=
  let s := if 0 < rs.getD 6 0 ∨ 0 < rs.getD 7 0 then
      if s.reel.tenths = 9 then (s.modReel fun r => { r with tenths := 0 }).latchAdd 0 1
      else s.modReel fun r => { r with tenths := r.tenths + 1 }
    else s
  (List.range 6).foldl (fun s i => s.latchAdd (65 + i) (thermalAge (rs.getD i 0))) s

/-- SENSOR_SAMPLE (R385): at 10 Hz in every state except OFF. Sensor 8 at 48 V: the hold-up store has charged (R456). -/
def sensorSample (rs : List Int) (s : State) : State :=
  match s.tnd.supply with
  | .off _ => s
  | _ =>
    let s := (List.range 16).foldl (fun s i =>
      let r := if i = 15 && !s.domOn 10 then 0 else rs.getD i 0
      let s := s.wr (Reg.TND_SENS i) (BitVec.ofInt 32 r)
      (s.senseCheck i r).senseReel i r) s
    (s.senseLife rs).modTnd fun t => { t with charged := t.charged || decide (4800 ≤ rs.getD 8 0) }

def execSensorSample (rs : List Int) (s : State) : Out1 := .next (sensorSample rs s)

/-! ### Management log (R386) -/

def logSlot (n : Nat) : Nat := 0x2000 + 32 * (n % 512)

/-- Record n of the ring as it lies in always-on SRAM. -/
def logAt (s : State) (n : Nat) : LogRec :=
  let o := logSlot n
  ⟨BitVec.ofNat 64 (rdz s.ao o 8), BitVec.ofNat 32 (s.aoW (o + 8)), BitVec.ofNat 32 (s.aoW (o + 12)), BitVec.ofNat 32 (s.aoW (o + 16)),
   BitVec.ofNat 32 (s.aoW (o + 20)), BitVec.ofNat 32 (s.aoW (o + 24))⟩

/-- Records written and not yet copied, as far as the ring still holds them. -/
def unwritten (s : State) : List Nat :=
  let n := min (s.tnd.seq - s.tnd.copied) 512
  let w := s.bits Reg.TND_LOG_WR 8 0
  (List.range n).map fun i => (w + 512 - n + i) % 512

/-- A record is there only with its commit word (R11). -/
def logCommitted (s : State) (n : Nat) : Bool := s.aoW (logSlot n + 28) == 0x106C0001

/-- LOG_COPY (R386): new records go to the log region of the managed NAND. -/
def logCopy (s : State) : State :=
  if !s.domOn 12 then s
  else
    let is := (unwritten s).filter (logCommitted s)
    (s.latchAdd 71 (32 * is.length)).modTnd fun t => { t with nandLog := t.nandLog ++ is.map (logAt s), copied := t.seq }

def execLogCopy (s : State) : Out1 := .next (logCopy s)

/-! ### Mill watchdog (R394) -/

/-- TIMEOUT in ns: 0 is taken as 1,000 ms, more than 10,000 as 10,000. -/
def mwdgTimeout (s : State) : Nat :=
  let n := s.bits Reg.TND_MWDG 13 0
  (if n = 0 then 1000 else min n 10000) * 1000000

def millRuns (s : State) : Bool := s.domOn 0 && decide ((s.core (.mill false)).run ≠ .held)
def mwdgRuns (s : State) : Bool := s.bit Reg.TND_MWDG 15 && millRuns s

/-- MWDG_KICK: any write restarts the count. -/
def mwdgKick (s : State) : State := s.modTnd fun t => { t with mwdgFrom := s.clk, mwdgHalf := false }

def execMwdgKick (s : State) : Out1 := .next (mwdgKick s)

/-- MWDG_HALF. -/
def mwdgHalf (s : State) : State :=
  if mwdgRuns s ∧ !s.tnd.mwdgHalf ∧ s.tnd.mwdgFrom + mwdgTimeout s / 2 ≤ s.clk then
    (s.modTnd fun t => { t with mwdgHalf := true }).tpend 6
  else s

def execMwdgHalf (s : State) : Out1 := .next (mwdgHalf s)

/-! ### RTC and alarm (R386, R389) -/

/-- RTC_WRITE: the pair applies on the next 32.768 kHz edge; the first one ever is the calendar's first-use time (R426). -/
def rtcWrite (hi : Word) (s : State) : State :=
  let v := hi.toNat * 2 ^ 32 + s.tnd.rtcLo.toNat
  let s := s.modTnd fun t => { t with rtcPend := some (BitVec.ofNat 64 v) }
  if calendarW s 8 8 = 0 then s.calendarPut fun m o => wrz m (o + 8) 8 v else s

def execRtcWrite (hi : Word) (s : State) : Out1 := .next (rtcWrite hi s)

/-- ALARM_WRITE. -/
def alarmWrite (hi : Word) (s : State) : State :=
  s.modTnd fun t => { t with almPend := some (BitVec.ofNat 64 (hi.toNat * 2 ^ 32 + t.almLo.toNat)) }

def execAlarmWrite (hi : Word) (s : State) : Out1 := .next (alarmWrite hi s)

/-- A 32.768 kHz edge: the RTC advances or takes what was written; the alarm takes what was written. -/
def State.rtcEdge (s : State) : State :=
  let v := match s.tnd.rtcPend with | some v => v.toNat | none => s.rtc + 1
  let s := s.wr64 Reg.TND_RTC_LO Reg.TND_RTC_HI v
  let s := match s.tnd.almPend with | some a => s.wr64 Reg.TND_ALARM_LO Reg.TND_ALARM_HI a.toNat | none => s
  s.modTnd fun t => { t with rtcPend := none, almPend := none }

/-! ### User calibration banks (R409, R410) -/

def bankFree (s : State) : Nat := copyFree (bankForce s) (bankAt 0) (bankAt 1)

/-- BANK and NONE follow the banks. -/
def State.calRegs (s : State) : State :=
  (s.setBit Reg.TND_CAL_CTL 0 (bankForce s == some (bankAt 1))).setBit Reg.TND_CAL_CTL 1 (bankForce s).isNone

/-- CAL_OPEN: the free bank's commit word is cleared. -/
def calOpen (s : State) : State := ({ s with mram := wrz s.mram (bankFree s + 0xFFF8) 4 0 }).calRegs

def execCalOpen (s : State) : Out1 := .next (calOpen s)

/-- CAL_COMMIT: a right CRC commits the free bank with the SEQ in force plus 1; a wrong one is refused. -/
def calCommitBank (s : State) : State :=
  let o := bankFree s
  let crc := crc32c 0xFFFFFFFF true (memBytes zeroByte s.mram (o + 0x10) 0xFFE8)
  if rdz s.mram (o + 8) 4 ≠ crc then (s.tndStat 5).logRec 0 1 5 0 0 0
  else
    let q := (match bankForce s with | some c => rdz s.mram (c + 4) 4 + 1 | none => 1) % 2 ^ 32
    ({ s with mram := wrz (wrz (wrz s.mram (o + 4) 4 q) (o + 0xFFFC) 4 q) (o + 0xFFF8) 4 0xCA1B0001 }).calRegs

def execCalCommit (s : State) : Out1 := .next (calCommitBank s)

/-! ### Flush segments (R400) -/

/-- FLUSH_LEN_WRITE: a LEN that takes the sum beyond 7 MiB is refused. -/
def flushLen (n : Nat) (v : Word) (s : State) : State :=
  let sum := ((List.range 16).map fun k => if k = n then v.toNat else s.rdN (Reg.TND_FLUSH k 2)).sum
  if 0x700000 < sum then (s.tndStat 6).logRec 0 1 6 n v.toNat 0
  else s.wrN (Reg.TND_FLUSH n 2) (v.toNat / 64 * 64)

def execFlushLenWrite (n : Fin 16) (v : Word) (s : State) : Out1 := .next (flushLen n.val v s)

end Sys2Proof.Machine
end

