-- ==== Sys2Proof/Machine/Power.lean ====
section
/-! DEFINITION. Domains, power states, wakes, resets and power failure (R16-R22, R382-R408, R470). -/

namespace Sys2Proof.Machine

/-! ### What a domain loses -/

def isClass (c : Char) (a : Nat) : Bool := match regFam a with | some f => f.cls == c | none => false

/-- A domain's registers of class D read their reset values again. -/
def State.dropRegs (s : State) (n : Nat) : State :=
  { s with regs := sdrop (fun a => regDomain a == n && isClass 'D' a) s.regs }

/-- Class S registers read their reset values again (R392, R396). -/
def State.dropS (s : State) : State := { s with regs := sdrop (isClass 'S') s.regs }

def stationsOf (n : Nat) : List Nat :=
  if n = 0 then [] else if n ≤ 8 then [n + 1] else if n = 9 then [10] else if n = 10 then [11, 12] else []

def State.holdCore (s : State) (id : CoreId) : State := s.setCore id coreHeld

/-- What blocks hold beyond their registers when domain `n` loses its logic; `keep`: the memories of R125 and the
Reel's buffer survive. The slot whose record is in force is MRAM's (R319). -/
def State.dropHidden (s : State) (n : Nat) (keep : Bool) : State :=
  if n = 0 then
    let s := { (s.holdCore (.mill false)).holdCore (.mill true) with felt := feltReset, lib := { libReset with oPtp := s.lib.oPtp } }
    s.modTnd fun t => { t with stalls := t.stalls.filter (fun x => !(x.rq == .mill0 || x.rq == .mill1)), inRom := none }
  else if n ≤ 4 then
    let t := n - 1
    let s := (List.range 8).foldl (fun s l => if h : t < 4 ∧ l < 8 then s.holdCore (.lane ⟨t, h.1⟩ ⟨l, h.2⟩) else s) s
    { s with prs := { box := sdrop (fun k => k / 32 == t) s.prs.box, tx := sdrop (fun k => k / 32 == t) s.prs.tx,
                      lane := sdrop (fun k => k / 8 == t) s.prs.lane,
                      mem := if keep then s.prs.mem else sdrop (fun a => a / 0x40000 == t) s.prs.mem } }
  else if n ≤ 8 then s.calTileLost (n - 5)
  else if n = 9 then s.nbbSleep
  else if n = 10 then
    let s := s.modTnd fun t => { t with stalls := t.stalls.filter fun x => x.rq != .fusion }
    let s := s.modReel fun r => { r with azBase := [], swBase := [] }
    { s with fsn := fsnReset, hbx := hbxReset, enc := [], tim := { timReset with frac := s.tim.frac, excess := s.tim.excess, armed := s.tim.armed } }
  else if n = 11 then
    let s := s.modTnd fun t => { t with stalls := t.stalls.filter fun x => !(x.rq == .plyDma || x.rq == .mirrorDma) }
    { s.gateShut with ply := plyReset, can := [], pair := { pairReset with strapB := s.pair.strapB } }
  else if n = 12 then
    { s.reelLost (!keep) with pnl := pnlReset, upd := { s.upd with block := none } }
  else { s.holdCore .deckle with dkl := { dklReset with slot := s.dkl.slot } }

/-- A domain leaves ON: its stages keep its bindings (R471), its stations stop (R31), hidden state and class D registers go. -/
def State.domDrop (s : State) (n : Nat) (keep : Bool) : State :=
  let s := if s.domOn n then
      (stationsOf n).foldl (fun s st =>
        let b := bindList s st
        (s.modFelt fun f => { f with kept := sset (fun _ => []) f.kept st b }).feltStop st) s
    else s
  (s.dropHidden n keep).dropRegs n

def State.setDc (s : State) (n v : Nat) : State := s.setBits (Reg.PWR_DC_STAT n) 1 0 v

/-- Domains whose RETAIN keeps something; on any other it is taken as OFF (R387). -/
def mayRetain (n : Nat) : Bool := (decide (1 ≤ n) && decide (n ≤ 4)) || n == 9 || n == 12

/-- Take a domain to OFF (0) or RETAIN (1). -/
def State.domTake (s : State) (n target : Nat) : State :=
  let t := if target = 1 && mayRetain n then 1 else 0
  let st := s.bits (Reg.PWR_DC_STAT n) 1 0
  if st = 0 ∨ (st = 1 ∧ t = 1) then s
  else
    let s := (s.domDrop n (t == 1)).setBit (Reg.PWR_DC_STAT n) 2 false
    let s := (s.setBit (Reg.PWR_DC_CTL n) 3 false).setDc n t
    if t = 0 then s.modTnd fun x => { x with cold := sset (fun _ => false) x.cold n true } else s

/-! ### Stalled accesses that fail (R21, R404) -/

def coreOf (num : Nat) : Option CoreId :=
  if num = 0 then some (.mill false) else if num = 1 then some (.mill true) else if num = 0x200 then some .tender else none

/-- A core's waiting access fails with a trap, whose value is the access address (R113). -/
def State.stallTrap (s : State) (core cause va : Nat) : State :=
  match coreOf core with
  | none => s
  | some id => (s.setCore id { s.core id with run := .running }).takeTrap id cause va

/-- Answer a waiting access with a bus error: a core takes LBUS or SBUS. -/
def State.stallFail (s : State) (x : Stall) : State :=
  match x.op with
  | .load c _ _ _ va => s.stallTrap c Cause.lbus va
  | .store c _ _ va => s.stallTrap c Cause.sbus va
  | .busRead | .busWrite .. => { s with resp := .busError }
  | .alignBlock => (s.modFsn fun f => { f with block := none }).fsnStat 1

/-- Does an access of the Mill wait for a domain's local store? -/
def waitsForStore (dom : Nat) (x : Stall) : Bool :=
  x.dom == dom && (x.rq == .mill0 || x.rq == .mill1) && decide (0x300000000 ≤ x.addr)

/-- Every Mill access that waits for a tile's local store ends in a bus error (R407); any other one goes on waiting (R395). -/
def State.storeStallsFail (s : State) (dom : Nat) : State :=
  (s.tnd.stalls.filter (waitsForStore dom)).foldl State.stallFail
    (s.modTnd fun t => { t with stalls := t.stalls.filter fun x => !waitsForStore dom x })

/-! ### Domain reset (R395, R407) -/

/-- A domain is held in reset, and comes up within its wake time. -/
def State.domReset (s : State) (n : Nat) : State :=
  let s := (s.domDrop n true).setDc n 2
  (s.setBit (Reg.PWR_DC_STAT n) 2 true).setBit (Reg.PWR_DC_CTL n) 3 true

/-- A joint reset of a Calender tile: its jobs end ABORTED, the Mill's waiting accesses to its store end in bus errors. -/
def State.jointReset (s : State) (t : Nat) : State :=
  let s := s.modCal fun c => { c with jobs := c.jobs.map fun j => { j with d := jobDesc s j } }
  let s := s.endJobsWhere (fun j => (dNamed j.d).contains t) 6 none
  let s := s.storeStallsFail (5 + t)
  (s.domReset (5 + t)).setBit Reg.PWR_JOINT_RST t true

def State.anyReset (s : State) (n : Nat) : State := if 5 ≤ n ∧ n ≤ 8 then s.jointReset (n - 5) else s.domReset n

/-- DC0 and DC13 take RST and RELEASE from the Tender alone. -/
def mayReset (n : Nat) (rq : Requester) : Bool := (n != 0 && n != 13) || rq == .tender

/-- DOMAIN_RST (R395): a contained domain stays contained. -/
def domainRst (n : Nat) (rq : Requester) (s : State) : State :=
  if !mayReset n rq ∨ s.contained n then s else s.anyReset n

def execDomainRst (n : Fin 14) (rq : Requester) (s : State) : Out1 := .next (domainRst n.val rq s)

/-- In RUN, TARGET acts on DC1-DC10 and DC12; DC0, DC11 and DC13 are ON (R387). -/
def byTarget (n : Nat) : Bool := (decide (1 ≤ n) && decide (n ≤ 10)) || n == 12

/-- Bring a domain to what TARGET asks, in RUN. -/
def State.applyTarget (s : State) (n : Nat) : State :=
  let t := s.bits (Reg.PWR_DC_CTL n) 1 0
  if curState s ≠ 0 ∨ !byTarget n ∨ s.contained n then s
  else if 2 ≤ t then s.wake n
  else s.domTake n t

/-- DOMAIN_RELEASE (R22, R395): the one end of a containment while power lasts; TARGET takes effect from here on. -/
def domainRelease (n : Nat) (rq : Requester) (s : State) : State :=
  if !mayReset n rq ∨ !s.contained n then s
  else ((s.anyReset n).setBits (Reg.PWR_DC_STAT n) 7 3 0).applyTarget n

def execDomainRelease (n : Fin 14) (rq : Requester) (s : State) : Out1 := .next (domainRelease n.val rq s)

/-- JOINT_RST (R407). -/
def jointRst (mask : Nat) (s : State) : State :=
  (List.range 4).foldl (fun s t => if fbit mask t && !s.contained (5 + t) then s.jointReset t else s) s

def execJointRst (mask : BitVec 4) (s : State) : Out1 := .next (jointRst mask.toNat s)

/-- DOMAIN_TARGET_WRITE (R387). -/
def targetWrite (n target : Nat) (s : State) : State := (s.setBits (Reg.PWR_DC_CTL n) 1 0 target).applyTarget n

def execDomainTargetWrite (n : Fin 14) (target : BitVec 2) (s : State) : Out1 := .next (targetWrite n.val target.toNat s)

/-- Accesses that waited for a domain that is contained now end at once, each logged with cause CONTAINED (R404). DEDUCED: the
rule names accesses made to a contained domain; unsafe. -/
def State.stallsContained (s : State) (n : Nat) : State :=
  (s.tnd.stalls.filter (·.dom == n)).foldl (fun s x => (s.stallFail x).stallLog x.rq 2 x.dom x.addr)
    (s.modTnd fun t => { t with stalls := t.stalls.filter (·.dom != n) })

/-- A single-bit error of a domain's memory is corrected: CORR of a Press or Calender tile (R125, R154), the Deckle's count (R318). -/
def memCorrected (n : Nat) (s : State) : State :=
  s.ifOn n fun s =>
    if 1 ≤ n ∧ n ≤ 4 then s.flag (Reg.PRS_T_STAT (n - 1)) 8
    else if 5 ≤ n ∧ n ≤ 8 then s.flag (Reg.CAL_T_STAT (n - 5)) 4
    else if n = 13 then s.modDkl fun d => { d with corr := d.corr + 1 }
    else s

/-- An uncorrectable error stands in the word of DRAM at an offset: the Mill's or the Tender's next fetch or load of it traps (R113). -/
def dramDamage (o : Nat) (s : State) : State :=
  if o < dramSize then { s with dramBad := sset (fun _ => false) s.dramBad (o / 4) true } else s

/-- DOMAIN_FAULT (R22): containment, with its report. Cause: 1 memory, 2 lockstep or sequencer, 3 rail, 4 thermal. -/
def domainFault (n cause addr : Nat) (s : State) : State :=
  if s.bits (Reg.PWR_DC_STAT n) 1 0 < 2 ∨ s.contained n then s
  else
    let s := s.domDrop n true
    let s := (s.setBit (Reg.PWR_DC_STAT n) 3 true).setBits (Reg.PWR_DC_STAT n) 7 4 cause
    let s := if 5 ≤ n ∧ n ≤ 8 then s.setBits (Reg.CAL_T_STAT (n - 5)) 1 0 3 else s
    let s := s.dcReport n 3 cause (s.rdN (Reg.PWR_DC_STAT n)) (if cause = 1 then addr else 0) 0
    (s.tndStat 8).stallsContained n

def execDomainFault (n : Fin 14) (cause : BitVec 4) (addr : Word) (s : State) : Out1 :=
  .next (if cause = 0 then memCorrected n.val s
    else if cause ≤ 4 then domainFault n.val cause.toNat addr.toNat s
    else if cause = 5 ∧ n = 0 then dramDamage addr.toNat s else s)

/-! ### A domain comes up (R408, R470) -/

/-- The resume record is valid (R391). -/
def resumeOk (s : State) : Bool :=
  s.aoW 0x1038 == 0xA0E50001 &&
  s.aoW 0x1008 == crc32c 0xFFFFFFFF true (memBytes zeroByte s.ao 0x1000 8 ++ memBytes zeroByte s.ao 0x1010 40)

/-- The MILL image of the slot in force: load address, NOR offset, size (R429). -/
def millImage (s : State) : Option (Nat × Nat × Nat) :=
  let ws := slotHdr s (selActive s)
  ((List.range (min (hw ws 10) 8)).find? fun i => (hdrImage ws i).1 == 3).map fun i =>
    (hw ws (19 + 4 * i) * 256, slotAt (selActive s) + 512 + (hdrImage ws i).2.1, (hdrImage ws i).2.2)

/-- The Mill starts: both cores run from address 0, the boot ROM (R118), which looks whether a wake left a valid resume record. -/
def State.millStart (s : State) : State :=
  if s.tnd.recovery then s
  else
    let boot := { coreHeld with run := .running }
    let resume := curState s == 5 && s.tnd.wakeFrom.isSome && resumeOk s
    ((s.setCore (.mill false) boot).setCore (.mill true) boot).modTnd fun t => { t with inRom := some resume }

/-- What the boot ROM does, whose code is not given: it jumps to the resume address on a wake that finds a valid record (R391), else
copies the MILL image to its load address and jumps there (R437); with no such image it goes on at 0. A core that has stopped stays. -/
def State.millJump (s : State) (resume : Bool) : State :=
  let s := s.modTnd fun t => { t with inRom := none }
  let go := fun (s : State) (id : CoreId) (pc : Nat) =>
    if (s.core id).run = .running then s.setCore id { s.core id with pc := BitVec.ofNat 64 pc } else s
  let both := fun (s : State) (pc : Nat) => go (go s (.mill false) pc) (.mill true) pc
  if resume then both s (rdz s.ao 0x1000 8)
  else
    match millImage s with
    | some (a, o, n) =>
      both (if inDram a n then ({ s with dram := memPutBytes zeroByte s.dram (a - dramBase) (memBytes erasedByte s.nor o n) }.mend (a - dramBase) n)
        else s) a
    | none => s

/-- The bytes of an image of the slot in force. -/
def imageBytes (s : State) (ty : Nat) : List Byte :=
  let i := selActive s
  let ws := slotHdr s i
  match (hdrImages ws).find? (·.1 == ty) with
  | some (_, o, n) => memBytes erasedByte s.nor (slotAt i + 512 + o) n
  | none => []

/-- The release of DC13's reset (R296, R299): the code memory holds the DECKLE image, which the Tender wrote during the reset, the core
starts at 0, and the unit enters START. -/
def State.deckleUp (s : State) : State :=
  let s := s.modDkl fun d => { d with mem := memPutBytes zeroByte d.mem 0 (imageBytes s 2) }
  (s.setCore .deckle { coreHeld with run := .running }).dklStat 8

/-- A domain becomes ON: CTL.RST and the reset flags clear, its stages follow the registers again, and what its chapter loads is
loaded. -/
def State.domUp (s : State) (n : Nat) : State :=
  let s := ((s.setDc n 3).setBit (Reg.PWR_DC_STAT n) 2 false).setBit (Reg.PWR_DC_CTL n) 3 false
  let s := if 5 ≤ n ∧ n ≤ 8 then s.setBit Reg.PWR_JOINT_RST (n - 5) false else s
  let s := (stationsOf n).foldl (fun s st => s.modFelt fun f => { f with kept := sset (fun _ => []) f.kept st [] }) s
  let s :=
    if n = 0 then (s.millStart).modTnd fun t => { t with mwdgFrom := s.clk, mwdgHalf := false }
    else if n = 10 then s.facLoad
    else if n = 11 then s.setBit Reg.PAIR_CFG 3 s.pair.strapB
    else if n = 12 then ((if s.reel.cold then s.reelRestore else s.reelKept).panelRecovery).updRegs
    else if n = 13 then s.deckleUp
    else s
  s.modTnd fun t => { t with cold := sset (fun _ => false) t.cold n false }

/-! ### Waking the module (R388-R391) -/

/-- The Tender clears the resume record's commit word (R391). -/
def State.noResume (s : State) : State := s.setAoW 0x1038 0

/-- Domains the flow names (R39): DC0, DC9-DC13 and the tiles whose TARGET is ON. -/
def State.wakeAll (s : State) : State :=
  (List.range 14).foldl (fun s n =>
    if n = 0 ∨ 9 ≤ n ∨ 2 ≤ s.bits (Reg.PWR_DC_CTL n) 1 0 then s.wake n else s) s

/-- A wake from WATCH, DOZE or a state entry; `src` as TND_WAKE.SRC. -/
def State.moduleWake (s : State) (src : Nat) : State :=
  let left := curState s
  let s := ((s.setBits Reg.TND_PSTATE 1 0 0).setBits Reg.TND_WAKE 12 8 src).modTnd fun t => { t with entry := none, wakeFrom := some left }
  let s := (((s.setCur 5).tndStat 3).tpend 3).logRec 0 0 3 src left 0
  s.wakeAll

/-! ### Resets (R392-R394) -/

/-- Latch a reset's cause; its log record waits for the cold boot (R469). -/
def State.latchCause (s : State) (c : Nat) : State :=
  let v := s.rdN Reg.TND_RESET_CAUSE / 65536 * 65536 + c
  (s.wrN Reg.TND_RESET_CAUSE v).modTnd fun t => { t with bootLog := some (BitVec.ofNat 32 v, BitVec.ofNat 32 s.rtcSec) }

/-- The severity of a reset record. -/
def causeSev (c : Nat) : Nat := if fbit c 4 || fbit c 5 then 3 else if fbit c 0 || fbit c 1 then 2 else 1

/-- The Tender core restarts at its ROM with its watchdog timed afresh; a cold boot is due. -/
def State.tenderStart (s : State) : State :=
  (s.setCore .tender { coreHeld with run := .running }).modTnd fun t =>
    { t with twdgLast := none, twdgFrom := s.clk, bootDue := true, recovery := false, entry := none, wakeFrom := none, stalls := [],
             mwdgExp := t.mwdgExp, sensOut := [] }

/-- R393: what a system reset does to the blocks, as if software had done it. -/
def State.sysActions (s : State) : State :=
  let s := (List.finRange 4).foldl (fun s t => if s.domOn (1 + t.val) then (List.finRange 8).foldl (fun s l => laneStop t l s) s else s) s
  let s := s.modCal fun c => { c with jobs := c.jobs.map fun j => { j with d := jobDesc s j } }
  let s := s.endJobsWhere (fun _ => true) 6 none
  let s := (List.range 8).foldl (fun s k => s.setBit (Reg.CAL_ARM_CFG k) 0 false) s
  let s := (List.range 16).foldl (fun s k => s.setBit (Reg.TIM_CMP_CFG k) 0 false) s
  let s := if s.domOn 11 then
      let s := pairCfg true ((s.stepDown).setBit Reg.PAIR_CFG 0 false)
      let s := (List.range 6).foldl (fun s n => canInit n true s) s
      plyNode true (s.setBit Reg.PLY_NODE 14 false)
    else s
  s

/-- Every core but the Deckle's and the Tender's is held in reset (R118, R392). -/
def State.holdAll (s : State) : State :=
  let s := (s.holdCore (.mill false)).holdCore (.mill true)
  let s := (List.finRange 4).foldl (fun s t => (List.finRange 8).foldl (fun s l => s.holdCore (.lane t l)) s) s
  s.modTnd fun t => { t with inRom := none }

/-- A system or watchdog reset: class S, every core but the Deckle's, the actions of R393 (R392). -/
def State.systemReset (s : State) (cause : Nat) : State :=
  let s := (s.latchCause cause).sysActions
  let s := s.holdAll
  let s := { s.dropS with tim := { timReset with armed := s.tim.armed }, nbb := { s.nbb with time := nbbTimeReset },
                          lib := libReset, resp := .idle }
  let s := s.setBit Reg.TND_MWDG 15 false
  s.noResume.tenderStart

/-- SYS_RST (R393): the value 0x0000_D0A5 alone. -/
def execSysRst (v : Word) (s : State) : Out1 := .next (if v = 0xD0A5 then s.systemReset 8 else s)

/-- A Mill-only soft reset (R392): both logical cores; its record is written at once. -/
def State.softReset (s : State) (extra : Nat) : State :=
  if !s.domOn 0 then s
  else
    let s := s.latchCause (64 + extra)
    let v := s.rdN Reg.TND_RESET_CAUSE
    let s := (s.logRec 0 (causeSev v) (0x100 + v % 128) v s.rtcSec 0).modTnd fun t =>
      { t with bootLog := none, mwdgFrom := s.clk, mwdgHalf := false,
               stalls := t.stalls.filter fun x => !(x.rq == .mill0 || x.rq == .mill1) }
    s.millStart

def execSoftRst (s : State) : Out1 := .next (s.softReset 0)

/-- MWDG_EXPIRE (R394): a soft or system reset; the second expiry within 10 s is a system reset. -/
def mwdgExpire (s : State) : State :=
  if !mwdgRuns s ∨ s.clk < s.tnd.mwdgFrom + mwdgTimeout s then s
  else
    let again := match s.tnd.mwdgExp with | some t => decide (s.clk ≤ t + 10000000000) | none => false
    let s := s.modTnd fun t => { t with mwdgExp := some s.clk }
    if s.bit Reg.TND_MWDG 14 || again then s.systemReset (32 + 8) else s.softReset 32

def execMwdgExpire (s : State) : Out1 := .next (mwdgExpire s)

/-- A Tender watchdog reset; during a flush it waits (R402). -/
def State.twdgReset (s : State) : State := if s.tnd.supply = .shed then s else s.systemReset 16

/-- TWDG_WRITE (R384): only the Tender core's writes count; an early one resets. -/
def twdgWrite (rq : Requester) (s : State) : State :=
  if rq ≠ .tender then s
  else
    match s.tnd.twdgLast with
    | none => s.modTnd fun t => { t with twdgLast := some s.clk }
    | some t0 => if s.clk < t0 + 10000000 then s.twdgReset else s.modTnd fun t => { t with twdgLast := some s.clk }

def execTwdgWrite (rq : Requester) (s : State) : Out1 := .next (twdgWrite rq s)

/-- TWDG_EXPIRE (R384): no accepted write for 1 s. -/
def twdgExpire (s : State) : State :=
  match s.tnd.supply with
  | .off _ => s
  | _ =>
    let from_ := match s.tnd.twdgLast with | some t => t | none => s.tnd.twdgFrom
    if s.clk < from_ + 1000000000 then s else s.twdgReset

def execTwdgExpire (s : State) : Out1 := .next (twdgExpire s)

/-- Every domain loses its supply; a power-on or brown-out ends every containment (R395). -/
def State.allOff (s : State) : State :=
  (List.range 14).foldl (fun s n => ((s.setBits (Reg.PWR_DC_STAT n) 7 2 0).domTake n 0)) s

/-- What OFF does not keep (R396): class D and S, DRAM, the Tender's memories, always-on SRAM beyond the backup page. -/
def State.offLoss (s : State) : State :=
  let s := s.allOff.dropS
  let s := { s with dram := [], dramBad := [], ao := sdrop (fun a => decide (0x1000 ≤ a)) s.ao, tim := timReset, nbb := nbbReset, lib := libReset,
                    felt := feltReset, resp := .idle }
  let s := (s.holdCore .tender).modDkl fun d => { d with accept := 0 }
  ((s.setBit Reg.TND_MWDG 15 false).setBits Reg.TND_PSTATE 1 0 0).modTnd fun t =>
    { t with mem := [], stalls := [], entry := none, wakeFrom := none, charged := false }

/-- BROWN_OUT_RESET (R392): raised at once; the cold boot waits for a feed. -/
def brownOut (s : State) : State :=
  match s.tnd.supply with
  | .off _ => s
  | _ => ((s.latchCause 2).offLoss).modTnd fun t => { t with supply := .off false }

def execBrownOutReset (s : State) : Out1 := .next (brownOut s)

/-- POWER_ON_RESET (R392): all but the non-volatile stores and class P. `open_`: PAIR_ID as sampled (R355). -/
def powerOn (open_ : Bool) (s : State) : State :=
  let z := State.reset
  let s' := { z with pending := s.pending, clk := s.clk, freeIdx := s.freeIdx, out := s.out, nor := s.nor, mram := s.mram,
                     upd := { s.upd with block := none },
                     reel := { z.reel with archive := s.reel.archive },
                     pair := { z.pair with strapB := open_ }, dkl := { z.dkl with slot := s.dkl.slot },
                     tnd := { z.tnd with nandLog := s.tnd.nandLog, twdgFrom := s.clk, bootLog := some (1, 0) } }
  if rdz s'.mram 0x1FFC 4 = 0xE90C0001 then s'.wrN Reg.PAIR_EPOCH (rdz s'.mram 0x1000 4) else s'

def execPowerOnReset (open_ : Bool) (s : State) : Out1 := .next (powerOn open_ s)

/-- FEED_RETURN (R401): a feed at 18 V for 100 ms. After a power-fail sequence the brown-out reset is raised now; then the cold boot
may start. -/
def feedReturn (s : State) : State :=
  match s.tnd.supply with
  | .off pf =>
    let s := if pf then (s.latchCause 6).offLoss else s
    (s.modTnd fun t => { t with supply := .good }).tenderStart
  | _ => s

def execFeedReturn (s : State) : Out1 := .next (feedReturn s)

/-! ### Power states (R387-R391) -/

/-- May WATCH, DOZE or HOLD be requested (R388)? WATCH is entered from RUN alone; the others from RUN, or from a state that keeps more.
DESIGN CHOICE: not while the module wakes. -/
def pstateOk (s : State) (v : Nat) : Bool :=
  !s.bit Reg.UPD_ACT_CTL 0 && !holder s && decide (curState s < v) && decide (v = 1 → s.bits Reg.PAIR_CFG 2 1 = 1)

def State.pstRefused (s : State) (v : Nat) : State := (s.tndStat 4).logRec 0 1 4 v (curState s) 0

/-- A wake source takes effect: out of HOLD through a system reset. -/
def State.wakeBy (s : State) (src : Nat) : State :=
  let cur := curState s
  if !canWake s then s
  else if cur = 1 ∨ cur = 2 ∨ cur = 4 then s.moduleWake src
  else if cur = 3 then ((s.moduleWake src).systemReset 8)
  else s

/-- PSTATE_REQ (R388): the entry begins by disarming the triggers. -/
def pstateReq (v : Nat) (s : State) : State :=
  let cur := curState s
  if v = 0 then (if cur = 0 ∨ cur = 5 then s else s.wakeBy 7)
  else if cur = v ∧ 2 ≤ v then s
  else if pstateOk s v then
    let s := (s.setBits Reg.TND_PSTATE 1 0 v).setCur 4
    ({ s with tim := { s.tim with armed := false } }).modTnd fun t => { t with entry := some (v, 0) }
  else s.pstRefused v

def execPstateReq (v : BitVec 2) (s : State) : Out1 := .next (pstateReq v.toNat s)

/-- The order of R388, and the state each domain takes in WATCH, DOZE and HOLD (R387; 3: stays ON). -/
def entryOrder : List Nat := [1, 2, 3, 4, 5, 6, 7, 8, 10, 9, 0, 13, 11, 12]
def entryTarget (v n : Nat) : Nat :=
  if v = 3 then 0
  else if n = 9 ∨ (1 ≤ n ∧ n ≤ 4) then 1
  else if v = 1 then (if 11 ≤ n then 3 else 0)
  else if n = 12 then 1 else 0

/-- One step of an entry. Before DC10 goes the Tender takes a final reading of the valves (R423); before DC12 goes to OFF the Reel
flushes (R421). -/
def State.entryStep (s : State) (v n : Nat) : State :=
  let t := entryTarget v n
  let s := if n = 10 then (List.range 16).foldl State.pollSw s else s
  let s := if n = 12 ∧ v = 3 ∧ !s.reel.cold ∧ !s.contained 12 then
      let s := if s.domOn 12 then s else s.reelKept
      ((s.reelDrain s.reel.queue.length).reelFlushed) else s
  if t = 3 then s else s.domTake n t

/-- STATE_ENTRY_DONE (R388): the entry's first `k` domains are at their targets; with all 14 it is complete. -/
def stateEntry (k : Nat) (s : State) : State :=
  match s.tnd.entry with
  | none => s
  | some (v, d) =>
    let s := ((entryOrder.drop d).take (k - d)).foldl (fun s n => s.entryStep v n) s
    if 14 ≤ k then
      let s := s.counterMerge
      let s := (s.setCur v).modTnd fun t => { t with entry := none }
      let s := if v = 3 then { s with dram := [], dramBad := [] } else s
      if v = 1 then (s.setLink 1 false false).setLink 3 false false else s
    else s.modTnd fun t => { t with entry := some (v, max d k) }

def execStateEntryDone (k : Nat) (s : State) : Out1 := .next (stateEntry k s)

/-- WAKE_DONE (R391): the domains of the flow are ON; CUR reads RUN, from where TARGET counts again (R387), and trigger delivery is armed. A non-holder's 100 ms without a
publication (R372) run from here. -/
def wakeDone (s : State) : State :=
  if curState s = 5 ∧ [0, 9, 10, 11, 12, 13].all (fun n => s.domOn n || s.contained n) then
    let s := if s.tnd.wakeFrom = some 3 then s.noResume else s
    let s := ({ s with tim := { s.tim with armed := true }, lib := { s.lib with pubAt := s.clk } }.setCur 0).modTnd fun t =>
      { t with wakeFrom := none }
    (List.range 14).foldl State.applyTarget s
  else s

def execWakeDone (s : State) : Out1 := .next (wakeDone s)

/-- RTC_ALARM (R389): due once the RTC is at or beyond the alarm; it wakes if enabled, and in every state it is then cleared. -/
def rtcAlarm (s : State) : State :=
  let a := s.rd64 Reg.TND_ALARM_LO Reg.TND_ALARM_HI
  if a = 0 ∨ s.rtc < a then s
  else
    let s := s.wr64 Reg.TND_ALARM_LO Reg.TND_ALARM_HI 0
    match s.tnd.supply with
    | .off _ => s
    | _ => if s.bit Reg.TND_WAKE 0 then s.wakeBy 1 else s

def execRtcAlarm (s : State) : Out1 := .next (rtcAlarm s)

/-- J17_WAKE and CAN0_WAKE (R389). -/
def execJ17Wake (s : State) : Out1 := .next (if s.bit Reg.TND_WAKE 1 then s.wakeBy 2 else s)
def execCan0Wake (s : State) : Out1 := .next (if s.bit Reg.TND_WAKE 2 then s.wakeBy 3 else s)

/-- PLY_WAKE_FRAME (R389): for WATCH alone. -/
def plyWake (s : State) : State := if inWatch s ∧ s.bit Reg.TND_WAKE 3 then s.wakeBy 4 else s

def execPlyWakeFrame (s : State) : Out1 := .next (plyWake s)

/-- RETURN_TO_SLEEP (R372): a non-holder in WATCH mode that has published nothing for 100 ms. -/
def returnToSleep (s : State) : State :=
  if curState s = 0 ∧ s.domOn 11 ∧ pairMode s = 1 ∧ !holder s ∧ !twinNow s ∧ s.lib.pubAt + 100000000 ≤ s.clk then pstateReq 1 s
  else s

def execReturnToSleep (s : State) : Out1 := .next (returnToSleep s)

/-! ### Power failure (R398-R402) -/

/-- POWER_FAIL_WARNING: armed once the hold-up store has charged (R456). -/
def powerWarn (s : State) : State :=
  if s.tnd.supply = .good ∧ s.tnd.charged then ((s.modTnd fun t => { t with supply := .warned s.clk }).tndStat 2).tpend 2 else s

def execPowerFailWarning (s : State) : Out1 := .next (powerWarn s)

/-- RIDE in ns: values above 20 ms are taken as 20. -/
def rideNs (s : State) : Nat := min (s.bits Reg.TND_PFAIL_CFG 4 0) 20 * 1000000

/-- PFW_END: 16 V for a 1 ms complete within RIDE. -/
def pfwEnd (s : State) : State :=
  match s.tnd.supply with
  | .warned t =>
    if s.clk ≤ t + rideNs s ∧ t + 1000000 ≤ s.clk then
      (s.modTnd fun x => { x with supply := .good }).logRec 0 2 2 (s.rdN (Reg.TND_SENS 6)) (s.rdN (Reg.TND_SENS 7)) 1
    else s
  | _ => s

def execPfwEnd (s : State) : Out1 := .next (pfwEnd s)

/-- RIDE_END: load is shed (R399): DC1-DC11 go OFF, the Mill stops; a state entry or wake stops; DC12 is brought ON from RETAIN. -/
def rideEnd (s : State) : State :=
  match s.tnd.supply with
  | .warned t =>
    if s.clk < t + rideNs s then s
    else
      let s := (s.modTnd fun x => { x with supply := .shed, entry := none, wakeFrom := none }).logRec 0 2 2
        (s.rdN (Reg.TND_SENS 6)) (s.rdN (Reg.TND_SENS 7)) 0
      let s := ((List.range 11).map (· + 1)).foldl (fun s n => s.domTake n 0) s
      let s := ((s.holdCore (.mill false)).holdCore (.mill true)).modTnd fun t => { t with inRom := none }
      if s.bits (Reg.PWR_DC_STAT 12) 1 0 = 1 ∧ !s.contained 12 then s.domUp 12 else s
  | _ => s

def execRideEnd (s : State) : Out1 := .next (rideEnd s)

/-- The memory a physical range lies in, with its domain (R36): DRAM, MRAM, always-on SRAM, boot NOR. -/
def physMem (s : State) (a n : Nat) : Option (Nat × SMap Byte × (Nat → Byte) × Nat) :=
  if inDram a n then some (0, s.dram, zeroByte, a - dramBase)
  else if 0x80000000 ≤ a ∧ a + n ≤ 0x84000000 then some (12, s.mram, zeroByte, a - 0x80000000)
  else if 0xC0000000 ≤ a ∧ a + n ≤ 0xC0040000 then some (14, s.ao, zeroByte, a - 0xC0000000)
  else if 0x40000000 ≤ a ∧ a + n ≤ 0x44000000 then some (12, s.nor, erasedByte, a - 0x40000000)
  else none

/-- Bytes of a list as a sparse memory from 0. -/
def asMem (bs : List Byte) : SMap Byte := memPutBytes zeroByte [] 0 bs

/-- Write one flush item at offset `o` of the area, where it fits; the next offset. -/
def State.flushItem (s : State) (o id len : Nat) (data : SMap Byte) : State × Nat :=
  if 0x800000 < o + len + 24 then (s, o)
  else ({ s with mram := flushRec s.mram (flushArea + o) id len s.rtc data }, o + len + 24)

/-- Segment n: skipped and logged where its source is not in a memory of a domain that is ON, or its record does not fit. -/
def State.flushSeg (p : State × Nat) (n : Nat) : State × Nat :=
  let (s, o) := p
  let len := s.rdN (Reg.TND_FLUSH n 2)
  let a := s.rd64 (Reg.TND_FLUSH n 0) (Reg.TND_FLUSH n 1)
  if len = 0 then (s, o)
  else
    match physMem s a len with
    | some (dom, m, d, k) =>
      if (dom = 14 ∨ s.domOn dom) ∧ o + len + 24 ≤ 0x800000 then
        s.flushItem o (s.rdN (Reg.TND_FLUSH n 3)) len (asMem (memBytes d m k len))
      else (s.logRec 0 1 6 n len 1, o)
    | none => (s.logRec 0 1 6 n len 1, o)

/-- POWER_FAIL_FLUSH (R400): the Reel's buffer, the lifetime area after a merge, the unwritten log records, which are also copied (R386), the
segments; then every domain goes OFF. The items' own IDs are not stated. -/
def powerFlush (s : State) : State :=
  if s.tnd.supply ≠ .shed then s
  else
    let s := s.reelDrain s.reel.queue.length
    let s := if s.reel.cold then s else s.reelWrite
    let s := s.counterMerge
    let (i2, s) := s.free
    let (i3, s) := s.free
    let life := (s.mram.filter fun e => decide (lifeArea ≤ e.1) && decide (e.1 < lifeArea + 0xC000)).map fun e => (e.1 - lifeArea, e.2)
    let (s, o) := s.flushItem 0x100018 i2.toNat 0xC000 life
    let is := unwritten s
    let (s, o) := s.flushItem o i3.toNat (32 * is.length) (asMem (is.flatMap fun i => memBytes zeroByte s.ao (0x2000 + 32 * i) 32))
    let s := ((List.range 16).foldl State.flushSeg (s, o)).1
    (logCopy s).offLoss.modTnd fun t => { t with supply := .off true }

def execPowerFailFlush (s : State) : Out1 := .next (powerFlush s)

/-! ### Cold boot (R392, R408, R437, R441) -/

/-- The factory calibration block's signature (R408, R428). -/
def factoryOk (s : State) : Bool :=
  norRd s 0 4 == 0xFAC70001 &&
  Config.ecdsaOk 0 (memBytes erasedByte s.nor 0 0x3FFA0) (memBytes erasedByte s.nor 0x3FFA0 96)

/-- Fall back (R441): the fallback slot ACTIVE, TRIAL clear, FELL_BACK; then a system reset with a reset of DC13. -/
def State.fallBack (s : State) : State :=
  let s := s.selCommit ((1 - selActive s) + 4) (selW s 0x10) (selW s 0xC) (selFloor s) 0 0
  let s := ((s.updStat 10).logOwn 18 1).systemReset 8
  if s.domOn 13 then s.domReset 13 else s

/-- Step 1 of R437: with no valid selector, slot A if valid, else slot B, with a CONFIRMED selector. -/
def State.chooseSlot (s : State) : State :=
  if (selCopy s).isSome then s
  else
    let i := if slotValid s 0 then 0 else 1
    s.selCommit i (hdrVersion (slotHdr s i)) (hdrVersion (slotHdr s (1 - i))) 0 0 0

/-- Load the TENDER image and start the module, the Mill too where DC0 has stayed ON (R392); the DECKLE image goes in before DC13's reset is released (`State.deckleUp`). -/
def State.bootLoad (s : State) : State :=
  let s := s.modTnd fun t => { t with mem := memPutBytes zeroByte t.mem 0x10000 (imageBytes s 1) }
  let s := (s.setCur 5).wakeAll
  if s.domOn 0 then (s.millStart).modTnd fun t => { t with mwdgFrom := s.clk, mwdgHalf := false } else s

/-- COLD_BOOT (R437): the Tender ROM chooses the slot, loads the images and starts the module, or enters RECOVERY. -/
def coldBoot (s : State) : State :=
  if !s.tnd.bootDue ∨ s.tnd.supply ≠ .good then s
  else
    let boots := s.bits Reg.TND_RESET_CAUSE 31 16
    let s := s.setBits Reg.TND_RESET_CAUSE 31 16 (min (boots + 1) 65535)
    let s := match s.tnd.bootLog with
      | some (v, t) => s.logRec 0 (causeSev v.toNat) (0x100 + v.toNat % 128) (s.rdN Reg.TND_RESET_CAUSE) t.toNat 0
      | none => s
    let s := s.noResume.modTnd fun t => { t with bootDue := false, bootLog := none }
    let s := if factoryOk s then s.setBit Reg.TND_STAT 7 false
      else (s.tndStat 7).logRec 0 3 7 0 0 0
    let s := (s.countersBoot.calRegs).chooseSlot
    let s := if selTrial s && s.bit Reg.TND_RESET_CAUSE 0 then
        s.selCommit (selW s 8) (selW s 0xC) (selW s 0x10) (selFloor s) s.rtcSec (selW s 0x1C)
      else s
    if selTrial s && (selBoots s == 3 || trialLeft s == 0) then s.fallBack
    else
      let s := if selTrial s then
          s.selCommit (selW s 8 + 8) (selW s 0xC) (selW s 0x10) (selFloor s) (selW s 0x18) (selW s 0x1C)
        else s
      if slotValid s (selActive s) then s.bootLoad
      else if selTrial s then s.fallBack
      else (s.modTnd fun t => { t with recovery := true }).setStage 5

def execColdBoot (s : State) : Out1 := .next (coldBoot s)

/-- RECOVERY_FURNISH (R437): in RECOVERY a furnish through J17; one that passes every check is taken into slot A and boots. -/
def recoveryFurnish (hdr : List Word) (body : List Byte) (s : State) : State :=
  if !s.tnd.recovery then s
  else
    let r := hdrCheck s hdr
    if r ≠ 0 ∨ !bodyOk hdr body ∨ body.length ≠ hdrLen hdr then s.setBits Reg.UPD_STATE 6 3 r
    else
      let s := { s with nor := memPut erasedByte (memPutBytes erasedByte s.nor (slotAt 0 + 512) body) (slotAt 0) hdr }
      let s := s.selCommit 0 (hdrVersion hdr) (selW s 0xC) (selFloor s) 0 0
      (s.setStage 0).modTnd fun t => { t with recovery := false, bootDue := true }

def execRecoveryFurnish (hdr : List Word) (body : List Byte) (s : State) : Out1 := .next (recoveryFurnish hdr body s)

/-- TRIAL_FALLBACK (R441): the RTC has passed the trial window. -/
def trialFallback (s : State) : State :=
  if selTrial s ∧ selW s 0x18 + selW s 0x1C < s.rtcSec then s.fallBack else s

def execTrialFallback (s : State) : Out1 := .next (trialFallback s)

/-- ACTIVATION (R438): at the instant, by ARM. -/
def activation (s : State) : State :=
  if !s.bit Reg.UPD_ACT_CTL 0 ∨ s.ext < s.rd64 Reg.UPD_ACT_LO Reg.UPD_ACT_HI then s
  else
    let s := (s.setBit Reg.UPD_ACT_CTL 0 false).modUpd fun u => { u with sched := false }
    if !s.bit Reg.UPD_ACT_CTL 1 then s.updStat 9
    else
      let i := 1 - selActive s
      let ws := slotHdr s i
      let s := s.selCommit (i + 2) (hdrVersion ws) (selW s 0xC) (selFloor s) s.rtcSec (hdrWindow ws)
      let s := ((s.modUpd fun _ => updReset).setStage 0).systemReset 8
      if s.domOn 13 then s.domReset 13 else s

def execActivation (s : State) : Out1 := .next (s.ifOn 12 activation)

end Sys2Proof.Machine
end

