-- ==== Sys2Proof/Machine/Ramp.lean ====
section
/-! DEFINITION. The kinematics of the station-keeping library: an estimate carried forward, the deviation from the set-points, and the
motion of the set-points along their ramps and tracks (R44, R48, R54, R57-R59, R61, R62). Values are binary64 encodings; the order of the operations is
the model's (DESIGN CHOICE). -/

namespace Sys2Proof.Machine

def fLt (x y : Nat) : Bool := fpLtB f64 x y
def fAbs (x : Nat) : Nat := x % 2 ^ 63
def fNeg (x : Nat) : Nat := (x + 2 ^ 63) % 2 ^ 64
def fSqrt (x : Nat) : Nat := (fpSqrt f64 0 x).1
def fMin (x y : Nat) : Nat := if fLt y x then y else x
def fHyp (x y : Nat) : Nat := fSqrt (fA (fM x x) (fM y y))
def fIsZero (x : Nat) : Bool := fAbs x == 0
def fOf32 (x : Word) : Nat := (fpCast f32 f64 0 x.toNat).1
def fTo32 (x : Nat) : Word := BitVec.ofNat 32 (fpCast f64 f32 0 x).1
def fHalf : Nat := 0x3FE0000000000000
def f180 : Nat := 0x4066800000000000
def f360 : Nat := 0x4076800000000000

/-- The positioning cycle, 0.02 s. -/
def fCycle : Nat := 0x3F947AE147AE147B

/-- Entry `i` of a list of binary64 values. -/
def dAt (xs : List DWord) (i : Nat) : Nat := ((xs[i]?).getD 0).toNat
def dOf (xs : List Nat) : List DWord := xs.map (BitVec.ofNat 64)

/-- A heading in 0 to less than 360. -/
def norm360 (h : Nat) : Nat := if fLt h 0 then fA h f360 else if fLt h f360 then h else fS h f360

/-- The turn from one heading to another the shorter way, in (-180, 180]: exactly 180 is clockwise (R61). -/
def turnTo (h t : Nat) : Nat :=
  let x := fS t h
  if fLt f180 x then fS x f360 else if fLt (fNeg f180) x then x else fA x f360

/-- An estimate: north, east, heading, velocity north and east, yaw rate. It is extrapolated by 20 ms with its own rates (R44). -/
def extrapolate (e : List DWord) : List DWord :=
  dOf [fA (dAt e 0) (fM fCycle (dAt e 3)), fA (dAt e 1) (fM fCycle (dAt e 4)), norm360 (fA (dAt e 2) (fM fCycle (dAt e 5))),
    dAt e 3, dAt e 4, dAt e 5]

/-- r and e of R54: horizontal distance and absolute heading error, binary32. -/
def deviation (est sp : List DWord) : Word × Word :=
  (fTo32 (fHyp (fS (dAt est 0) (dAt sp 0)) (fS (dAt est 1) (dAt sp 1))), fTo32 (fAbs (turnTo (dAt sp 2) (dAt est 2))))

/-- One cycle of a motion over a distance `d` to go at a speed `v` towards the target (negative: away from it), within a speed `lim` and
an acceleration `a`: accelerate, cruise, decelerate, arriving with zero speed (R61). Distance moved, speed, arrival. -/
def profStep (d v lim a : Nat) : Nat × Nat × Bool :=
  let adt := fM a fCycle
  let drop := fM fHalf (fM adt fCycle)
  if fIsZero d && fIsZero v then (0, 0, true)
  else if fLt 0 v && !fLt (fM v v) (fM (fA a a) d) then
    if fLt adt v then (fS (fM v fCycle) drop, fS v adt, false) else (d, 0, true)
  else
    let top := if fLt lim v then lim else fMin lim (fSqrt (fA (fM a d) (fM fHalf (fM v v))))
    let t1 := fD (fAbs (fS top v)) a
    let d1 := fM (fM fHalf (fA v top)) t1
    let d3 := fD (fM top top) (fA a a)
    let t3 := fD top a
    let t2 := let x := fD (fS (fS d d1) d3) top; if fLt x 0 then 0 else x
    if !fLt t1 fCycle then
      (if fLt top v then (fS (fM v fCycle) drop, fS v adt, false) else (fA (fM v fCycle) drop, fA v adt, false))
    else if !fLt (fA t1 t2) fCycle then (fA d1 (fM top (fS fCycle t1)), top, false)
    else if fLt fCycle (fA (fA t1 t2) t3) then
      let x := fS fCycle (fA t1 t2)
      (fA (fA d1 (fM top t2)) (fS (fM top x) (fM fHalf (fM a (fM x x)))), fS top (fM a x), false)
    else (d, 0, true)

/-- A speed across the path decays to zero at `a`: the way gone in the cycle and the speed left (R62). -/
def decay (c a : Nat) : Nat × Nat :=
  let adt := fM a fCycle
  if fLt adt c then (fM fCycle (fS c (fM fHalf adt)), fS c adt) else (fD (fM c c) (fA a a), 0)

/-- One cycle of the position set-point on its straight line to the target (R61, R62): new position, velocity, arrival. -/
def posStep (n e vn ve tn te lim a : Nat) : (Nat × Nat) × (Nat × Nat) × Bool :=
  let dn := fS tn n
  let de := fS te e
  let dist := fHyp dn de
  let v := fHyp vn ve
  if fIsZero dist && fIsZero v then ((tn, te), (0, 0), true)
  else
    let un := if fIsZero dist then fD vn v else fD dn dist
    let ue := if fIsZero dist then fD ve v else fD de dist
    let along := fA (fM vn un) (fM ve ue)
    let cn := fS vn (fM along un)
    let ce := fS ve (fM along ue)
    let c := fHyp cn ce
    let (go, v', arrived) := profStep dist along lim a
    let (slip, c') := decay c a
    let xn := if fIsZero c then 0 else fD cn c
    let xe := if fIsZero c then 0 else fD ce c
    if arrived && fIsZero c' then ((tn, te), (0, 0), true)
    else ((fA (fA n (fM un go)) (fM xn slip), fA (fA e (fM ue go)) (fM xe slip)),
          (fA (fM un v') (fM xn c'), fA (fM ue v') (fM xe c')), false)

/-- One cycle of the heading set-point, turning the shorter way (R61, R62): new heading, rate, arrival. -/
def hdgStep (h w t lim a : Nat) : Nat × Nat × Bool :=
  let x := turnTo h t
  let left := if fIsZero x then fLt w 0 else fLt x 0
  let sgn := fun y => if left then fNeg y else y
  let (go, w', arrived) := profStep (fAbs x) (sgn w) lim a
  if arrived then (t, 0, true) else (norm360 (fA h (sgn go)), sgn w', false)

/-- One cycle of every set-point. Ramp state: velocity north and east, yaw rate. `pos`: the position is controlled automatically too.
New set-points and state, and whether every one has reached its target. -/
def rampStep (pos : Bool) (speed accel yawRate yawAcc : Word) (sp ramp tgt : List DWord) : List DWord × List DWord × Bool :=
  let p := if pos then posStep (dAt sp 0) (dAt sp 1) (dAt ramp 0) (dAt ramp 1) (dAt tgt 0) (dAt tgt 1) (fOf32 speed) (fOf32 accel)
    else ((dAt sp 0, dAt sp 1), (0, 0), true)
  let h := hdgStep (dAt sp 2) (dAt ramp 2) (dAt tgt 2) (fOf32 yawRate) (fOf32 yawAcc)
  (dOf [p.1.1, p.1.2, h.1], dOf [p.2.1.1, p.2.1.2, h.2.1], p.2.2 && h.2.2)

/-- A fusion track's position plus an offset, and the heading target (R59); `trk`: words 1 and 2 of its record. -/
def trackTarget (trk : List Word) (offN offE : Word) (hdg : DWord) : List DWord :=
  dOf [fA (fOf32 (trk.getD 0 0)) (fOf32 offN), fA (fOf32 (trk.getD 1 0)) (fOf32 offE), hdg.toNat]

/-- Waypoint `i` of a table's words (R57), and its position. -/
def wayPt (ws : List Word) (i : Nat) : List Word := (ws.drop (2 + 8 * i)).take 8
def wordD (ws : List Word) (i : Nat) : Nat := (ws.getD i 0).toNat + 2 ^ 32 * (ws.getD (i + 1) 0).toNat
def wayD (ws : List Word) (i : Nat) : Nat × Nat := (wordD (wayPt ws i) 0, wordD (wayPt ws i) 2)

/-- The way from a position over a list of points. -/
def wayLeft : Nat × Nat → List (Nat × Nat) → Nat
  | _, [] => 0
  | p, q :: qs => fA (fHyp (fS q.1 p.1) (fS q.2 p.2)) (wayLeft q qs)

/-- Go a distance over a list of points: where that leads, and how many of the points are passed; the last is not. -/
def goAlong : Nat × Nat → List (Nat × Nat) → Nat → (Nat × Nat) × Nat
  | p, [], _ => (p, 0)
  | p, q :: qs, go =>
    let d := fHyp (fS q.1 p.1) (fS q.2 p.2)
    if fLt go d then ((fA p.1 (fM (fD (fS q.1 p.1) d) go), fA p.2 (fM (fD (fS q.2 p.2) d) go)), 0)
    else match qs with
      | [] => (q, 0)
      | _ :: _ => let (r, k) := goAlong q qs (fS go d); (r, k + 1)

/-- The unit vector from one position to another; none between equal ones. -/
def unitTo (p q : Nat × Nat) : Option (Nat × Nat) :=
  let d := fHyp (fS q.1 p.1) (fS q.2 p.2)
  if fIsZero d then none else some (fD (fS q.1 p.1) d, fD (fS q.2 p.2) d)

/-- One cycle along a waypoint table (R58). The position set-point moves to waypoint `leg` and on over those that follow it, within
RAMP_ACCEL and up to the leg speed of the leg it is on, so that it stops at the last; the heading set-point turns to that waypoint's
heading. DESIGN CHOICE: a leg's speed is that of the waypoint at its end; speed along the path is carried round a waypoint, and speed
across it decays as in R62. New set-points, ramp state and waypoint; whether the set-point stands at the last waypoint, and with its
heading too. -/
def trackStep (ws : List Word) (leg : Nat) (accel yawRate yawAcc : Word) (sp ramp : List DWord) :
    List DWord × List DWord × Nat × Bool × Bool :=
  let n := (ws.getD 0 0).toNat
  let i := min leg (n - 1)
  let pts := ((List.range n).drop i).map (wayD ws)
  let p := (dAt sp 0, dAt sp 1)
  let v := (dAt ramp 0, dAt ramp 1)
  let a := fOf32 accel
  let h := hdgStep (dAt sp 2) (dAt ramp 2) (wordD (wayPt ws i) 4) (fOf32 yawRate) (fOf32 yawAcc)
  let u := (unitTo p (wayD ws i)).getD (0, 0)
  let along := fA (fM v.1 u.1) (fM v.2 u.2)
  let cross := (fS v.1 (fM along u.1), fS v.2 (fM along u.2))
  let c := fHyp cross.1 cross.2
  let (go, v', arrived) := profStep (wayLeft p pts) along (fOf32 ((wayPt ws i).getD 6 0)) a
  let (slip, c') := decay c a
  let x := if fIsZero c then (0, 0) else (fD cross.1 c, fD cross.2 c)
  if arrived && fIsZero c' then
    let q := wayD ws (n - 1)
    (dOf [q.1, q.2, h.1], dOf [0, 0, h.2.1], n - 1, true, h.2.2 && i == n - 1)
  else
    let (q, k) := goAlong p pts go
    let u' := if k = 0 then u else (unitTo q (wayD ws (i + k))).getD u
    (dOf [fA q.1 (fM x.1 slip), fA q.2 (fM x.2 slip), h.1],
     dOf [fA (fM u'.1 v') (fM x.1 c'), fA (fM u'.2 v') (fM x.2 c'), h.2.1], i + k, false, false)

/-! ### The approach of a drive-tick loop (R48): RMP once per drive tick of 0.001 s -/

def gTick : Word := 0x3A83126F

/-- A set-point approaches its target within a limit per second; whether it is rate-limited. -/
def approach (x tgt lim : Word) : Word × Bool :=
  let st := (fpMul f32 0 lim.toNat gTick.toNat).1
  let r := rmp x.toNat tgt.toNat st st
  (BitVec.ofNat 32 r.1, r.2.1 != 0)

/-- An azimuth, in turns, approaches its target the shorter way within a limit in degrees per second (DESIGN CHOICE: the direction). -/
def approachTurn (x tgt lim : Word) : Word × Bool :=
  let sub := fun a b => (fpSub f32 0 a b).1
  let half := 0x3F000000
  let d := sub tgt.toNat x.toNat
  let d := if fpLtB f32 half d then sub d 0x3F800000 else if fpLtB f32 d 0xBF000000 then (fpAdd f32 0 d 0x3F800000).1 else d
  let st := (fpDiv f32 0 (fpMul f32 0 lim.toNat gTick.toNat).1 0x43B40000).1
  let r := rmp 0 d st st
  if r.2.1 = 0 then (tgt, false)
  else
    let y := (fpAdd f32 0 x.toNat r.1).1
    let y := if fpLtB f32 y 0 then (fpAdd f32 0 y 0x3F800000).1 else if fpLtB f32 y 0x3F800000 then y else sub y 0x3F800000
    (BitVec.ofNat 32 y, true)

/-- Two waypoints less than 0.5 m apart (R57). -/
def tooClose (a b : List Word) : Bool :=
  let d := fun (i : Nat) => fS ((a.getD i 0).toNat + 2 ^ 32 * (a.getD (i + 1) 0).toNat) ((b.getD i 0).toNat + 2 ^ 32 * (b.getD (i + 1) 0).toNat)
  fLt (fA (fM (d 0) (d 0)) (fM (d 2) (d 2))) 0x3FD0000000000000

end Sys2Proof.Machine
end

