-- ==== Sys2Proof/Machine/Lib.lean ====
section
/-! DEFINITION. The station-keeping library's steps: input block, control law, command publication, PTP servo, serial stamps
(R40-R76, R173-R177, R241, R242, R290, R291). Constants of Config stand for what the spec names only. -/

namespace Sys2Proof.Machine

def State.modLib (s : State) (f : LibSt → LibSt) : State := { s with lib := f s.lib }

/-- Word `i` of a list; 0 beyond its end. -/
def wAt (ws : List Word) (i : Nat) : Word := (ws[i]?).getD 0
def dwAt (ws : List Word) (i : Nat) : DWord := BitVec.ofNat 64 ((wAt ws i).toNat + 2 ^ 32 * (wAt ws (i + 1)).toNat)

def libAddr : Nat := dramBase + Config.libBlock

/-! ### The input block (R73, R74) and its ranges -/

/-- lo ≤ x ≤ hi in binary32. -/
def g32In (x lo hi : Word) : Bool := fpLeB f32 lo.toNat x.toNat && fpLeB f32 x.toNat hi.toNat
def g32Nan (x : Word) : Bool := isNan f32 x.toNat

/-- The default of each input word (R73). -/
def inDefault (i : Nat) : Word :=
  match i with
  | 8 => 0x3F000000 | 9 => 0x3D4CCCCD | 10 => 0x3F800000 | 11 => 0x3E4CCCCD | 12 => 0x40400000 | 13 => 0x3F800000
  | 14 => 0x40400000 | 15 => 0x3F800000 | 16 => 0x40000000 | 21 => 0x3C23D70A | 22 => 0x3E4CCCCD | _ => 0

/-- An input in force: the block as last taken, before the first the defaults. -/
def inW (s : State) (i : Nat) : Word := if s.lib.input = [] then inDefault i else wAt s.lib.input i
def inD (s : State) (i : Nat) : DWord := BitVec.ofNat 64 ((inW s i).toNat + 2 ^ 32 * (inW s (i + 1)).toNat)

/-- The ranges of R63, R66 and R73 for one word. -/
def inRange (i : Nat) (x : Word) : Bool :=
  match i with
  | 8 => g32In x 0x3D4CCCCD 0x40000000
  | 9 => g32In x 0x3BA3D70A 0x3F000000
  | 10 => g32In x 0x3DCCCCCD 0x41200000
  | 11 => g32In x 0x3CA3D70A 0x40000000
  | 21 => g32In x 0x3A83126F 0x3DCCCCCD
  | 22 => g32In x 0x3C23D70A 0x3F800000
  | _ => true

/-- The bands are valid (R56). -/
def bandsOk (ws : List Word) : Bool :=
  g32Lt 0 (wAt ws 13) && g32Lt (wAt ws 13) (wAt ws 12) && g32In (wAt ws 12) 0 0x42480000 &&
  g32Lt 0 (wAt ws 15) && g32Lt (wAt ws 15) (wAt ws 14) && g32In (wAt ws 14) 0 0x41A00000 && g32In (wAt ws 16) 0 0x42700000

def rampOk (ws : List Word) : Bool := [8, 9, 10, 11].all fun i => inRange i (wAt ws i)

/-- A JOY value: not a number is taken as 0, others are clamped to -1 to +1. -/
def joyOf (x : Word) : Word :=
  if g32Nan x then 0 else if g32Lt 0x3F800000 x then 0x3F800000 else if g32Lt x 0xBF800000 then 0xBF800000 else x

/-- The block taken over what was in force: a value out of range keeps the last valid one (R56, R63, R73). -/
def inMerge (s : State) (raw : List Word) : List Word :=
  (List.range 128).map fun i =>
    let x := wAt raw i
    if 12 ≤ i ∧ i ≤ 16 then (if bandsOk raw then x else inW s i)
    else if 17 ≤ i ∧ i ≤ 19 then joyOf x
    else if inRange i x then x else inW s i

def inBad (s : State) (raw : List Word) : Bool :=
  !rampOk raw || !inRange 21 (wAt raw 21) || !inRange 22 (wAt raw 22) || (s.lib.mode == 4 && !bandsOk raw) ||
  [17, 18, 19].any fun i => g32Nan (wAt raw i)

/-- The block read: the holder's own, else the one of the holder's snapshot (R53); where it is all zero when the library starts, that is
at the first it takes, the defaults apply (R73). -/
def inRaw (s : State) : List Word :=
  let ws := if !actsHolder s then (List.range 128).map (wAt (s.pair.inBlk.getD []))
    else if inDram libAddr 512 then s.dramWords libAddr 128 else List.replicate 128 0
  if s.lib.input == [] && ws.all (· == 0) then (List.range 128).map inDefault else ws

/-- Does the module act on an input block: as holder on its own, in TWIN on the one that a snapshot part has brought since the last t0
(R53)? -/
def takesInput (s : State) : Bool := actsHolder s || (twinNow s && s.pair.inBlk.isSome)

/-! ### Requests (R51, R57) -/

/-- The words of a waypoint table (R57): count and waypoints. -/
def trackWords (s : State) (a : Nat) : List Word :=
  let n := if inDram a 8 then rdz s.dram (a - dramBase) 4 else 0
  if 2 ≤ n ∧ n ≤ 256 ∧ inDram a (8 + 32 * n) then s.dramWords a (2 + 8 * n) else []

/-- A valid table: 2-256 waypoints, leg speeds within 0.05-2.0 m/s, waypoints at least 0.5 m apart. -/
def trackOk (ws : List Word) : Bool :=
  let n := (wAt ws 0).toNat
  ws != [] && (List.range n).all (fun i => g32In (wAt (wayPt ws i) 6) 0x3D4CCCCD 0x40000000) &&
  (List.range (n - 1)).all fun i => !tooClose (wayPt ws i) (wayPt ws (i + 1))

/-- The degradation step the library reacts to: D4 too after more than 10 cycles on an extrapolated estimate (R44, R60). -/
def libDegr (s : State) : Nat := if 10 < s.lib.staleRun then 4 else s.bits Reg.FSN_DEGR_STAT 2 0

/-- The result code of a request for a mode: the first failing condition of R51's row. DESIGN CHOICE: the degradation step is the one
FSN_DEGR_STAT holds at t0, that of the previous cycle's second step, since R51 decides at t0. DESIGN CHOICE: AUTO-HEADING has no ramp
condition, as R51's row has none, though R63 speaks of every engagement; its heading ramp then runs with the last valid parameters. -/
def reqResult (s : State) (raw : List Word) (m : Nat) : Nat :=
  let d := libDegr s
  if m = 7 then 1
  else if m ≤ 1 then 0
  else if m = 2 then (if d ≤ 3 then 0 else 2)
  else if 2 < d then 2
  else if !rampOk raw then 6
  else if m = 4 ∧ !bandsOk raw then 5
  else if m = 5 ∧ !trackOk (trackWords s (dwAt raw 24).toNat) then 4
  else if m = 6 ∧ trkState s ((wAt raw 26).toNat % 128) ≠ 2 then 3
  else 0

/-- At any engagement the library clears ARM (R438). -/
def State.disarm (s : State) (m : Nat) : State := if m = 0 then s else s.ifOn 12 fun s => s.setBit Reg.UPD_ACT_CTL 1 false

/-- MODE_REQUEST (R51): accepted or rejected as a whole. -/
def State.modeRequest (s : State) (raw : List Word) : State :=
  let q := (wAt raw 0).toNat
  let m := q % 8
  let r := reqResult s raw m
  let s := s.modLib fun l => { l with reqSeq := q / 65536, result := r }
  if r ≠ 0 then s
  else (s.disarm m).modLib fun l =>
    { l with mode := m, engage := some m, lost := false, trackEnd := false, handover := if m ≤ 1 then false else l.handover }

/-- Copy the input block; `first`: MODE_REQ as first read, where a write came between the two reads. -/
def State.takeBlock (s : State) (first : Option Word) : State :=
  let raw := inRaw s
  let seq := (wAt raw 0).toNat / 65536
  let same : Bool := match first with | some w => w.toNat / 65536 == seq | none => true
  let moved := decide ([2, 3, 4, 5, 6, 7].map (wAt raw) ≠ [2, 3, 4, 5, 6, 7].map (inW s))
  let merged := inMerge s raw
  let s := s.modLib fun l => { l with badParam := inBad s raw, input := merged, lost := l.lost && !moved }
  if same && seq != s.lib.reqSeq then s.modeRequest raw else s

/-- TARGET_LOST (R59): the track is not confirmed any more; the set-point reached is held. -/
def State.targetLost (s : State) : State :=
  if s.lib.mode = 6 ∧ trkState s ((inW s 26).toNat % 128) ≠ 2 then s.modLib fun l => { l with mode := 3, lost := true } else s

/-! ### The configuration record (R173, R174) and the set of thrusters (R71, R72) -/

def g32Finite (x : Word) : Bool := wbits x 30 23 != 255

/-- A record the library takes: a thruster fitted, kinds up to 4, groups up to 7, every value finite. -/
def recordOk (r : List Word) : Bool :=
  let k := fun id => (wAt r (16 + 16 * id)).toNat
  r.length == 400 && (List.range 24).any (fun id => k id != 0) &&
  (List.range 24).all (fun id => decide (k id ≤ 4) && decide ((wAt r (16 + 16 * id + 13)).toNat ≤ 7) &&
    (List.range 12).all fun j => g32Finite (wAt r (16 + 16 * id + 1 + j))) &&
  [1, 3, 5].all (fun j => wbits (wAt r j) 30 20 != 2047) && (List.range 10).all fun j => g32Finite (wAt r (6 + j))

def fittedIds (r : List Word) : List Nat := (List.range 24).filter fun id => (wAt r (16 + 16 * id)).toNat != 0

/-- What the library reserves for its jobs by KIND (R42): tiles 0 and 1 for the allocation, 2 for an estimator, 3 for GNSS, all for a
survey. -/
def libTiles (kind : Nat) : Option Nat :=
  match kind with | 1 => some 3 | 2 => some 4 | 3 => some 8 | 4 => some 15 | _ => none

/-- The region it gives them in each tile's store (R185): base and size. -/
def libRegion (kind : Nat) : Nat × Nat := if kind = 4 then (0xA0000, 0x60000) else (0, 0xA0000)

/-- The descriptors of the library's jobs: those armed on its compare channels 0-8, and the GNSS and survey jobs that wait in a FIFO. -/
def libDescs (s : State) : List Nat :=
  ((List.range 8).filterMap fun k =>
    if (s.bit (Reg.CAL_ARM_CFG k) 0 || s.lib.unarmed == some k) && decide (s.bits (Reg.CAL_ARM_CFG k) 7 4 ≤ 8) then
      some (s.bits (Reg.CAL_ARM_DESC k) 22 0)
    else none) ++
  s.cal.jobs.filterMap fun j =>
    if j.run == .waiting && j.cls != 0 && (readDesc s j.desc).any (fun d => decide (3 ≤ wbits (wAt d 0) 2 0)) then some j.desc else none

/-- The library names the tiles and regions of its own jobs (R41, R42, R185). -/
def State.placeJobs (s : State) : State :=
  if !s.domOn 5 then s
  else (libDescs s).foldl (fun s a =>
    match readDesc s a with
    | some d => match libTiles (wbits (wAt d 0) 2 0) with
      | some t =>
        let (b, n) := libRegion (wbits (wAt d 0) 2 0)
        (s.dmaPut (dramBase + a * 256) [wset (wAt d 0) 7 4 t]).dmaPut (dramBase + a * 256 + 0x30) [BitVec.ofNat 32 b, BitVec.ofNat 32 n]
      | none => s
    | none => s) s

/-- The plan held is not trusted under a new record: the valid word of every ALLOC job's state area is cleared; where there is none yet,
at the first t0 that has one (R173, R178). -/
def State.dropPlan (s : State) : State :=
  match allocSlots s with
  | [] => s.modLib fun l => { l with fresh := true }
  | ds => (ds.foldl (fun s x => s.dmaPut ((dwAt x.2 6).toNat + 0x18) [0]) s).modLib fun l => { l with fresh := false }

/-- A new record: it must be valid (R173). -/
def State.takeRecord (s : State) (a : Nat) : State :=
  let r := if a % 64 = 0 ∧ inDram a 1600 then s.dramWords a 400 else []
  if recordOk r ∧ r ≠ s.lib.record then (s.modLib fun l => { l with record := r }).dropPlan
  else if s.lib.fresh then s.dropPlan
  else s

/-- The set fixed at t0: THR_AVAIL and the drive nodes' reports, of the thrusters fitted. -/
def State.fixSet (s : State) (reports : Nat) : State :=
  let ids := (fittedIds s.lib.record).filter fun id => wbit (inW s 20) id && fbit reports id
  let thr := (ids.map (2 ^ ·)).sum
  s.modLib fun l => { l with prevThr := l.thr, thr := thr, remap := decide (thr ≠ l.thr), emptySet := decide (thr = 0) }

/-- Set-points that apply in the current cycle: rpm, pitch and azimuth of a thruster. -/
def setPts (s : State) (id : Nat) : List Word := [0, 1, 2].map fun j => wAt s.lib.applied (3 * id + j)

/-- An entry of the structure table (R177): sectors in force where their edges differ. -/
def structEntry (s : State) (id : Nat) : List Word :=
  let r := fun j => wAt s.lib.record (16 + 16 * id + j)
  let sec := b2n (r 8 != r 9) + 2 * b2n (r 10 != r 11)
  BitVec.ofNat 32 (id + 32 * ((r 13).toNat % 8) + 256 * sec) :: setPts s id

/-- The thrusters of this cycle's job: the set, or every fitted one where it is empty (R72). -/
def allocIds (s : State) : List Nat :=
  if s.lib.emptySet then fittedIds s.lib.record else (List.range 24).filter fun id => fbit s.lib.thr id

/-- The problem of the solve that slot k starts next, about its warm start (R175, R179). -/
def State.buildQp (s : State) (k : Nat) : State :=
  match allocSlot s with
  | none => s
  | some (_, d) =>
    let j := warmStart s { newJob 0 k 0 s.ext s.clk (s.bits (Reg.CAL_ARM_CNT k) 15 0 + 1) with d := d }
    s.modLib fun l => { l with qp := some (allocQp s j) }

/-- EMPTY_SET_ALLOC and the job's inputs of this cycle (R72, R175-R177, R179); with no record in force none is armed (R173). -/
def State.buildAlloc (s : State) : State :=
  match allocSlot s with
  | none => s.modLib fun l => { l with qp := none }
  | some (k, d) =>
    if s.lib.record = [] then (s.setBit (Reg.CAL_ARM_CFG k) 0 false).modLib fun l => { l with unarmed := some k, qp := none }
    else
      let s := (s.setBit (Reg.CAL_ARM_CFG k) 0 true).modLib fun l => { l with unarmed := none }
      let ids := allocIds s
      let c := Config.csetId s.lib.thr s.lib.record
      let cset := if s.lib.emptySet then 0xFFFF else if c = 0xFFFF then 0 else c.toNat
      let a := dramBase + s.bits (Reg.CAL_ARM_DESC k) 22 0 * 256
      let s := s.dmaPut a [wset (wset (wAt d 0) 8 8 1) 9 9 (b2n s.lib.remap)]
      let s := s.dmaPut (a + 0x38) [wset (wAt d 14) 15 0 cset, wset (wAt d 15) 15 0 ids.length]
      let s := s.dmaPut (dwAt d 16).toNat (ids.flatMap (structEntry s))
      let hold := (List.range 24).map fun id => if (fittedIds s.lib.record).contains id then wAt s.lib.applied (3 * id + 2) else 0
      (if (dwAt d 19).toNat = 0 then s else s.dmaPut (dwAt d 19).toNat hold).buildQp k

/-- A stage that its compare event has made due runs once (R40). -/
def stageDue (s : State) (k : Nat) : Bool := fbit s.lib.due k
def State.stageDone (s : State) (k : Nat) : State := s.modLib fun l => { l with due := if fbit l.due k then l.due - 2 ^ k else l.due }

/-- INPUT_BLOCK_SAMPLE (R74). `rec`: the configuration record's address as last given to the library; `reports`: thrusters that the
availability reports in the snapshot allow; `first`: MODE_REQ as first read where a write came between. -/
def libSample (rec reports : Nat) (first : Option Word) (s : State) : State :=
  if !stageDue s 0 then s
  else
    let s := (s.stageDone 0).modLib fun l => { l with badParam := false, pubLate := false, lawOvr := false }
    let s := if takesInput s then s.takeBlock first else s
    let s := (s.modPair fun p => { p with inBlk := none }).takeRecord rec
    let s := s.modLib fun l => { l with trackPtr := (inD s 24).toNat }
    ((((s.targetLost).fixSet reports).placeJobs).buildAlloc)

def execInputBlockSample (rec : BitVec 40) (reports : BitVec 24) (first : Option Word) (s : State) : Out1 :=
  .next (s.ifOn 0 (libSample rec.toNat reports.toNat first))

/-! ### The control law (R44, R54-R65) -/

/-- The estimate of the cycle's first step, or the previous one extrapolated (R44). -/
def State.takeEst (s : State) : State :=
  match s.lib.estNew with
  | some m => s.modLib fun l => { l with est := Config.estimate m, estStale := false, staleRun := 0, estNew := none }
  | none => s.modLib fun l => { l with est := extrapolate l.est, estStale := true, staleRun := l.staleRun + 1 }

/-- HANDOVER_REQ (R60): at D4 in an automatic mode; it ends when the estimate is back at D0-D2. -/
def State.handoverEval (s : State) : State :=
  let d := libDegr s
  if s.lib.mode ≤ 1 then s.modLib fun l => { l with handover := false }
  else if d = 4 then s.modLib fun l => { l with handover := true }
  else if d ≤ 2 then s.modLib fun l => { l with handover := false }
  else s

/-- Engagement (R54, R61): set-points start at the measured values. -/
def State.engageNow (s : State) : State :=
  match s.lib.engage with
  | none => s
  | some m =>
    let s := s.modLib fun l => { l with sp := l.est.take 3, ramp := [], ramping := false, engage := none, leg := 0 }
    let (r, e) := deviation s.lib.est s.lib.sp
    s.modLib fun l => { l with dbActive := m == 4 && !(g32Le r (inW s 12) && g32Le e (inW s 14)), dbSince := s.clk }
where
  g32Le (x y : Word) : Bool := fpLeB f32 x.toNat y.toNat

/-- DB_DWELL in ns, rounded to nearest. -/
def dwellNs (s : State) : Nat := (fpToInt f64 0 0 (2 ^ 62) (fpMul f64 0 (fpCast f32 f64 0 (inW s 16).toNat).1 0x41CDCD6500000000).1).1.toNat

/-- DEADBAND_TRANSITION (R54). -/
def State.deadband (s : State) : State :=
  if s.lib.mode ≠ 4 then s
  else
    let (r, e) := deviation s.lib.est s.lib.sp
    if s.lib.dbActive then
      if g32Lt r (inW s 13) && g32Lt e (inW s 15) && decide (s.lib.dbSince + dwellNs s ≤ s.clk) then
        s.modLib fun l => { l with dbActive := false, dbSince := s.clk }
      else s
    else if g32Lt (inW s 12) r || g32Lt (inW s 14) e then s.modLib fun l => { l with dbActive := true, dbSince := s.clk }
    else s

/-- The waypoint table, read in the control law at the address sampled at t0 (R57): a new one starts from its first waypoint. DESIGN
CHOICE: an invalid table that a changed TRACK_PTR reaches while TRACK is active leaves the last valid one in force, with no flag; the
rule rejects requests only. -/
def State.takeTrack (s : State) : State :=
  let ws := trackWords s s.lib.trackPtr
  if trackOk ws ∧ ws ≠ s.lib.table then s.modLib fun l => { l with table := ws, leg := 0, trackEnd := false } else s

/-- The target of the set-points outside TRACK. DESIGN CHOICE: in TARGET the heading turns to TGT_HEADING, as in AUTO-POSITION; R59 names
the position alone. -/
def spTarget (s : State) : List DWord :=
  if s.lib.mode = 6 then trackTarget (trkVec s ((inW s 26).toNat % 128)) (inW s 27) (inW s 28) (inD s 6)
  else [inD s 2, inD s 4, inD s 6]

/-- One cycle of the set-points' motion (R58, R59, R61, R62); TRACK_END where the last waypoint is reached. The set-point held after
TARGET_LOST stands still. `engaging`: in the cycle of the engagement the set-points keep the measured values (R61), and RAMPING says
whether they have a way to go. -/
def State.moveSetPts (s : State) (engaging : Bool) : State :=
  let put := fun (s : State) (sp ramp : List DWord) (there : Bool) =>
    if engaging then s.modLib fun l => { l with ramping := !(there && decide (sp = l.sp)) }
    else s.modLib fun l => { l with sp := sp, ramp := ramp, ramping := !there }
  if s.lib.mode ≤ 1 then s.modLib fun l => { l with ramping := false }
  else if s.lib.mode = 5 then
    let s := s.takeTrack
    let (sp, ramp, leg, last, there) :=
      trackStep s.lib.table s.lib.leg (inW s 9) (inW s 10) (inW s 11) s.lib.sp s.lib.ramp
    let s := put s sp ramp there
    if engaging then s else s.modLib fun l => { l with leg := leg, trackEnd := l.trackEnd || last }
  else if s.lib.lost then put s s.lib.sp [] true
  else
    let x := rampStep (s.lib.mode != 2) (inW s 8) (inW s 9) (inW s 10) (inW s 11) s.lib.sp s.lib.ramp (spTarget s)
    put s x.1 x.2.1 x.2.2

/-- A demand ramped towards zero by one cycle's share of STANDBY_RAMP (R55, R64): 0.02 s. -/
def rampZero (rate cap d : Word) : Word :=
  let st := g32M (g32M rate cap) 0x3CA3D70A
  if !g32Lt st (g32Abs d) then 0 else if wbit d 31 then g32A d st else g32S d st

/-- INTEGRATOR_FREEZE (R65): bit `i` for surge, sway and yaw. -/
def frzMask (s : State) : Nat :=
  let l := s.lib
  if l.plStale || l.wsRej || l.estStale || l.lawOvr || (l.mode == 4 && !l.dbActive) || l.handover || l.thr != l.prevThr then 7
  else l.clamp ||| l.sat

/-- An axis's demand in a mode: 0 none, 1 joystick, 2 automatic. -/
def axisKind (m i : Nat) : Nat := if m = 0 then 0 else if m = 1 then 1 else if m = 2 then (if i = 2 then 2 else 1) else 2

/-- The outer loop (R60, R64, R65): in hand-over every axis holds its demand; a frozen integrator holds its value exactly. `first`: the demand the automatic axes start from, to which
the integrators are preset. -/
def State.outer (s : State) (first : Option (List Word)) : State :=
  let s := match first with
    | some d => s.modLib fun l => { l with integ := Config.preset l.est l.sp d }
    | none => s
  let l := s.lib
  let frz := frzMask s
  let (d, g, c) := Config.outerLoop l.est l.sp l.integ frz l.demand
  let idle := l.mode == 4 && !l.dbActive
  let dem := fun i =>
    let cap := Config.capacity i l.thr l.record
    if l.handover then wAt l.demand i
    else match axisKind l.mode i, first with
      | 0, _ => rampZero (inW s 22) cap (wAt l.demand i)
      | 1, _ => g32M (inW s (17 + i)) cap
      | _, some x => wAt x i
      | _, none => if idle then rampZero (inW s 22) cap (wAt l.demand i) else wAt d i
  s.modLib fun l => { l with demand := [dem 0, dem 1, dem 2], frz := frz, clamp := c % 8,
                             integ := [0, 1, 2].map fun i => if fbit frz i then wAt l.integ i else wAt g i }

/-- The demand the automatic axes start from in this cycle: at an engagement the
achieved force of the set-points in force, zero where those are zero thrust (R64); the one in force where a hand-over
ends (R60) or DEADBAND becomes active (R55). `resumed`: one of the latter two. -/
def firstDemand (engage : Option Nat) (resumed : Bool) (l : LibSt) : Option (List Word) :=
  match engage with
  | some m => if m = 0 then none else some (if l.zeroPub then [0, 0, 0] else l.achieved)
  | none => if resumed then some l.demand else none

/-- A control-law lane, Press tile 0 lanes 0-3, stopped by a trap counts as an overrun (R131). -/
def lawTrapped (s : State) : Bool := (List.finRange 4).any fun l => (s.core (.lane 0 ⟨l.val, by omega⟩)).run == .trapped

/-- CONTROL_LAW (R44), once the event of channel 3 has made it due. `late`: its lanes overran the boundary at +7 ms; its outputs are
then withheld, and an engagement waits for the next cycle's (R45). -/
def controlLaw (late : Bool) (s : State) : State :=
  if !stageDue s 3 then s
  else
    let s := (s.stageDone 3).takeEst
    if late || lawTrapped s then s.modLib fun l => { l with lawOvr := true, frz := 7 }
    else
      let h := s.handoverEval
      let m := (h.engageNow).moveSetPts s.lib.engage.isSome
      let t := m.deadband
      t.outer (firstDemand s.lib.engage ((s.lib.handover && !h.lib.handover && (t.lib.mode != 4 || t.lib.dbActive)) || (!m.lib.dbActive && t.lib.dbActive)) s.lib)

def execControlLaw (late : Bool) (s : State) : Out1 := .next (s.ifOn 0 fun s => s.ifOn 1 (controlLaw late))

/-! ### Command publication (R68-R72, R75, R330) -/

/-- Read the allocation's status record (R169): fallback, cold start, achieved force; and saturation (R66). -/
def State.allocResult (s : State) : State :=
  match allocSlot s with
  | none => s
  | some (_, d) =>
    let a := (dwAt d 8).toNat
    if !inDram a 64 then s
    else
      let r := s.dramWords a 16
      let ach := [wAt r 12, wAt r 13, wAt r 14]
      let past := fun i => g32Lt (g32M (inW s 21) (Config.capacity i s.lib.thr s.lib.record)) (g32Abs (g32S (wAt s.lib.demand i) (wAt ach i)))
      let sat := b2n (past 0) + 2 * b2n (past 1) + 4 * b2n (past 2)
      s.modLib fun l => { l with plStale := wbit (wAt r 0) 13, wsRej := wbit (wAt r 0) 9, achieved := ach, sat := sat }

/-- Is every command zero thrust: STANDBY with its demand ramped down, or no record in force? -/
def allZero (s : State) : Bool :=
  s.lib.record == [] || (s.lib.mode == 0 && s.lib.demand.all fun d => g32Abs d == 0)

/-- A command's entry for a thruster (R68, R330); zero thrust comes with the azimuth last commanded. -/
def cmdEntry (s : State) (id : Nat) : List Word :=
  let i := BitVec.ofNat 32 id
  if allZero s || !fbit s.lib.thr id then [i, 0, 0, wAt s.lib.cmd (3 * id + 2)]
  else i :: [0, 1, 2].map fun j => wAt (s.lib.plan.getD s.lib.applied) (3 * id + j)

/-- The PTP time of the next t0, as scheduled. -/
def applyTime (s : State) : Nat := (((s.lib.t0 + 20000000 : Nat) : Int) + s.lib.oPtp).toNat % 2 ^ 64

/-- The body for a drive node (R330). -/
def cmdBody (s : State) (mask : Nat) : List Word :=
  let ids := (List.range 24).filter (fbit mask)
  let t := applyTime s
  [BitVec.ofNat 32 s.lib.k, BitVec.ofNat 32 (ids.length + 256 * b2n s.lib.plStale), BitVec.ofNat 32 t,
    BitVec.ofNat 32 (t / 2 ^ 32)] ++ ids.flatMap (cmdEntry s)

def cmdNodes : List (Nat × Nat) := Config.driveNodes.filter fun x => (List.range 24).any (fbit x.2)

/-- One command frame, handed to PLY; past +18.0 ms it is dropped (R69). -/
def State.publish (s : State) (x : Nat × Nat) : State :=
  if s.lib.t0 + 18000000 < s.ext then s.modLib fun l => { l with pubLate := true, drops := l.drops + 1 }
  else
    let b := wordBytes (cmdBody s x.2)
    let s := s.plySend 1 x.1 false b 6 (cmdEpoch s) (actsHolder s)
    (({ s with pair := { s.pair with bodies := s.pair.bodies ++ b } }).tapTake b).modLib fun l => { l with pubAt := s.clk }

/-- FLAGS (R75). -/
def libFlags (s : State) : Nat :=
  let l := s.lib
  b2n l.estStale + 2 * b2n l.lawOvr + 4 * b2n l.plStale + 8 * b2n l.wsRej + 16 * l.sat + 128 * l.frz + 1024 * b2n l.pubLate +
  2048 * b2n l.lost + 4096 * libDegr s + 32768 * b2n l.badParam

def modeAct (s : State) : Nat :=
  let l := s.lib
  l.mode + 8 * b2n (l.mode == 4 && l.dbActive) + 16 * b2n l.ramping + 32 * b2n l.trackEnd + 64 * b2n l.handover + 256 * l.result +
  65536 * l.reqSeq

/-- SER_STAT's CAPT bits: ports whose samples are stamped by capture. -/
def serCapt (s : State) : Nat := ((List.range 8).map fun n => b2n (s.bit (Reg.FSN_SER_CFG n) 24) * 2 ^ n).sum

/-- The output block's words (R75). -/
def outWords (s : State) : List Word :=
  let l := s.lib
  [BitVec.ofNat 32 (l.outSeq + 2), BitVec.ofNat 32 (modeAct s), BitVec.ofNat 32 l.k, BitVec.ofNat 32 (libFlags s)] ++
  wordsOf l.t0 2 ++ [0, 1, 2].flatMap (fun i => wordsOf ((l.sp[i]?).getD 0).toNat 2) ++ [0, 1, 2].map (wAt l.demand) ++
  [0, 1, 2].map (wAt l.achieved) ++ [BitVec.ofNat 32 l.staleRun, BitVec.ofNat 32 (l.serStat % 256 + 256 * serCapt s)]

/-- OUTPUT_BLOCK_WRITE (R75): OUT_SEQ is odd during the write and even after it. -/
def State.writeOut (s : State) : State :=
  let ws := outWords s
  let s := if inDram libAddr 4096 then s.dmaPut (libAddr + 0x200) ws else s
  s.modLib fun l => { l with outSeq := (l.outSeq + 2) % 2 ^ 32 }

/-- A module in WATCH that does not hold the lease publishes nothing. -/
def publishes (s : State) : Bool := holder s || pairMode s != 1 || twinNow s

/-- COMMAND_PUBLICATION (R68), once the event of channel 6 has made it due; the commands are kept: they apply from the next t0 (R47). -/
def commandPublication (s : State) : State :=
  if !stageDue s 6 then s
  else
    let s := (s.stageDone 6).allocResult
    let cmd := (List.range 24).flatMap fun id => (cmdEntry s id).drop 1
    let s := if publishes s then cmdNodes.foldl State.publish s else s
    (s.modLib fun l => { l with cmd := cmd, zeroPub := allZero s }).writeOut

def execCommandPublication (s : State) : Out1 := .next (s.ifOn 0 commandPublication)

/-! ### The drive-tick loops of the module's own lanes (R47, R48, R67, R70) -/

/-- A valve's band in force is centred at the valve current limit: 3.0 A, or 0. -/
def bandAtLimit (s : State) (v : Nat) : Bool :=
  match (s.valve v).band with
  | some (u, lo, _) => let c := g32A u lo; !g32Lt c 0x40C00000 || !g32Lt 0 c
  | none => false

/-- One drive tick of a thruster's loop: its set-points approach those of the command that applies within the record's limits (R48); its
integrator is frozen where its band is at the limit or the approach is rate-limited (R67). Fixed and tunnel thrusters do not turn. -/
def driveStep (s : State) (id : Nat) : DriveSt :=
  let x := sget (fun _ => driveIdle) s.lib.drive id
  let r := fun j => wAt s.lib.record (16 + 16 * id + j)
  let to_ := setPts s id
  let (rpm, a) := approach x.rpm (wAt to_ 0) (r 5)
  let (pitch, b) := approach x.pitch (wAt to_ 1) (r 6)
  let (az, c) := if r 0 = 1 then approachTurn x.az (wAt to_ 2) (r 7) else (wAt to_ 2, false)
  let slow := a || b || c
  let frozen := slow || (match Config.driveValve id with | some v => bandAtLimit s v.val | none => false)
  ⟨rpm, pitch, az, slow, if frozen then x.integ else Config.driveInteg id [rpm, pitch, az] x.integ, frozen⟩

/-- The drive tick (R40): every loop of a Press tile that is ON. With no set-point or no record yet there is nothing to approach. -/
def State.driveTick (s : State) : State :=
  if !s.domOn 0 ∨ s.lib.record = [] ∨ s.lib.applied = [] then s
  else (List.range 24).foldl (fun s id =>
    match Config.driveTile id with
    | some t => s.ifOn (1 + t.val) fun s => s.modLib fun l => { l with drive := sset (fun _ => driveIdle) l.drive id (driveStep s id) }
    | none => s) s

/-! ### The PTP servo (R288-R291) -/

/-- The PTP time offered: GPS time, from the baseband's model, plus 19 s (R290). -/
def offeredPtp (s : State) : Int :=
  if s.nbb.time.scale = 0 then effNow s / 2 ^ 40 + 19000000000 else Config.ptpOfUtc (effNow s)

/-- The change of O_PTP is logged (R291): a record of the management log; its source, severity, code and data are free. -/
def State.logOptp (s : State) : State :=
  let (h, s) := s.free
  let (a, s) := s.free
  let (b, s) := s.free
  let (c, s) := s.free
  s.logRec (wbits h 7 0) (wbits h 9 8) (wbits h 31 16) a.toNat b.toNat c.toNat

/-- Leaving LOCKED ends the offer as grandmaster (R290). -/
def State.gmEval (s : State) : State :=
  if s.bits Reg.NBB_TIME_STAT 1 0 = 1 ∨ !s.lib.gm then s
  else (s.modLib fun l => { l with gm := false }).emit (.announce 248 (some 255) none)

/-- Channel k's target under a new O_PTP: the first instant with the same PTP phase (R291). -/
def ptpTarget (s : State) (k : Nat) (o o' : Int) : Nat :=
  let p := max (cmpPeriod s k) 1
  let d := ((cmpTgt s k : Int) + o - o' - (s.ext : Int) - 1) % (p : Int)
  s.ext + 1 + d.toNat

/-- Rewriting O_PTP: the compare targets of channels 0-8 and an armed activation are derived again. -/
def State.setOptp (s : State) (o' : Int) : State :=
  let o := s.lib.oPtp
  let s := (List.range 9).foldl (fun s k =>
    if s.bit (Reg.TIM_CMP_CFG k) 0 && s.domOn 10 then
      let t := ptpTarget s k o o'
      (s.wr64 (Reg.TIM_CMP_TGT_LO k) (Reg.TIM_CMP_TGT_HI k) t).modTim fun x => { x with pTgt := sset (fun _ => none) x.pTgt k none }
    else s) s
  let s := if s.domOn 12 && s.bit Reg.UPD_ACT_CTL 0 then
      s.wr64 Reg.UPD_ACT_LO Reg.UPD_ACT_HI (((s.rd64 Reg.UPD_ACT_LO Reg.UPD_ACT_HI : Int) + o - o') % 2 ^ 64).toNat
    else s
  s.modLib fun l => { l with oPtp := o' }

/-- PTP_SERVO_UPDATE (R291): at a Sync. `best`: the BMCA makes this module the best clock; `err`: the master's PTP time less this
module's, ns; `inc`: the increment that runs at the master's, or as grandmaster the GNSS, rate. -/
def ptpServo (best : Bool) (err : Int) (inc : Word) (s : State) : State :=
  let s := s.gmEval
  let gm := best && s.bits Reg.NBB_TIME_STAT 1 0 == 1
  let s := s.modLib fun l => { l with gm := gm }
  if gm then timIncWrite inc (s.emit (.announce 6 none (some (offeredPtp s))))
  else if err.natAbs < 50000 then
    let d := max (-13421) (min 13421 (Config.phaseRate err))
    timIncWrite (BitVec.ofInt 32 ((inc.toNat : Int) + d)) s
  else if err.natAbs < 1000000000 then timOfsWrite (BitVec.ofInt 32 err) (timIncWrite inc s)
  else ((timIncWrite inc s).setOptp (s.lib.oPtp + err)).logOptp

def execPtpServoUpdate (best : Bool) (err : Int) (inc : Word) (s : State) : Out1 :=
  .next (s.ifOn 0 fun s => s.ifOn 10 (ptpServo best err inc))

/-- HOLDOVER_TIMEOUT (R211): no commit for HOLD_TIMEOUT; a grandmaster announces itself demoted (R290). -/
def holdover (s : State) : State :=
  if s.bits Reg.NBB_TIME_STAT 1 0 = 1 ∧ s.nbb.time.commit + holdTimeout s * 1000000 ≤ s.clk then
    ((s.timeState 2).refreshUnc).gmEval
  else s

def execHoldoverTimeout (s : State) : Out1 := .next (s.ifOn 9 holdover)

/-! ### Serial stamps (R221, R241, R242) -/

/-- DELIMITER_STAMP (R241): local time read in the delimiter interrupt less calibrated latency and delimiter time; with CAPT set the
capture of the next start bit less a character. -/
def delimStamp (n : Nat) (s : State) : State :=
  let t : Int := if s.bit (Reg.FSN_SER_CFG n) 24 then
      (s.rd64 (Reg.TIM_CAP_TIME_LO n) (Reg.TIM_CAP_TIME_HI n) : Int) - charTime s n
    else (s.ext : Int) - sget (fun _ => 0) s.lib.lCal n - delimBits s n
  s.modLib fun l => { l with stamp := sset (fun _ => none) l.stamp n (some t) }

def execDelimiterStamp (n : Fin 8) (s : State) : Out1 := .next (s.ifOn 0 fun s => s.ifOn 10 (delimStamp n.val))

/-- A telegram's latency (R242): firmware stamp, capture stamp, delimiter event. A gap after the delimiter leaves it out. -/
def serLatency (s : State) (n : Nat) (x : Int × Int × Int) : Option Int :=
  let bit : Int := 1000000000 / serBaud s n
  if bit + bit / 2 < x.2.1 - x.2.2 then none else some (x.1 - (x.2.1 - charTime s n) - delimBits s n)

/-- The library borrows a port's capture channel (R242, R285): LCAP is clear on the encoders bound to it, SRC is 2 and CAPT is set. -/
def State.serBorrow (s : State) (n : Nat) : State :=
  let s := (List.range 16).foldl (fun s i => if s.bits (Reg.ENC_IN_CFG i) 10 8 = n then s.setBit (Reg.ENC_IN_CFG i) 6 false else s) s
  ((s.setBits (Reg.TIM_CAP_CFG n) 1 0 2).setBit (Reg.FSN_SER_CFG n) 24 true).modLib fun l =>
    { l with serFrom := sset (fun _ => 0) l.serFrom n s.clk }

/-- The borrow ends: the channel serves the encoders again. -/
def State.serReturn (s : State) (n : Nat) : State := (s.setBits (Reg.TIM_CAP_CFG n) 1 0 1).setBit (Reg.FSN_SER_CFG n) 24 false

/-- What the library does about a write of SERn_CFG (R242). A changed enabled port is calibrated again; CAPT alone set asks for a test, CAPT
alone cleared ends the borrow. -/
def State.serChanged (s : State) (n : Nat) (old : Word) : State :=
  let now := s.rd (Reg.FSN_SER_CFG n)
  if !s.domOn 0 ∨ now = old then s
  else if (now ^^^ old) &&& 0xFEFFFFFF = 0 then (if wbit now 24 then s.serBorrow n else s.serReturn n)
  else if wbit now 0 then s.serBorrow n
  else s.serReturn n

/-- Telegrams enough: 64, or those of 120 s (R242). -/
def serEnough (s : State) (n : Nat) (tel : List (Int × Int × Int)) : Bool :=
  decide (64 ≤ tel.length) || decide (sget (fun _ => 0) s.lib.serFrom n + 120000000000 ≤ s.clk)

/-- SER_CALIBRATION (R242), while the channel is borrowed: the mean becomes L_cal and the borrow ends; a largest latency above 25 µs sets
LAT_HIGH and keeps the capture stamps. -/
def serCal (n : Nat) (tel : List (Int × Int × Int)) (s : State) : State :=
  let ls := tel.filterMap (serLatency s n)
  if !s.bit (Reg.FSN_SER_CFG n) 24 ∨ !serEnough s n tel ∨ ls = [] then s
  else
    let high := ls.any (25000 < ·)
    let s := s.modLib fun l => { l with lCal := sset (fun _ => 0) l.lCal n (ls.sum / ls.length),
                                        serStat := l.serStat - 2 ^ n * b2n (fbit l.serStat n) + 2 ^ n * b2n high }
    if high then s else s.serReturn n

def execSerCalibration (n : Fin 8) (tel : List (Int × Int × Int)) (s : State) : Out1 :=
  .next (s.ifOn 0 fun s => s.ifOn 10 (serCal n.val tel))

end Sys2Proof.Machine
end

