-- ==== Sys2Proof/Machine/Compare.lean ====
section
/-! DEFINITION. What a compare event and a capture do at their destinations (R20, R35, R134-R136, R166, R199, R227, R255, R274,
R282-R285). -/

namespace Sys2Proof.Machine

/-! ### Dropped triggers (R20) -/

/-- An event crosses to domain `d` on line `k` and does `f` there. The pulses of one handshake, an instant here, are counted; beyond 255 the
count saturates: the pulse is lost and OVERFLOW is set (R406). -/
def State.pulse (s : State) (d k : Nat) (f : State → State) : State :=
  if !s.domOn d then s
  else
    let n := sget (fun _ => 0) s.inst.pulses (64 * d + k)
    if n < 255 then f { s with inst := { s.inst with pulses := sset (fun _ => 0) s.inst.pulses (64 * d + k) (n + 1) } }
    else if s.bit (Reg.PWR_DC_STAT d) 9 then s.again (Reg.PWR_DC_STAT d) 9
    else (s.flag (Reg.PWR_DC_STAT d) 9).dcReportLimited d 1 13 0 0 0

/-- An event on channel `k` reaches domain `n` while it is asleep or waking: with its TRIG bit set it is counted and reported and
starts the wake. -/
def State.dropTrigger (s : State) (n k : Nat) : State :=
  if s.domOn n ∨ s.contained n ∨ !s.bit (Reg.PWR_DC_CTL n) (16 + k) then s
  else
    let s := s.addSat (Reg.PWR_DC_STAT n) 31 16 1
    (s.dcReportLimited n 1 5 k (s.bits (Reg.PWR_DC_STAT n) 31 16) 0).wake n

/-! ### Arm slots (R166, R167) -/

/-- Can the slot's job not start: a tile it names, or tile 0, not ON, or its previous run not yet ended? -/
def armMissed (s : State) (k : Nat) : Bool :=
  let d := (readDesc s (s.bits (Reg.CAL_ARM_DESC k) 22 0)).getD []
  (dNamed d).any (fun t => !s.domOn (5 + t)) || s.cal.jobs.any fun j => j.cls == 0 && j.slot == k

/-- ARM_EVENT: RUNS counts, a TIMED job is asked for or MISSED counts; ONCE disarms. -/
def State.armEvent (s : State) (k : Nat) : State :=
  let miss := armMissed s k
  let s := s.addWrap (Reg.CAL_ARM_CNT k) 15 0 1
  let s := if s.bit (Reg.CAL_ARM_CFG k) 1 then s.hwBit (Reg.CAL_ARM_CFG k) 0 false else s
  if miss then (s.addSat (Reg.CAL_ARM_CNT k) 31 16 1).calEvt 2
  else s.setJobs (s.cal.jobs ++ [newJob 0 k (s.bits (Reg.CAL_ARM_DESC k) 22 0) s.ext s.clk (s.bits (Reg.CAL_ARM_CNT k) 15 0)])

/-- Every slot armed on the channel. -/
def State.armEvents (s : State) (ch : Nat) : State :=
  ((List.range 8).filter fun k => s.bit (Reg.CAL_ARM_CFG k) 0 && s.bits (Reg.CAL_ARM_CFG k) 7 4 == ch).foldl State.armEvent s

/-! ### The compare event (R282) -/

/-- A divergence of the two modules' states ends before the next t0: the library adopts the received region of the cycle (R365). -/
def State.adoptDiverged (s : State) (k : Nat) : State :=
  let t := match s.pair.adopt, s.pair.frame with
    | some n, some x => if x.1 = n then s.adoptRegion k (x.2.1.take (mirLen s / 4)) else s
    | _, _ => s
  t.modPair fun p => { p with adopt := none }

/-- The number of the cycle whose t0 is `tgt`: by the PTP time in WATCH and TWIN (R358). -/
def cycleK (s : State) (tgt : Nat) : Nat :=
  if pairMode s = 0 then (s.lib.k + 1) % 2 ^ 32 else (((tgt : Int) + s.lib.oPtp) / 20000000).toNat

/-- The cycle that ends has run without an overrun and without a STALE allocation: each of its stages has run. -/
def cleanCycle (s : State) : Bool := s.lib.t0 != 0 && s.lib.due == 0 && !s.lib.lawOvr && !s.lib.plStale

/-- The library confirms a furnish in TRIAL after 100 such cycles in a row, with the Deckle in RUN and a port of either Ply network up
(R440). -/
def State.libConfirm (s : State) : State :=
  let s := s.modLib fun l => { l with clean := if cleanCycle s then min (l.clean + 1) 100 else 0 }
  if s.lib.clean = 100 ∧ s.domOn 13 ∧ s.bits Reg.DKL_STATE 1 0 = 1 ∧ (s.bit (Reg.PLY_PORT_STAT 0) 0 || s.bit (Reg.PLY_PORT_STAT 1) 0) ∧
      (s.bit (Reg.PLY_PORT_STAT 2) 0 || s.bit (Reg.PLY_PORT_STAT 3) 0) then s.ifOn 12 (updConfirm 0xC0F17E11)
  else s

/-- Channel 0 is the cycle start: t0 is its target as scheduled; the commands published in the last cycle apply from now on (R47); in WATCH and TWIN cycle k starts at PTP time k × 20 ms (R358).
At a t0 at which LAG is not 0 the library folds (R277). -/
def State.cycleStart (s : State) (tgt : Nat) : State :=
  if !s.domOn 0 ∨ s.lib.startAt.any (tgt < ·) then s
  else
    let k := cycleK s tgt
    let s := s.libConfirm
    let s := if s.domOn 10 then timFold s.lag s else s
    ((s.adoptDiverged k).modPair fun p => { p with cont := none }).modLib fun l => { l with t0 := tgt, k := k, applied := l.cmd, estNew := none, startAt := none }

/-- The library's stages are due (R40): the input block at channel 0, the control law, which Press tile 0 runs, at channel 3, the command
publication at channel 6; on channel 8 the drive-tick loops run. -/
def State.libStages (s : State) (k : Nat) : State :=
  if k = 8 then s.driveTick
  else if (k = 0 ∨ k = 6 ∨ (k = 3 ∧ s.domOn 1)) ∧ s.domOn 0 ∧ s.lib.startAt = none then s.modLib fun l => { l with due := l.due ||| 2 ^ k }
  else s

/-- The event over the trigger lines: dropped triggers, Press tiles, arm slots, baseband, Fusion unit, Headbox, encoders, the Mill's
interrupt line and the library's cycle start. -/
def State.triggerLines (s : State) (k tgt : Nat) : State :=
  let s := ((List.range 9).map (· + 1)).foldl (fun s n => s.dropTrigger n k) s
  let s := (List.range 4).foldl (fun s t => s.pulse (1 + t) k (prsEvent t k)) s
  let s := s.pulse 5 k fun s => s.armEvents k
  let s := s.pulse 9 k fun s => if s.bits Reg.NBB_MEAS_CFG 4 1 = k then s.nbbMeasure tgt else s
  let s := (s.hbxTrigger k).encCompare k tgt
  let s := if k = 1 then s.fsnClose tgt else s
  s.pulse 0 k fun s => ((if k = 0 then s.cycleStart tgt else s).libStages k).raiseIrq k

/-- COMPARE_EVENT (R282): an enabled channel whose target has been reached. -/
def compareEvent (k : Nat) (s : State) : State :=
  if !cmpDue s k then s
  else
    let tgt := cmpTgt s k
    let s := s.tmEvent k
    let s := if s.tim.armed then s.triggerLines k tgt else s
    s.cmpAdvance k

def execCompareEvent (k : Fin 16) (s : State) : Out1 := .next (s.ifOn 10 (compareEvent k.val))

/-- CAPTURE_EVENT (R285): the channel's stamp and the encoder latches bound to it. A serial port's line (SRC 2) presents nothing but the
first start bit after a delimiter event (R240). -/
def captureEvent (k age : Nat) (s : State) : State :=
  let src := s.bits (Reg.TIM_CAP_CFG k) 1 0
  if src = 0 ∨ (src = 2 ∧ !serLine s k) then s
  else
    let s := if src = 2 then s.serStarted k else s
    (timCapture k age s).encCapture k (s.ext - age)

def execCaptureEvent (k : Fin 8) (age : Nat) (s : State) : Out1 := .next (s.ifOn 10 (captureEvent k.val age))

/-- A character's start bit, 9.5 or 10.5 bit times before its stop bit's middle, on the port's capture line (R240); a start bit that a
CAPTURE_EVENT has stamped already is past. -/
def serRxEvent (n : Nat) (b : Byte) (fe pe : Bool) (s : State) : State :=
  serRx n b fe pe
    (if serDeaf n s then s
     else (if s.bits (Reg.TIM_CAP_CFG n) 1 0 = 2 then captureEvent n (delimBits s n) s else s).serStarted n)

def execSerCharRx (n : Fin 8) (b : Byte) (framing parity : Bool) (s : State) : Out1 :=
  .next (s.ifOn 10 (serRxEvent n.val b framing parity))

/-! ### The baseband's step (R209, R416) -/

/-- TIME_STEP: the step takes effect at its whole second; the Reel receives the event. -/
def stepAndTell (s : State) : State :=
  let t := timeStep s
  if t.nbb.time.step.isNone && s.nbb.time.step.isSome then t.reelPush (.alarm 10 1 1 (t.rd Reg.NBB_STEP_SIZE)) else t

def execTimeStep (s : State) : Out1 := .next (s.ifOn 9 stepAndTell)

end Sys2Proof.Machine
end

