-- ==== Sys2Proof/Machine/PairLease.lean ====
section
/-! DEFINITION. The receiving side of the redundant pair: LEASE frames, the lease watcher, mirror packets, proof runs, the slow
partner and the takeover from WATCH (R361, R370-R381). -/

namespace Sys2Proof.Machine

def partnerNode (s : State) : Nat := s.bits Reg.PAIR_CFG 31 18

/-- A valid Ply frame from a node other than the partner makes its network visible (R373). -/
def State.visible (s : State) (net src : Nat) : State :=
  if src = partnerNode s then s
  else s.modPair fun p => if net = 0 then { p with visA := some s.clk } else { p with visB := some s.clk }

/-- An epoch heard: the highest seen is kept, and a holder with an older one steps down (R333, R372, R374). -/
def State.epochSeen (s : State) (e : Nat) : State :=
  if newer e (s.rdN Reg.PAIR_EPOCH) then (s.stepDown).keepEpoch e else s

/-- Take the lease (R373): the new epoch in MRAM, TAKE sent on every path, the gate opens; in WATCH the wake is requested (R377). A module
that computes continues from the input block in the last mirror frame (R53). -/
def State.leaseTake (s : State) : State :=
  let e := (s.rdN Reg.PAIR_EPOCH + 1) % 2 ^ 32
  let cont := if pairMode s = 2 then some (s.rdN Reg.PAIR_EPOCH) else none
  let s := (s.keepEpoch e).setBits Reg.PAIR_LEASE_STAT 1 0 1
  let s := s.modPair fun p =>
    { p with relLeft := 0, proof := none, proofAt := none, mirAck := s.lib.k, okRun := 0, okK := s.lib.k, takeAt := s.clk,
             inBlk := none, adopt := none, cont := cont }
  let s := match s.pair.frame with | some x => s.adoptBlock x.2.1 | none => s
  let s := (s.leaseSend true false e).setBit Reg.PAIR_LEASE_STAT 8 true
  let s := s.pairStat 0
  if inWatch s then s.wakeBy 5 else s

/-- L_eff in ms (R373). -/
def leaseEff (s : State) : Nat := max (leaseL s) s.pair.pL

/-- Is the listening time after the start over (R374)? Until then LEASE reads LISTENING. -/
def listened (s : State) : Bool :=
  decide (s.pair.start + (leaseL s + 20 + if roleB s then 100 else 0) * 1000000 ≤ s.clk)

/-- A non-holder hears a renewal: at an epoch older than the highest seen it comes from a fenced holder and does not count. -/
def State.renewalHeard (s : State) (epoch l : Nat) : State :=
  if newer (s.rdN Reg.PAIR_EPOCH) epoch then s
  else
    let s := s.modPair fun p => { p with heard := some s.clk, pL := l }
    if holder s || !listened s then s else s.setBits Reg.PAIR_LEASE_STAT 1 0 2

/-- The holder's frame also tells a non-holder whether it is UNFIT, and in WATCH whether a proof run is on (R378, R379). -/
def State.holderSays (s : State) (w : Nat) : State :=
  let s := s.setBit Reg.PAIR_LEASE_STAT 7 (fbit w 11)
  if s.bits Reg.PAIR_CFG 2 1 ≠ 1 then s
  else if fget w 14 13 = 2 then
    if s.pair.proof.isSome ∨ s.bit Reg.PAIR_LEASE_STAT 6 then s
    else
      let s := s.modPair fun p => { p with proof := some s.clk }
      if inWatch s then s.wakeBy 6 else s
  else s.modPair fun p => { p with proof := none, proofAt := none }

/-- A LEASE frame or packet (R370-R375, R381). `words`: the seven words of its payload. -/
def leaseRx (epoch : Nat) (hold : Bool) (ws : List Word) (s : State) : State :=
  let w := fun i => ((ws[i]?).map BitVec.toNat).getD 0
  if !pairOn s ∨ ws.length ≠ 7 ∨ w 0 % 256 ≠ 1 then s
  else
    let s := s.setBit Reg.PAIR_LEASE_STAT 4 true
    let s := s.modPair fun p => { p with pK := w 4, pResync := fbit (w 6) 0 }
    let other := decide (w 5 ≠ s.rdN Reg.UPD_VERSION)
    let s := (s.setBit Reg.PAIR_LEASE_STAT 6 other).ifOn 11 fun s => if other then s.pairStat 10 else s
    let s := if fbit (w 0) 9 || fbit (w 0) 10 then s.pairStat 2 else s
    let s := s.epochSeen epoch
    let s := if hold && holder s && epoch == s.rdN Reg.PAIR_EPOCH && roleB s then s.stepDown else s
    let s := if hold && !holder s then (s.renewalHeard epoch (w 3 % 65536)).holderSays (w 0) else s
    if fbit (w 0) 9 && !holder s && !newer (s.rdN Reg.PAIR_EPOCH) epoch && pairMode s == 2 && s.pair.pResync && !fbit (w 0) 12 then
      s.leaseTake
    else s

/-- LEASE_FRAME_RX (R370). -/
def execLeaseFrameRx (epoch : Word) (hold : Bool) (payload : List Word) (s : State) : Out1 :=
  .next (s.ifOn 11 (leaseRx epoch.toNat hold payload))

/-! ### The lease watcher (R371-R373, R380) -/

/-- VIS_WIN in ns; values outside 20-1,000 are taken as 100. -/
def visWin (s : State) : Nat :=
  let v := s.bits Reg.PAIR_LEASE_CFG 19 10
  (if v < 20 ∨ 1000 < v then 100 else v) * 1000000

def seenWithin (s : State) (t : Option Nat) : Bool :=
  match t with | some t => decide (s.clk ≤ t + visWin s) | none => false

/-- The partner's lag in cycles (R380): its k in TWIN, the last mirror frame it acknowledged in WATCH. -/
def partnerLag (s : State) : Nat :=
  let k := s.lib.k % 2 ^ 32
  if twinNow s then (if newer k s.pair.pK then (k + 2 ^ 32 - s.pair.pK) % 2 ^ 32 else 0)
  else s.lib.k - s.pair.mirAck

/-- DEGRADED (R380): set above a lag of 3, cleared after 50 consecutive cycles with a lag of at most 1. -/
def State.lagEval (s : State) : State :=
  if !holder s ∨ pairMode s = 0 ∨ !s.bit Reg.PAIR_LEASE_STAT 4 then s
  else
    let lag := partnerLag s
    let s := if s.pair.okK = s.lib.k then (if lag ≤ 1 then s else s.modPair fun p => { p with okRun := 0 })
      else s.modPair fun p => { p with okK := s.lib.k, okRun := if lag ≤ 1 then p.okRun + 1 else 0 }
    let was := s.bit Reg.PAIR_LEASE_STAT 5
    if 3 < lag && !was then (s.setBit Reg.PAIR_LEASE_STAT 5 true).pairStat 7
    else if was && decide (50 ≤ s.pair.okRun) then (s.setBit Reg.PAIR_LEASE_STAT 5 false).pairStat 7
    else s

/-- May a module that does not hold the lease take it, visibility apart: no renewal for L_eff + 20 ms, and the listening time after
the start over (R373, R374)? -/
def leaseFree (s : State) : Bool :=
  listened s && match s.pair.heard with
    | some t => decide (t + (leaseEff s + 20) * 1000000 ≤ s.clk)
    | none => true

/-- LEASE_EVAL (R371): every 100 µs. -/
def leaseEval (s : State) : State :=
  if !pairOn s then s
  else
    let s := (s.setBit Reg.PAIR_LEASE_STAT 2 (seenWithin s s.pair.visA)).setBit Reg.PAIR_LEASE_STAT 3 (seenWithin s s.pair.visB)
    let s := (s.syncEval).lagEval
    if holder s then (if s.pair.renewAt + leaseL s * 1000000 < s.clk then s.stepDown else s)
    else if !leaseFree s then
      (if listened s && s.bits Reg.PAIR_LEASE_STAT 1 0 == 0 then s.setBits Reg.PAIR_LEASE_STAT 1 0 2 else s)
    else if (s.bit Reg.PAIR_LEASE_STAT 2 || s.bit Reg.PAIR_LEASE_STAT 3) &&
        !(s.bit Reg.PAIR_CFG 4 && s.bit Reg.PAIR_LEASE_STAT 7) then s.leaseTake
    else s.setBits Reg.PAIR_LEASE_STAT 1 0 3

def execLeaseEval (s : State) : Out1 := .next (s.ifOn 11 leaseEval)

/-! ### Mirror packets (R360, R361) -/

/-- The packet's CRC and form are right. -/
def pktCrcOk (ws : List Word) : Bool :=
  decide (5 ≤ ws.length) &&
  ws.getLast? == some (BitVec.ofNat 32 (crc32c 0xFFFFFFFF true (wordBytes ws.dropLast)))

def pktFormOk (ws : List Word) : Bool :=
  let h := (ws.headD 0).toNat
  let n := fget h 31 16
  decide (1 ≤ h % 256) && decide (h % 256 ≤ 7) && n % 4 == 0 && decide (n ≤ 4096) && ws.length == 5 + n / 4

/-- An ACK: the packets it lists are no longer awaited; a mirror frame none of whose packets is awaited is acknowledged. -/
def State.mirAcked (s : State) (seqs : List Nat) : State :=
  let gone := s.pair.sent.filter fun x => seqs.contains x.seq
  let left := s.pair.sent.filter fun x => !seqs.contains x.seq
  let done := gone.filterMap fun x => if x.xfer.1 = 2 && !left.any (·.xfer == x.xfer) then some x.xfer.2 else none
  s.modPair fun p => { p with sent := left, mirAck := done.foldl max p.mirAck }

/-- A PAGE: into DRAM where both compute, else kept for the Tender (R367, R369). -/
def State.pageRx (s : State) (pg : Nat) (pl : List Word) : State :=
  if holder s ∨ pl.length ≠ 1024 then s
  else if twinNow s then s.dmaPut (mstBase s + 4096 * pg) pl
  else if 64 ≤ pg ∧ pg < 8192 then
    let s := s.modPair fun p => { p with pages := p.pages.filter (·.1 != pg) ++ [(pg, pl)] }
    if curState s = 1 then s.tpend 1 else s
  else s

/-- What a valid packet's payload does. -/
def State.pktEffect (s : State) (ty sub k ofs : Nat) (pl : List Word) : State :=
  match ty with
  | 1 =>
    if holder s ∨ !twinNow s then s
    else s.modPair fun p =>
      { p with snapK := k, snap := (if p.snapK = k then p.snap else []) ++ [(sub / 4 % 2, sub % 4, ofs, pl)] }
  | 2 =>
    if holder s then s
    else (s.modPair fun p => { p with asmK := k, asm := (if p.asmK = k then p.asm else []) ++ [(ofs, pl)] }).mirComplete
  | 3 =>
    match pl with
    | [a, b, c] =>
      let s := s.modPair fun p => { p with hashRx := some ⟨k, a, b, c.toNat % 2 == 1⟩, pK := k }
      (if holder s then s else s.mirComplete).hashCompare
    | _ => s
  | 4 => leaseRx ((pl[1]?).map BitVec.toNat |>.getD 0) (fbit (pl.headD 0).toNat 8) pl s
  | 5 => s.mirAcked (pl.map BitVec.toNat)
  | 6 => s.pageRx ofs pl
  | 7 => (s.modPair fun p => { p with helloRx := some s.clk }).syncEval
  | _ => s

/-- MIRROR_PACKET_RX (R361): discarded on CRC failure; acknowledged; the first copy of a SEQ is kept. -/
def mirRx (ws : List Word) (s : State) : State :=
  if !pairOn s then s
  else if !pktCrcOk ws then s.addSat Reg.PAIR_LINK_STAT 31 24 1
  else if !pktFormOk ws then s
  else
    let w := fun i => ((ws[i]?).map BitVec.toNat).getD 0
    let ty := w 0 % 256
    let seq := w 1
    let s := if ty = 5 ∨ ty = 7 then s else s.mirSend 5 0 0 0 [BitVec.ofNat 32 seq]
    if ty ≠ 5 ∧ ty ≠ 7 ∧ s.pair.seen.contains seq then s
    else
      let s := if ty = 5 ∨ ty = 7 then s else s.modPair fun p => { p with seen := (seq :: p.seen).take 65536 }
      s.pktEffect ty (fget (w 0) 15 8) (w 2) (w 3) ((ws.drop 4).dropLast)

def execMirrorPacketRx (ws : List Word) (s : State) : Out1 := .next (s.ifOn 11 (mirRx ws))

/-! ### Proof runs (R378, R379) -/

/-- PROOF_PERIOD in ns; 0 disables. -/
def proofPeriod (s : State) : Nat := s.bits Reg.PAIR_PROOF_CFG 7 0 * 3600000000000

/-- PROOF_RUN_START: due a period after the last one ended; one that cannot start is retried every 10 minutes. -/
def proofStart (s : State) : State :=
  let due := decide (proofPeriod s ≠ 0) && decide (s.pair.lastEnd + proofPeriod s ≤ s.clk) &&
    (match s.pair.refused with | some t => decide (t + 600000000000 ≤ s.clk) | none => true)
  if !pairOn s ∨ !holder s ∨ s.bits Reg.PAIR_CFG 2 1 ≠ 1 ∨ s.pair.proof.isSome ∨ !due then s
  else if !s.bit Reg.PAIR_LEASE_STAT 4 ∨ !inSync s ∨ s.bit Reg.PAIR_LEASE_STAT 6 then
    (s.modPair fun p => { p with refused := some s.clk }).pairStat 13
  else
    ((s.wrN Reg.PAIR_PROOF_STAT 0).modPair fun p =>
      { p with proof := some s.clk, proofAt := none, compared := 0, firstK := s.lib.k, refused := none }).resyncStart

def execProofRunStart (s : State) : Out1 := .next (s.ifOn 11 proofStart)

/-- The verdict of R379. -/
def proofPasses (s : State) : Bool :=
  s.bits Reg.PAIR_PROOF_STAT 15 0 == 0 && decide (9 * (s.lib.k - s.pair.firstK) ≤ 10 * s.pair.compared) &&
    !s.bit Reg.PAIR_LEASE_STAT 5

/-- PROOF_RUN_END: PROOF_LEN seconds in TWIN. -/
def proofEnd (s : State) : State :=
  match s.pair.proofAt with
  | none => s
  | some t =>
    if !holder s ∨ s.clk < t + s.bits Reg.PAIR_PROOF_CFG 17 8 * 1000000000 then s
    else
      let ok := proofPasses s
      let s := s.modPair fun p => { p with proof := none, proofAt := none, lastEnd := s.clk, pUnfit := !ok }
      let s := (s.wr64 Reg.PAIR_PROOF_LAST_LO Reg.PAIR_PROOF_LAST_HI (ptpNow s)).pairStat 8
      if ok then s else s.pairStat 9

def execProofRunEnd (s : State) : Out1 := .next (s.ifOn 11 proofEnd)

/-! ### Takeover from WATCH (R377) -/

/-- A cycle slot with a valid commit word. -/
def slotCommitted (s : State) (i : Nat) : Bool := s.mramW (cycleSlot i + 0x50FFC) == 0x3C1A0001
def slotK (s : State) (i : Nat) : Nat := s.mramW (cycleSlot i + 0x50000)

/-- The newer valid cycle slot. -/
def newestSlot (s : State) : Option Nat :=
  match slotCommitted s 0, slotCommitted s 1 with
  | true, true => some (if newer (slotK s 1) (slotK s 0) then 1 else 0)
  | true, false => some 0
  | false, true => some 1
  | false, false => none

/-- Hot pages whose table entry is not cleared return from the MRAM page area. -/
def State.hotRestore (s : State) : State :=
  (List.range 8128).foldl (fun s i =>
    if rdz s.mram (0x1B0000 + 8 * i) 8 = 0 then s
    else s.dmaPut (mstBase s + 4096 * (i + 64)) (memWords zeroByte s.mram (0x200000 + 4096 * i) 1024)) s

/-- The earliest t0 of a takeover from WATCH: 25 ms after the take (R377); and its cycle number (R358). -/
def takeoverAt (s : State) : Nat := s.ext + (25000000 - (s.clk - s.pair.takeAt))
def takeoverK (s : State) : Nat := (((takeoverAt s : Int) + s.lib.oPtp + 19999999) / 20000000).toNat

/-- WATCH_TAKEOVER (R377): the new holder, awake, restores the cycle region under R366, the input block (R53) and the hot part, and arms
its schedule. -/
def watchTakeover (s : State) : State :=
  if !holder s ∨ s.bits Reg.PAIR_CFG 2 1 ≠ 1 ∨ !s.domOn 0 ∨ !s.domOn 12 then s
  else
    let s := match newestSlot s with
      | none => s
      | some i =>
        let ws := memWords zeroByte s.mram (cycleSlot i) 81920
        (s.adoptRegion (takeoverK s) (ws.take (mirLen s / 4))).adoptBlock ws
    let s := s.hotRestore
    { s with tim := { s.tim with armed := true }, lib := { s.lib with startAt := some (takeoverAt s) } }

def execWatchTakeover (s : State) : Out1 := .next (s.ifOn 11 watchTakeover)

end Sys2Proof.Machine
end

