-- ==== Sys2Proof/Machine/PlyRx.lean ====
section
/-! DEFINITION. Ply's receiving side: the switch, the checks of the Ply header, duplicate discard and the receive ring (R323-R329,
R340). -/

namespace Sys2Proof.Machine

/-! ### The switch (R323) -/

def srcMac (f : List Byte) : Nat := beAt f 6 6
def destMac (f : List Byte) : Nat := beAt f 0 6

/-- Multicast or broadcast. -/
def isGroupMac (m : Nat) : Bool := fbit (m / 2 ^ 40) 0

/-- Learn a source; a full table of 1,024 addresses, those heard within 300 s, learns nothing new. -/
def State.plyLearn (s : State) (net p mac : Nat) : State :=
  let rest := s.ply.addrs.filter fun a => !(a.net == net && (a.mac == mac || decide (a.at_ + 300000000000 ≤ s.clk)))
  if isGroupMac mac ∨ 1024 ≤ (rest.filter (·.net == net)).length then s
  else s.modPly fun y => { y with addrs := rest ++ [⟨net, mac, p, s.clk⟩] }

def ownMac (s : State) (m : Nat) : Bool := plyAlive s && m == nodeMac s.ply.node

/-- Forward, flood or queue a frame to the other external port; never EtherType 0x88F7 between external ports. -/
def State.plyForward (s : State) (p : Nat) (f : List Byte) : State :=
  if ownMac s (destMac f) ∨ plyEtherType f = 0x88F7 then s
  else (plyPorts s (p / 2) (destMac f) (some p)).foldl (fun s q => s.plyEnq q (plyQueue f) ⟨f, none, p / 2⟩) s

/-- Does the switch pass the frame to the module's own MAC: its own address, a group, or an address not learnt? -/
def toMac (s : State) (net : Nat) (f : List Byte) : Bool :=
  plyAlive s && (ownMac s (destMac f) || isGroupMac (destMac f) ||
    !s.ply.addrs.any fun a => a.net == net && a.mac == destMac f && decide (s.clk < a.at_ + 300000000000))

/-! ### Trailer and header (R326, R328) -/

/-- A frame carries a redundancy trailer: suffix, LanId and LSDU size. -/
def hasTrailer (f : List Byte) : Bool :=
  let n := f.length
  let lan := beAt f (n - 4) 2
  decide (plyBodyAt f + 6 ≤ n) && beAt f (n - 2) 2 == 0x88FB && (lan / 4096 == 0xA || lan / 4096 == 0xB) &&
    lan % 4096 == (n - plyBodyAt f) % 4096

/-- The checks of R326. -/
def plyHeaderOk (s : State) (f : List Byte) : Bool :=
  let h := plyBodyAt f
  let ty := byteAt f h / 16
  let dest := leAt f (h + 4) 2
  let len := leAt f (h + 6) 2
  let n := h + 16 + len + (if hasTrailer f then 6 else 0)
  byteAt f h % 16 == 1 && decide (1 ≤ ty) && decide (ty ≤ 4) && decide (byteAt f (h + 1) < 4) && decide (leAt f (h + 2) 2 < 2 ^ 14) &&
  decide (dest < 2 ^ 15) && leAt f (h + 12) 4 == 0 && decide (len ≤ 1476) &&
  (f.length == n || (decide (n ≤ f.length) && decide (f.length ≤ 60))) &&
  (if fbit dest 14 then decide (dest % 2 ^ 14 < 8) && s.bit Reg.PLY_GROUPS (dest % 2 ^ 14) else dest == s.ply.node)

/-! ### Duplicate discard (R329) -/

/-- What the discard window says of a redundant frame. -/
structure PrpVerdict where
  dup : Bool
  oow : Bool
  wrong : Bool
  deriving DecidableEq, Repr

/-- A source's values of the last 400 ms, newest first. -/
def winLive (s : State) (w : PlyWin) : List Nat :=
  (w.seqs.filter fun x => decide (s.clk < x.2 + 400000000)).map (·.1)

/-- Is `n` more than 64 behind the newest value? -/
def behindBy (newest n : Nat) : Bool :=
  let d := (newest + 65536 - n) % 65536
  decide (65 ≤ d) && decide (d < 32768)

def prpJudge (s : State) (src n lan net : Nat) : PrpVerdict :=
  let wrong := decide ((lan = 0xA) ≠ (net = 0))
  match s.ply.wins.find? (·.src == src) with
  | none => ⟨false, true, wrong⟩
  | some w =>
    let live := winLive s w
    ⟨live.contains n, (match live with | x :: _ => behindBy x n | [] => false), wrong⟩

/-- Keep the SeqNr: 64 values a source, 512 sources, the least recently used replaced. -/
def State.prpKeep (s : State) (src n : Nat) (dup : Bool) : State :=
  let old := match s.ply.wins.find? (·.src == src) with | some w => w.seqs | none => []
  let seqs := if dup then old else ((n, s.clk) :: old).take 64
  s.modPly fun y => { y with wins := (⟨src, seqs⟩ :: y.wins.filter (·.src != src)).take 512 }

/-- Judge, count and keep. -/
def State.prpAccept (s : State) (v : PrpVerdict) (src n : Nat) : State :=
  let oow := v.oow && !v.dup
  let s := s.prpKeep src n v.dup
  let s := if oow then s.addSat Reg.PLY_PRP_OOW 31 0 1 else s
  let s := if v.wrong then s.addSat Reg.PLY_PRP_WRONG_LAN 31 0 1 else s
  if oow || v.wrong then s.plyStat 6 else s

/-! ### The receive ring (R340) -/

def rxDesc (s : State) : Nat :=
  let cfg := s.rdN Reg.PLY_RXR_CFG
  ringBase cfg + 32 * (s.rdN Reg.PLY_RXR_WR % ringLen cfg)

/-- Write a frame to the receive ring, its trailer removed; OWN is cleared last. -/
def State.rxRingPut (s : State) (p : Nat) (f : List Byte) (trailer oow wrong : Bool) : State :=
  let a := rxDesc s
  let o := a - dramBase
  if !s.bit Reg.PLY_RXR_CFG 19 ∨ !s.domOn 0 ∨ !inDram a 32 ∨ !fbit (rdz s.dram (o + 8) 4) 31 then s.plyStat 5
  else
    let f := if trailer then f.take (f.length - 6) else f
    let buf := rdz s.dram o 8
    let s := if inDram buf f.length then
        ({ s with dram := memPutBytes zeroByte s.dram (buf - dramBase) f }.mend (buf - dramBase) f.length).dramTouch none (buf - dramBase) f.length
      else s
    let s := s.dramWr none (o + 16) 8 s.ext
    let s := s.dramWr none (o + 8) 4
      (f.length % 2048 + 2048 * p + 8192 * b2n trailer + 16384 * b2n oow + 32768 * b2n wrong)
    let s := { s with lib := { s.lib with plyStamp := some (plyIngress (s.bit (Reg.PLY_PORT_STAT p) 1) s.ext) } }
    (s.wrN Reg.PLY_RXR_WR ((s.rdN Reg.PLY_RXR_WR + 1) % ringLen (s.rdN Reg.PLY_RXR_CFG))).plyStat 1

/-- A write that sets EN resets WR and RD. -/
def plyRxCfg (wasEn : Bool) (s : State) : State :=
  if wasEn ∨ !s.bit Reg.PLY_RXR_CFG 19 then s else (s.wrN Reg.PLY_RXR_WR 0).wrN Reg.PLY_RXR_RD 0

/-! ### What a Ply frame does -/

/-- The bytes of a list as words, least significant byte first. -/
def bytesWords (bs : List Byte) : List Word :=
  (List.range (bs.length / 4)).map fun i => BitVec.ofNat 32 (leAt bs (4 * i) 4)

/-- The safe PDU that a payload holds (R312). -/
def pduOf (bs : List Byte) : Option SafePdu :=
  match bytesWords bs with
  | w0 :: seq :: node :: rest =>
    match rest.getLast? with
    | some crc => some ⟨BitVec.ofNat 8 w0.toNat, BitVec.ofNat 8 (w0.toNat / 256), BitVec.ofNat 16 (w0.toNat / 65536), seq, node,
        rest.dropLast, crc⟩
    | none => none
  | _ => none

/-- A Ply frame that passed the header checks and was not discarded: the lease logic reads LEASE and COMMAND frames of the partner, an
empty DATA frame wakes a module in WATCH, and the frame goes to the ring. -/
def State.plyTake (s : State) (p : Nat) (f : List Byte) (tr oow wrong : Bool) : State :=
  let h := plyBodyAt f
  let ty := byteAt f h / 16
  let src := leAt f (h + 2) 2
  let len := leAt f (h + 6) 2
  let epoch := leAt f (h + 8) 4
  let s := s.rxRingPut p f tr oow wrong
  if ty = 3 ∧ src = partnerNode s then leaseRx epoch (fbit (byteAt f (h + 1)) 0) (bytesWords ((f.drop (h + 16)).take len)) s
  else if ty = 1 ∧ src = partnerNode s ∧ pairOn s then s.epochSeen epoch
  else if ty = 4 ∧ len = 0 ∧ !fbit (leAt f (h + 4) 2) 14 ∧ (p = 0 ∨ p = 2) then plyWake s
  else s

/-- A frame at the module's own MAC of network p / 2: header checks, duplicate discard, delivery. -/
def State.macRx (s : State) (p : Nat) (f : List Byte) : State :=
  let h := plyBodyAt f
  let ply := plyEtherType f == 0x88B5
  if ply && !plyHeaderOk s f then s.addSat (Reg.PLY_PORT_RXERR p) 31 16 1
  else
    let tr := hasTrailer f
    let n := beAt f (f.length - 6) 2
    let src := srcMac f
    let s := if ply then s.visible (p / 2) (leAt f (h + 2) 2) else s
    let v := if tr then prpJudge s src n (beAt f (f.length - 4) 2 / 4096) (p / 2) else ⟨false, false, false⟩
    let s := if tr then s.prpAccept v src n else s
    if ply && byteAt f h / 16 == 2 then
      match pduOf ((f.drop (h + 16)).take (leAt f (h + 6) 2)) with
      | some pdu => s.ifOn 13 (dklCopyRx (p / 2 == 1) pdu)
      | none => s
    else if v.dup then s.addSat Reg.PLY_PRP_DUP 31 0 1
    else if plyEtherType f = 0x88FB then s
    else if ply then s.plyTake p f tr v.oow v.wrong
    else s.rxRingPut p f tr v.oow v.wrong

/-- PLY_FRAME_RX: a frame at external port `p`; an FCS error is counted, a PAUSE frame discarded. -/
def plyRx (p : Nat) (f : List Byte) (fcsOk : Bool) (s : State) : State :=
  if !portUp s p then s
  else if !fcsOk then s.addSat (Reg.PLY_PORT_RXERR p) 15 0 1
  else if plyEtherType f = 0x8808 then s
  else
    let mac := toMac s (p / 2) f
    let s := (s.plyLearn (p / 2) p (srcMac f)).plyForward p f
    if mac then s.macRx p f else s

def execPlyFrameRx (p : Fin 4) (f : List Byte) (fcsOk : Bool) (s : State) : Out1 :=
  .next (s.ifOn 11 (plyRx p.val f fcsOk))

end Sys2Proof.Machine
end

