-- ==== Sys2Proof/Machine/Bus.lean ====
section
/-! DEFINITION. The bus: the physical address map, register reads and writes with what each register does besides, accesses to
domains that are not ON, and the commands that issue or end accesses (R5-R9, R36-R38, R92, R109, R127, R128, R404, R470). -/

namespace Sys2Proof.Machine

/-! ### The map (R36) -/

/-- Does the address lie in a block window, and are its registers 32 bits wide (R9)? The PRS window holds memories too, which are
read and written as registers are. -/
def inWindows (a : Nat) : Bool :=
  (decide (0x200000000 ≤ a) && decide (a < 0x200860000)) || (decide (0x200900000 ≤ a) && decide (a < 0x201100000))

/-- The domain an address lies in, 14 for always-on; none: an address R36 does not list (R37). -/
def addrDomain (a : Nat) : Option Nat :=
  if a < 0x40000 then some 14
  else if 0x40000000 ≤ a ∧ a < 0x44000000 then some 12
  else if 0x80000000 ≤ a ∧ a < 0x84000000 then some 12
  else if 0xC0000000 ≤ a ∧ a < 0xC0040000 then some 14
  else if inWindows a then some (regDomain a)
  else if 0x300000000 ≤ a ∧ a < 0x300400000 then some (5 + (a - 0x300000000) / 0x100000)
  else if 0x800000000 ≤ a ∧ a < 0x870000000 then some 0
  else none

/-- Registers take aligned 32-bit accesses (R9); memories take naturally aligned ones of 1, 2, 4 and 8 bytes (R37). -/
def sizeOk (a n : Nat) : Bool :=
  if inWindows a then n == 4 && a % 4 == 0
  else (n == 1 || n == 2 || n == 4 || n == 8) && a % n == 0

/-- The level a Mill access needs: TND and PWR registers, 1 for a read and 2 for a write (R109). -/
def levelOk (rq : Requester) (lvl a : Nat) (write : Bool) : Bool :=
  let mill := rq == .mill0 || rq == .mill1
  let guarded := a / 0x100000 == 0x2000 || a / 0x100000 == 0x200f
  !(mill && guarded) || decide ((if write then 2 else 1) ≤ lvl)

/-- The core that writes, for the reservations it leaves alone. -/
def agentOf : Requester → Option CoreId
  | .mill0 => some (.mill false)
  | .mill1 => some (.mill true)
  | .tender => some .tender
  | _ => none

/-! ### Registers: the access types of R5 -/

/-- What a write stores: RW bits take the value, W1C bits written 1 clear unless an event set them in this instant (R6; `start`: the
register when it began), W1S bits written 1 set, the rest stays. -/
def RegFam.stored (f : RegFam) (old start v : Word) : Word :=
  let rw := BitVec.ofNat 32 f.rw
  let w1c := BitVec.ofNat 32 f.w1c
  let w1s := BitVec.ofNat 32 f.w1s
  (((old &&& ~~~rw) ||| (v &&& rw)) &&& ~~~(v &&& w1c &&& ~~~(old &&& ~~~start))) ||| (v &&& w1s)

/-- The RC fields of a register: their width, and whether they hold a largest value rather than a count. -/
def rcShape (a : Nat) : Nat × Bool :=
  match a / 0x100000 with
  | 0x2003 => (32, a % 16 == 4)
  | 0x2006 | 0x200a => (8, false)
  | 0x2007 => (32, true)
  | 0x2002 => (16, false)
  | 0x2009 => (if a % 0x100000 < 0x200 then (if a % 16 = 8 then 8 else 16) else 32, false)
  | 0x200c => (if a % 0x100000 = 0x48 then 16 else 32, false)
  | _ => (32, false)

/-- What a read leaves in RC fields: what events of this very instant brought (R6). -/
def rcLeft (shape : Nat × Bool) (old start : Word) : Word :=
  let w := shape.1
  BitVec.ofNat 32 (((List.range (32 / w)).map fun i =>
    let n := wbits old (w * i + w - 1) (w * i)
    let m := wbits start (w * i + w - 1) (w * i)
    2 ^ (w * i) * if shape.2 then (if m < n then n else 0) else n - m).sum)

/-- A write with no behaviour of its own; a reserved offset ignores it (R7). -/
def State.regGen (s : State) (a : Nat) (v : Word) : State :=
  match regFam a with
  | none => s
  | some f =>
    let t := (s.wr a (f.stored (s.rd a) (s.atStart a) v)).cleared a (v &&& BitVec.ofNat 32 f.w1c)
    if f.rw = 0 then t else t.wrote a

/-- Only the RW bits of a register take the value: its W1S bits are acted on apart. -/
def State.regRw (s : State) (a : Nat) (v : Word) : State :=
  match regFam a with
  | none => s
  | some f => (s.wr a ((s.rd a &&& ~~~(BitVec.ofNat 32 f.rw)) ||| (v &&& BitVec.ofNat 32 f.rw))).wrote a

/-- A read: the value, and RC fields clear but for what this instant's events brought (R5, R6). -/
def State.regTake (s : State) (a : Nat) : Nat × State :=
  match regFam a with
  | none => (0, s)
  | some f => ((s.rd a &&& ~~~(BitVec.ofNat 32 f.wo)).toNat,
      if f.rc = 0 then s
      else
        let rc := BitVec.ofNat 32 f.rc
        (s.wr a ((s.rd a &&& ~~~rc) ||| (rcLeft (rcShape a) (s.rd a) (s.atStart a) &&& rc))).cleared a rc)

/-- Run a command that answers a read: the answer and the state. -/
def State.answered (s old : State) : Nat × State :=
  ((match s.resp with | .data v => v.toNat % 2 ^ 32 | _ => 0), { s with resp := old.resp })

/-! ### What writes do, window by window; `o` is the offset in the window -/

/-- TND. -/
def tndWrite (rq : Requester) (o : Nat) (v : Word) (s : State) : State :=
  let a := 0x200000000 + o
  if o = 0x10 then pstateReq (wbits v 1 0) s
  else if o = 0x18 then s.modTnd fun t => { t with rtcLo := v }
  else if o = 0x1C then rtcWrite v s
  else if o = 0x20 then s.modTnd fun t => { t with almLo := v }
  else if o = 0x24 then alarmWrite v s
  else if o = 0x2C then twdgWrite rq s
  else if 0x100 ≤ o ∧ o < 0x200 ∧ o % 16 = 8 then flushLen ((o - 0x100) / 16) v s
  else if o = 0x400 then
    let s := if wbit v 2 then calOpen s else s
    if wbit v 3 then calCommitBank s else s
  else if o = 0x410 then
    let was := s.bit Reg.TND_MWDG 15
    let s := s.regGen a v
    if wbit v 15 && !was then mwdgKick s else s
  else if o = 0x414 then mwdgKick s
  else s.regGen a v

/-- PWR. TRIG is kept for DC1-DC10 alone. -/
def pwrWrite (rq : Requester) (o : Nat) (v : Word) (s : State) : State :=
  if o < 0x70 ∧ o % 8 = 0 then
    let n := o / 8
    let s := s.setBit (Reg.PWR_DC_CTL n) 2 (wbit v 2)
    let s := if 1 ≤ n ∧ n ≤ 10 then s.setBits (Reg.PWR_DC_CTL n) 31 16 (wbits v 31 16) else s
    let s := targetWrite n (wbits v 1 0) s
    let s := if wbit v 3 then domainRst n rq s else s
    if wbit v 4 then domainRelease n rq s else s
  else if o = 0x100 then (if wbit v 0 then s.softReset 0 else s)
  else if o = 0x104 then (if v = 0xD0A5 then s.systemReset 8 else s)
  else if o = 0x108 then jointRst (wbits v 3 0) s
  else s.regGen (0x200f00000 + o) v

/-- TIM. -/
def timWrite (o : Nat) (v : Word) (s : State) : State :=
  let a := 0x200100000 + o
  if o = 0x10 then timIncWrite v s
  else if o = 0x14 then timOfsWrite v s
  else if o = 0x20 then timFold v.toNat s
  else if 0x100 ≤ o ∧ o < 0x300 ∧ o % 32 = 4 then s.cmpTargetLo ((o - 0x100) / 32) v
  else if 0x100 ≤ o ∧ o < 0x300 ∧ o % 32 = 8 then s.cmpTarget ((o - 0x100) / 32) v
  else if o = 0x400 ∨ o = 0x404 then
    let n := (o - 0x400) / 4
    let s := s.regGen a v
    if !wbit v 0 && (sget (fun _ => none) s.tim.tm n).isSome then
      (s.modTim fun t => { t with tm := sset (fun _ => none) t.tm n none }).emit (.tm n false)
    else s
  else s.regGen a v

/-- MILL: APPLY is set by the generic rule; a software request raises an edge and is not stored. -/
def millWrite (o : Nat) (v : Word) (s : State) : State :=
  if o = 0x90300 then s.swi v.toNat else s.regGen (0x201000000 + o) v

/-- PRS: registers below tile offset 0x1_0000, memories above (R128); none: a bus error. -/
def prsWrite (o : Nat) (v : Word) (s : State) : Option State :=
  let t := o / 0x40000
  let r := o % 0x40000
  if 0x10000 ≤ r then prsHostWrite t r v.toNat s
  else if 0x100 ≤ r ∧ r < 0x180 then some (prsRxCfg t ((r - 0x100) / 4) v.toNat s)
  else if 0x1000 ≤ r ∧ r < 0x1800 ∧ r % 256 = 0 then
    if h : t < 4 ∧ (r - 0x1000) / 256 < 8 then
      let l : Fin 8 := ⟨(r - 0x1000) / 256, h.2⟩
      let s := s.setBits (Reg.PRS_T_L_CTL t l) 8 4 (wbits v 8 4)
      some (if wbit v 0 then laneRun ⟨t, h.1⟩ l s else laneStop ⟨t, h.1⟩ l s)
    else some s
  else some (s.regGen (0x200300000 + o) v)

/-- CAL. -/
def calWrite (o : Nat) (v : Word) (s : State) : State :=
  if o = 0x10 then calPush 0 v s
  else if o = 0x18 then calPush 1 v s
  else if o = 0x20 then calAbort (wbits v 15 0) s
  else s.regGen (0x200400000 + o) v

/-- A ring's configuration: setting EN resets its two indices. -/
def State.ringCfg (s : State) (cfg wr_ rd_ : Nat) (v : Word) : State :=
  let was := s.bit cfg 19
  let s := s.regGen cfg v
  if wbit v 19 && !was then (s.wrN wr_ 0).wrN rd_ 0 else s

/-- NBB. -/
def nbbWrite (o : Nat) (v : Word) (s : State) : State :=
  let a := 0x200500000 + o
  if o = 0x10 then
    let s := s.regGen a v
    if measOk v then s else s.nbbStat 9
  else if o = 0x20 then s.ringCfg Reg.NBB_RING_CFG Reg.NBB_RING_WR Reg.NBB_RING_RD v
  else if o = 0x30 then s.ringCfg Reg.NBB_SYM_CFG Reg.NBB_SYM_WR Reg.NBB_SYM_RD v
  else if o = 0x410 then (if wbit v 0 then acqPush s else s)
  else if 0x10000 ≤ o ∧ o < 0x13000 then
    let c := (o - 0x10000) / 64
    if o % 64 = 0 then nbbCfgWrite c v s
    else if o % 64 = 8 then nbbSpcWrite c v s
    else if o % 64 = 12 then towWrite c v s
    else s.regGen a v
  else if 0x20000 ≤ o ∧ o < 0x20300 then
    let n := (o - 0x20000) / 256
    if o % 256 = 0 then
      let s := (s.regRw a v).antPwr n
      let s := if wbit v 2 then antRetry n s else s
      if wbit v 7 then quietCapture n s else s
    else if 0x40 ≤ o % 256 ∧ o % 256 < 0x80 then
      -- CENTRE is read-only in auto mode, the mode written
      let keep := s.bits a 19 4
      let s := s.regGen a v
      if wbits v 1 0 = 2 then s.setBits a 19 4 keep else s
    else s.regGen a v
  else if o = 0x30000 then
    let s := s.regRw a v
    if wbit v 0 then tsolCommit s else s
  else if o = 0x30040 then (s.regGen a v).ppsOff
  else s.regGen a v

/-- FSN; none: a write to the transform bank in force (R219). -/
def fsnWrite (o : Nat) (v : Word) (s : State) : Option State :=
  let a := 0x200600000 + o
  if o = 0x20 then some (s.ringCfg Reg.FSN_SUBQ_CFG Reg.FSN_SUBQ_WR Reg.FSN_SUBQ_RD v)
  else if o = 0x24 then some (subqWrite v s)
  else if o = 0x60 then some (if wbit v 1 then xfCommit s else s)
  else if 0x100 ≤ o ∧ o < 0x900 ∧ o % 32 = 0 then some (sensorEn ((o - 0x100) / 32) v s)
  else if 0x1000 ≤ o ∧ o < 0x2000 then
    if (o - 0x1000) / 2048 = xfActive s then none else some (s.regGen a v)
  else if 0x2000 ≤ o ∧ o < 0x2200 ∧ o % 64 = 0 then some ((s.regGen a v).serChanged ((o - 0x2000) / 64) (s.rd a))
  else if 0x2000 ≤ o ∧ o < 0x2200 ∧ o % 64 = 4 then some ((s.regGen a v).serSync)
  else if 0x2000 ≤ o ∧ o < 0x2200 ∧ o % 64 = 8 then some (serWrite ((o - 0x2000) / 64) (v.setWidth 8) s)
  else if 0x3000 ≤ o ∧ o < 0x5000 ∧ o % 64 = 0x3C then
    let t := (o - 0x3000) / 64
    some (if wbit v 0 then
      trackFix t (s.rd (Reg.FSN_TRK_FIX t 0)) (s.rd (Reg.FSN_TRK_FIX t 1)) (s.rd (Reg.FSN_TRK_FIX t 2)) s else s)
  else some (s.regGen a v)

/-- HBX. -/
def hbxWrite (o : Nat) (v : Word) (s : State) : State :=
  if 0x200 ≤ o ∧ o < 0x240 ∧ o % 8 = 0 then bmbCfg ((o - 0x200) / 8) v s
  else if 0x10000 ≤ o ∧ o < 0x10A00 ∧ o % 64 = 0 then chainWrite ((o - 0x10000) / 64) false v s
  else if 0x10000 ≤ o ∧ o < 0x10A00 ∧ o % 64 = 4 then chainWrite ((o - 0x10000) / 64) true v s
  else if 0x10000 ≤ o ∧ o < 0x10A00 ∧ o % 64 = 0x28 then usrCal ((o - 0x10000) / 64) false v s
  else if 0x10000 ≤ o ∧ o < 0x10A00 ∧ o % 64 = 0x2C then usrCal ((o - 0x10000) / 64) true v s
  else if 0x20000 ≤ o ∧ o < 0x20200 ∧ o % 32 = 0 then s.valveWrite ((o - 0x20000) / 32) v
  else s.regGen (0x200200000 + o) v

/-- ENC; ABS and ABS_LAT exist on inputs 12-15 alone. -/
def encRegWrite (o : Nat) (v : Word) (s : State) : State :=
  if 0x1000 ≤ o ∧ o < 0x2000 then
    let n := (o - 0x1000) / 256
    let r := o % 256
    if r = 0 then encWrite n false v s
    else if r = 4 then encWrite n true v s
    else if r = 0x10 then (if wbit v 0 then realign n s else s)
    else if (r = 0x70 ∨ r = 0x74) ∧ n < 12 then s
    else (s.regGen (0x200700000 + o) v).encSync n
  else s.regGen (0x200700000 + o) v

/-- DKL: a software stop is a demand and reads 0; the CRC offered for adoption is write-only. -/
def dklWrite (o : Nat) (v : Word) (s : State) : State :=
  if o = 0x20 then dklSwStop v.toNat s
  else if o = 0x34 then s.modDkl fun d => { d with accept := v }
  else s.regGen (0x200b00000 + o) v

/-- PLY; group 0 stays joined. -/
def plyWrite (o : Nat) (v : Word) (s : State) : State :=
  let a := 0x200900000 + o
  if o = 8 then plyNode (s.bit Reg.PLY_NODE 14) (s.regGen a v)
  else if o = 0x10 ∨ o = 0x20 then
    let r := (o - 0x10) / 16
    plyTxCfg r (s.bit (Reg.PLY_TXR_CFG r) 19) (s.regGen a v)
  else if o = 0x14 ∨ o = 0x24 then plyTxWr ((o - 0x14) / 16) v s
  else if o = 0x30 then plyRxCfg (s.bit Reg.PLY_RXR_CFG 19) (s.regGen a v)
  else if o = 0x40 then s.regGen a (v ||| 1)
  else if 0x100 ≤ o ∧ o < 0x200 ∧ o % 64 = 0 then plyPortCfg ((o - 0x100) / 64) (s.regGen a v)
  else s.regGen a v

/-- CAN: timing fields and LISTEN and LOOPBACK change in INIT alone; DIR only while IDLE or final; words 0-17 of a PENDING or ACTIVE
buffer are kept (R343, R346, R353). -/
def canWrite (n o : Nat) (v : Word) (s : State) : State :=
  let a := 0x200800000 + 0x10000 * n + o
  if o = 8 then
    let m := Reg.CAN_MODE n
    let s := if s.bit m 0 then s.setBits m 2 1 (wbits v 2 1) else s
    let s := s.setBit m 3 (wbit v 3)
    let s := if wbit v 0 != s.bit m 0 then canInit n (wbit v 0) s else s
    let s := if wbit v 4 then canRecover n s else s
    if wbit v 5 then canFlush n s else s
  else if o = 0x10 ∨ o = 0x14 then (if s.bit (Reg.CAN_MODE n) 0 then s.regGen a v else s)
  else if 0x100 ≤ o ∧ o < 0x300 ∧ o % 8 = 0 then
    let b := (o - 0x100) / 8
    let dir := s.bit a 30
    let s := s.regGen a v
    if canStatus s n b = 1 ∨ canStatus s n b = 2 then s.setBit a 30 dir else s
  else if 0x800 ≤ o ∧ o < 0x900 then
    let b := (o - 0x800) / 4
    let s := if wbit v 3 then (if wbit (s.atStart a) 3 then s.setBit a 3 false else s).cleared a 8 else s
    let s := if wbit v 0 then canReq n b s else s
    if wbit v 1 then canCancel n b s else s
  else if 0x1000 ≤ o ∧ o < 0x3000 then
    let b := (o - 0x1000) / 128
    if (o - 0x1000) % 128 < 72 ∧ (canStatus s n b = 1 ∨ canStatus s n b = 2) then s else s.regGen a v
  else s.regGen a v

/-- PAIR: MODE changes only while EN is clear; a DURATION outside 5-500 is refused (R371). -/
def pairWrite (o : Nat) (v : Word) (s : State) : State :=
  let a := 0x200a00000 + o
  if o = 8 then
    let en := s.bit Reg.PAIR_CFG 0
    let mode := s.bits Reg.PAIR_CFG 2 1
    let s := s.regGen a v
    pairCfg en (if en then s.setBits Reg.PAIR_CFG 2 1 mode else s)
  else if o = 0xC then
    let d := s.bits Reg.PAIR_LEASE_CFG 8 0
    let s := s.regGen a v
    if wbits v 8 0 < 5 ∨ 500 < wbits v 8 0 then (s.setBits Reg.PAIR_LEASE_CFG 8 0 d).pairStat 11 else s
  else if o = 0x10 then (if wbit v 0 then leaseRelease s else s)
  else if o = 0xC0 then (if wbit v 1 then snapGo (wbits v 0 0) s else s)
  else if o = 0xC4 ∨ o = 0xC8 then (s.regGen a v).modPair fun p => { p with snapDone := false }
  else if o = 0xD4 then (if wbit v 0 then mirGo s else s)
  else if o = 0xE8 then (if wbit v 0 then s.resyncStart else s)
  else s.regGen a v

/-- REEL; none: a clear that is refused (R420). -/
def reelWrite (rq : Requester) (lvl o : Nat) (v : Word) (s : State) : Option State :=
  let a := 0x200c00000 + o
  if o = 8 then some (reelCtl v s)
  else if o = 0x10 then (if reelClearOk s rq lvl then some (reelClearWrite v s) else none)
  else if o = 0x24 ∨ o = 0x2C ∨ o = 0x34 then some (reelPost ((o - 0x24) / 8) v s)
  else if o = 0x40 then some ((reelThrRun s).regGen a v)
  else if o = 0x64 then some (cursorLatch v s)
  else if o = 0x78 then some (leapDelta v s)
  else if 0x2000 ≤ o ∧ o < 0x3000 then some (reelHistCfg ((o - 0x2000) / 16) (s.regGen a v))
  else if 0x4000 ≤ o ∧ o < 0x4800 then some (reelXtrCfg ((o - 0x4000) / 4) (s.regGen a v))
  else some (s.regGen a v)

/-- UPD. -/
def updWrite (o : Nat) (v : Word) (s : State) : State :=
  if o = 8 then
    let s := if wbit v 0 then updCheck s else s
    let s := if wbit v 1 then updVerify s else s
    let s := if wbit v 2 then updInstall s else s
    if wbit v 3 then updAbort s else s
  else if o = 0x18 then updSubmit v s
  else if o = 0x38 then updActCtl v s
  else if o = 0x3C then updConfirm v s
  else s.regGen (0x200d00000 + o) v

/-- PNL. -/
def pnlWrite (o : Nat) (v : Word) (s : State) : State :=
  if o = 8 then
    let s := if wbit v 0 then pnlGo s else s
    if wbit v 1 then pnlCancel s else s
  else s.regGen (0x200e00000 + o) v

/-- A write of the register at `a` in a domain that is ON; none: the block refuses it with a bus error. -/
def regWrite (rq : Requester) (lvl a : Nat) (v : Word) (s : State) : Option State :=
  let o := a % 0x100000
  match a / 0x100000 with
  | 0x2000 => some (tndWrite rq o v s)
  | 0x2001 => some (timWrite o v s)
  | 0x2002 => some (hbxWrite o v s)
  | 0x2003 => prsWrite o v s
  | 0x2004 => some (calWrite o v s)
  | 0x2005 => some (nbbWrite o v s)
  | 0x2006 => fsnWrite o v s
  | 0x2007 => some (encRegWrite o v s)
  | 0x2008 => some (canWrite (o / 0x10000) (o % 0x10000) v s)
  | 0x2009 => some (plyWrite o v s)
  | 0x200a => some (pairWrite o v s)
  | 0x200b => some (dklWrite o v s)
  | 0x200c => reelWrite rq lvl o v s
  | 0x200d => some (updWrite o v s)
  | 0x200e => some (pnlWrite o v s)
  | 0x200f => some (pwrWrite rq o v s)
  | 0x2010 => some (millWrite o v s)
  | _ => some s

/-! ### What reads do -/

/-- A read of the register at `a` in a domain that is ON: the value and the state it leaves. -/
def regRead (a : Nat) (s : State) : Nat × State :=
  let o := a % 0x100000
  match a / 0x100000 with
  | 0x2001 =>
    if o = 0x40 ∨ o = 0x50 ∨ o = 0x60 then (timSnap ((o - 0x40) / 16) s).answered s
    else if 0x500 ≤ o ∧ o < 0x600 ∧ o % 32 = 4 then (capReadLo ((o - 0x500) / 32) s).answered s
    else if 0x500 ≤ o ∧ o < 0x600 ∧ o % 32 = 8 then (capReadHi ((o - 0x500) / 32) s).answered s
    else if o = 0x604 then (capReadLo 8 s).answered s
    else if o = 0x608 then (capReadHi 8 s).answered s
    else s.regTake a
  | 0x2003 => if 0x10000 ≤ o % 0x40000 then (prsHostRead (o / 0x40000) (o % 0x40000) s, s) else s.regTake a
  | 0x2005 =>
    if o = 0x42C then (s.rdN a, acqPop s)
    else if o = 0x30024 then s.refreshUnc.regTake a
    else s.regTake a
  | 0x2006 => if 0x2000 ≤ o ∧ o < 0x2200 ∧ o % 64 = 8 then (serRead ((o - 0x2000) / 64) s).answered s else s.regTake a
  | 0x2007 =>
    let w := (o % 256 - 0x40) / 4
    if 0x1000 ≤ o ∧ o < 0x2000 ∧ 0x40 ≤ o % 256 ∧ o % 256 < 0x70 ∧ w % 4 = 0 then
      (latchLo ((o - 0x1000) / 256) (w / 4) s).answered s
    else if 0x1000 ≤ o ∧ o < 0x2000 ∧ 0x40 ≤ o % 256 ∧ o % 256 < 0x70 ∧ w % 4 = 3 then
      (latchHi ((o - 0x1000) / 256) (w / 4) s).answered s
    else s.regTake a
  | 0x2008 =>
    let n := o / 0x10000
    let r := o % 0x10000
    if 0x1000 ≤ r ∧ r < 0x3000 ∧ (r - 0x1000) % 128 = 0 then
      let s := canLock n ((r - 0x1000) / 128) s
      (s.rdN a, s)
    else if 0x1000 ≤ r ∧ r < 0x3000 ∧ (r - 0x1000) % 128 = 72 then (s.rdN a, canUnlock n ((r - 0x1000) / 128) s)
    else if 0x3000 ≤ r ∧ r < 0x304C then
      let w := (r - 0x3000) / 4
      let v := (canFifoWord s n w).toNat
      (v, if w = 0 then canLock n 64 s else if w = 18 then canUnlock n 64 s else s)
    else s.regTake a
  | 0x200d => if o = 0x28 then (trialLeft s, s) else s.regTake a
  | 0x200e =>
    if 0x20000 ≤ o ∧ o < 0x21280 then (stress s ((o - 0x20000) / 8) / 2 ^ (32 * ((o - 0x20000) / 4 % 2)) % 2 ^ 32, s)
    else s.regTake a
  | _ => s.regTake a

/-! ### Crossings (R405) -/

/-- The domain whose clock samples what a requester reads. -/
def rqDomain : Requester → Nat
  | .mill0 | .mill1 => 0
  | .tender => 14
  | .plyDma | .mirrorDma => 11
  | .fusion => 10

/-- Counters cross in Gray code: the time base, the RTC, the encoders' counts. -/
def crossesGray (a : Nat) : Bool :=
  a / 0x100000 == 0x2001 || a == Reg.TND_RTC_LO || a == Reg.TND_RTC_HI ||
  (decide (0x200701000 ≤ a) && decide (a < 0x200702000) && (a % 256 == 0x18 || a % 256 == 0x1C))

/-- A register of another domain is read while its value moves: it has changed in this instant, and not by software's own write. -/
def moving (rq : Requester) (a : Nat) (s : State) : Bool :=
  rqDomain rq != regDomain a && !crossesGray a && (regFam a).isSome && !s.inst.sw.contains a && s.rd a != s.atStart a

/-- The destination's samples disagreed four times: UNSETTLED. -/
def State.unsettled (s : State) (d : Nat) : State :=
  if 14 ≤ d then s
  else if s.bit (Reg.PWR_DC_STAT d) 8 then s.again (Reg.PWR_DC_STAT d) 8
  else (s.flag (Reg.PWR_DC_STAT d) 8).dcReportLimited d 1 12 0 0 0

/-- A read across domains (R405). While the value moves, a free value tells whether four pairs of samples disagree; the read then returns the
last agreed value, that of the instant's start. -/
def crossRead (rq : Requester) (a : Nat) (s : State) : Nat × State :=
  if moving rq a s then
    let (x, s1) := s.free
    let (v, t) := regRead a s1
    if x.getLsbD 0 then ((s.atStart a &&& ~~~(BitVec.ofNat 32 (((regFam a).map (·.wo)).getD 0))).toNat, t.unsettled (rqDomain rq))
    else (v, t)
  else regRead a s

/-! ### Memories (R36) -/

/-- Read `n` bytes of a memory region. -/
def physRead (a n : Nat) (s : State) : Nat :=
  if a < 0x40000 then memRd Config.bootRom [] a n
  else if a < 0x44000000 then memRd erasedByte s.nor (a - 0x40000000) n
  else if a < 0x84000000 then rdz s.mram (a - 0x80000000) n
  else if a < 0xC0040000 then rdz s.ao (a - 0xC0000000) n
  else if a < 0x300400000 then rdz s.cal.mem (a - 0x300000000) n
  else rdz s.dram (a - dramBase) n

/-- The user calibration bank and the safety configuration slot in force, which refuse writes (R403). -/
def mramLocked (s : State) (o : Nat) : Bool :=
  (match bankForce s with | some b => decide (b ≤ o) && decide (o < b + 0x10000) | none => false) ||
  (match s.dkl.slot with | some k => decide (0x2000 + 0x1000 * k ≤ o) && decide (o < 0x3000 + 0x1000 * k) | none => false)

/-- Write `n` bytes of a memory region; none: refused (the boot ROM; boot NOR, R38; an MRAM area in force, R403). -/
def physWrite (ag : Option CoreId) (a n v : Nat) (s : State) : Option State :=
  if a < 0x80000000 then none
  else if a < 0x84000000 then
    if mramLocked s (a - 0x80000000) then none else some { s with mram := wrz s.mram (a - 0x80000000) n v }
  else if a < 0xC0040000 then some { s with ao := wrz s.ao (a - 0xC0000000) n v }
  else if a < 0x300400000 then some (s.modCal fun c => { c with mem := wrz c.mem (a - 0x300000000) n v })
  else some (s.dramWr ag (a - dramBase) n v)

/-! ### An access -/

/-- How an access ends now: with a value, refused with a bus error, or waiting for its domain (R404). -/
inductive Acc where
  | ok (v : Nat)
  | err
  | wait (dom : Nat)
  deriving DecidableEq, Repr

/-- Does an access travel over Felt as best-effort traffic (R26)? DRAM and the local stores are reached over it, and so are the windows of
the Felt stations but by the Tender, which has its own bus (R18, R24). -/
def viaFelt (rq : Requester) (a : Nat) : Bool :=
  decide (0x300000000 ≤ a) || (rq != .tender && decide (0x200200000 ≤ a) && decide (a < 0x200800000))

/-- The checks before an access: address, size, level, then its domain. A contained domain, or a sleeping one that no access wakes,
answers with a bus error at once and a stall log entry; another one that is not ON is woken and the access waits (R404). An access whose
message an uncorrectable beat has hit ends in a bus error (R32). -/
def State.access (s : State) (rq : Requester) (lvl a n : Nat) (write : Bool) (go : State → Acc × State) : Acc × State :=
  match addrDomain a with
  | none => (.err, s)
  | some d =>
    if !sizeOk a n || !levelOk rq lvl a write then (.err, s)
    else if d = 14 ∨ s.domOn d then
      if s.felt.hit && viaFelt rq a then (.err, s.modFelt fun f => { f with hit := false }) else go s
    else if s.contained d then (.err, s.stallLog rq 2 d a)
    else if !s.bit (Reg.PWR_DC_CTL d) 2 then (.err, s.stallLog rq 3 d a)
    else (.wait d, s.wake d)

/-- Read `n` bytes at a physical address. -/
def State.busRead (s : State) (rq : Requester) (lvl a n : Nat) : Acc × State :=
  s.access rq lvl a n false fun s =>
    if inWindows a then
      let (v, s) := crossRead rq a s
      (.ok v, s)
    else (.ok (physRead a n s), s)

/-- Write the low `n` bytes of `v` at a physical address. -/
def State.busWrite (s : State) (rq : Requester) (lvl a n v : Nat) : Acc × State :=
  s.access rq lvl a n true fun s =>
    match (if inWindows a then regWrite rq lvl a (BitVec.ofNat 32 v) s else physWrite (agentOf rq) a n v s) with
    | some s => (.ok 0, s)
    | none => (.err, s)

/-- Put an access on the list of those that wait. -/
def State.stall (s : State) (x : Stall) : State := s.modTnd fun t => { t with stalls := t.stalls ++ [x] }

/-! ### The commands -/

/-- A write from outside the cores (R5): the bus answers done, a bus error, or nothing while the access waits. -/
def regWriteCmd (rq : Requester) (lvl a n v : Nat) (s : State) : State :=
  match s.busWrite rq lvl a n v with
  | (.ok _, s) => { s with resp := .done }
  | (.err, s) => { s with resp := .busError }
  | (.wait d, s) => { s.stall ⟨rq, lvl, a, d, s.clk, .busWrite n (BitVec.ofNat 64 v)⟩ with resp := .stalled }

/-- REGISTER_WRITE (R5). -/
def execRegisterWrite (rq : Requester) (lvl : Fin 3) (addr : BitVec 40) (size : Nat) (v : DWord) (s : State) : Out1 :=
  .next (regWriteCmd rq lvl.val addr.toNat size v.toNat s)

/-- PRS_HOST_WRITE (R128): a write of tile memory through the PRS window. -/
def execPrsHostWrite (rq : Requester) (t : Fin 4) (off : BitVec 18) (v : Word) (s : State) : Out1 :=
  .next (regWriteCmd rq 2 (0x200300000 + 0x40000 * t.val + off.toNat) 4 v.toNat s)

/-- ACCESS_STALL (R404): a 32-bit read. -/
def accessStall (rq : Requester) (a : Nat) (s : State) : State :=
  match s.busRead rq 2 a 4 with
  | (.ok v, s) => { s with resp := .data (BitVec.ofNat 64 v) }
  | (.err, s) => { s with resp := .busError }
  | (.wait d, s) => { s.stall ⟨rq, 2, a, d, s.clk, .busRead⟩ with resp := .stalled }

def execAccessStall (rq : Requester) (addr : BitVec 40) (s : State) : Out1 := .next (accessStall rq addr.toNat s)

/-- STALL_TIMEOUT (R404): 2 ms after the access it ends in a bus error; the wake goes on. -/
def stallTimeout (i : Nat) (s : State) : State :=
  match s.tnd.stalls[i]? with
  | none => s
  | some x =>
    if s.clk < x.since + 2000000 then s
    else ((s.modTnd fun t => { t with stalls := t.stalls.eraseIdx i }).stallFail x).stallLog x.rq 1 x.dom x.addr

def execStallTimeout (i : Nat) (s : State) : Out1 := .next (stallTimeout i s)

/-! ### Waiting accesses complete -/

/-- The value a load of `n` bytes writes: sign- or zero-extended to W (R91). -/
def loadVal (w n : Nat) (sx : Bool) (v : Nat) : DWord :=
  if sx then BitVec.ofInt 64 ((BitVec.ofNat (8 * n) v).toInt % 2 ^ w) else BitVec.ofNat 64 (v % 2 ^ (8 * n))

/-- Clock cycles of a load or store on FQ-T: 2, and the wait for a block window's response (R119). -/
def memCycles (id : CoreId) (a : Nat) (s : State) : Nat × State :=
  match id with
  | .tender => if inWindows a then (2 + Config.windowWait s.freeIdx, s.used) else (2, s)
  | _ => (2, s)

/-- A load's value arrives. -/
def State.loadDone (s : State) (id : CoreId) (a : Nat) (d : BitVec 6) (n : Nat) (sx : Bool) (v : Nat) : State :=
  let (cy, s) := memCycles id a s
  s.finish id { s.core id with run := .running } cy 1 d (loadVal (coreWidth id) n sx v)

/-- The unit of a store retires; the store itself is done on the state this gives, so that a store that resets its own core finds it
at rest. -/
def State.storeDone (s : State) (id : CoreId) (a : Nat) : State :=
  let (cy, s) := memCycles id a s
  s.retire id { s.core id with run := .running } cy 1

/-- An access to DRAM that meets an uncorrectable error (R113). -/
def damagedAt (s : State) (a n : Nat) : Bool := decide (dramBase ≤ a) && s.damaged (a - dramBase) n

/-- A waiting access whose domain is ON is performed. -/
def State.stallGo (s : State) (x : Stall) : State :=
  match x.op with
  | .load c d n sx va =>
    match coreOf c, s.busRead x.rq x.lvl x.addr n with
    | some id, (.ok v, s') =>
      if damagedAt s x.addr n then (s.setCore id { s.core id with run := .running }).takeTrap id Cause.lecc va
      else s'.loadDone id x.addr d n sx v
    | _, (_, s) => s.stallFail x
  | .store c n v _ =>
    match coreOf c, s.busWrite x.rq x.lvl x.addr n v.toNat with
    | some id, (.ok _, _) => ((s.storeDone id x.addr).busWrite x.rq x.lvl x.addr n v.toNat).2
    | _, (_, s) => s.stallFail x
  | .busRead =>
    match s.busRead x.rq x.lvl x.addr 4 with
    | (.ok v, s) => { s with resp := .data (BitVec.ofNat 64 v) }
    | (_, s) => s.stallFail x
  | .busWrite n v =>
    match s.busWrite x.rq x.lvl x.addr n v.toNat with
    | (.ok _, s) => { s with resp := .done }
    | (_, s) => s.stallFail x
  | .alignBlock => s.alignLand

/-- DOMAIN_ON (R470): a waking domain becomes ON, and the accesses that wait for it complete in the order they came. -/
def domainOn (n : Nat) (s : State) : State :=
  if s.contained n ∨ s.bits (Reg.PWR_DC_STAT n) 1 0 ≠ 2 then s
  else
    let s := s.domUp n
    let xs := s.tnd.stalls.filter (·.dom == n)
    xs.foldl State.stallGo (s.modTnd fun t => { t with stalls := t.stalls.filter (·.dom != n) })

def execDomainOn (n : Fin 14) (s : State) : Out1 := .next (domainOn n.val s)

end Sys2Proof.Machine
end

