-- ==== Sys2Proof/Machine/CalMacro.lean ====
section
/-! DEFINITION. The Calender's macro-instructions (R161, R163, R171, R172, R183). Each is one step of a running job whose
next macro-instruction has that OP; on any other job nothing happens. -/

namespace Sys2Proof.Machine

/-! ### The job's view of its operands -/

/-- A running job about to execute OP `op`. -/
def State.calReady (s : State) (k op : Nat) : Option (CalJob × Macro) :=
  match s.cal.jobs[k]? with
  | none => none
  | some j => match j.prog[j.pc]? with
    | none => none
    | some m => if j.run = .running ∧ m.op = op then some (j, m) else none

def CalJob.hdl (j : CalJob) (n : Nat) : Hdl := (j.hdls[n]?).getD ⟨0, 0, 0, 0, false, 0, 0⟩

def CalJob.lay (j : CalJob) : CalLay := jobLay j.d j.tiles

def State.calMat (s : State) (j : CalJob) (dbl : Bool) (n : Nat) : Mat := (j.hdl n).mat s.cal.mem j.lay dbl

/-- Mixed formats compute in binary64. -/
def CalJob.dbl (j : CalJob) (ns : List Nat) : Bool := ns.any fun n => (j.hdl n).dbl

/-- What a macro-instruction writes: a handle, its matrix in the computing format, and which elements are written. -/
structure MacroOut where
  hdl   : Nat
  mat   : Mat
  wrote : Nat → Nat → Bool

/-- All of a handle's stored elements. -/
def MacroOut.all (n : Nat) (m : Mat) : MacroOut := ⟨n, m, fun _ _ => true⟩

/-- What a macro-instruction leaves: what it writes, and the job. -/
structure MacroRes where
  job  : CalJob
  outs : List MacroOut

/-- An element written is infinite, a NaN or beyond 2^100 (R172). -/
def outBad (j : CalJob) (dbl : Bool) (o : MacroOut) : Bool :=
  let h := j.hdl o.hdl
  (List.range h.rows).any fun i => (List.range h.cols).any fun c =>
    h.stored i c && o.wrote i c && tooBig h.dbl (recast dbl h.dbl (o.mat.at i c))

/-- What the handles hold after a macro-instruction: those written hold no factor, but those just factorised. -/
def newFacts (facts : SMap Nat) (outs : List MacroOut) : SMap Nat :=
  let facts := outs.foldl (fun f o => if facts.any fun e => e.1 == o.hdl + 256 then f else sset (fun _ => 0) f o.hdl 0) facts
  sdrop (fun n => 256 ≤ n) (facts.foldl (fun f e => if 256 ≤ e.1 then sset (fun _ => 0) f (e.1 - 256) e.2 else f) facts)

/-- Finish a macro-instruction: write its results, each column on the tile that holds it, check them (R172), go on to the next. -/
def State.calDone (s : State) (k : Nat) (dbl : Bool) (r : MacroRes) : State :=
  let j := r.job
  let s := s.modCal fun c => { c with mem := r.outs.foldl (fun m o => (j.hdl o.hdl).put m j.lay dbl o.mat o.wrote) c.mem }
  let s := s.setJob k { j with pc := j.pc + 1, facts := newFacts j.facts r.outs }
  if r.outs.any (outBad j dbl) then s.endJob k 3 none else s

/-- Note that handle n now holds a factor. -/
def CalJob.fact (j : CalJob) (n kind : Nat) : CalJob := { j with facts := sset (fun _ => 0) j.facts (n + 256) kind }

/-! ### LOADM and STOREM -/

/-- Words as a matrix, column after column, elements of `e` words. -/
def matOfWords (rows cols e : Nat) (ws : List Word) : Mat :=
  (List.range rows).map fun i => (List.range cols).map fun j =>
    let o := (j * rows + i) * e
    ((ws.getD o 0).toNat) + (if e = 2 then 2 ^ 32 * (ws.getD (o + 1) 0).toNat else 0)

def wordsOfMat (rows cols e : Nat) (m : Mat) : List Word :=
  (List.range cols).flatMap fun j => (List.range rows).flatMap fun i => wordsOf (m.at i j) e

/-- The words of a handle's columns, each column from the view of a mailbox of the tile that holds it with no tile masked, so that a mask
changes no result (R157, R161); none: a word beyond the message. -/
def viewWords (j : CalJob) (h : Hdl) (box : Nat) : List (Option Word) :=
  let e := h.esz / 4
  (List.range h.cols).flatMap fun c =>
    let msg := (sget (fun _ => none) j.views (8 * h.home (dNamed j.d) c + box)).getD []
    (List.range (h.rows * e)).map fun q => msg[c * h.rows * e + q]?

/-- Words that no source gives are free values. -/
def fillFree (s : State) : List (Option Word) → List Word × State
  | [] => ([], s)
  | some w :: ws => let (r, s) := fillFree s ws; (w :: r, s)
  | none :: ws => let (w, s) := s.free; let (r, s) := fillFree s ws; (w :: r, s)

/-- LOADM: from DRAM, from a latched mailbox view, or a copy of a handle. Words the source does not hold are free values. -/
def loadm (k : Nat) (s : State) : State :=
  match s.calReady k 1 with
  | none => s
  | some (j, m) =>
    let h := j.hdl m.h0
    let e := h.esz / 4
    let n := h.rows * h.cols * e
    if m.flags % 4 = 2 then
      let j' := match sget (fun _ => 0) j.facts m.h1 with
        | 0 => j
        | f => j.fact m.h0 f
      s.calDone k (j.dbl [m.h0, m.h1]) ⟨j', [.all m.h0 (s.calMat j (j.dbl [m.h0, m.h1]) m.h1)]⟩
    else
      let a := m.p0 + 2 ^ 32 * m.p1
      let (ws, s) := if m.flags % 4 = 1 then fillFree s (viewWords j h (m.imm % 8))
        else if inDram a (4 * n) then (s.dramWords a n, s) else fillFree s (List.replicate n none)
      s.calDone k h.dbl ⟨j, [.all m.h0 (matOfWords h.rows h.cols e ws)]⟩

def execLoadm (j : Nat) (s : State) : Out1 := .next (s.ifOn 5 (loadm j))

/-- STOREM: stage H0 for DRAM or a Felt channel (R162). -/
def storem (k : Nat) (s : State) : State :=
  match s.calReady k 2 with
  | none => s
  | some (j, m) =>
    let h := j.hdl m.h0
    let ws := wordsOfMat h.rows h.cols (h.esz / 4) (s.calMat j h.dbl m.h0)
    let o := if m.flags % 2 = 1 then Staged.felt (m.imm % 64) ws else Staged.dram (m.p0 + 2 ^ 32 * m.p1) ws
    s.calDone k h.dbl ⟨{ j with staged := j.staged ++ [o] }, []⟩

def execStorem (j : Nat) (s : State) : Out1 := .next (s.ifOn 5 (storem j))

/-! ### Norms -/

/-- Infinity norm: the largest absolute row sum. -/
def infNorm (d : Bool) (m : Mat) : Nat :=
  m.foldl (fun b r =>
    let x := calSum d 0 (r.map fun v => (cAbs d v, par d 0x3F800000))
    if cLt d b x then x else b) 0

/-- 2-norm. -/
def twoNorm (d : Bool) (m : Mat) : Nat :=
  if m.length = 1 ∨ m.all (fun r => r.length == 1) then
    cSqrt d (calSum d 0 (m.flatten.map fun v => (v, v)))
  else Config.matNorm d m

/-! ### Factorisations with the pivot rule R171 -/

/-- What a factorisation accumulates: the job's pivot record and whether a zero norm met LAMBDA 0. -/
structure PivAcc where
  pivots : Nat
  first  : Option Nat
  neg    : Bool
  badDim : Bool

/-- τ and λ of a factorisation: TAU_SCALE × ‖M‖∞, and LAMBDA or τ. -/
def tauLam (j : CalJob) (d : Bool) (m : Mat) : Nat × Nat × Bool :=
  let sc := if dW j.d 0x28 = 0 then 0x35800000 else dW j.d 0x28
  let nrm := infNorm d m
  let tau := cMul d (par d sc) nrm
  let lam := if dW j.d 0x2C = 0 then tau else par d (dW j.d 0x2C)
  (tau, lam, cAbs d nrm == 0)

/-- Regularise a small pivot; `chol`: the diagonal before its square root. A NaN passes on to the overflow check. -/
def pivot (chol d : Bool) (tau lam : Nat) (zero : Bool) (i x : Nat) (a : PivAcc) : Nat × PivAcc :=
  let small := if chol then cLt d x tau else cLt d (cAbs d x) tau
  let hit := small || (zero && cAbs d x == 0)
  if !hit then (x, a)
  else
    let a := { a with pivots := a.pivots + 1, first := a.first.orElse fun _ => some i, badDim := a.badDim || (zero && cAbs d lam == 0) }
    if zero then (lam, a)
    else if chol then
      let y := cAdd d x lam
      if cLt d y tau then (tau, { a with neg := true }) else (y, a)
    else if cAbs d x = 0 then (lam, a)
    else
      let y := cAdd d (cAbs d x) lam
      (if fpSign (fmtOf d) x then cNeg d y else y, a)

/-- Row i of the Cholesky factor, given the rows above it. -/
def cholRow (d : Bool) (tau lam : Nat) (zero : Bool) (m : Mat) (n i : Nat) (p : Mat × PivAcc) : Mat × PivAcc :=
  let row := (List.range i).foldl (fun (row : List Nat) c =>
    let up := (p.1[c]?).getD []
    row ++ [cDiv d (cDotSub d (m.at i c) (row.zip up)) ((up[c]?).getD 0)]) []
  let (x, a) := pivot true d tau lam zero i (cDotSub d (m.at i i) (row.map fun v => (v, v))) p.2
  (p.1 ++ [row ++ [cSqrt d x] ++ List.replicate (n - 1 - i) 0], a)

/-- Row i of L and D (unit L, D on the diagonal). -/
def ldlRow (d : Bool) (tau lam : Nat) (zero : Bool) (m : Mat) (n i : Nat) (p : Mat × PivAcc) : Mat × PivAcc :=
  let v := (List.range i).foldl (fun (v : List Nat) c => v ++ [cDotSub d (m.at i c) (v.zip ((p.1[c]?).getD []))]) []
  let row := (List.range i).map fun c => cDiv d ((v[c]?).getD 0) (p.1.at c c)
  let (x, a) := pivot false d tau lam zero i (cDotSub d (m.at i i) (v.zip row)) p.2
  (p.1 ++ [row ++ [x] ++ List.replicate (n - 1 - i) 0], a)

/-- Householder step k: R's diagonal, the vector below it, the scalar. -/
def qrStep (d : Bool) (tau lam : Nat) (zero : Bool) (rows cols k : Nat) (p : Mat × List Nat × PivAcc) : Mat × List Nat × PivAcc :=
  let m := p.1
  let below := (List.range rows).filter fun i => decide (k < i)
  let alpha := m.at k k
  let xs := below.map fun i => m.at i k
  let sig := calSum d 0 (xs.map fun v => (v, v))
  let nrm := cSqrt d (calSum d sig [(alpha, alpha)])
  let beta := if cAbs d sig = 0 then alpha else if fpSign (fmtOf d) alpha then nrm else cNeg d nrm
  let t := if cAbs d sig = 0 then 0 else cDiv d (cSub d beta alpha) beta
  let vs := if cAbs d sig = 0 then xs.map (fun _ => 0) else xs.map fun v => cDiv d v (cSub d alpha beta)
  let (r, a) := pivot false d tau lam zero k beta p.2.2
  let m1 := (below.zip vs).foldl (fun m e => m.set2 e.1 k e.2) (m.set2 k k r)
  let m2 := ((List.range cols).filter fun c => decide (k < c)).foldl (fun m2 c =>
    let w := cMul d t (calSum d (m1.at k c) (vs.zip (below.map fun i => m1.at i c)))
    (below.zip vs).foldl (fun m2 e => m2.set2 e.1 c (cDotSub d (m1.at e.1 c) [(w, e.2)])) (m2.set2 k c (cSub d (m1.at k c) w))) m1
  (m2, p.2.1 ++ [t], a)

/-- The job after a factorisation's pivots: REGULARISED, NEG_PIVOT, the first index. -/
def CalJob.withPivots (j : CalJob) (a : PivAcc) : CalJob :=
  { j with pivots := j.pivots + a.pivots, firstPiv := j.firstPiv.orElse fun _ => a.first,
           flags := (j.flags ||| (if a.pivots = 0 then 0 else 2 ^ 11)) ||| (if a.neg then 2 ^ 12 else 0) }

def pivAcc0 : PivAcc := ⟨0, none, false, false⟩

/-- End a factorisation: BAD_DIM for a zero norm with LAMBDA 0 (R171), else its results. -/
def State.calFact (s : State) (k : Nat) (d : Bool) (j : CalJob) (a : PivAcc) (outs : List MacroOut) : State :=
  let j := j.withPivots a
  if a.badDim then (s.setJob k j).endJob k 4 none else s.calDone k d ⟨j, outs⟩

def factSym (chol : Bool) (k : Nat) (s : State) : State :=
  match s.calReady k (if chol then 3 else 4) with
  | none => s
  | some (j, m) =>
    let h := j.hdl m.h0
    -- The lower part is the matrix; a dense handle's upper part is not read.
    let x := s.calMat j h.dbl m.h0
    let sym : Mat := (List.range h.rows).map fun i => (List.range h.rows).map fun c => if c ≤ i then x.at i c else x.at c i
    let (tau, lam, zero) := tauLam j h.dbl sym
    let (l, a) := (List.range h.rows).foldl (fun p i =>
      if chol then cholRow h.dbl tau lam zero x h.rows i p else ldlRow h.dbl tau lam zero x h.rows i p) ([], pivAcc0)
    s.calFact k h.dbl (j.fact m.h0 (if chol then 1 else 2)) a [.all m.h0 l]

def execFactChol (j : Nat) (s : State) : Out1 := .next (s.ifOn 5 (factSym true j))
def execFactLdl (j : Nat) (s : State) : Out1 := .next (s.ifOn 5 (factSym false j))

def factQr (k : Nat) (s : State) : State :=
  match s.calReady k 5 with
  | none => s
  | some (j, m) =>
    let h := j.hdl m.h0
    let d := j.dbl [m.h0, m.h1]
    let x := s.calMat j d m.h0
    let (tau, lam, zero) := tauLam j d x
    let (r, ts, a) := (List.range (min h.rows h.cols)).foldl (fun p i => qrStep d tau lam zero h.rows h.cols i p) (x, [], pivAcc0)
    s.calFact k d (j.fact m.h0 3) a [.all m.h0 r, .all m.h1 (ts.map fun t => [t])]

def execFactQr (j : Nat) (s : State) : Out1 := .next (s.ifOn 5 (factQr j))

/-! ### Solves -/

/-- Forward substitution of one column. -/
def fwdCol (d unit : Bool) (l : Mat) (b : List Nat) : List Nat :=
  (List.range b.length).foldl (fun (y : List Nat) i =>
    let v := cDotSub d ((b[i]?).getD 0) (((l[i]?).getD []).zip y)
    y ++ [if unit then v else cDiv d v (l.at i i)]) []

/-- Back substitution of one column with an upper factor of order n; rows beyond n are kept. -/
def backCol (d unit : Bool) (u : Mat) (n : Nat) (b : List Nat) : List Nat :=
  (List.range n).foldl (fun (x : List Nat) q =>
    let i := n - 1 - q
    let v := cDotSub d ((b[i]?).getD 0) (((List.range n).filter fun c => decide (i < c)).map fun c => (u.at i c, (x[c - i - 1]?).getD 0))
    (if unit then v else cDiv d v (u.at i i)) :: x) [] ++ b.drop n

/-- Qᵀ applied to one column: Householder reflectors in order. -/
def qtCol (d : Bool) (q : Mat) (ts : List Nat) (b : List Nat) : List Nat :=
  (List.range ts.length).foldl (fun b k =>
    let below := (List.range b.length).filter fun i => decide (k < i)
    let w := cMul d ((ts[k]?).getD 0) (calSum d ((b[k]?).getD 0) (below.map fun i => (q.at i k, (b[i]?).getD 0)))
    below.foldl (fun b i => b.set i (cDotSub d ((b[i]?).getD 0) [(w, q.at i k)])) (b.set k (cSub d ((b[k]?).getD 0) w))) b

/-- Apply a function to every column. -/
def mapCols (f : List Nat → List Nat) (m : Mat) (rows cols : Nat) : Mat :=
  Mat.tr ((List.range cols).map fun c => f (m.col c)) cols rows

def solveF (k : Nat) (s : State) : State :=
  match s.calReady k 6 with
  | none => s
  | some (j, m) =>
    let hb := j.hdl m.h1
    let d := j.dbl (opHandles m)
    let l := s.calMat j d m.h0
    let b := s.calMat j d m.h1
    let f := if m.flags % 2 = 1 then qtCol d l ((s.calMat j d m.h2).col 0) else fwdCol d (sget (fun _ => 0) j.facts m.h0 == 2) l
    s.calDone k d ⟨j, [.all m.h1 (mapCols f b hb.rows hb.cols)]⟩

def execSolveF (j : Nat) (s : State) : Out1 := .next (s.ifOn 5 (solveF j))

/-- H0 holds a lower factor: of FACT.CHOL or FACT.LDL, or a lower triangular handle. -/
def CalJob.lower (j : CalJob) (n : Nat) : Bool :=
  let f := sget (fun _ => 0) j.facts n
  f == 1 || f == 2 || (f == 0 && (j.hdl n).str == 2)

def solveB (k : Nat) (s : State) : State :=
  match s.calReady k 7 with
  | none => s
  | some (j, m) =>
    if m.flags % 2 = 1 then s
    else
      let hb := j.hdl m.h1
      let n := (j.hdl m.h0).cols
      let d := j.dbl (opHandles m)
      let a := s.calMat j d m.h0
      let u := if j.lower m.h0 then a.tr n n else a
      s.calDone k d ⟨j, [.all m.h1 (mapCols (backCol d (sget (fun _ => 0) j.facts m.h0 == 2) u n) (s.calMat j d m.h1) hb.rows hb.cols)]⟩

def execSolveB (j : Nat) (s : State) : Out1 := .next (s.ifOn 5 (solveB j))

/-- ILS_SEARCH: SOLVE.B with FLAGS[0] = 1 (R183). Where the search ends with no candidate, or with one alone, the vector and the ratio are
free values. -/
def ilsSearch (k : Nat) (s : State) : State :=
  match s.calReady k 7 with
  | none => s
  | some (j, m) =>
    if m.flags % 2 = 0 then s
    else
      let d := j.dbl (opHandles m)
      let v := (s.calMat j d m.h1).col 0
      let (f, lim) := ilsSolve d (s.calMat j d m.h0) v (if m.p1 = 0 then 200000 else m.p1)
      let (z, s) := match f.best with
        | some (z, _) => (z.map (cOfInt d), s)
        | none => let (ws, s) := fillFree s (List.replicate v.length none); (ws.map fun (w : Word) => cOfInt d w.toInt, s)
      let (ratio, s) := match f.ratio d with | some w => (w, s) | none => s.free
      let thr := if m.p0 = 0 then 0x40400000 else m.p0
      let fl := if lim then 2 ^ 15 else if fpLeB f32 thr ratio.toNat then 2 ^ 14 else 0
      s.calDone k d ⟨{ j with ratio, flags := j.flags ||| fl }, [.all m.h2 (z.map fun v => [v])]⟩

def execIlsSearch (j : Nat) (s : State) : Out1 := .next (s.ifOn 5 (ilsSearch j))

/-! ### Products -/

/-- P0 × (row · col) + P1 × old. -/
def linElem (d : Bool) (m : Macro) (old : Nat) (xs : List (Nat × Nat)) : Nat :=
  cFma d (cMul d (par d m.p1) old) (par d m.p0) (calSum d 0 xs)

/-- H2 ← P0 × A × B + P1 × H2 for matrices given by rows and columns. -/
def product (d : Bool) (m : Macro) (a bt old : Mat) : Mat :=
  (List.range a.length).map fun i => (List.range bt.length).map fun c =>
    linElem d m (old.at i c) (((a[i]?).getD []).zip ((bt[c]?).getD []))

def opMat (t : Bool) (h : Hdl) (x : Mat) : Mat := if t then x.tr h.rows h.cols else x

def gem (op k : Nat) (s : State) : State :=
  match s.calReady k op with
  | none => s
  | some (j, m) =>
    let d := j.dbl (opHandles m)
    let a := opMat (fbit m.flags 0) (j.hdl m.h0) (s.calMat j d m.h0)
    -- The second operand by columns: transposed unless its flag already transposes it.
    let bt := opMat (!(op == 9 && fbit m.flags 1)) (j.hdl m.h1) (s.calMat j d m.h1)
    s.calDone k d ⟨j, [.all m.h2 (product d m a bt (s.calMat j d m.h2))]⟩

def execGemv (j : Nat) (s : State) : Out1 := .next (s.ifOn 5 (gem 8 j))
def execGemm (j : Nat) (s : State) : Out1 := .next (s.ifOn 5 (gem 9 j))

/-- SYRK: the lower part of H2; above it H2 is kept. -/
def syrk (k : Nat) (s : State) : State :=
  match s.calReady k 10 with
  | none => s
  | some (j, m) =>
    let d := j.dbl (opHandles m)
    let a := opMat (fbit m.flags 0) (j.hdl m.h0) (s.calMat j d m.h0)
    s.calDone k d ⟨j, [⟨m.h2, product d m a a (s.calMat j d m.h2), fun i c => decide (c ≤ i)⟩]⟩

def execSyrk (j : Nat) (s : State) : Out1 := .next (s.ifOn 5 (syrk j))

def axpy (k : Nat) (s : State) : State :=
  match s.calReady k 11 with
  | none => s
  | some (j, m) =>
    let d := j.dbl (opHandles m)
    let x := s.calMat j d m.h0
    let y := s.calMat j d m.h1
    s.calDone k d ⟨j, [.all m.h1 ((List.range (j.hdl m.h1).rows).map fun i => (List.range (j.hdl m.h1).cols).map fun c =>
      cFma d (y.at i c) (par d m.p0) (x.at i c))]⟩

def execAxpy (j : Nat) (s : State) : Out1 := .next (s.ifOn 5 (axpy j))

def calNorm (k : Nat) (s : State) : State :=
  match s.calReady k 12 with
  | none => s
  | some (j, m) =>
    let d := j.dbl (opHandles m)
    let x := s.calMat j d m.h0
    s.calDone k d ⟨j, [⟨m.h1, [[if fbit m.flags 0 then infNorm d x else twoNorm d x]], fun i c => i == 0 && c == 0⟩]⟩

def execNorm (j : Nat) (s : State) : Out1 := .next (s.ifOn 5 (calNorm j))

/-! ### QP.STEP (R163, R164) -/

/-- The problem in a QP.STEP's handles (R163). -/
def State.qpProblem (s : State) (j : CalJob) (d : Bool) (m : Macro) : QpProblem :=
  let q := s.calMat j d m.h3
  ⟨d, s.calMat j d m.h0, (s.calMat j d m.h1).col 0, if m.h2 = 255 then [] else s.calMat j d m.h2, q.col 0, q.col 1⟩

/-- QP.STEP: the start is clipped and tested (R164), the iterations run, and H3's current point and multipliers are written. An ALLOC job
starts with the active set of its warm start, and keeps what QP.STEP leaves for the state area (R178). -/
def qpStep (k : Nat) (s : State) : State :=
  match s.calReady k 13 with
  | none => s
  | some (j, m) =>
    let d := j.dbl (opHandles m)
    let p := s.qpProblem j d m
    let x0 := (s.calMat j d m.h3).col 2
    let x := p.clip x0
    let j := { j with clipped := j.clipped + (List.range p.n).countP fun i => numAt x i != numAt x0 i }
    if !p.feasible (par d m.p1) x then (s.setJob k j).endJob k 11 none
    else
      let maxit := if m.imm = 0 then dW j.d 4 else m.imm
      let r := p.solve (par d m.p0) (par d m.p1) maxit (j.active.map fun w => wbits w 23 0) x
      let out := (List.range (p.n + p.m)).map fun i => [0, 0, if i < p.n then numAt r.x i else numAt r.ax (i - p.n), numAt r.mult i]
      let j := { j with iters := j.iters + r.iters, limited := j.limited || !r.opt,
                        vars := r.x.map fun v => BitVec.ofNat 64 (recast d true v),
                        active := r.act.map fun e => BitVec.ofNat 32 (e.1 % 2 ^ 24 + 2 ^ 24 * (Config.conStep p.n p.m e.1 % 32)) }
      s.calDone k d ⟨j, [⟨m.h3, out, fun _ c => decide (2 ≤ c)⟩]⟩

def execQpStep (j : Nat) (s : State) : Out1 := .next (s.ifOn 5 (qpStep j))

/-! ### SHIFT and PIVCHK -/

def calShift (k : Nat) (s : State) : State :=
  match s.calReady k 14 with
  | none => s
  | some (j, m) =>
    let h := j.hdl m.h0
    let x := s.calMat j h.dbl m.h0
    let sh := m.imm * m.p1
    let out := (List.range h.rows).map fun i =>
      if i + sh < h.rows then (x[i + sh]?).getD [] else (x[h.rows - m.p1 + (i + sh - h.rows) % m.p1]?).getD []
    s.calDone k h.dbl ⟨j, [.all m.h0 out]⟩

def execShift (j : Nat) (s : State) : Out1 := .next (s.ifOn 5 (calShift j))

def pivchk (k : Nat) (s : State) : State :=
  match s.calReady k 15 with
  | none => s
  | some (j, m) => if m.imm < j.pivots then s.endJob k 8 none else s.calDone k false ⟨j, []⟩

def execPivchk (j : Nat) (s : State) : Out1 := .next (s.ifOn 5 (pivchk j))

end Sys2Proof.Machine
end

