-- ==== Sys2Proof/Machine/Lsu.lean ====
section
/-! DEFINITION. Loads, stores and the exclusive pairs (R91, R92, R100, R101, R113), and the local maps of the Tender, the Deckle and
the Press lanes (R126, R296, R382). -/

namespace Sys2Proof.Machine

/-! ### Local maps -/

/-- Where a local address of a core leads: to the core's own memories and registers, to a physical address, or nowhere. -/
inductive Place where
  | own
  | phys (a : Nat)
  | nowhere
  deriving DecidableEq, Repr

/-- The Tender's map (R382). An aperture BASE of 7 is taken as 6. -/
def tenderPlace (s : State) (a : Nat) : Place :=
  if a < 0x8000 ∨ (0x10000 ≤ a ∧ a < 0x30000) ∨ (0x40000 ≤ a ∧ a < 0x50000) then .own
  else if 0x10000000 ≤ a ∧ a < 0x10040000 then .phys (0xC0000000 + (a - 0x10000000))
  else if 0x20000000 ≤ a ∧ a < 0x24000000 then .phys (0x80000000 + (a - 0x20000000))
  else if 0x30000000 ≤ a ∧ a < 0x34000000 then .phys (0x40000000 + (a - 0x30000000))
  else if 0x40000000 ≤ a ∧ a < 0x42000000 then .phys (0x200000000 + (a - 0x40000000))
  else if 0x80000000 ≤ a ∧ a < 0xC0000000 then
    .phys (0x800000000 + min (s.bits Reg.TND_APER 2 0) 6 * 0x10000000 + (a - 0x80000000))
  else .nowhere

/-- Where an address of a core leads. -/
def placeOf (s : State) (id : CoreId) (a : Nat) : Place :=
  match id with
  | .mill _ => if a < 2 ^ 40 then .phys a else .nowhere
  | .tender => tenderPlace s a
  | _ => .own

/-- The Tender's ROM and its code and data memories. -/
def tenderLoad (a n : Nat) (s : State) : Option Nat :=
  some (if a < 0x8000 then memRd Config.tenderRom [] a n else rdz s.tnd.mem a n)

def tenderStore (a n v : Nat) (s : State) : Option State :=
  if a < 0x8000 then none else some (s.modTnd fun t => { t with mem := wrz t.mem a n v })

/-- The bits the DKL registers implement, which the core writes (R296); 0 at a reserved offset. -/
def dklImpl (o : Nat) : Nat :=
  if o = 0x00 ∨ o = 0x04 then 0x1FF
  else if o = 0x08 then 0xFFFF01FF
  else if o = 0x0C ∨ o = 0x10 ∨ o = 0x14 ∨ o = 0x1C ∨ o = 0x20 then 0xFFFFFF
  else if o = 0x18 then 0x3FFFFFF
  else if o = 0x38 then 0xFFFFFFFF
  else if 0x100 ≤ o ∧ o < 0x180 then 0xFFFFFF0F
  else 0

/-- A load of the Deckle core (R296). Private I/O, frame buffers and the command tap have no layout in the spec: what is read there is a
free value. -/
def deckleLoad (a n : Nat) (s : State) : Option (Nat × State) :=
  if a < 0x20000 ∨ (0x10000000 ≤ a ∧ a < 0x10010000) then some (rdz s.dkl.mem a n, s)
  else if (0x20000000 ≤ a ∧ a < 0x20001000) ∨ (0x30000000 ≤ a ∧ a < 0x30010000) ∨ (0x40000000 ≤ a ∧ a < 0x40000400) then
    some (s.free.1.toNat % 2 ^ (8 * n), s.free.2)
  else if 0x50000000 ≤ a ∧ a < 0x50001000 ∧ n = 4 then some (s.rdN (0x200b00000 + (a - 0x50000000)), s)
  else none

/-- A store of the Deckle core: code memory and the tap refuse it. What a store to private I/O does is left out. -/
def deckleStore (a n v : Nat) (s : State) : Option State :=
  if (0x10000000 ≤ a ∧ a < 0x10010000) ∨ (0x30000000 ≤ a ∧ a < 0x30010000) then
    some (s.modDkl fun d => { d with mem := wrz d.mem a n v })
  else if 0x20000000 ≤ a ∧ a < 0x20001000 then some s
  else if 0x50000000 ≤ a ∧ a < 0x50001000 ∧ n = 4 then
    let o := a - 0x50000000
    if o = 0 then
      let s' := (List.range 9).foldl (fun s i => if fbit v i then s.dklStat i else s) s
      some (s'.wrN Reg.DKL_STAT (v % 0x200))
    else some (if dklImpl o = 0 then s else s.wr (0x200b00000 + o) (BitVec.ofNat 32 v &&& BitVec.ofNat 32 (dklImpl o)))
  else none

/-- A load of a Press lane (R126). -/
def laneLoad (t : Fin 4) (l : Fin 8) (a n : Nat) (s : State) : Option Nat :=
  if 0x10000 ≤ a ∧ a < 0x12000 then some (rdz s.prs.mem (0x40000 * t + 0x20000 + 0x2000 * l + (a - 0x10000)) n)
  else if 0x20000 ≤ a ∧ a < 0x30000 then some (rdz s.prs.mem (0x40000 * t + 0x30000 + (a - 0x20000)) n)
  else if 0x40000 ≤ a ∧ a < 0x44000 then
    some (rdz (memPut zeroByte [] 0 ((boxOf s t ((a - 0x40000) / 0x200)).view.getD [])) (a % 0x200) n)
  else if 0x50000 ≤ a ∧ a < 0x54000 then
    let c := (a - 0x50000) / 0x200
    if txOwned s t l c then some (rdz (prsTxOf s t c).stage (a % 0x200) n) else none
  else if 0x60000 ≤ a ∧ a < 0x60004 then some (b2n (s.bit (Reg.PRS_T_L_STAT t l) 3) / 2 ^ (8 * (a - 0x60000)))
  else none

/-- A store of a Press lane: its own data memory, banks it owns (R127), staging buffers it owns (R139), QSAT (write 1 to clear). -/
def laneStore (t : Fin 4) (l : Fin 8) (a n v : Nat) (s : State) : Option State :=
  if 0x10000 ≤ a ∧ a < 0x12000 then
    some { s with prs := { s.prs with mem := wrz s.prs.mem (0x40000 * t + 0x20000 + 0x2000 * l + (a - 0x10000)) n v } }
  else if 0x20000 ≤ a ∧ a < 0x30000 then
    let k := (a - 0x20000) / 0x2000
    if s.bits (Reg.PRS_T_BANK t) (4 * k + 3) (4 * k) = l then
      some { s with prs := { s.prs with mem := wrz s.prs.mem (0x40000 * t + 0x30000 + (a - 0x20000)) n v } }
    else none
  else if 0x50000 ≤ a ∧ a < 0x54000 then
    let c := (a - 0x50000) / 0x200
    let x := prsTxOf s t c
    if txOwned s t l c then some (s.setPrsTx t c { x with stage := wrz x.stage (a % 0x200) n v }) else none
  else if 0x60000 ≤ a ∧ a < 0x60004 then
    some (if a = 0x60000 ∧ v % 2 = 1 then s.setBit (Reg.PRS_T_L_STAT t l) 3 false else s)
  else none

/-- A load at a core's own place; none: refused. -/
def ownLoad (id : CoreId) (a n : Nat) (s : State) : Option (Nat × State) :=
  match id with
  | .tender => (tenderLoad a n s).map fun v => (v, s)
  | .deckle => deckleLoad a n s
  | .lane t l => (laneLoad t l a n s).map fun v => (v, s)
  | .mill _ => none

def ownStore (id : CoreId) (a n v : Nat) (s : State) : Option State :=
  match id with
  | .tender => tenderStore a n v s
  | .deckle => deckleStore a n v s
  | .lane t l => laneStore t l a n v s
  | .mill _ => none

/-! ### The access of a core -/

def rqOf : CoreId → Requester
  | .mill false => .mill0
  | .mill true => .mill1
  | _ => .tender

/-- The checks before the target is asked, in R113's order: alignment, then on the Mill the protection regions. -/
def accessFault (id : CoreId) (k : CoreSt) (a n : Nat) (store : Bool) : Option Nat :=
  if a % n ≠ 0 then some (if store then Cause.salign else Cause.lalign)
  else match id with
    | .mill _ =>
      if permitted k (if store then .store else .load) a then none
      else some (if store then Cause.sperm else Cause.lperm)
    | _ => none

/-- Load `n` bytes at `a` into `d` and retire; or the trap of R113; or the core waits for a domain (R404). -/
def State.coreLoad (s : State) (id : CoreId) (k : CoreSt) (d : BitVec 6) (a n : Nat) (sx : Bool) : State :=
  match accessFault id k a n false with
  | some cause => s.takeTrap id cause a
  | none =>
    match placeOf s id a with
    | .nowhere => s.takeTrap id Cause.lbus a
    | .own =>
      match ownLoad id a n s with
      | some (v, s) => s.loadDone id 0 d n sx v
      | none => s.takeTrap id Cause.lbus a
    | .phys p =>
      match s.busRead (rqOf id) k.level p n with
      | (.ok v, s') => if damagedAt s p n then s.takeTrap id Cause.lecc a else s'.loadDone id p d n sx v
      | (.err, s) => s.takeTrap id Cause.lbus a
      | (.wait dom, s) =>
        (s.setCore id { s.core id with run := .stalled }).stall ⟨rqOf id, k.level, p, dom, s.clk, .load id.num d n sx a⟩

/-- Store the low `n` bytes of `v` at `a` and retire; or a trap; or the core waits. -/
def State.coreStore (s : State) (id : CoreId) (k : CoreSt) (a n : Nat) (v : DWord) : State :=
  match accessFault id k a n true with
  | some cause => s.takeTrap id cause a
  | none =>
    match placeOf s id a with
    | .nowhere => s.takeTrap id Cause.sbus a
    | .own =>
      match ownStore id a n v.toNat s with
      | some s => s.storeDone id 0
      | none => s.takeTrap id Cause.sbus a
    | .phys p =>
      match s.busWrite (rqOf id) k.level p n v.toNat with
      | (.ok _, _) => ((s.storeDone id p).busWrite (rqOf id) k.level p n v.toNat).2
      | (.err, s) => s.takeTrap id Cause.sbus a
      | (.wait dom, s) =>
        (s.setCore id { s.core id with run := .stalled }).stall ⟨rqOf id, k.level, p, dom, s.clk, .store id.num n v a⟩

/-- base + off, modulo 2^W (R85, R91). -/
def effAddr (id : CoreId) (k : CoreSt) (base : BitVec 6) (off : BitVec 14) : Nat :=
  (((k.g base).toNat + k.immS off) % (2 ^ coreWidth id : Nat)).toNat

/-- An M-format instruction; `mOnly`: FQ-M alone. -/
def memInsn (op : Nat) (mOnly : Bool) (d base : BitVec 6) (off : BitVec 14) : Insn :=
  { word := wordI op d base off, onT := !mOnly, onP := !mOnly, onM := true, regs := [d, base], bad := false, pfxOk := true }

/-- A load of `n` bytes. -/
def memLoad (op n : Nat) (sx mOnly : Bool) (c : CoreId) (d base : BitVec 6) (off : BitVec 14) (s : State) : State :=
  s.issue c (memInsn op mOnly d base off) fun k => s.coreLoad c k d (effAddr c k base off) n sx

/-- A store of `n` bytes of d. -/
def memStore (op n : Nat) (mOnly : Bool) (c : CoreId) (d base : BitVec 6) (off : BitVec 14) (s : State) : State :=
  s.issue c (memInsn op mOnly d base off) fun k => s.coreStore c k (effAddr c k base off) n (k.g d)

/-- LDB, opcode 0x10 (R91). -/
def execLdb (c : CoreId) (d base : BitVec 6) (off : BitVec 14) (s : State) : Out1 := .next (memLoad 0x10 1 true false c d base off s)

/-- LDBU, opcode 0x11 (R91). -/
def execLdbu (c : CoreId) (d base : BitVec 6) (off : BitVec 14) (s : State) : Out1 := .next (memLoad 0x11 1 false false c d base off s)

/-- LDH, opcode 0x12 (R91). -/
def execLdh (c : CoreId) (d base : BitVec 6) (off : BitVec 14) (s : State) : Out1 := .next (memLoad 0x12 2 true false c d base off s)

/-- LDHU, opcode 0x13 (R91). -/
def execLdhu (c : CoreId) (d base : BitVec 6) (off : BitVec 14) (s : State) : Out1 := .next (memLoad 0x13 2 false false c d base off s)

/-- LDW, opcode 0x14 (R91). -/
def execLdw (c : CoreId) (d base : BitVec 6) (off : BitVec 14) (s : State) : Out1 := .next (memLoad 0x14 4 true false c d base off s)

/-- LDWU, opcode 0x15, FQ-M only (R91). -/
def execLdwu (c : CoreId) (d base : BitVec 6) (off : BitVec 14) (s : State) : Out1 := .next (memLoad 0x15 4 false true c d base off s)

/-- LDD, opcode 0x16, FQ-M only (R91). -/
def execLdd (c : CoreId) (d base : BitVec 6) (off : BitVec 14) (s : State) : Out1 := .next (memLoad 0x16 8 false true c d base off s)

/-- STB, opcode 0x18 (R91). -/
def execStb (c : CoreId) (d base : BitVec 6) (off : BitVec 14) (s : State) : Out1 := .next (memStore 0x18 1 false c d base off s)

/-- STH, opcode 0x19 (R91). -/
def execSth (c : CoreId) (d base : BitVec 6) (off : BitVec 14) (s : State) : Out1 := .next (memStore 0x19 2 false c d base off s)

/-- STW, opcode 0x1A (R91). -/
def execStw (c : CoreId) (d base : BitVec 6) (off : BitVec 14) (s : State) : Out1 := .next (memStore 0x1A 4 false c d base off s)

/-- STD, opcode 0x1B, FQ-M only (R91). -/
def execStd (c : CoreId) (d base : BitVec 6) (off : BitVec 14) (s : State) : Out1 := .next (memStore 0x1B 8 true c d base off s)

/-! ### Exclusive pairs (R100, R101) -/

/-- An ATOM instruction. -/
def atomInsn (fn : Nat) (d a b : BitVec 6) (bad : Bool) : Insn :=
  { word := wordA 0x1C d a b fn, onT := false, onP := false, onM := true, regs := [d, a, b], bad := bad, pfxOk := false }

/-- An exclusive access of a Mill core is checked like any other, and must lie in DRAM (R101). -/
def atomFault (id : CoreId) (k : CoreSt) (a n : Nat) (store : Bool) : Option Nat :=
  match accessFault id k a n store with
  | some cause => some cause
  | none => if inDram a n then none else some (if store then Cause.sbus else Cause.lbus)

/-- LDX: load and reserve the granule. -/
def loadEx (fn n : Nat) (sx : Bool) (c : CoreId) (d a b : BitVec 6) (s : State) : State :=
  s.issue c (atomInsn fn d a b (b != 0)) fun k =>
    let p := (k.g a).toNat
    match atomFault c k p n false with
    | some cause => s.takeTrap c cause p
    | none =>
      if s.felt.hit then (s.modFelt fun f => { f with hit := false }).takeTrap c Cause.lbus p
      else if s.damaged (p - dramBase) n then s.takeTrap c Cause.lecc p
      else s.finish c { k with resv := some (p / 64) } 2 1 d (loadVal (coreWidth c) n sx (rdz s.dram (p - dramBase) n))

/-- STX: store where the reservation covers the granule; d receives 0 on success, 1 on failure; the reservation is cleared. -/
def storeEx (fn n : Nat) (c : CoreId) (d a b : BitVec 6) (s : State) : State :=
  s.issue c (atomInsn fn d a b false) fun k =>
    let p := (k.g a).toNat
    match atomFault c k p n true with
    | some cause => s.takeTrap c cause p
    | none =>
      if s.felt.hit then (s.modFelt fun f => { f with hit := false }).takeTrap c Cause.sbus p
      else if k.resv = some (p / 64) then
        (s.finish c { k with resv := none } 2 1 d 0).dramWr (some c) (p - dramBase) n (k.g b).toNat
      else s.finish c { k with resv := none } 2 1 d 1

/-- LDX.W, fn 0x00 (R100): sign-extended. -/
def execLdxW (c : CoreId) (d a b : BitVec 6) (s : State) : Out1 := .next (loadEx 0 4 true c d a b s)

/-- LDX.D, fn 0x01 (R100). -/
def execLdxD (c : CoreId) (d a b : BitVec 6) (s : State) : Out1 := .next (loadEx 1 8 false c d a b s)

/-- STX.W, fn 0x02 (R100). -/
def execStxW (c : CoreId) (d a b : BitVec 6) (s : State) : Out1 := .next (storeEx 2 4 c d a b s)

/-- STX.D, fn 0x03 (R100). -/
def execStxD (c : CoreId) (d a b : BitVec 6) (s : State) : Out1 := .next (storeEx 3 8 c d a b s)

end Sys2Proof.Machine
end

