-- ==== Sys2Proof/Machine/Tick.lean ====
section
/-! DEFINITION. One tick of the 125 MHz time base (R275-R281): 8 ns of physical time, in which RTC edges, local time and the Ply ports
advance. -/

namespace Sys2Proof.Machine

/-- Local time advances in every state but HOLD and OFF, where the TCXO stands still (R276). -/
def timeRuns (s : State) : Bool :=
  match s.tnd.supply with
  | .off _ => false
  | _ => curState s != 3

/-- A whole second whose tick passed without a pulse is not marked any more. -/
def State.ppsKeep (s : State) : State :=
  let sec := ppsSec s (effNow s)
  if s.bits Reg.NBB_TIME_STAT 1 0 ≠ 0 ∧ s.nbb.time.next ≤ sec then s.modTime fun x => { x with next := sec + 1 } else s

/-- A 32,768 Hz edge of the RTC falls between two instants. -/
def rtcEdgeDue (a b : Nat) : Bool := a * 32768 / 1000000000 != b * 32768 / 1000000000

/-- Local time over the tick: corrections apply, the baseband is informed of them, target shadows take effect (R281, R283). -/
def State.localTick (s : State) : State :=
  if !timeRuns s then s
  else
    let due := s.tim.pInc.isSome || s.tim.pOfs.isSome
    let plain := ((s.modTim fun t => { t with pInc := none, pOfs := none, pFold := 0 }).addInc).ext
    let i := s.rdN Reg.TIM_INC
    let s := s.advanceNow
    let s := if due then s.nbbInform plain i else s
    s.ifOn 10 State.applyTgts

/-- One tick. -/
def tick (s : State) : State :=
  let s := s.ppsKeep
  let was := s.clk
  let s := { s with clk := was + 8, inst := ⟨s.regs, [], []⟩ }
  let s := if rtcEdgeDue was s.clk then s.rtcEdge else s
  let s := match s.tnd.inRom with | some resume => s.millJump resume | none => s
  plyTick (s.localTick.ifOn 10 State.wiresTick)

/-- CORRECTION_APPLY (R281): the tick on which an increment, an offset or a fold takes effect. -/
def correctionApply (s : State) : State := if timPending s ∧ timeRuns s then tick s else s

def execCorrectionApply (s : State) : Out1 := .next (correctionApply s)

/-- NOW_WRAP (R275): the tick on which NOW wraps forward. -/
def nowWrap (s : State) : State := if wrapsNext s ∧ timeRuns s then tick s else s

def execNowWrap (s : State) : Out1 := .next (nowWrap s)

end Sys2Proof.Machine
end

