-- ==== Sys2Proof/Machine/Dispatch.lean ====
section
/-! DEFINITION. The dispatch: one arm per command, each one direct call of its meaning. -/

namespace Sys2Proof.Machine

def exec (i : Instr) (s : State) : Host.Outcome State Fault Refusal :=
  match i with
  | .registerWrite rq lvl addr size v => Sys2Proof.Machine.execRegisterWrite rq lvl addr size v s
  | .feltApply => Sys2Proof.Machine.execFeltApply s
  | .feltRoundBoundary => Sys2Proof.Machine.execFeltRoundBoundary s
  | .slottedPublish st ch msg => Sys2Proof.Machine.execSlottedPublish st ch msg s
  | .mailboxDeliver st ch ph => Sys2Proof.Machine.execMailboxDeliver st ch ph s
  | .domainFault n cause addr => Sys2Proof.Machine.execDomainFault n cause addr s
  | .inputBlockSample rec reports first => Sys2Proof.Machine.execInputBlockSample rec reports first s
  | .controlLaw late => Sys2Proof.Machine.execControlLaw late s
  | .commandPublication => Sys2Proof.Machine.execCommandPublication s
  | .lPrefix c w => Sys2Proof.Machine.execLPrefix c w s
  | .add c d a b => Sys2Proof.Machine.execAdd c d a b s
  | .sub c d a b => Sys2Proof.Machine.execSub c d a b s
  | .and c d a b => Sys2Proof.Machine.execAnd c d a b s
  | .or c d a b => Sys2Proof.Machine.execOr c d a b s
  | .xor c d a b => Sys2Proof.Machine.execXor c d a b s
  | .andn c d a b => Sys2Proof.Machine.execAndn c d a b s
  | .shl c d a b => Sys2Proof.Machine.execShl c d a b s
  | .shr c d a b => Sys2Proof.Machine.execShr c d a b s
  | .sra c d a b => Sys2Proof.Machine.execSra c d a b s
  | .slt c d a b => Sys2Proof.Machine.execSlt c d a b s
  | .sltu c d a b => Sys2Proof.Machine.execSltu c d a b s
  | .min c d a b => Sys2Proof.Machine.execMin c d a b s
  | .max c d a b => Sys2Proof.Machine.execMax c d a b s
  | .minu c d a b => Sys2Proof.Machine.execMinu c d a b s
  | .maxu c d a b => Sys2Proof.Machine.execMaxu c d a b s
  | .cmov c d a b => Sys2Proof.Machine.execCmov c d a b s
  | .mul c d a b => Sys2Proof.Machine.execMul c d a b s
  | .mulh c d a b => Sys2Proof.Machine.execMulh c d a b s
  | .mulhu c d a b => Sys2Proof.Machine.execMulhu c d a b s
  | .mulhsu c d a b => Sys2Proof.Machine.execMulhsu c d a b s
  | .div c d a b => Sys2Proof.Machine.execDiv c d a b s
  | .divu c d a b => Sys2Proof.Machine.execDivu c d a b s
  | .rem c d a b => Sys2Proof.Machine.execRem c d a b s
  | .remu c d a b => Sys2Proof.Machine.execRemu c d a b s
  | .clz c d a b => Sys2Proof.Machine.execClz c d a b s
  | .ctz c d a b => Sys2Proof.Machine.execCtz c d a b s
  | .popc c d a b => Sys2Proof.Machine.execPopc c d a b s
  | .aluw c d a b fn => Sys2Proof.Machine.execAluw c d a b fn s
  | .addi c d a imm => Sys2Proof.Machine.execAddi c d a imm s
  | .andi c d a imm => Sys2Proof.Machine.execAndi c d a imm s
  | .ori c d a imm => Sys2Proof.Machine.execOri c d a imm s
  | .xori c d a imm => Sys2Proof.Machine.execXori c d a imm s
  | .slti c d a imm => Sys2Proof.Machine.execSlti c d a imm s
  | .sltiu c d a imm => Sys2Proof.Machine.execSltiu c d a imm s
  | .shli c d a imm => Sys2Proof.Machine.execShli c d a imm s
  | .shri c d a imm => Sys2Proof.Machine.execShri c d a imm s
  | .srai c d a imm => Sys2Proof.Machine.execSrai c d a imm s
  | .lih c d a imm => Sys2Proof.Machine.execLih c d a imm s
  | .addiw c d a imm => Sys2Proof.Machine.execAddiw c d a imm s
  | .addpc c d a imm => Sys2Proof.Machine.execAddpc c d a imm s
  | .ldb c d base off => Sys2Proof.Machine.execLdb c d base off s
  | .ldbu c d base off => Sys2Proof.Machine.execLdbu c d base off s
  | .ldh c d base off => Sys2Proof.Machine.execLdh c d base off s
  | .ldhu c d base off => Sys2Proof.Machine.execLdhu c d base off s
  | .ldw c d base off => Sys2Proof.Machine.execLdw c d base off s
  | .ldwu c d base off => Sys2Proof.Machine.execLdwu c d base off s
  | .ldd c d base off => Sys2Proof.Machine.execLdd c d base off s
  | .stb c d base off => Sys2Proof.Machine.execStb c d base off s
  | .sth c d base off => Sys2Proof.Machine.execSth c d base off s
  | .stw c d base off => Sys2Proof.Machine.execStw c d base off s
  | .std c d base off => Sys2Proof.Machine.execStd c d base off s
  | .ldxW c d a b => Sys2Proof.Machine.execLdxW c d a b s
  | .ldxD c d a b => Sys2Proof.Machine.execLdxD c d a b s
  | .stxW c d a b => Sys2Proof.Machine.execStxW c d a b s
  | .stxD c d a b => Sys2Proof.Machine.execStxD c d a b s
  | .reservationClear agent viaDma addr => Sys2Proof.Machine.execReservationClear agent viaDma addr s
  | .br c cond a b off => Sys2Proof.Machine.execBr c cond a b off s
  | .j c off => Sys2Proof.Machine.execJ c off s
  | .jl c off => Sys2Proof.Machine.execJl c off s
  | .jr c d a imm => Sys2Proof.Machine.execJr c d a imm s
  | .fadd c d a b p rm => Sys2Proof.Machine.execFadd c d a b p rm s
  | .fsub c d a b p rm => Sys2Proof.Machine.execFsub c d a b p rm s
  | .fmul c d a b p rm => Sys2Proof.Machine.execFmul c d a b p rm s
  | .fdiv c d a b p rm => Sys2Proof.Machine.execFdiv c d a b p rm s
  | .fsqrt c d a b p rm => Sys2Proof.Machine.execFsqrt c d a b p rm s
  | .fmadd c d a b p rm => Sys2Proof.Machine.execFmadd c d a b p rm s
  | .fmsub c d a b p rm => Sys2Proof.Machine.execFmsub c d a b p rm s
  | .fmin c d a b p rm => Sys2Proof.Machine.execFmin c d a b p rm s
  | .fmax c d a b p rm => Sys2Proof.Machine.execFmax c d a b p rm s
  | .feq c d a b p rm => Sys2Proof.Machine.execFeq c d a b p rm s
  | .flt c d a b p rm => Sys2Proof.Machine.execFlt c d a b p rm s
  | .fle c d a b p rm => Sys2Proof.Machine.execFle c d a b p rm s
  | .fsgnj c d a b p rm => Sys2Proof.Machine.execFsgnj c d a b p rm s
  | .fsgnjn c d a b p rm => Sys2Proof.Machine.execFsgnjn c d a b p rm s
  | .fcvt c d a b p rm => Sys2Proof.Machine.execFcvt c d a b p rm s
  | .fclass c d a b p rm => Sys2Proof.Machine.execFclass c d a b p rm s
  | .gets c d a imm => Sys2Proof.Machine.execGets c d a imm s
  | .puts c d a imm => Sys2Proof.Machine.execPuts c d a imm s
  | .sset c d a imm => Sys2Proof.Machine.execSset c d a imm s
  | .sclr c d a imm => Sys2Proof.Machine.execSclr c d a imm s
  | .trap c d a imm => Sys2Proof.Machine.execTrap c d a imm s
  | .fence c d a b => Sys2Proof.Machine.execFence c d a b s
  | .fenceI c d a b => Sys2Proof.Machine.execFenceI c d a b s
  | .wait c d a b => Sys2Proof.Machine.execWait c d a b s
  | .waitWake c => Sys2Proof.Machine.execWaitWake c s
  | .sev c d a b => Sys2Proof.Machine.execSev c d a b s
  | .rte c d a b => Sys2Proof.Machine.execRte c d a b s
  | .brk c d a b => Sys2Proof.Machine.execBrk c d a b s
  | .interruptEntry c => Sys2Proof.Machine.execInterruptEntry c s
  | .lockstepMismatch core1 => Sys2Proof.Machine.execLockstepMismatch core1 s
  | .irqSourceEdge src => Sys2Proof.Machine.execIrqSourceEdge src s
  | .swiRequest req => Sys2Proof.Machine.execSwiRequest req s
  | .hys c d a b => Sys2Proof.Machine.execHys c d a b s
  | .clmp c d a b => Sys2Proof.Machine.execClmp c d a b s
  | .rmp c d a b => Sys2Proof.Machine.execRmp c d a b s
  | .intg c d a b => Sys2Proof.Machine.execIntg c d a b s
  | .lut c d a b => Sys2Proof.Machine.execLut c d a b s
  | .qadd15 c d a b => Sys2Proof.Machine.execQadd15 c d a b s
  | .qadd31 c d a b => Sys2Proof.Machine.execQadd31 c d a b s
  | .qsub15 c d a b => Sys2Proof.Machine.execQsub15 c d a b s
  | .qsub31 c d a b => Sys2Proof.Machine.execQsub31 c d a b s
  | .qmul15 c d a b => Sys2Proof.Machine.execQmul15 c d a b s
  | .qmul31 c d a b => Sys2Proof.Machine.execQmul31 c d a b s
  | .qmac15 c d a b => Sys2Proof.Machine.execQmac15 c d a b s
  | .qmac31 c d a b => Sys2Proof.Machine.execQmac31 c d a b s
  | .qneg15 c d a b => Sys2Proof.Machine.execQneg15 c d a b s
  | .qneg31 c d a b => Sys2Proof.Machine.execQneg31 c d a b s
  | .qabs15 c d a b => Sys2Proof.Machine.execQabs15 c d a b s
  | .qabs31 c d a b => Sys2Proof.Machine.execQabs31 c d a b s
  | .qshl31 c d a b => Sys2Proof.Machine.execQshl31 c d a b s
  | .qshr31 c d a b => Sys2Proof.Machine.execQshr31 c d a b s
  | .f2q15 c d a b => Sys2Proof.Machine.execF2q15 c d a b s
  | .f2q31 c d a b => Sys2Proof.Machine.execF2q31 c d a b s
  | .q2f15 c d a b => Sys2Proof.Machine.execQ2f15 c d a b s
  | .q2f31 c d a b => Sys2Proof.Machine.execQ2f31 c d a b s
  | .sync c d a imm => Sys2Proof.Machine.execSync c d a imm s
  | .syncWake t l => Sys2Proof.Machine.execSyncWake t l s
  | .pub c d a imm => Sys2Proof.Machine.execPub c d a imm s
  | .subMailbox c d a imm => Sys2Proof.Machine.execSubMailbox c d a imm s
  | .laneRun t l => Sys2Proof.Machine.execLaneRun t l s
  | .laneStop t l => Sys2Proof.Machine.execLaneStop t l s
  | .prsRxCfgWrite t m v => Sys2Proof.Machine.execPrsRxCfgWrite t m v s
  | .prsHostWrite rq t off v => Sys2Proof.Machine.execPrsHostWrite rq t off v s
  | .pressThrottle t temp => Sys2Proof.Machine.execPressThrottle t temp s
  | .calQueuePush q v => Sys2Proof.Machine.execCalQueuePush q v s
  | .jobStart j => Sys2Proof.Machine.execJobStart j s
  | .jobPreempt j => Sys2Proof.Machine.execJobPreempt j s
  | .jobResume j => Sys2Proof.Machine.execJobResume j s
  | .jobEnd j => Sys2Proof.Machine.execJobEnd j s
  | .jobDeadline j => Sys2Proof.Machine.execJobDeadline j s
  | .calAbort id => Sys2Proof.Machine.execCalAbort id s
  | .calThrottle t temp => Sys2Proof.Machine.execCalThrottle t temp s
  | .loadm j => Sys2Proof.Machine.execLoadm j s
  | .storem j => Sys2Proof.Machine.execStorem j s
  | .factChol j => Sys2Proof.Machine.execFactChol j s
  | .factLdl j => Sys2Proof.Machine.execFactLdl j s
  | .factQr j => Sys2Proof.Machine.execFactQr j s
  | .solveF j => Sys2Proof.Machine.execSolveF j s
  | .solveB j => Sys2Proof.Machine.execSolveB j s
  | .ilsSearch j => Sys2Proof.Machine.execIlsSearch j s
  | .gemv j => Sys2Proof.Machine.execGemv j s
  | .gemm j => Sys2Proof.Machine.execGemm j s
  | .syrk j => Sys2Proof.Machine.execSyrk j s
  | .axpy j => Sys2Proof.Machine.execAxpy j s
  | .norm j => Sys2Proof.Machine.execNorm j s
  | .qpStep j => Sys2Proof.Machine.execQpStep j s
  | .shift j => Sys2Proof.Machine.execShift j s
  | .pivchk j => Sys2Proof.Machine.execPivchk j s
  | .nbbChCfgWrite c v => Sys2Proof.Machine.execNbbChCfgWrite c v s
  | .nbbSpcWrite c v => Sys2Proof.Machine.execNbbSpcWrite c v s
  | .loopUpdate c iq cn0 sym => Sys2Proof.Machine.execLoopUpdate c iq cn0 sym s
  | .aidExpire c => Sys2Proof.Machine.execAidExpire c s
  | .towWrite c v => Sys2Proof.Machine.execTowWrite c v s
  | .acqPush => Sys2Proof.Machine.execAcqPush s
  | .acqResult dop phase ratio => Sys2Proof.Machine.execAcqResult dop phase ratio s
  | .acqPop => Sys2Proof.Machine.execAcqPop s
  | .obsRecordPublish => Sys2Proof.Machine.execObsRecordPublish s
  | .epochBlockWrite => Sys2Proof.Machine.execEpochBlockWrite s
  | .notchUpdate a b k line => Sys2Proof.Machine.execNotchUpdate a b k line s
  | .jamEval a b agc n0 clip => Sys2Proof.Machine.execJamEval a b agc n0 clip s
  | .quietCapture a => Sys2Proof.Machine.execQuietCapture a s
  | .quietCaptureDone a => Sys2Proof.Machine.execQuietCaptureDone a s
  | .antOpen a ma => Sys2Proof.Machine.execAntOpen a ma s
  | .antShort a ma => Sys2Proof.Machine.execAntShort a ma s
  | .antRetry a => Sys2Proof.Machine.execAntRetry a s
  | .tsolCommit => Sys2Proof.Machine.execTsolCommit s
  | .timeStep => Sys2Proof.Machine.execTimeStep s
  | .slewEnd => Sys2Proof.Machine.execSlewEnd s
  | .holdoverTimeout => Sys2Proof.Machine.execHoldoverTimeout s
  | .ppsOutPulse => Sys2Proof.Machine.execPpsOutPulse s
  | .xfCommit => Sys2Proof.Machine.execXfCommit s
  | .xfHoldEnd => Sys2Proof.Machine.execXfHoldEnd s
  | .subqWrite v => Sys2Proof.Machine.execSubqWrite v s
  | .sampleRecordProcess => Sys2Proof.Machine.execSampleRecordProcess s
  | .alignBlockWrite => Sys2Proof.Machine.execAlignBlockWrite s
  | .aidPublish => Sys2Proof.Machine.execAidPublish s
  | .imuSecondarySwitch => Sys2Proof.Machine.execImuSecondarySwitch s
  | .trackFix t n e d => Sys2Proof.Machine.execTrackFix t n e d s
  | .serCharRx n b framing parity => Sys2Proof.Machine.execSerCharRx n b framing parity s
  | .serDataRead n => Sys2Proof.Machine.execSerDataRead n s
  | .serDataWrite n b => Sys2Proof.Machine.execSerDataWrite n b s
  | .serTxRelease n => Sys2Proof.Machine.execSerTxRelease n s
  | .delimiterStamp n => Sys2Proof.Machine.execDelimiterStamp n s
  | .serCalibration n tel => Sys2Proof.Machine.execSerCalibration n tel s
  | .chainOutput c xs ns1024 => Sys2Proof.Machine.execChainOutput c xs ns1024 s
  | .chainRestart c chain v => Sys2Proof.Machine.execChainRestart c chain v s
  | .usrCalWrite c trim v => Sys2Proof.Machine.execUsrCalWrite c trim v s
  | .clkErr b => Sys2Proof.Machine.execClkErr b s
  | .bsClockRecover b => Sys2Proof.Machine.execBsClockRecover b s
  | .imuSample raw rateSat forceSat fail late => Sys2Proof.Machine.execImuSample raw rateSat forceSat fail late s
  | .hbxPubSend p => Sys2Proof.Machine.execHbxPubSend p s
  | .bandDecision v bits => Sys2Proof.Machine.execBandDecision v bits s
  | .bandTimeout v => Sys2Proof.Machine.execBandTimeout v s
  | .valveUndervoltage mv => Sys2Proof.Machine.execValveUndervoltage mv s
  | .valveUvRecover mv => Sys2Proof.Machine.execValveUvRecover mv s
  | .countedEdge n ab age => Sys2Proof.Machine.execCountedEdge n ab age s
  | .wireDisagreement n pair => Sys2Proof.Machine.execWireDisagreement n pair s
  | .wireAgree n pair => Sys2Proof.Machine.execWireAgree n pair s
  | .indexEvent n age => Sys2Proof.Machine.execIndexEvent n age s
  | .observerStep n => Sys2Proof.Machine.execObserverStep n s
  | .standstill n => Sys2Proof.Machine.execStandstill n s
  | .absTransfer n val ok nE nW ns => Sys2Proof.Machine.execAbsTransfer n val ok nE nW ns s
  | .realign n => Sys2Proof.Machine.execRealign n s
  | .encCfgWrite n cpr v => Sys2Proof.Machine.execEncCfgWrite n cpr v s
  | .latchReadLo n k => Sys2Proof.Machine.execLatchReadLo n k s
  | .latchReadHi n k => Sys2Proof.Machine.execLatchReadHi n k s
  | .nowWrap => Sys2Proof.Machine.execNowWrap s
  | .timIncWrite v => Sys2Proof.Machine.execTimIncWrite v s
  | .timOffsetWrite v => Sys2Proof.Machine.execTimOffsetWrite v s
  | .correctionApply => Sys2Proof.Machine.execCorrectionApply s
  | .extFold n => Sys2Proof.Machine.execExtFold n s
  | .snapshotRead r => Sys2Proof.Machine.execSnapshotRead r s
  | .cmpTargetWrite k hi => Sys2Proof.Machine.execCmpTargetWrite k hi s
  | .compareEvent k => Sys2Proof.Machine.execCompareEvent k s
  | .tmPulseEnd n => Sys2Proof.Machine.execTmPulseEnd n s
  | .captureEvent k age => Sys2Proof.Machine.execCaptureEvent k age s
  | .capReadLo k => Sys2Proof.Machine.execCapReadLo k s
  | .capReadHi k => Sys2Proof.Machine.execCapReadHi k s
  | .ppsInEdge age => Sys2Proof.Machine.execPpsInEdge age s
  | .ptpServoUpdate best err inc => Sys2Proof.Machine.execPtpServoUpdate best err inc s
  | .safetyCycle rb => Sys2Proof.Machine.execSafetyCycle rb s
  | .deckleWatchdogFault svc => Sys2Proof.Machine.execDeckleWatchdogFault svc s
  | .safeInputSample levels => Sys2Proof.Machine.execSafeInputSample levels s
  | .discrepancy k => Sys2Proof.Machine.execDiscrepancy k s
  | .offPulse n mv => Sys2Proof.Machine.execOffPulse n mv s
  | .cutTest g fell => Sys2Proof.Machine.execCutTest g fell s
  | .cutTestDue g => Sys2Proof.Machine.execCutTestDue g s
  | .safeCopyRx netB pdu => Sys2Proof.Machine.execSafeCopyRx netB pdu s
  | .cmpWinExpire c => Sys2Proof.Machine.execCmpWinExpire c s
  | .connectionTimeout c => Sys2Proof.Machine.execConnectionTimeout c s
  | .swStop mask => Sys2Proof.Machine.execSwStop mask s
  | .safeFault cause => Sys2Proof.Machine.execSafeFault cause s
  | .codeCrcCheck ok => Sys2Proof.Machine.execCodeCrcCheck ok s
  | .memoryScrub single uncorr => Sys2Proof.Machine.execMemoryScrub single uncorr s
  | .deckleStart fail => Sys2Proof.Machine.execDeckleStart fail s
  | .plyFrameRx p f fcsOk => Sys2Proof.Machine.execPlyFrameRx p f fcsOk s
  | .addressAgeOut net mac => Sys2Proof.Machine.execAddressAgeOut net mac s
  | .linkChange p up gbit halfOnly => Sys2Proof.Machine.execLinkChange p up gbit halfOnly s
  | .prpSupervision => Sys2Proof.Machine.execPrpSupervision s
  | .txRingWrite r v => Sys2Proof.Machine.execTxRingWrite r v s
  | .txDescriptorProcess => Sys2Proof.Machine.execTxDescriptorProcess s
  | .txComplete r => Sys2Proof.Machine.execTxComplete r s
  | .canInitWrite n init => Sys2Proof.Machine.execCanInitWrite n init s
  | .canBusJoin n => Sys2Proof.Machine.execCanBusJoin n s
  | .canRecover n => Sys2Proof.Machine.execCanRecover n s
  | .canRecovered n occ => Sys2Proof.Machine.execCanRecovered n occ s
  | .canFlush n => Sys2Proof.Machine.execCanFlush n s
  | .canFrameRx n w0 w1 data age => Sys2Proof.Machine.execCanFrameRx n w0 w1 data age s
  | .canBusError n e => Sys2Proof.Machine.execCanBusError n e s
  | .canTxReq n b => Sys2Proof.Machine.execCanTxReq n b s
  | .canTxStart n => Sys2Proof.Machine.execCanTxStart n s
  | .canTxEnd n e => Sys2Proof.Machine.execCanTxEnd n e s
  | .canCancel n b => Sys2Proof.Machine.execCanCancel n b s
  | .canWindowLock n w => Sys2Proof.Machine.execCanWindowLock n w s
  | .canWindowRelease n w => Sys2Proof.Machine.execCanWindowRelease n w s
  | .mirrorPacketRx ws => Sys2Proof.Machine.execMirrorPacketRx ws s
  | .mirrorRetransmit seq => Sys2Proof.Machine.execMirrorRetransmit seq s
  | .helloSend => Sys2Proof.Machine.execHelloSend s
  | .laneStateChange lane => Sys2Proof.Machine.execLaneStateChange lane s
  | .snapGo p => Sys2Proof.Machine.execSnapGo p s
  | .snapPartWrite p => Sys2Proof.Machine.execSnapPartWrite p s
  | .mirGo => Sys2Proof.Machine.execMirGo s
  | .mirrorAbandon => Sys2Proof.Machine.execMirrorAbandon s
  | .pageDirty a => Sys2Proof.Machine.execPageDirty a s
  | .pageSend pg => Sys2Proof.Machine.execPageSend pg s
  | .resync => Sys2Proof.Machine.execResync s
  | .resyncDone => Sys2Proof.Machine.execResyncDone s
  | .mirrorSlotStore page => Sys2Proof.Machine.execMirrorSlotStore page s
  | .leaseSend => Sys2Proof.Machine.execLeaseSend s
  | .leaseFrameRx epoch holder payload => Sys2Proof.Machine.execLeaseFrameRx epoch holder payload s
  | .leaseEval => Sys2Proof.Machine.execLeaseEval s
  | .leaseRelease => Sys2Proof.Machine.execLeaseRelease s
  | .proofRunStart => Sys2Proof.Machine.execProofRunStart s
  | .proofRunEnd => Sys2Proof.Machine.execProofRunEnd s
  | .watchTakeover => Sys2Proof.Machine.execWatchTakeover s
  | .sensorSample rs => Sys2Proof.Machine.execSensorSample rs s
  | .logCopy => Sys2Proof.Machine.execLogCopy s
  | .twdgWrite rq => Sys2Proof.Machine.execTwdgWrite rq s
  | .twdgExpire => Sys2Proof.Machine.execTwdgExpire s
  | .mwdgKick => Sys2Proof.Machine.execMwdgKick s
  | .mwdgHalf => Sys2Proof.Machine.execMwdgHalf s
  | .mwdgExpire => Sys2Proof.Machine.execMwdgExpire s
  | .pstateReq v => Sys2Proof.Machine.execPstateReq v s
  | .stateEntryDone k => Sys2Proof.Machine.execStateEntryDone k s
  | .rtcAlarm => Sys2Proof.Machine.execRtcAlarm s
  | .j17Wake => Sys2Proof.Machine.execJ17Wake s
  | .can0Wake => Sys2Proof.Machine.execCan0Wake s
  | .plyWakeFrame => Sys2Proof.Machine.execPlyWakeFrame s
  | .wakeDone => Sys2Proof.Machine.execWakeDone s
  | .rtcWrite hi => Sys2Proof.Machine.execRtcWrite hi s
  | .alarmWrite hi => Sys2Proof.Machine.execAlarmWrite hi s
  | .powerOnReset open_ => Sys2Proof.Machine.execPowerOnReset open_ s
  | .brownOutReset => Sys2Proof.Machine.execBrownOutReset s
  | .sysRst v => Sys2Proof.Machine.execSysRst v s
  | .softRst => Sys2Proof.Machine.execSoftRst s
  | .coldBoot => Sys2Proof.Machine.execColdBoot s
  | .domainRst n rq => Sys2Proof.Machine.execDomainRst n rq s
  | .domainRelease n rq => Sys2Proof.Machine.execDomainRelease n rq s
  | .jointRst mask => Sys2Proof.Machine.execJointRst mask s
  | .domainOn n => Sys2Proof.Machine.execDomainOn n s
  | .accessStall rq addr => Sys2Proof.Machine.execAccessStall rq addr s
  | .stallTimeout ix => Sys2Proof.Machine.execStallTimeout ix s
  | .powerFailWarning => Sys2Proof.Machine.execPowerFailWarning s
  | .rideEnd => Sys2Proof.Machine.execRideEnd s
  | .powerFailFlush => Sys2Proof.Machine.execPowerFailFlush s
  | .feedReturn => Sys2Proof.Machine.execFeedReturn s
  | .flushLenWrite n v => Sys2Proof.Machine.execFlushLenWrite n v s
  | .calOpen => Sys2Proof.Machine.execCalOpen s
  | .calCommit => Sys2Proof.Machine.execCalCommit s
  | .reelPost r v => Sys2Proof.Machine.execReelPost r v s
  | .queueEntryApply => Sys2Proof.Machine.execQueueEntryApply s
  | .cursorLatch pos => Sys2Proof.Machine.execCursorLatch pos s
  | .cursorReady => Sys2Proof.Machine.execCursorReady s
  | .reelClear rq lvl v => Sys2Proof.Machine.execReelClear rq lvl v s
  | .reelFlush => Sys2Proof.Machine.execReelFlush s
  | .migration ok => Sys2Proof.Machine.execMigration ok s
  | .reelCtlWrite v => Sys2Proof.Machine.execReelCtlWrite v s
  | .runStale => Sys2Proof.Machine.execRunStale s
  | .counterPoll wear => Sys2Proof.Machine.execCounterPoll wear s
  | .counterMerge => Sys2Proof.Machine.execCounterMerge s
  | .leapDelta v => Sys2Proof.Machine.execLeapDelta v s
  | .updCheck => Sys2Proof.Machine.execUpdCheck s
  | .updBlockSubmit v => Sys2Proof.Machine.execUpdBlockSubmit v s
  | .blockCommit => Sys2Proof.Machine.execBlockCommit s
  | .downloadResume => Sys2Proof.Machine.execDownloadResume s
  | .updAbort => Sys2Proof.Machine.execUpdAbort s
  | .updVerify => Sys2Proof.Machine.execUpdVerify s
  | .verifyDone => Sys2Proof.Machine.execVerifyDone s
  | .updInstall => Sys2Proof.Machine.execUpdInstall s
  | .installDone ok => Sys2Proof.Machine.execInstallDone ok s
  | .activation => Sys2Proof.Machine.execActivation s
  | .updConfirm v => Sys2Proof.Machine.execUpdConfirm v s
  | .trialFallback => Sys2Proof.Machine.execTrialFallback s
  | .pnlGo => Sys2Proof.Machine.execPnlGo s
  | .pnlCancel => Sys2Proof.Machine.execPnlCancel s
  | .updateStart => Sys2Proof.Machine.execUpdateStart s
  | .panelFrame => Sys2Proof.Machine.execPanelFrame s
  | .pfwEnd => Sys2Proof.Machine.execPfwEnd s
  | .ppsPulseEnd => Sys2Proof.Machine.execPpsPulseEnd s
  | .antOpenClear a ma => Sys2Proof.Machine.execAntOpenClear a ma s
  | .snapDeadline => Sys2Proof.Machine.execSnapDeadline s
  | .domainTargetWrite n target => Sys2Proof.Machine.execDomainTargetWrite n target s
  | .returnToSleep => Sys2Proof.Machine.execReturnToSleep s
  | .sensorEnWrite k v => Sys2Proof.Machine.execSensorEnWrite k v s
  | .bmbCfgWrite k v => Sys2Proof.Machine.execBmbCfgWrite k v s
  | .serCharTx n => Sys2Proof.Machine.execSerCharTx n s
  | .recoveryFurnish hdr body => Sys2Proof.Machine.execRecoveryFurnish hdr body s

end Sys2Proof.Machine
end

