-- ==== Sys2Proof/Machine/Step.lean ====
section
/-! DEFINITION. One step of the block: the command at the front of its queue, or one tick of its clock where none waits. -/

namespace Sys2Proof.Machine

/-- `s` with command `c` at the front of its queue. -/
def State.pushFront (s : State) (c : Instr) : State := { s with pending := c :: s.pending }

/-- Take the command at the front and run it with the queue's rest; with no command waiting, the module's clock advances one
8 ns tick. -/
def step (s : State) : Host.Outcome State Fault Refusal :=
  match s.pending with
  | [] => .next (tick s)
  | c :: cs => exec c { s with pending := cs }

/-- `s` with the command that a table word spells at the front of its queue; unchanged where it spells none. -/
def State.withFetchWord (s : State) (nbits w : Nat) : State :=
  match Sys2Proof.decodeTableWord nbits w with
  | some c => s.pushFront c
  | none => s

end Sys2Proof.Machine
end

