-- ==== Sys2Proof/WellFormed.lean ====
section
/-! DEFINITION. Which commands are well formed: operands whose type admits more than the hardware can deliver. A meaning is total on
the others too. -/

namespace Sys2Proof

/-- An access size the bus has (R9, R37). -/
def wfSize (n : Nat) : Bool := n == 1 || n == 2 || n == 4 || n == 8

/-- A slotted message has at least one word (R28). -/
def wfMsg (ws : List Word) : Bool := decide (0 < ws.length)

/-- At most one dump for each of the seven correlators (R189). -/
def wfDumps (iq : List (Int × Int)) : Bool := decide (iq.length ≤ 7)

/-- At least one calibration telegram (R241). -/
def wfTel (tel : List (Int × Int × Int)) : Bool := decide (0 < tel.length)

/-- A list of exactly `n` values. -/
def wfLen {α : Type} (n : Nat) (xs : List α) : Bool := xs.length == n

/-- A number of at most `n`. -/
def wfMax (n k : Nat) : Bool := decide (k ≤ n)

/-- An Ethernet frame without its FCS: both addresses and a type at least, 1,518 bytes (with an 802.1Q tag, R323) at most. -/
def wfFrame (f : List Byte) : Bool := decide (14 ≤ f.length) && decide (f.length ≤ 1518)

/-- A mirror packet: a header of four words, a payload of at most 4,096 bytes, a CRC (R360). -/
def wfPacket (ws : List Word) : Bool := decide (5 ≤ ws.length) && decide (ws.length ≤ 1029)

/-- The well-formedness of a command. -/
def Instr.wf : Instr → Bool
  | .registerWrite _ _ _ size _ => wfSize size
  | .feltApply => true
  | .feltRoundBoundary => true
  | .slottedPublish _ _ msg => wfMsg msg
  | .mailboxDeliver .. => true
  | .domainFault .. => true
  | .inputBlockSample .. => true
  | .controlLaw .. => true
  | .commandPublication => true
  | .lPrefix .. => true
  | .add .. => true
  | .sub .. => true
  | .and .. => true
  | .or .. => true
  | .xor .. => true
  | .andn .. => true
  | .shl .. => true
  | .shr .. => true
  | .sra .. => true
  | .slt .. => true
  | .sltu .. => true
  | .min .. => true
  | .max .. => true
  | .minu .. => true
  | .maxu .. => true
  | .cmov .. => true
  | .mul .. => true
  | .mulh .. => true
  | .mulhu .. => true
  | .mulhsu .. => true
  | .div .. => true
  | .divu .. => true
  | .rem .. => true
  | .remu .. => true
  | .clz .. => true
  | .ctz .. => true
  | .popc .. => true
  | .aluw .. => true
  | .addi .. => true
  | .andi .. => true
  | .ori .. => true
  | .xori .. => true
  | .slti .. => true
  | .sltiu .. => true
  | .shli .. => true
  | .shri .. => true
  | .srai .. => true
  | .lih .. => true
  | .addiw .. => true
  | .addpc .. => true
  | .ldb .. => true
  | .ldbu .. => true
  | .ldh .. => true
  | .ldhu .. => true
  | .ldw .. => true
  | .ldwu .. => true
  | .ldd .. => true
  | .stb .. => true
  | .sth .. => true
  | .stw .. => true
  | .std .. => true
  | .ldxW .. => true
  | .ldxD .. => true
  | .stxW .. => true
  | .stxD .. => true
  | .reservationClear .. => true
  | .br .. => true
  | .j .. => true
  | .jl .. => true
  | .jr .. => true
  | .fadd .. => true
  | .fsub .. => true
  | .fmul .. => true
  | .fdiv .. => true
  | .fsqrt .. => true
  | .fmadd .. => true
  | .fmsub .. => true
  | .fmin .. => true
  | .fmax .. => true
  | .feq .. => true
  | .flt .. => true
  | .fle .. => true
  | .fsgnj .. => true
  | .fsgnjn .. => true
  | .fcvt .. => true
  | .fclass .. => true
  | .gets .. => true
  | .puts .. => true
  | .sset .. => true
  | .sclr .. => true
  | .trap .. => true
  | .fence .. => true
  | .fenceI .. => true
  | .wait .. => true
  | .waitWake .. => true
  | .sev .. => true
  | .rte .. => true
  | .brk .. => true
  | .interruptEntry .. => true
  | .lockstepMismatch .. => true
  | .irqSourceEdge .. => true
  | .swiRequest .. => true
  | .hys .. => true
  | .clmp .. => true
  | .rmp .. => true
  | .intg .. => true
  | .lut .. => true
  | .qadd15 .. => true
  | .qadd31 .. => true
  | .qsub15 .. => true
  | .qsub31 .. => true
  | .qmul15 .. => true
  | .qmul31 .. => true
  | .qmac15 .. => true
  | .qmac31 .. => true
  | .qneg15 .. => true
  | .qneg31 .. => true
  | .qabs15 .. => true
  | .qabs31 .. => true
  | .qshl31 .. => true
  | .qshr31 .. => true
  | .f2q15 .. => true
  | .f2q31 .. => true
  | .q2f15 .. => true
  | .q2f31 .. => true
  | .sync .. => true
  | .syncWake .. => true
  | .pub .. => true
  | .subMailbox .. => true
  | .laneRun .. => true
  | .laneStop .. => true
  | .prsRxCfgWrite .. => true
  | .prsHostWrite .. => true
  | .pressThrottle .. => true
  | .calQueuePush .. => true
  | .jobStart .. => true
  | .jobPreempt .. => true
  | .jobResume .. => true
  | .jobEnd .. => true
  | .jobDeadline .. => true
  | .calAbort .. => true
  | .calThrottle .. => true
  | .loadm .. => true
  | .storem .. => true
  | .factChol .. => true
  | .factLdl .. => true
  | .factQr .. => true
  | .solveF .. => true
  | .solveB .. => true
  | .ilsSearch .. => true
  | .gemv .. => true
  | .gemm .. => true
  | .syrk .. => true
  | .axpy .. => true
  | .norm .. => true
  | .qpStep .. => true
  | .shift .. => true
  | .pivchk .. => true
  | .nbbChCfgWrite .. => true
  | .nbbSpcWrite .. => true
  | .loopUpdate _ iq _ _ => wfDumps iq
  | .aidExpire .. => true
  | .towWrite .. => true
  | .acqPush => true
  | .acqResult .. => true
  | .acqPop => true
  | .obsRecordPublish => true
  | .epochBlockWrite => true
  | .notchUpdate .. => true
  | .jamEval .. => true
  | .quietCapture .. => true
  | .quietCaptureDone .. => true
  | .antOpen .. => true
  | .antShort .. => true
  | .antRetry .. => true
  | .tsolCommit => true
  | .timeStep => true
  | .slewEnd => true
  | .holdoverTimeout => true
  | .ppsOutPulse => true
  | .xfCommit => true
  | .xfHoldEnd => true
  | .subqWrite .. => true
  | .sampleRecordProcess => true
  | .alignBlockWrite => true
  | .aidPublish => true
  | .imuSecondarySwitch => true
  | .trackFix .. => true
  | .serCharRx .. => true
  | .serDataRead .. => true
  | .serDataWrite .. => true
  | .serTxRelease .. => true
  | .delimiterStamp .. => true
  | .serCalibration _ tel => wfTel tel
  | .chainOutput .. => true
  | .chainRestart .. => true
  | .usrCalWrite .. => true
  | .clkErr .. => true
  | .bsClockRecover .. => true
  | .imuSample raw _ _ _ _ => wfLen 6 raw
  | .hbxPubSend .. => true
  | .bandDecision .. => true
  | .bandTimeout .. => true
  | .valveUndervoltage .. => true
  | .valveUvRecover .. => true
  | .countedEdge .. => true
  | .wireDisagreement .. => true
  | .wireAgree .. => true
  | .indexEvent .. => true
  | .observerStep .. => true
  | .standstill .. => true
  | .absTransfer .. => true
  | .realign .. => true
  | .encCfgWrite .. => true
  | .latchReadLo .. => true
  | .latchReadHi .. => true
  | .nowWrap => true
  | .timIncWrite .. => true
  | .timOffsetWrite .. => true
  | .correctionApply => true
  | .extFold .. => true
  | .snapshotRead .. => true
  | .cmpTargetWrite .. => true
  | .compareEvent .. => true
  | .tmPulseEnd .. => true
  | .captureEvent .. => true
  | .capReadLo .. => true
  | .capReadHi .. => true
  | .ppsInEdge .. => true
  | .ptpServoUpdate .. => true
  | .safetyCycle rb => wfLen 8 rb
  | .deckleWatchdogFault .. => true
  | .safeInputSample .. => true
  | .discrepancy .. => true
  | .offPulse .. => true
  | .cutTest .. => true
  | .cutTestDue .. => true
  | .safeCopyRx .. => true
  | .cmpWinExpire .. => true
  | .connectionTimeout .. => true
  | .swStop .. => true
  | .safeFault .. => true
  | .codeCrcCheck .. => true
  | .memoryScrub .. => true
  | .deckleStart .. => true
  | .plyFrameRx _ f _ => wfFrame f
  | .addressAgeOut .. => true
  | .linkChange .. => true
  | .prpSupervision => true
  | .txRingWrite .. => true
  | .txDescriptorProcess => true
  | .txComplete .. => true
  | .canInitWrite .. => true
  | .canBusJoin .. => true
  | .canRecover .. => true
  | .canRecovered _ occ => wfMax 128 occ
  | .canFlush .. => true
  | .canFrameRx _ _ _ data _ => wfLen 16 data
  | .canBusError .. => true
  | .canTxReq .. => true
  | .canTxStart .. => true
  | .canTxEnd .. => true
  | .canCancel .. => true
  | .canWindowLock .. => true
  | .canWindowRelease .. => true
  | .mirrorPacketRx ws => wfPacket ws
  | .mirrorRetransmit .. => true
  | .helloSend => true
  | .laneStateChange .. => true
  | .snapGo .. => true
  | .snapPartWrite .. => true
  | .mirGo => true
  | .mirrorAbandon => true
  | .pageDirty .. => true
  | .pageSend .. => true
  | .resync => true
  | .resyncDone => true
  | .mirrorSlotStore .. => true
  | .leaseSend => true
  | .leaseFrameRx _ _ payload => wfLen 7 payload
  | .leaseEval => true
  | .leaseRelease => true
  | .proofRunStart => true
  | .proofRunEnd => true
  | .watchTakeover => true
  | .sensorSample rs => wfLen 16 rs
  | .logCopy => true
  | .twdgWrite .. => true
  | .twdgExpire => true
  | .mwdgKick => true
  | .mwdgHalf => true
  | .mwdgExpire => true
  | .pstateReq .. => true
  | .stateEntryDone k => wfMax 14 k
  | .rtcAlarm => true
  | .j17Wake => true
  | .can0Wake => true
  | .plyWakeFrame => true
  | .wakeDone => true
  | .rtcWrite .. => true
  | .alarmWrite .. => true
  | .powerOnReset .. => true
  | .brownOutReset => true
  | .sysRst .. => true
  | .softRst => true
  | .coldBoot => true
  | .domainRst .. => true
  | .domainRelease .. => true
  | .jointRst .. => true
  | .domainOn .. => true
  | .accessStall .. => true
  | .stallTimeout .. => true
  | .powerFailWarning => true
  | .rideEnd => true
  | .powerFailFlush => true
  | .feedReturn => true
  | .flushLenWrite .. => true
  | .calOpen => true
  | .calCommit => true
  | .reelPost .. => true
  | .queueEntryApply => true
  | .cursorLatch .. => true
  | .cursorReady => true
  | .reelClear .. => true
  | .reelFlush => true
  | .migration .. => true
  | .reelCtlWrite .. => true
  | .runStale => true
  | .counterPoll .. => true
  | .counterMerge => true
  | .leapDelta .. => true
  | .updCheck => true
  | .updBlockSubmit .. => true
  | .blockCommit => true
  | .downloadResume => true
  | .updAbort => true
  | .updVerify => true
  | .verifyDone => true
  | .updInstall => true
  | .installDone .. => true
  | .activation => true
  | .updConfirm .. => true
  | .trialFallback => true
  | .pnlGo => true
  | .pnlCancel => true
  | .updateStart => true
  | .panelFrame => true
  | .pfwEnd => true
  | .ppsPulseEnd => true
  | .antOpenClear .. => true
  | .snapDeadline => true
  | .domainTargetWrite .. => true
  | .returnToSleep => true
  | .sensorEnWrite .. => true
  | .bmbCfgWrite .. => true
  | .serCharTx .. => true
  | .recoveryFurnish hdr _ => wfLen 128 hdr

end Sys2Proof
end

