-- ==== Sys2Proof/Safety.lean ====
section
/-! DEFINITION. The terms in which claims about the model are stated: what a command leads to, what it leaves alone, and the
canonical form of every memory. -/

namespace Sys2Proof.Machine

/-- The command runs to completion, and what it leads to satisfies `P`. -/
def After (i : Instr) (s : State) (P : State → Prop) : Prop := ∃ t, exec i s = .next t ∧ P t

/-- The command runs to completion and changes nothing. -/
def NoEffect (i : Instr) (s : State) : Prop := exec i s = .next s

/-! ### The canonical form of the memories -/

/-- A byte memory in canonical form. -/
def Memory.wf (d : Nat → Byte) (m : SMap Byte) : Bool := swf d m

/-- Registers and the four addressed memories are in canonical form. -/
def State.wf (s : State) : Bool :=
  swf resetOf s.regs && Memory.wf zeroByte s.dram && Memory.wf zeroByte s.mram && Memory.wf zeroByte s.ao
    && Memory.wf erasedByte s.nor

/-! ### Frames -/

/-- Every byte of the addressed memories reads as before. -/
def SameMem (s t : State) : Prop :=
  (∀ a, sget zeroByte t.dram a = sget zeroByte s.dram a) ∧ (∀ a, sget zeroByte t.mram a = sget zeroByte s.mram a) ∧
  (∀ a, sget zeroByte t.ao a = sget zeroByte s.ao a) ∧ (∀ a, sget erasedByte t.nor a = sget erasedByte s.nor a)

/-- Every register but those `p` names reads as before. -/
def RegsBut (p : Nat → Prop) (s t : State) : Prop := ∀ a, ¬p a → t.rd a = s.rd a

/-- A 4 KiB multiple of the block windows: addresses from `lo`, below `hi`. -/
def Window (lo hi : Nat) (a : Nat) : Prop := lo ≤ a ∧ a < hi

/-- The Mill's interrupt pending registers. -/
def IrqPend (a : Nat) : Prop := ∃ k, k < 4 ∧ a = Reg.MILL_IRQ_PEND k

/-- Nothing but registers changes, and the note of what this instant did to them (R6). -/
def OnlyRegs (s t : State) : Prop := t = { s with regs := t.regs, inst := t.inst }

/-- Nothing changes but registers, and of those only the ones `p` names. -/
def RegEffect (p : Nat → Prop) (s t : State) : Prop := OnlyRegs s t ∧ RegsBut p s t

/-! ### Cores -/

/-- The core runs, and the word it comes to may be fetched. -/
def Ready (c : CoreId) (s : State) : Prop :=
  (s.core c).run = .running ∧ s.fetchCause c (s.core c).fetchAddr = none

/-- No L prefix is pending. -/
def NoPfx (c : CoreId) (s : State) : Prop := (s.core c).pfx = none

/-- The level implements the register (R77, R80). -/
def HasReg (c : CoreId) (r : BitVec 6) : Prop := r.toNat < coreRegs c

/-- The register in which a core shows its unit address; only lanes have one (R151). -/
def pcShown : CoreId → Option Nat
  | .lane t l => some (Reg.PRS_T_L_PC t l)
  | _ => none

/-- No lane's period but that of core `c`, where it is a lane, is touched. -/
def SameLanes (c : CoreId) (s t : State) : Prop :=
  ∀ k, (∀ x l, c = .lane x l → k ≠ 8 * x.val + l.val) → sget (fun _ => laneIdle) t.prs.lane k = sget (fun _ => laneIdle) s.prs.lane k

/-- Nothing outside core `c` changes, but for the address and the cycle count that a lane shows and the model's count of free
values. -/
def OnlyCore (c : CoreId) (s t : State) : Prop :=
  t = { s with cores := t.cores, regs := t.regs, inst := t.inst, freeIdx := t.freeIdx, prs := { s.prs with lane := t.prs.lane } } ∧
  (∀ o : CoreId, o ≠ c → t.core o = s.core o) ∧ (∀ a, pcShown c ≠ some a → t.rd a = s.rd a) ∧
  SameLanes c s t

/-- A unit of core `c` has retired to address `pc`: INSTRET counts it, no other state register but CYCLE and those `p` names
changes, and the core runs on (R111, R117, R119). -/
def Retired (p : Nat → Prop) (c : CoreId) (pc : Nat) (s t : State) : Prop :=
  (t.core c).pc.toNat = pc % 2 ^ coreWidth c ∧ (t.core c).pfx = none ∧ (t.core c).run = .running ∧
  (t.core c).srN 2 = ((s.core c).srN 2 + 1) % 2 ^ coreWidth c ∧
  (∀ n, n ≠ 1 → n ≠ 2 → ¬p n → (t.core c).srN n = (s.core c).srN n)

/-- Register `d` of core `c` holds `v`, W bits wide, unless it is g0, which stays 0; every other register is unchanged (R80). -/
def Gets (c : CoreId) (d : BitVec 6) (v : DWord) (s t : State) : Prop :=
  ∀ r : BitVec 6, (t.core c).g r =
    if r = d ∧ r ≠ 0 then BitVec.ofNat 64 (v.toNat % 2 ^ coreWidth c) else (s.core c).g r

/-- No general register of core `c` changes. -/
def SameG (c : CoreId) (s t : State) : Prop := ∀ r : BitVec 6, (t.core c).g r = (s.core c).g r

/-- The address after the unit: 4 bytes on, 8 with a prefix (R85). -/
def nextPc (c : CoreId) (s : State) : Nat := (s.core c).pc.toNat + if (s.core c).pfx = none then 4 else 8

/-- The immediate of an I or M format, alone or behind its prefix, sign- and zero-extended (R81, R82). -/
def sImm (c : CoreId) (s : State) (imm : BitVec 14) : BitVec 64 :=
  match (s.core c).pfx with
  | none => imm.signExtend 64
  | some l => (l ++ imm).signExtend 64

def uImm (c : CoreId) (s : State) (imm : BitVec 14) : BitVec 64 :=
  match (s.core c).pfx with
  | none => imm.setWidth 64
  | some l => (l ++ imm).setWidth 64

/-- The byte offset of BR: 4 times its immediate, alone or behind its prefix. -/
def brOff (c : CoreId) (s : State) (off : BitVec 10) : BitVec 64 :=
  4 * match (s.core c).pfx with
  | none => off.signExtend 64
  | some l => (l ++ off).signExtend 64

/-- A unit of core `c` has written `v` to `d` and retired to `pc`, and nothing else has changed. -/
def WroteAt (c : CoreId) (d : BitVec 6) (v : DWord) (pc : Nat) (s t : State) : Prop :=
  Retired (fun _ => False) c pc s t ∧ Gets c d v s t ∧ OnlyCore c s t ∧ (t.core c).resv = (s.core c).resv ∧
  (t.core c).evt = (s.core c).evt

/-- The same, retired to the following unit. -/
def Wrote (c : CoreId) (d : BitVec 6) (v : DWord) (s t : State) : Prop := WroteAt c d v (nextPc c s) s t

/-- A unit has retired to `pc` and nothing else has changed. -/
def WentTo (c : CoreId) (pc : Nat) (s t : State) : Prop :=
  Retired (fun _ => False) c pc s t ∧ SameG c s t ∧ OnlyCore c s t ∧ (t.core c).resv = (s.core c).resv ∧
  (t.core c).evt = (s.core c).evt

/-- An FP unit has written `r.1` to `d`, has set the flags `r.2` in FPCSR beside those it held, and has retired (R95, R97). -/
def WroteFp (c : CoreId) (d : BitVec 6) (r : Nat × Flags) (s t : State) : Prop :=
  Retired (fun n => n = 0) c (nextPc c s) s t ∧ Gets c d (BitVec.ofNat 64 r.1) s t ∧ OnlyCore c s t ∧
  (t.core c).srN 0 = ((s.core c).srN 0 ||| r.2) % 2 ^ 64

/-- A state-register unit has left `v` in state register `n` (R106); `n` is MSTATUS where the unit names SSTATUS. -/
def WroteSr (c : CoreId) (n v : Nat) (s t : State) : Prop :=
  Retired (fun m => m = n) c (nextPc c s) s t ∧ (t.core c).srN n = v ∧ OnlyCore c s t

/-- Trap entry of a Mill core, or of the Tender, to level `x` (R111): `base` is 0x1000 for level 1 and 0x2000 for level 2; the saved
fields of MSTATUS stand at bit 6 or bits 8 and 7, bit 4 or 5, and bit 9 or 10. FQ-T has no MPLVL (R117). -/
def Entered (c : CoreId) (x : Nat) (cause tval : Nat) (s t : State) : Prop :=
  let base := 0x1000 * x
  let old := s.core c
  let new := t.core c
  new.srN (base + 2) = old.pc.toNat ∧ new.srN (base + 3) = cause ∧ new.srN (base + 4) = tval ∧
  new.pc.toNat = old.srN (base + 1) ∧ new.level = x ∧ new.pfx = none ∧ new.resv = none ∧ SameG c s t ∧
  (if x = 1 then new.ms 6 6 = old.level ∧ new.ms 4 4 = old.ms 2 2 ∧ new.ms 2 2 = 0 ∧ new.ms 9 9 = 1 ∧
      new.ms 3 3 = old.ms 3 3 ∧ new.ms 5 5 = old.ms 5 5 ∧ new.ms 8 7 = old.ms 8 7 ∧ new.ms 10 10 = old.ms 10 10
    else new.ms 8 7 = (if coreWidth c = 64 then old.level else 0) ∧ new.ms 5 5 = old.ms 3 3 ∧ new.ms 3 3 = 0 ∧ new.ms 10 10 = 1 ∧
      new.ms 2 2 = old.ms 2 2 ∧ new.ms 4 4 = old.ms 4 4 ∧ new.ms 6 6 = old.ms 6 6 ∧ new.ms 9 9 = old.ms 9 9) ∧
  new.ms 11 11 = old.ms 11 11 ∧
  (∀ n, n ≠ 1 → n ≠ 0x2000 → n ≠ base + 2 → n ≠ base + 3 → n ≠ base + 4 → new.srN n = old.srN n)

/-- One record has been written to the management log (R386, R469): source, severity, code, three data words; the write index has
moved on and no other byte of always-on SRAM has changed. -/
def Logged (src sev code d0 d1 d2 : Nat) (s t : State) : Prop :=
  let a := 0x2000 + 32 * s.bits Reg.TND_LOG_WR 8 0
  rdz t.ao (a + 8) 4 = (src + 256 * sev + 65536 * (code % 65536)) % 2 ^ 32 ∧ rdz t.ao (a + 12) 4 = d0 % 2 ^ 32 ∧
  rdz t.ao (a + 16) 4 = d1 % 2 ^ 32 ∧ rdz t.ao (a + 20) 4 = d2 % 2 ^ 32 ∧
  rdz t.ao a 8 = s.rd64 Reg.TND_RTC_LO Reg.TND_RTC_HI ∧ rdz t.ao (a + 24) 4 = s.tnd.seq % 2 ^ 32 ∧ rdz t.ao (a + 28) 4 = 0x106C0001 ∧
  t.bits Reg.TND_LOG_WR 8 0 = (s.bits Reg.TND_LOG_WR 8 0 + 1) % 512 ∧
  (∀ b, b < a ∨ a + 32 ≤ b → sget zeroByte t.ao b = sget zeroByte s.ao b)

/-- A record of a source whose chapter states a code alone: severity and data words are free values. -/
def LoggedOwn (src code : Nat) (s t : State) : Prop :=
  Logged src (Config.logSev src code).toNat code (Config.logData src code 0).toNat (Config.logData src code 1).toNat
    (Config.logData src code 2).toNat s t

/-! ### A core's own data memory -/

/-- Addresses of `n` bytes that lie in DRAM for the Mill, in the Tender's code and data memories, in the Deckle's data memory, or in
the lane's data memory (R36, R126, R296, R382). -/
def Within : CoreId → Nat → Nat → Prop
  | .mill _, a, n => 0x800000000 ≤ a ∧ a + n ≤ 0x870000000
  | .tender, a, n => 0x10000 ≤ a ∧ a + n ≤ 0x30000
  | .deckle, a, n => 0x10000000 ≤ a ∧ a + n ≤ 0x10010000
  | .lane _ _, a, n => 0x10000 ≤ a ∧ a + n ≤ 0x12000

/-- The memory that holds it, and where in it an address stands. -/
def ownMem (c : CoreId) (s : State) : SMap Byte :=
  match c with
  | .mill _ => s.dram
  | .tender => s.tnd.mem
  | .deckle => s.dkl.mem
  | .lane _ _ => s.prs.mem

def ownAt : CoreId → Nat → Nat
  | .mill _, a => a - 0x800000000
  | .tender, a => a
  | .deckle, a => a
  | .lane t l, a => 0x40000 * t + 0x20000 + 0x2000 * l + (a - 0x10000)

/-- One byte of it. -/
def dataByte (c : CoreId) (s : State) (a : Nat) : Byte := sget zeroByte (ownMem c s) (ownAt c a)

/-- `s` with core `c`'s data memory, and what a write of DRAM touches besides, as in `t`. -/
def memFrom (c : CoreId) (s t : State) : State :=
  match c with
  | .mill _ => { s with dram := t.dram, dramBad := t.dramBad, pair := { s.pair with dirty := t.pair.dirty } }
  | .tender => { s with tnd := { s.tnd with mem := t.tnd.mem } }
  | .deckle => { s with dkl := { s.dkl with mem := t.dkl.mem } }
  | .lane _ _ => { s with prs := { s.prs with mem := t.prs.mem, lane := t.prs.lane } }

/-- The little-endian value of `n` bytes. -/
def leVal (f : Nat → Byte) (a : Nat) : Nat → Nat
  | 0 => 0
  | n + 1 => (f a).toNat + 256 * leVal f (a + 1) n

/-- No word of DRAM from offset `o` that `n` bytes touch holds an uncorrectable error (R113). -/
def Intact (o n : Nat) (s : State) : Prop :=
  ∀ w, o / 4 ≤ w → 4 * w < o + n → sget (fun _ => false) s.dramBad w = false

/-- A Mill access must be permitted, DRAM powered, and no uncorrectable beat or word in its way (R32, R110, R113, R404). -/
def Open (c : CoreId) (k : AccKind) (a n : Nat) (s : State) : Prop :=
  match c with
  | .mill _ => permitted (s.core c) k a = true ∧ s.domOn 0 = true ∧ s.felt.hit = false ∧ (k = .load → Intact (ownAt c a) n s)
  | _ => True

/-- The words of DRAM that core `c` has written whole hold no error any more; the others are as before. -/
def Mended (c : CoreId) (a n : Nat) (s t : State) : Prop :=
  ∀ w, sget (fun _ => false) t.dramBad w =
    if coreWidth c = 64 ∧ ownAt c a ≤ 4 * w ∧ 4 * w + 4 ≤ ownAt c a + n then false else sget (fun _ => false) s.dramBad w

/-- The address of a load or store (R85, R91). -/
def accAddr (c : CoreId) (s : State) (base : BitVec 6) (off : BitVec 14) : Nat :=
  ((s.core c).g base + sImm c s off).toNat % 2 ^ coreWidth c

/-- A store of the `n` low bytes of `v` at `a` by core `c`: those bytes hold it, every other byte of the memory is unchanged, and the
unit has retired. What else may change: the errors of words written whole, the reservations and event latches of the Mill's other core (R101) and, for pages of the
mirror store, the dirty marks and their count (R367). -/
def Stored (c : CoreId) (a n : Nat) (v : DWord) (s t : State) : Prop :=
  (∀ k, sget zeroByte (ownMem c t) k =
    if ownAt c a ≤ k ∧ k < ownAt c a + n then BitVec.ofNat 8 (v.toNat / 256 ^ (k - ownAt c a)) else sget zeroByte (ownMem c s) k) ∧
  Retired (fun _ => False) c (nextPc c s) s t ∧ SameG c s t ∧ (t.core c).resv = (s.core c).resv ∧
  (∀ o : CoreId, o ≠ c → t.core o = s.core o ∨
    (∃ g, (s.core o).resv = some g ∧ a / 64 ≤ g ∧ g ≤ (a + n - 1) / 64) ∧ t.core o = { s.core o with resv := none, evt := true }) ∧
  (∀ r, pcShown c ≠ some r → r ≠ Reg.PAIR_MST_DIRTY → t.rd r = s.rd r) ∧ SameLanes c s t ∧ Mended c a n s t ∧
  t = { memFrom c s t with cores := t.cores, regs := t.regs, inst := t.inst, freeIdx := t.freeIdx }

/-- The low W bits of a register of core `c`. -/
def gW (c : CoreId) (s : State) (r : BitVec 6) : BitVec (coreWidth c) := ((s.core c).g r).setWidth (coreWidth c)

end Sys2Proof.Machine
end

