-- ==== Sys2Proof/Certificates/Slice0/Obligations.lean ====
section
/-! DEFINITION. The statements about the model, for the provers. -/

open Sys2Proof Sys2Proof.Machine

/-- The addresses that the map does not list (R36, R37). -/
def Unlisted (p : Nat) : Prop :=
  (0x40000 ≤ p ∧ p < 0x40000000) ∨ (0x44000000 ≤ p ∧ p < 0x80000000) ∨ (0x84000000 ≤ p ∧ p < 0xC0000000) ∨
  (0xC0040000 ≤ p ∧ p < 0x200000000) ∨ (0x200860000 ≤ p ∧ p < 0x200900000) ∨ (0x201100000 ≤ p ∧ p < 0x300000000) ∨
  (0x300400000 ≤ p ∧ p < 0x800000000) ∨ 0x870000000 ≤ p

/-- A bus error has been logged (R404): one entry of the stall log, TND_STAT.STALL, the Tender's event, the record of the log. -/
def StallLogged (rq : Requester) (cause dom p : Nat) (s t : State) : Prop :=
  let k := s.bits Reg.TND_STALL_WR 3 0
  t.rdN (Reg.TND_STALL_LOG k 0) = (rq.num + 16 * cause + 256 * dom) % 2 ^ 32 ∧ t.rdN (Reg.TND_STALL_LOG k 1) = p % 2 ^ 32 ∧
  t.rdN (Reg.TND_STALL_LOG k 2) = p / 2 ^ 32 % 2 ^ 32 ∧ t.bits Reg.TND_STALL_WR 3 0 = (k + 1) % 16 ∧ t.bit Reg.TND_STAT 1 = true ∧
  t.bit Reg.TND_TPEND 5 = true ∧ Logged 0 1 1 (rq.num + 16 * cause + 256 * dom) p (p / 2 ^ 32) s t

/-- For every command c and state s, step of s with c at the front of its queue is exec c on s with the queue's rest. (R5.) -/
def Obligations.StepRunsFront : Prop :=
  ∀ (c : Instr) (cs : List Instr) (s : State), step { s with pending := c :: cs } = exec c { s with pending := cs }

/-- Reset: domains OFF, registers at their Reset column, memories in canonical form, the Tender core at 0, no other core
running, nothing queued. (R10, R16, R22, R36, R117, R118, R382.) -/
def Obligations.ResetState : Prop :=
  ((∀ n, n < 14 → State.reset.rdN (Reg.PWR_DC_STAT n) = 0) ∧
  (∀ (a : Nat) (f : RegFam), regFam a = some f → f.base ≠ 0x200210024 → f.base ≠ 0x200210034 → (State.reset.rd a).toNat = f.reset % 2 ^ 32) ∧
  (∀ c : CoreId, (State.reset.core c).run = (if c = .tender then .running else .held) ∧ (State.reset.core c).pc = 0 ∧
    (∀ r, (State.reset.core c).g r = 0) ∧ (State.reset.core c).level = 2 ∧ (State.reset.core c).pfx = none ∧
    (State.reset.core c).resv = none) ∧
  State.reset.pending = [] ∧ State.reset.tnd.supply = .good ∧ State.reset.tnd.bootDue = true) ∧
  (State.reset.wf = true)

/-- Every step keeps the canonical form of registers, DRAM, MRAM, always-on SRAM and boot NOR, whatever the command. (R36.) -/
def Obligations.StepKeepsCanonical : Prop := ∀ s t : State, s.wf = true → step s = .next t → t.wf = true

/-- A register write to a MILL register with no behaviour of its own sets its RW bits, clears its W1C bits written 1 unless an
event set them in the same instant, sets its W1S bits written 1 and changes nothing else; a reserved offset ignores it. A write
of another width or alignment to a window, to an address the map does not list, or below the level R109 asks ends in a bus
error and has no effect. A write of MILL_IRQ_SWI raises its two sources. (R5, R6, R7, R9, R37, R106, R109.) -/
def Obligations.RegisterWrites : Prop :=
  ∀ (rq : Requester) (lvl : Fin 3) (a : BitVec 40) (size : Nat) (v : DWord) (s : State), let p := a.toNat
    let cmd := Instr.registerWrite rq lvl a size v
    let refused := fun t => t = { s with resp := .busError }
    (Unlisted p → After cmd s refused) ∧
    (inWindows p = true → size ≠ 4 ∨ p % 4 ≠ 0 → After cmd s refused) ∧
    (rq = .mill0 ∨ rq = .mill1 → p / 0x100000 = 0x2000 ∨ p / 0x100000 = 0x200f → lvl.val < 2 → After cmd s refused) ∧
    (size = 4 → p % 4 = 0 → 0x201000000 ≤ p → p < 0x201100000 → s.domOn 0 = true →
      (p ≠ Reg.MILL_IRQ_SWI → After cmd s fun t => t = { s with resp := .done, regs := t.regs, inst := t.inst } ∧ RegsBut (· = p) s t ∧
        (regFam p = none → t.rd p = s.rd p) ∧
        ∀ f, regFam p = some f → ∀ i, i < 32 → t.bit p i =
          if fbit f.w1s i && v.getLsbD i then true
          else if fbit f.w1c i && v.getLsbD i then s.bit p i && !wbit (s.atStart p) i
          else if fbit f.rw i then v.getLsbD i else s.bit p i) ∧
      (p = Reg.MILL_IRQ_SWI → After cmd s fun t => t = { s with resp := .done, regs := t.regs, inst := t.inst } ∧
        RegsBut (· = Reg.MILL_IRQ_PEND 3) s t ∧
        ∀ i, i < 32 → t.bit (Reg.MILL_IRQ_PEND 3) i = (s.bit (Reg.MILL_IRQ_PEND 3) i || (decide (30 ≤ i) && v.getLsbD (i - 30)))))

/-- Reads: DRAM bytes, RC fields clear, a moving value may be UNSETTLED; a sleeping domain is woken, the access waits; else,
and after 2 ms, a bus error. (R5, R6, R16, R22, R404, R405.) -/
def Obligations.AccessesThatWait : Prop :=
  (∀ (rq : Requester) (a : BitVec 40) (s : State), let p := a.toNat
    let cmd := Instr.accessStall rq a
    p % 4 = 0 → s.felt.hit = false →
    (0x800000000 ≤ p → p + 4 ≤ 0x870000000 → s.domOn 0 = true → After cmd s fun t =>
      t = { s with resp := .data (BitVec.ofNat 64 (leVal (sget zeroByte s.dram) (p - 0x800000000) 4)) }) ∧
    (0x200000000 ≤ p → p < 0x200100000 → rq = .mill0 → p ≠ Reg.TND_RTC_LO → p ≠ Reg.TND_RTC_HI → p ∉ s.inst.sw → s.rd p ≠ s.atStart p →
      ∀ f, regFam p = some f → f.wo = 0 → f.rc = 0 → After cmd s fun t =>
        let disagree := (Config.freeWord s.freeIdx).getLsbD 0
        t.resp = .data (BitVec.ofNat 64 (if disagree then s.atStart p else s.rd p).toNat) ∧
        (disagree = true → t.bit (Reg.PWR_DC_STAT 0) 8 = true)) ∧
    (0x201000000 ≤ p → p < 0x201100000 → s.domOn 0 = true → rq = .mill0 ∨ rq = .mill1 ∨ s.rd p = s.atStart p →
      ∀ f, regFam p = some f → f.wo = 0 → After cmd s fun t =>
      t = { s with resp := .data (BitVec.ofNat 64 (s.rdN p)), regs := t.regs, inst := t.inst } ∧ RegsBut (· = p) s t ∧
      t.rdN p = if f.rc = 0 then s.rdN p else s.rdN p - (s.atStart p).toNat) ∧
    (∀ d, addrDomain p = some d → d ≠ 14 → s.domOn d = false →
      (s.contained d = true → After cmd s fun t => t.resp = .busError ∧ StallLogged rq 2 d p s t ∧
        t.bits (Reg.PWR_DC_STAT d) 1 0 = s.bits (Reg.PWR_DC_STAT d) 1 0) ∧
      (s.contained d = false → s.bit (Reg.PWR_DC_CTL d) 2 = false → After cmd s fun t => t.resp = .busError ∧
        StallLogged rq 3 d p s t ∧ t.bits (Reg.PWR_DC_STAT d) 1 0 = s.bits (Reg.PWR_DC_STAT d) 1 0) ∧
      (s.contained d = false → s.bit (Reg.PWR_DC_CTL d) 2 = true → After cmd s fun t => t.resp = .stalled ∧
        t.tnd.stalls = s.tnd.stalls ++ [⟨rq, 2, p, d, s.clk, .busRead⟩] ∧
        t.bits (Reg.PWR_DC_STAT d) 1 0 = max 2 (s.bits (Reg.PWR_DC_STAT d) 1 0) ∧ RegsBut (· = Reg.PWR_DC_STAT d) s t ∧ SameMem s t))) ∧
  (∀ (i : Nat) (x : Stall) (s : State), s.tnd.stalls[i]? = some x →
    (s.clk < x.since + 2000000 → NoEffect (.stallTimeout i) s) ∧
    (x.since + 2000000 ≤ s.clk → x.op = .busRead → After (.stallTimeout i) s fun t => t.resp = .busError ∧
      t.tnd.stalls = s.tnd.stalls.eraseIdx i ∧ StallLogged x.rq 1 x.dom x.addr s t ∧
      ∀ n, n < 14 → t.rd (Reg.PWR_DC_STAT n) = s.rd (Reg.PWR_DC_STAT n)) ∧
    (x.since + 2000000 ≤ s.clk → ∀ c1 d n sx va, x.op = .load (if c1 then 1 else 0) d n sx va → (s.core (.mill c1)).ms 10 10 = 0 → After (.stallTimeout i) s fun t =>
      t.tnd.stalls = s.tnd.stalls.eraseIdx i ∧ StallLogged x.rq 1 x.dom x.addr s t ∧
      let k := { s.core (.mill c1) with run := .running }
      t.core (.mill c1) = ((s.setCore (.mill c1) k).takeTrap (.mill c1) Cause.lbus va).core (.mill c1)))

/-- The Felt registers that count and report losses and carried beats. -/
def FeltReport (a : Nat) : Prop := a = Reg.MILL_FELT_STAT ∨ a = Reg.MILL_FELT_LOSS_CNT ∨ a = Reg.MILL_FELT_CORR

/-- The Felt: slot tables applied or refused at the round boundary; slotted messages replaced with one loss, injected,
delivered whole or lost. (R28, R29, R30, R31, R32, R33, R34.) -/
def Obligations.FeltSlots : Prop :=
  ((∀ s : State, s.domOn 0 = true → After .feltApply s fun t => t.bit Reg.MILL_FELT_CTL 1 = true ∧
    RegEffect (· = Reg.MILL_FELT_CTL) s t ∧ t.bit Reg.MILL_FELT_CTL 0 = s.bit Reg.MILL_FELT_CTL 0) ∧
  (∀ s : State, s.domOn 0 = true →
    let station := fun (u : State) n => u.bits (Reg.MILL_FELT_SLOT n) 3 0
    let count := ((List.range 64).filter fun n => station s n ≠ 15).length
    let bad := 48 < count ∨ ∃ n, n < 64 ∧ (station s n = 13 ∨ station s n = 14)
    let kept := fun t => SameMem s t ∧ ∀ a, a ≠ Reg.MILL_FELT_CTL → ¬FeltReport a → (∀ n, n < 64 → a ≠ Reg.MILL_FELT_ACT n) → t.rd a = s.rd a
    After .feltRoundBoundary s (fun t => kept t ∧ t.bit Reg.MILL_FELT_CTL 1 = false ∧
      t.bit Reg.MILL_FELT_CTL 0 = s.bit Reg.MILL_FELT_CTL 0 ∧ t.felt.slotEn = s.bit Reg.MILL_FELT_CTL 0) ∧
    (s.bit Reg.MILL_FELT_CTL 1 = false ∨ bad → After .feltRoundBoundary s fun t =>
      (∀ n, n < 64 → t.rd (Reg.MILL_FELT_ACT n) = s.rd (Reg.MILL_FELT_ACT n)) ∧
      (∀ st ch, st < 13 → ch < 64 → s.bit Reg.MILL_FELT_CTL 0 = true → s.felt.slotEn = false → ownsSlot s st ch = false →
        (t.feltCh st ch).inj = none)) ∧
    (s.bit Reg.MILL_FELT_CTL 1 = true → bad → After .feltRoundBoundary s fun t => t.bit Reg.MILL_FELT_STAT 0 = true) ∧
    (s.bit Reg.MILL_FELT_CTL 1 = true → ¬bad → After .feltRoundBoundary s fun t =>
      (∀ n, n < 64 → t.rd (Reg.MILL_FELT_ACT n) = s.rd (Reg.MILL_FELT_SLOT n)) ∧ t.bits Reg.MILL_FELT_STAT 14 8 = count ∧
      ∀ st ch, st < 13 → ch < 64 → ownsSlot t st ch = false → t.feltCh st ch = feltChIdle))) ∧
  (let lost := fun (s t : State) => t.bit Reg.MILL_FELT_STAT 1 = true ∧
    t.rdN Reg.MILL_FELT_LOSS_CNT = min (s.rdN Reg.MILL_FELT_LOSS_CNT + 1) (2 ^ 32 - 1)
  let only := fun (p : Nat → Prop) (k : Nat) (s t : State) => t = { s with felt := t.felt, regs := t.regs, inst := t.inst } ∧ RegsBut p s t ∧
    t.felt = { s.felt with ch := t.felt.ch, order := t.felt.order } ∧
    ∀ j, j ≠ k → sget (fun _ => feltChIdle) t.felt.ch j = sget (fun _ => feltChIdle) s.felt.ch j
  (∀ (st : Fin 13) (ch : Fin 64) (m : Msg) (s : State), let x := s.feltCh st ch
    (s.domOn 0 = true → s.domOn (stationDomain st) = true → After (.slottedPublish st ch m) s fun t =>
      t.feltCh st ch = ⟨some m, x.inj⟩ ∧ only FeltReport (64 * st.val + ch.val) s t ∧
      if x.pend.isSome then lost s t else t.regs = s.regs) ∧
    (s.domOn 0 = false ∨ s.domOn (stationDomain st) = false → NoEffect (.slottedPublish st ch m) s)) ∧
  (∀ (st : Fin 13) (ch : Fin 64) (s : State), s.domOn 0 = true → let x := s.feltCh st ch
    let go := Instr.mailboxDeliver st ch
    let k := 64 * st.val + ch.val
    (∀ m, x.pend = some m → x.inj = none → ownsSlot s st ch = true → s.felt.slotEn = true → After (go .begins) s fun t =>
      t.feltCh st ch = ⟨none, some m⟩ ∧ only (fun _ => False) k s t) ∧
    (s.felt.slotEn = false ∨ ownsSlot s st ch = false ∨ x.pend = none ∨ x.inj ≠ none → NoEffect (go .begins) s) ∧
    (∀ m, x.inj = some m → After (go .lost) s fun t => t.feltCh st ch = ⟨x.pend, none⟩ ∧ lost s t ∧ only FeltReport k s t) ∧
    (∀ m, x.inj = some m → After (go .uncorrectable) s fun t => t.feltCh st ch = ⟨x.pend, none⟩ ∧ lost s t ∧
      t.bit Reg.MILL_FELT_STAT 2 = true ∧ t.bit Reg.TND_TPEND 0 = true) ∧
    (x.inj = none → NoEffect (go .arrives) s ∧ NoEffect (go .lost) s ∧ After (go .uncorrectable) s fun t => t.felt.hit = true ∧
      t.bit Reg.MILL_FELT_STAT 2 = true ∧ t.bit Reg.TND_TPEND 0 = true ∧ t.felt.ch = s.felt.ch) ∧
    (s.overtakes st ch = true → NoEffect (go .arrives) s) ∧
    After (go .corrected) s (fun t => RegEffect (· = Reg.MILL_FELT_CORR) s t ∧
      t.rdN Reg.MILL_FELT_CORR = min (s.rdN Reg.MILL_FELT_CORR + 1) (2 ^ 32 - 1)) ∧
    (∀ m, x.inj = some m → s.overtakes st ch = false → (∀ d, d < 13 → addressed s d st ch = false) → After (go .arrives) s fun t =>
      t.feltCh st ch = ⟨x.pend, none⟩ ∧ only (fun _ => False) k s t) ∧
    (∀ m (d : Fin 13), x.inj = some m → s.overtakes st ch = false → (∀ e, e < 13 → (addressed s e st ch = true ↔ e = d.val)) → s.domOn (stationDomain d) = false →
      After (go .arrives) s fun t => t.feltCh st ch = ⟨x.pend, none⟩ ∧ lost s t ∧ only FeltReport k s t) ∧
    (∀ m (d : Fin 4), x.inj = some m → s.overtakes st ch = false → m.length ≤ 128 → s.domOn (1 + d.val) = true →
      (∀ e, e < 13 → (addressed s e st ch = true ↔ e = 2 + d.val)) → After (go .arrives) s fun t =>
      t.feltCh st ch = ⟨x.pend, none⟩ ∧ ∀ b, b < 32 → if prsBinds s d b st ch then
          boxOf t d b = { boxOf s d b with msg := some m, fresh := true } ∧
          t.rdN (Reg.PRS_T_RX_CNT d b) = (s.rdN (Reg.PRS_T_RX_CNT d b) + 1) % 2 ^ 32
        else boxOf t d b = boxOf s d b))) ∧
  (∀ (st src : Fin 13) (ch : Fin 64), (0 < st.val ∧ st.val ≤ 5) ∨ 10 ≤ st.val → bindsNow State.reset st src ch = false)

/-- The allocation problem about a job's warm start (R175): three variables for each thruster of the structure table and step, box
bounds, rate limits, soft at step 0 alone, a half-plane for each sector, power rows for each thruster and each group in use. -/
def AllocProblem (s : State) (j : CalJob) (p : AllocQp) : Prop :=
  let ids := structIds s j.d
  let n := dNStep j.d
  let one := cOne true
  let minus := cNeg true one
  p.entries = ids.length ∧ p.steps = n ∧ p.ref.length = 3 * n * ids.length ∧ p.force.length = 3 * n * ids.length ∧
  (∀ r ∈ p.rows, r.soft = true ↔ r.kind = .rate ∧ r.step = 0) ∧ p.slackW = cMul true (cOfInt true 10000) p.rateW ∧
  (∀ (e id k : Nat), ids[e]? = some id → k < n →
    let v := 3 * (n * e + k)
    let num := fun (w : Word) => recast false true w.toNat
    let lim := cMul true (num (thrWord s id 5)) 0x3F947AE147AE147B
    let held := num ((s.lib.applied[3 * id]?).getD 0)
    let rpm := thrBounds s j.d id 0
    let pitch := thrBounds s j.d id 1
    ⟨.rpm, e, k, [(v, one)], num rpm.2, false⟩ ∈ p.rows ∧ ⟨.rpm, e, k, [(v, minus)], cNeg true (num rpm.1), false⟩ ∈ p.rows ∧
    ⟨.pitch, e, k, [(v + 1, one)], num pitch.2, false⟩ ∈ p.rows ∧
    ⟨.pitch, e, k, [(v + 1, minus)], cNeg true (num pitch.1), false⟩ ∈ p.rows ∧
    (0 < k → ⟨.rate, e, k, [(v, one), (v - 3, minus)], lim, false⟩ ∈ p.rows ∧
      ⟨.rate, e, k, [(v, minus), (v - 3, one)], lim, false⟩ ∈ p.rows) ∧
    (k = 0 → ⟨.rate, e, k, [(v, one)], cAdd true held lim, true⟩ ∈ p.rows ∧
      ⟨.rate, e, k, [(v, minus)], cSub true lim held, true⟩ ∈ p.rows) ∧
    (∀ i ∈ [8, 10], thrWord s id i ≠ thrWord s id (i + 1) → ∃ r ∈ p.rows, r.kind = .sector ∧ r.entry = e ∧ r.step = k) ∧
    ∃ r ∈ p.rows, r.kind = .power ∧ r.entry = e ∧ r.step = k ∧ r.soft = false) ∧
  ∀ (g k : Nat), g < 8 → k < n → ((∃ r ∈ p.rows, r.kind = .group ∧ r.entry = g ∧ r.step = k) ↔
    cAbs true (recast false true ((s.lib.record[6 + g]?).getD 0).toNat) ≠ 0 ∧ ∃ id ∈ ids, (thrWord s id 13).toNat = g)

/-- The input block at t0: values in range are taken, a new MODE_REQ is accepted or rejected by the first failing test; the
allocation job and its problem. (R40, R51, R53, R56, R57, R63, R66, R72, R73, R74, R173, R175.) -/
def Obligations.InputBlockAndModes : Prop :=
  (∀ (rec : BitVec 40) (reports : BitVec 24) (first : Option Word) (s : State),
    let raw := inRaw s
    let q := (wAt raw 0).toNat
    let m := q % 8
    let d := if 10 < s.lib.staleRun then 4 else s.bits Reg.FSN_DEGR_STAT 2 0
    let ramps := [8, 9, 10, 11].all fun i => inRange i (wAt raw i)
    let result := if m = 7 then 1 else if m ≤ 1 then 0 else if m = 2 then (if d ≤ 3 then 0 else 2) else if 2 < d then 2
      else if ramps = false then 6 else if m = 4 ∧ bandsOk raw = false then 5
      else if m = 5 ∧ trackOk (trackWords s (dwAt raw 24).toNat) = false then 4
      else if m = 6 ∧ trkState s ((wAt raw 26).toNat % 128) ≠ 2 then 3 else 0
    let takes := (holder s = true ∧ s.pair.cont = none) ∨ (twinNow s = true ∧ s.pair.inBlk ≠ none)
    let untorn := ∀ w, first = some w → w.toNat / 65536 = q / 65536
    let go := Instr.inputBlockSample rec reports first
    (s.domOn 0 = false ∨ fbit s.lib.due 0 = false → NoEffect go s) ∧
    (s.domOn 0 = true → fbit s.lib.due 0 = true → rec.toNat % 64 ≠ 0 →
      After go s (fun t => fbit t.lib.due 0 = false) ∧
      (takes → After go s fun t => ∀ i, i < 128 → wAt t.lib.input i =
        if 12 ≤ i ∧ i ≤ 16 then (if bandsOk raw then wAt raw i else inW s i)
        else if 17 ≤ i ∧ i ≤ 19 then joyOf (wAt raw i)
        else if inRange i (wAt raw i) then wAt raw i else inW s i) ∧
      (takes → untorn → q / 65536 ≠ s.lib.reqSeq → After go s fun t => t.lib.reqSeq = q / 65536 ∧ t.lib.result = result ∧
        (result = 0 → t.lib.mode = m ∧ t.lib.engage = some m ∧ (m ≠ 0 → s.domOn 12 = true → t.bit Reg.UPD_ACT_CTL 1 = false)) ∧ (result ≠ 0 → s.lib.mode ≠ 6 → t.lib.mode = s.lib.mode)) ∧
      (takes → ¬untorn ∨ q / 65536 = s.lib.reqSeq → After go s fun t => t.lib.reqSeq = s.lib.reqSeq ∧ t.lib.result = s.lib.result ∧
        (s.lib.mode ≠ 6 → t.lib.mode = s.lib.mode)) ∧
      (¬takes → After go s fun t => t.lib.input = s.lib.input ∧ t.lib.reqSeq = s.lib.reqSeq) ∧
      (holder s = false → ∀ b i, s.pair.inBlk = some b → i < 128 → (∃ x ∈ b, x ≠ 0) → b.length = 128 → wAt raw i = wAt b i) ∧
      (After go s fun t => t.mram = s.mram ∧ t.nor = s.nor ∧ t.ao = s.ao ∧ t.lib.record = s.lib.record ∧
        t.lib.trackPtr = (if takes then (wAt raw 24).toNat + 2 ^ 32 * (wAt raw 25).toNat else (inD s 24).toNat))) ∧
    (s.domOn 0 = true → fbit s.lib.due 0 = true → rec.toNat % 64 ≠ 0 → After go s fun t =>
      (∀ id, id < 24 → (fbit t.lib.thr id ↔ id ∈ fittedIds s.lib.record ∧ wbit (inW t 20) id = true ∧ fbit reports.toNat id = true)) ∧
      (t.lib.emptySet = true ↔ t.lib.thr = 0) ∧ (t.lib.remap = true ↔ t.lib.thr ≠ s.lib.thr) ∧
      (s.domOn 5 = true → s.lib.record = [] → s.lib.fresh = false → t.lib.qp = none ∧
        ∀ k d, allocSlot s = some (k, d) → t.bit (Reg.CAL_ARM_CFG k) 0 = false ∧ t.lib.unarmed = some k))) ∧
  (∀ (s : State) (j : CalJob), AllocProblem s j (allocQp s j))

/-- Control law, overrun, engagement, hand-over, dead band; command publication, dropped past +18 ms, with the output block
each cycle; the drive-tick loops. (R40, R44, R45, R47, R48, R54, R55, R60, R64, R65, R67, R69.) -/
def Obligations.ControlLawAndCommands : Prop :=
  (∀ (late : Bool) (s : State),
    let go := Instr.controlLaw late
    let est := match s.lib.estNew with | some m => Config.estimate m | none => extrapolate s.lib.est
    let stale := s.lib.estNew == none
    let run := if stale then s.lib.staleRun + 1 else 0
    let lt := fun (x y : Word) => fpLtB f32 x.toNat y.toNat
    let degr := if 10 < run then 4 else s.bits Reg.FSN_DEGR_STAT 2 0
    let ovr := late = true ∨ ∃ (l : Fin 8), l.val < 4 ∧ (s.core (.lane 0 l)).run = .trapped
    (s.domOn 0 = false ∨ s.domOn 1 = false ∨ fbit s.lib.due 3 = false → NoEffect go s) ∧
    (s.domOn 0 = true → s.domOn 1 = true → fbit s.lib.due 3 = true →
      After go s (fun t => t = { s with lib := t.lib } ∧ t.lib.est = est ∧ t.lib.estStale = stale ∧ t.lib.staleRun = run ∧
        t.lib.mode = s.lib.mode ∧ t.lib.input = s.lib.input ∧ t.lib.due = s.lib.due - 8 ∧ t.lib.estNew = none) ∧
      (ovr → After go s fun t =>
        t.lib = { s.lib with est := est, estStale := stale, staleRun := run, due := s.lib.due - 8, estNew := none, lawOvr := true, frz := 7 }) ∧
      (¬ovr →
        (s.lib.mode = 1 → After go s fun t => ∀ i, i < 3 →
          wAt t.lib.demand i = g32M (inW s (17 + i)) (Config.capacity i s.lib.thr s.lib.record)) ∧
        (s.lib.mode = 4 → s.lib.engage = none → After go s fun t =>
          let dev := deviation t.lib.est t.lib.sp
          t.lib.dbActive = if s.lib.dbActive
            then !(lt dev.1 (inW s 13) && lt dev.2 (inW s 15) && decide (s.lib.dbSince + dwellNs s ≤ s.clk))
            else lt (inW s 12) dev.1 || lt (inW s 14) dev.2) ∧
        (3 ≤ s.lib.mode → degr ≤ 2 → s.lib.engage = some s.lib.mode → After go s fun t => t.lib.engage = none ∧ t.lib.sp = est.take 3 ∧
          ∀ i, i < 3 → wAt t.lib.demand i = if s.lib.zeroPub then 0 else wAt s.lib.achieved i) ∧
        (2 ≤ s.lib.mode → degr = 4 → After go s fun t => t.lib.handover = true ∧ ∀ i, i < 3 → wAt t.lib.demand i = wAt s.lib.demand i) ∧
        (s.lib.mode = 0 → After go s fun t => ∀ i, i < 3 →
          wAt t.lib.demand i = rampZero (inW s 22) (Config.capacity i s.lib.thr s.lib.record) (wAt s.lib.demand i))))) ∧
  (∀ s : State, let go := Instr.commandPublication
    let sends := holder s = true ∨ pairMode s ≠ 1 ∨ twinNow s = true
    let zero := s.lib.record = [] ∨ (s.lib.mode = 0 ∧ ∀ d ∈ s.lib.demand, g32Abs d = 0)
    (s.domOn 0 = false ∨ fbit s.lib.due 6 = false → NoEffect go s) ∧
    (s.domOn 0 = true → fbit s.lib.due 6 = true →
      After go s (fun t => t.lib.outSeq = (s.lib.outSeq + 2) % 2 ^ 32 ∧ fbit t.lib.due 6 = false ∧ t.lib.zeroPub = decide zero ∧
        (∀ id j, id < 24 → j < 3 → wAt t.lib.cmd (3 * id + j) =
          if zero ∨ fbit s.lib.thr id = false then (if j = 2 then wAt s.lib.cmd (3 * id + 2) else 0)
          else wAt (s.lib.plan.getD s.lib.applied) (3 * id + j)) ∧
        (inDram libAddr 4096 = true →
          rdz t.dram (Config.libBlock + 0x200) 4 = (s.lib.outSeq + 2) % 2 ^ 32 ∧ rdz t.dram (Config.libBlock + 0x208) 4 = s.lib.k % 2 ^ 32)) ∧
      (¬sends → After go s fun t => t.out = s.out ∧ t.lib.drops = s.lib.drops ∧ t.lib.pubAt = s.lib.pubAt ∧ t.pair.bodies = s.pair.bodies ∧
        t.ply = s.ply) ∧
      (sends → s.lib.t0 + 18000000 < s.ext → After go s fun t => t.lib.drops = s.lib.drops + cmdNodes.length ∧
        t.lib.pubAt = s.lib.pubAt ∧ t.pair.bodies = s.pair.bodies ∧ t.ply = s.ply ∧ t.lib.pubLate = (s.lib.pubLate || !cmdNodes.isEmpty)) ∧
      (sends → s.ext ≤ s.lib.t0 + 18000000 → After go s fun t => t.lib.drops = s.lib.drops ∧
        t.lib.pubAt = if cmdNodes.isEmpty then s.lib.pubAt else s.clk))) ∧
  (∀ (s : State) (id : Nat), id < 24 → (∀ n, n < 5 → s.domOn n = true) → s.lib.record ≠ [] → s.lib.applied ≠ [] →
    let x := sget (fun _ => driveIdle) s.lib.drive id
    let y := sget (fun _ => driveIdle) (s.driveTick).lib.drive id
    match Config.driveTile id with
    | none => y = x
    | some _ =>
      y.rpm = (approach x.rpm (wAt s.lib.applied (3 * id)) (wAt s.lib.record (16 + 16 * id + 5))).1 ∧
      y.pitch = (approach x.pitch (wAt s.lib.applied (3 * id + 1)) (wAt s.lib.record (16 + 16 * id + 6))).1 ∧
      (y.slow = true → y.frozen = true) ∧ (y.frozen = true → y.integ = x.integ) ∧
      (match Config.driveValve id with | some v => bandAtLimit s v.val = true → y.frozen = true | none => True))

/-- An L prefix waits, with its 26 bits, for its successor; the immediate instructions, alone or behind an L prefix where one
may stand. (R78, R80, R81, R82, R84, R85, R90.) -/
def Obligations.PrefixAndImmediates : Prop :=
  (∀ (c : CoreId) (imm : BitVec 26) (s : State), Ready c s → NoPfx c s →
    After (.lPrefix c (0x30#6 ++ imm)) s fun t =>
      (t.core c).pfx = some imm ∧ t.core c = { s.core c with pfx := some imm } ∧ (∀ o, o ≠ c → t.core o = s.core o) ∧
      t = { s with cores := t.cores }) ∧
  (∀ (c : CoreId) (d a : BitVec 6) (imm : BitVec 14) (s : State), Ready c s → HasReg c d → HasReg c a →
    let w := coreWidth c
    let x := gW c s a
    let i : BitVec (coreWidth c) := (sImm c s imm).setWidth _
    let u : BitVec (coreWidth c) := (uImm c s imm).setWidth _
    let put := fun (v : BitVec (coreWidth c)) => Wrote c d (v.setWidth 64) s
    After (.addi c d a imm) s (put (x + i)) ∧
    After (.andi c d a imm) s (put (x &&& u)) ∧
    After (.ori c d a imm) s (put (x ||| u)) ∧
    After (.xori c d a imm) s (put (x ^^^ u)) ∧
    After (.slti c d a imm) s (put (if x.toInt < i.toInt then 1 else 0)) ∧
    After (.sltiu c d a imm) s (put (if x.toNat < i.toNat then 1 else 0)) ∧
    (NoPfx c s → imm.toNat < w → After (.shli c d a imm) s (put (x <<< imm.toNat)) ∧
      After (.shri c d a imm) s (put (x >>> imm.toNat)) ∧
      After (.srai c d a imm) s (put (BitVec.ofInt _ (x.toInt / 2 ^ imm.toNat)))) ∧
    (w = 64 → After (.lih c d a imm) s (Wrote c d ((sImm c s imm <<< 24) ||| ((s.core c).g a &&& 0xFFFFFF)) s) ∧
      After (.addiw c d a imm) s (Wrote c d ((((s.core c).g a + sImm c s imm).setWidth 32).signExtend 64) s)) ∧
    (a = 0 → After (.addpc c d a imm) s (Wrote c d ((s.core c).pc + sImm c s imm) s)))

/-- The one-cycle ALU instructions write the W-bit result of the R87 table to d at every level, and nothing else changes. (R77,
R80, R87.) -/
def Obligations.AluResults : Prop :=
  ∀ (c : CoreId) (d a b : BitVec 6) (s : State), Ready c s → NoPfx c s → HasReg c d → HasReg c a → HasReg c b →
    let x := gW c s a
    let y := gW c s b
    let n := y.toNat % coreWidth c
    let put := fun (v : BitVec (coreWidth c)) => Wrote c d (v.setWidth 64) s
    After (.add c d a b) s (put (x + y)) ∧
    After (.sub c d a b) s (put (x - y)) ∧
    After (.and c d a b) s (put (x &&& y)) ∧
    After (.or c d a b) s (put (x ||| y)) ∧
    After (.xor c d a b) s (put (x ^^^ y)) ∧
    After (.andn c d a b) s (put (x &&& ~~~y)) ∧
    After (.shl c d a b) s (put (x <<< n)) ∧
    After (.shr c d a b) s (put (x >>> n)) ∧
    After (.sra c d a b) s (put (BitVec.ofInt _ (x.toInt / 2 ^ n))) ∧
    After (.slt c d a b) s (put (if x.toInt < y.toInt then 1 else 0)) ∧
    After (.sltu c d a b) s (put (if x.toNat < y.toNat then 1 else 0)) ∧
    After (.min c d a b) s (put (if x.toInt < y.toInt then x else y)) ∧
    After (.max c d a b) s (put (if x.toInt < y.toInt then y else x)) ∧
    After (.minu c d a b) s (put (if x.toNat < y.toNat then x else y)) ∧
    After (.maxu c d a b) s (put (if x.toNat < y.toNat then y else x)) ∧
    After (.cmov c d a b) s (put (if y = 0 then gW c s d else x)) ∧
    (b = 0 → After (.clz c d a b) s fun t => ∃ k ≤ coreWidth c, put (BitVec.ofNat _ k) t ∧ x.toNat < 2 ^ (coreWidth c - k) ∧
      (k < coreWidth c → 2 ^ (coreWidth c - k - 1) ≤ x.toNat)) ∧
    (b = 0 → After (.ctz c d a b) s fun t => ∃ k ≤ coreWidth c, put (BitVec.ofNat _ k) t ∧ (∀ i < k, x.getLsbD i = false) ∧
      (k < coreWidth c → x.getLsbD k = true)) ∧
    (b = 0 → After (.popc c d a b) s (put (BitVec.ofNat _ ((List.range (coreWidth c)).filter x.getLsbD).length)))

/-- Products and quotients for every operand value, the zero divisor and the signed overflow among them: no trap, no flag.
(R87, R88.) -/
def Obligations.MultiplyDivideResults : Prop :=
  ∀ (c : CoreId) (d a b : BitVec 6) (s : State), Ready c s → NoPfx c s → HasReg c d → HasReg c a → HasReg c b →
    let w := coreWidth c
    let x := gW c s a
    let y := gW c s b
    let put := fun (v : BitVec (coreWidth c)) => Wrote c d (v.setWidth 64) s
    After (.mul c d a b) s (put (BitVec.ofNat _ (x.toNat * y.toNat))) ∧
    After (.mulh c d a b) s (put (BitVec.ofInt _ (x.toInt * y.toInt / 2 ^ w))) ∧
    After (.mulhu c d a b) s (put (BitVec.ofNat _ (x.toNat * y.toNat / 2 ^ w))) ∧
    After (.mulhsu c d a b) s (put (BitVec.ofInt _ (x.toInt * y.toNat / 2 ^ w))) ∧
    After (.div c d a b) s (put (if y = 0 then -1 else if x.toInt = -2 ^ (w - 1) ∧ y.toInt = -1 then x else
      BitVec.ofInt _ (x.toInt.tdiv y.toInt))) ∧
    After (.divu c d a b) s (put (if y = 0 then BitVec.ofNat _ (2 ^ w - 1) else BitVec.ofNat _ (x.toNat / y.toNat))) ∧
    After (.rem c d a b) s (put (if y = 0 then x else if x.toInt = -2 ^ (w - 1) ∧ y.toInt = -1 then 0 else
      BitVec.ofInt _ (x.toInt.tmod y.toInt))) ∧
    After (.remu c d a b) s (put (if y = 0 then x else BitVec.ofNat _ (x.toNat % y.toNat)))

/-- ALUW: ten functions on the low words, sign-extended; any other fn, and any level but FQ-M, raises ILLEGAL. (R89.) -/
def Obligations.AluwOnLowWords : Prop :=
  ∀ (c : CoreId) (d a b : BitVec 6) (fn : BitVec 8) (s : State), Ready c s → NoPfx c s →
    let x := ((s.core c).g a).setWidth 32
    let y := ((s.core c).g b).setWidth 32
    let n := y.toNat % 32
    let f : Nat → Option (BitVec 32) := fun i =>
      if i = 0x00 then some (x + y)
      else if i = 0x01 then some (x - y)
      else if i = 0x06 then some (x <<< n)
      else if i = 0x07 then some (x >>> n)
      else if i = 0x08 then some (x.sshiftRight n)
      else if i = 0x10 then some (x * y)
      else if i = 0x14 then some (if y = 0 then -1 else BitVec.ofInt 32 (x.toInt.tdiv y.toInt))
      else if i = 0x15 then some (if y = 0 then -1 else BitVec.ofNat 32 (x.toNat / y.toNat))
      else if i = 0x16 then some (if y = 0 then x else BitVec.ofInt 32 (x.toInt.tmod y.toInt))
      else if i = 0x17 then some (if y = 0 then x else BitVec.ofNat 32 (x.toNat % y.toNat))
      else none
    match f fn.toNat, c with
    | some v, .mill _ => After (.aluw c d a b fn) s (Wrote c d (v.signExtend 64) s)
    | _, _ => After (.aluw c d a b fn) s fun t => t = s.takeTrap c 0 (wordA 0x02 d a b fn.toNat)

/-- BR goes to the unit address plus 4 times its offset exactly when its condition holds; conditions 8 to 15 are ILLEGAL. (R82,
R85, R93.) -/
def Obligations.BranchConditions : Prop :=
  ∀ (c : CoreId) (cond : BitVec 4) (a b : BitVec 6) (off : BitVec 10) (s : State), Ready c s → HasReg c a → HasReg c b →
    let x := gW c s a
    let y := gW c s b
    let holds : Option Bool :=
      if cond = 0 then some (decide (x = y))
      else if cond = 1 then some (decide (x ≠ y))
      else if cond = 2 then some (decide (x.toInt < y.toInt))
      else if cond = 3 then some (decide (y.toInt ≤ x.toInt))
      else if cond = 4 then some (decide (x.toNat < y.toNat))
      else if cond = 5 then some (decide (y.toNat ≤ x.toNat))
      else if cond = 6 then some (decide (x &&& y ≠ 0))
      else if cond = 7 then some (decide (x &&& y = 0))
      else none
    match holds with
    | some true => After (.br c cond a b off) s (WentTo c ((s.core c).pc + brOff c s off).toNat s)
    | some false => After (.br c cond a b off) s (WentTo c (nextPc c s) s)
    | none => After (.br c cond a b off) s fun t => t = s.takeTrap c 0 ((s.core c).firstWord (wordB 0x20 cond a b off))

/-- J, JL and JR: targets, return addresses, and IALIGN for a misaligned JR target, which writes nothing. (R94.) -/
def Obligations.JumpTargets : Prop :=
  (∀ (c : CoreId) (off : BitVec 26) (s : State), Ready c s → NoPfx c s →
    let pc := (s.core c).pc
    After (.j c off) s (WentTo c (pc + 4 * off.signExtend 64).toNat s) ∧
    After (.jl c off) s (WroteAt c 1 (pc + 4) (pc + 4 * off.signExtend 64).toNat s)) ∧
  ∀ (c : CoreId) (d a : BitVec 6) (imm : BitVec 14) (s : State), Ready c s → HasReg c d → HasReg c a →
    let target := ((s.core c).g a + sImm c s imm).toNat % 2 ^ coreWidth c
    let back := (s.core c).pc + if (s.core c).pfx = none then 4 else 8
    if target % 4 = 0 then After (.jr c d a imm) s (WroteAt c d back target s)
    else After (.jr c d a imm) s fun t => t = s.takeTrap c 1 target ∧ SameG c s t

/-- Aligned loads from a core's own data memory: the little-endian value, sign- or zero-extended to W. (R36, R80, R85, R91,
R126, R296, R382.) -/
def Obligations.LoadResults : Prop :=
  ∀ (c : CoreId) (d base : BitVec 6) (off : BitVec 14) (s : State), Ready c s → HasReg c d → HasReg c base →
    let a := accAddr c s base off
    let ok := fun n => a % n = 0 ∧ Within c a n ∧ Open c .load a n s
    let v := leVal (dataByte c s) a
    (ok 1 → After (.ldb c d base off) s (Wrote c d ((BitVec.ofNat 8 (v 1)).signExtend 64) s) ∧
      After (.ldbu c d base off) s (Wrote c d (BitVec.ofNat 64 (v 1)) s)) ∧
    (ok 2 → After (.ldh c d base off) s (Wrote c d ((BitVec.ofNat 16 (v 2)).signExtend 64) s) ∧
      After (.ldhu c d base off) s (Wrote c d (BitVec.ofNat 64 (v 2)) s)) ∧
    (ok 4 → After (.ldw c d base off) s (Wrote c d ((BitVec.ofNat 32 (v 4)).signExtend 64) s)) ∧
    (ok 4 → coreWidth c = 64 → After (.ldwu c d base off) s (Wrote c d (BitVec.ofNat 64 (v 4)) s)) ∧
    (ok 8 → coreWidth c = 64 → After (.ldd c d base off) s (Wrote c d (BitVec.ofNat 64 (v 8)) s))

/-- Aligned stores to a core's own data memory: the low bytes of d at the address, and every other byte as before. (R36, R80,
R91, R101, R126, R296, R367, R382.) -/
def Obligations.StoreEffects : Prop :=
  ∀ (c : CoreId) (d base : BitVec 6) (off : BitVec 14) (s : State), Ready c s → HasReg c d → HasReg c base →
    let a := accAddr c s base off
    let ok := fun n => a % n = 0 ∧ Within c a n ∧ Open c .store a n s
    let v := (s.core c).g d
    (ok 1 → After (.stb c d base off) s (Stored c a 1 v s)) ∧
    (ok 2 → After (.sth c d base off) s (Stored c a 2 v s)) ∧
    (ok 4 → After (.stw c d base off) s (Stored c a 4 v s)) ∧
    (ok 8 → coreWidth c = 64 → After (.std c d base off) s (Stored c a 8 v s))

/-- A misaligned access, one that nothing answers, one that meets an uncorrectable error: a trap with the access address and no
effect of its own. (R32, R92, R111, R113.) -/
def Obligations.AccessTraps : Prop :=
  ∀ (c : CoreId) (d base : BitVec 6) (off : BitVec 14) (s : State), Ready c s → HasReg c d → HasReg c base →
    let a := accAddr c s base off
    (a % 2 ≠ 0 → After (.ldh c d base off) s (fun t => t = s.takeTrap c 6 a) ∧ After (.ldhu c d base off) s (fun t => t = s.takeTrap c 6 a) ∧
      After (.sth c d base off) s (fun t => t = s.takeTrap c 7 a)) ∧
    (a % 4 ≠ 0 → After (.ldw c d base off) s (fun t => t = s.takeTrap c 6 a) ∧ After (.stw c d base off) s (fun t => t = s.takeTrap c 7 a)) ∧
    (a % 8 ≠ 0 → coreWidth c = 64 → After (.ldd c d base off) s (fun t => t = s.takeTrap c 6 a) ∧
      After (.std c d base off) s (fun t => t = s.takeTrap c 7 a)) ∧
    (∀ b, c = .mill b → Within c a 8 → s.domOn 0 = true →
      (permitted (s.core c) .load a = true → s.felt.hit = false → sget (fun _ => false) s.dramBad (ownAt c a / 4) = true →
        a % 4 = 0 → After (.ldw c d base off) s fun t => t = s.takeTrap c 12 a) ∧
      (s.felt.hit = true → a % 4 = 0 → let u := { s with felt := { s.felt with hit := false } }
        (permitted (s.core c) .load a = true → After (.ldw c d base off) s fun t => t = u.takeTrap c 10 a) ∧
        (permitted (s.core c) .store a = true → After (.stw c d base off) s fun t => t = u.takeTrap c 11 a))) ∧
    (a % 4 = 0 → (∀ b, c = .mill b → (s.core c).level = 2 ∧ 0x870000000 ≤ a) → (c = .tender → 0x50000000 ≤ a ∧ a < 0x80000000) →
      (c = .deckle → 0x50001000 ≤ a) → (∀ x l, c = .lane x l → 0x60004 ≤ a) →
      After (.ldw c d base off) s (fun t => t = s.takeTrap c 10 a) ∧ After (.stw c d base off) s (fun t => t = s.takeTrap c 11 a))

/-- LDX reserves its granule; STX stores and answers 0 where it is still reserved, else 1; another agent's write to the granule
clears it. (R100, R101, R107.) -/
def Obligations.Reservations : Prop :=
  (∀ (core1 : Bool) (d a b : BitVec 6) (s : State), let c := CoreId.mill core1
    Ready c s → NoPfx c s →
    let p := ((s.core c).g a).toNat
    let ok := fun (k : AccKind) n => p % n = 0 ∧ Within c p n ∧ permitted (s.core c) k p = true ∧ s.felt.hit = false ∧
      (k = .load → Intact (ownAt c p) n s)
    let granule := p / 64
    let quiet := fun (v : DWord) (t : State) => Retired (fun _ => False) c (nextPc c s) s t ∧ Gets c d v s t ∧ OnlyCore c s t
    (b = 0 → ok .load 4 → After (.ldxW c d a b) s fun t => (t.core c).resv = some granule ∧
      quiet ((BitVec.ofNat 32 (leVal (dataByte c s) p 4)).signExtend 64) t) ∧
    (b = 0 → ok .load 8 → After (.ldxD c d a b) s fun t => (t.core c).resv = some granule ∧
      quiet (BitVec.ofNat 64 (leVal (dataByte c s) p 8)) t) ∧
    (ok .store 4 → (s.core c).resv ≠ some granule → After (.stxW c d a b) s fun t => (t.core c).resv = none ∧ quiet 1 t) ∧
    (ok .store 8 → (s.core c).resv ≠ some granule → After (.stxD c d a b) s fun t => (t.core c).resv = none ∧ quiet 1 t) ∧
    (ok .store 4 → (s.core c).resv = some granule → After (.stxW c d a b) s fun t => (t.core c).resv = none ∧ Gets c d 0 s t ∧
      (∀ k, sget zeroByte t.dram k = if ownAt c p ≤ k ∧ k < ownAt c p + 4 then
        BitVec.ofNat 8 (((s.core c).g b).toNat / 256 ^ (k - ownAt c p)) else sget zeroByte s.dram k) ∧
      Retired (fun _ => False) c (nextPc c s) s t ∧ Mended c p 4 s t) ∧
    (ok .store 8 → (s.core c).resv = some granule → After (.stxD c d a b) s fun t => (t.core c).resv = none ∧ Gets c d 0 s t ∧
      (∀ k, sget zeroByte t.dram k = if ownAt c p ≤ k ∧ k < ownAt c p + 8 then
        BitVec.ofNat 8 (((s.core c).g b).toNat / 256 ^ (k - ownAt c p)) else sget zeroByte s.dram k) ∧
      Retired (fun _ => False) c (nextPc c s) s t ∧ Mended c p 8 s t) ∧
    (p % 8 ≠ 0 → After (.stxD c d a b) s fun t => t = s.takeTrap c 7 p)) ∧
  (∀ (agent : CoreId) (dma : Bool) (addr : BitVec 40) (s : State),
    After (.reservationClear agent dma addr) s fun t =>
      (∀ b : Bool, t.core (.mill b) =
        if (s.core (.mill b)).resv = some (addr.toNat / 64) ∧ (dma = true ∨ agent ≠ .mill b)
        then { s.core (.mill b) with resv := none, evt := true } else s.core (.mill b)) ∧
      (∀ o : CoreId, (∀ b, o ≠ .mill b) → t.core o = s.core o) ∧ t = { s with cores := t.cores })

/-- Floating-point arithmetic in both formats and every rounding mode, its flags and its NaN operands: results to d, flags
added to FPCSR. (R80, R95, R96, R97, R98.) -/
def Obligations.FpArithmetic : Prop :=
  (∀ (c : CoreId) (d a b : BitVec 6) (p : Bool) (rm : BitVec 3) (s : State), Ready c s → NoPfx c s → HasReg c d → HasReg c a →
    HasReg c b → c ≠ .tender → c ≠ .deckle → (p = true → coreWidth c = 64) → rm.toNat < 5 →
    let f := if p then f64 else f32
    let r := if rm = 0 then fget ((s.core c).srN 0) 6 5 else rm.toNat - 1
    let x := fun q => if p then ((s.core c).g q).toNat else ((s.core c).g q).toNat % 2 ^ 32
    let put := fun v => WroteFp c d v s
    After (.fadd c d a b p rm) s (put (fpAdd f r (x a) (x b))) ∧
    After (.fsub c d a b p rm) s (put (fpSub f r (x a) (x b))) ∧
    After (.fmul c d a b p rm) s (put (fpMul f r (x a) (x b))) ∧
    After (.fdiv c d a b p rm) s (put (fpDiv f r (x a) (x b))) ∧
    (b = 0 → After (.fsqrt c d a b p rm) s (put (fpSqrt f r (x a)))) ∧
    After (.fmadd c d a b p rm) s (put (fpFma f r false (x d) (x a) (x b))) ∧
    After (.fmsub c d a b p rm) s (put (fpFma f r true (x d) (x a) (x b)))) ∧
  (∀ (p : Bool) (r x y d : Nat), let f := if p then f64 else f32
    let nan := if p then 0x7FF8000000000000 else 0x7FC00000
    let signalling := fun v => isNan f v && !fbit v (f.mb - 1)
    let nv := fun (b : Bool) => if b then 16 else 0
    (isNan f x = true ∨ isNan f y = true →
      fpAdd f r x y = (nan, nv (signalling x || signalling y)) ∧ fpSub f r x y = (nan, nv (signalling x || signalling y)) ∧
      fpMul f r x y = (nan, nv (signalling x || signalling y)) ∧ fpDiv f r x y = (nan, nv (signalling x || signalling y)) ∧
      fpEqB f x y = false ∧ fpLtB f x y = false ∧ fpLeB f x y = false ∧
      (fpMinMax f false x y).1 = (if isNan f x then (if isNan f y then nan else y) else x) ∧
      (fpMinMax f true x y).1 = (if isNan f x then (if isNan f y then nan else y) else x)) ∧
    (isNan f x = true → fpSqrt f r x = (nan, nv (signalling x))) ∧
    (isNan f x = true ∨ isNan f y = true ∨ isNan f d = true → (fpFma f r false d x y).1 = nan ∧ (fpFma f r true d x y).1 = nan))

/-- Floating-point minimum, maximum, compares, sign operations, class and conversions; selectors and formats a level lacks are
ILLEGAL. (R80, R95, R96, R98, R99.) -/
def Obligations.FpCompareConvert : Prop :=
  ∀ (c : CoreId) (d a b : BitVec 6) (p : Bool) (s : State), Ready c s → NoPfx c s → HasReg c d → HasReg c a →
    c ≠ .tender → c ≠ .deckle → (p = true → coreWidth c = 64) →
    let f := if p then f64 else f32
    let x := fun q => if p then ((s.core c).g q).toNat else ((s.core c).g q).toNat % 2 ^ 32
    let put := fun v => WroteFp c d v s
    let magA := x a % 2 ^ (f.eb + f.mb)
    let signB := decide (2 ^ (f.eb + f.mb) ≤ x b % 2 ^ (1 + f.eb + f.mb))
    (HasReg c b →
      After (.fmin c d a b p 0) s (put (fpMinMax f false (x a) (x b))) ∧
      After (.fmax c d a b p 0) s (put (fpMinMax f true (x a) (x b))) ∧
      After (.feq c d a b p 0) s (put (if fpEqB f (x a) (x b) then 1 else 0, snanFlag f [x a, x b])) ∧
      After (.flt c d a b p 0) s (put (if fpLtB f (x a) (x b) then 1 else 0, nanFlag f (x a) (x b))) ∧
      After (.fle c d a b p 0) s (put (if fpLeB f (x a) (x b) then 1 else 0, nanFlag f (x a) (x b))) ∧
      After (.fsgnj c d a b p 0) s (put (magA + (if signB then 2 ^ (f.eb + f.mb) else 0), 0)) ∧
      After (.fsgnjn c d a b p 0) s (put (magA + (if signB then 0 else 2 ^ (f.eb + f.mb)), 0))) ∧
    (b = 0 → After (.fclass c d a b p 0) s (put (fpClass f (x a), 0))) ∧
    (∀ rm : BitVec 3, rm.toNat < 5 →
      let r := if rm = 0 then fget ((s.core c).srN 0) 6 5 else rm.toNat - 1
      let lim := if coreWidth c = 64 then 9 else 4
      if b.toNat < lim then After (.fcvt c d a b p rm) s (put (fcvt (coreWidth c) p r b.toNat ((s.core c).g a)))
      else After (.fcvt c d a b p rm) s fun t => t = s.takeTrap c 0 (wordA 0x03 d a b (b2n p * 128 + rm.toNat * 16 + 14)))

/-- State registers: what GETS reads, which bits PUTS, SSET and SCLR change, PRIV above the current level. (R106, R109, R110,
R117.) -/
def Obligations.StateRegisterAccess : Prop :=
  ∀ (c : CoreId) (d a : BitVec 6) (imm : BitVec 14) (s : State), Ready c s → NoPfx c s → HasReg c d → HasReg c a →
    let n := imm.toNat
    let mill := coreWidth c = 64
    let k := s.core c
    let home := if n = 0x1000 then 0x2000 else n
    let old := BitVec.ofNat 64 (k.srN home)
    let x := k.g a
    let seen : BitVec 64 :=
      if n = 3 then BitVec.ofNat 64 c.num
      else if n = 0x1000 then old &&& 0x254
      else if n = 0x2007 then BitVec.ofNat 64 (mip s c)
      else if n = 0x2000 ∧ ¬mill then old &&& 0x42B
      else old
    let mask : BitVec 64 → BitVec 64 := fun v =>
      if n = 0 then 0x7F
      else if n = 0x1000 then 0x254
      else if n = 0x1001 ∨ n = 0x1002 ∨ n = 0x2001 ∨ n = 0x2002 then ~~~3
      else if n = 0x2000 then (if ¬mill then 0x428 else if v &&& 0x180 = 0x180 then 0xE7C else 0xFFC)
      else if n = 0x2006 then (if mill then 3 else 2)
      else if 0x2010 ≤ n then (if n % 2 = 0 then 0xFFFFFFF000 else 0xFFFFFFF0FF)
      else ~~~0
    let put := fun v => (old &&& ~~~(mask v)) ||| (v &&& mask v)
    let locked := 0x2010 ≤ n ∧ (k.srN (n / 2 * 2 + 1)).testBit 7 = true
    srExists c n = true →
    (mill → k.level < n / 4096 →
      (a = 0 → After (.gets c d a imm) s fun t => t = s.takeTrap c 5 (wordI 0x28 d a imm)) ∧
      (d = 0 → srReadOnly n = false → After (.puts c d a imm) s fun t => t = s.takeTrap c 5 (wordI 0x29 d a imm))) ∧
    ((mill → n / 4096 ≤ k.level) →
      (a = 0 → After (.gets c d a imm) s (Wrote c d seen s)) ∧
      (srReadOnly n = true → d = 0 → After (.puts c d a imm) s fun t => t = s.takeTrap c 0 (wordI 0x29 d a imm)) ∧
      (srReadOnly n = false → locked → d = 0 → After (.puts c d a imm) s (WentTo c (nextPc c s) s)) ∧
      (srReadOnly n = false → ¬locked → n ≠ 0x2008 →
        (d = 0 → After (.puts c d a imm) s (WroteSr c home (put x).toNat s)) ∧
        ((∀ t l, c ≠ .lane t l) →
          After (.sset c d a imm) s (fun t => WroteSr c home (put (seen ||| x)).toNat s t ∧ Gets c d seen s t) ∧
          After (.sclr c d a imm) s (fun t => WroteSr c home (put (seen &&& ~~~x)).toNat s t ∧ Gets c d seen s t))) ∧
      (n = 0x2008 → d = 0 → After (.puts c d a imm) s fun t => ∀ i, i < 15 → ((t.core c).srN 0x2008).testBit i = x.getLsbD i))

/-- TRAP and BREAK enter the level R112 gives, saving what R111 says; RTE restores it; a synchronous trap under MTRAP stops a
Mill core. (R105, R111, R112, R113.) -/
def Obligations.TrapAndReturn : Prop :=
  (∀ (core1 : Bool) (imm : BitVec 14) (s : State), let c := CoreId.mill core1
    Ready c s → NoPfx c s →
    let k := s.core c
    let to1 := fun n => decide (k.level < 2) && (k.srN 0x2008).testBit n && k.ms 9 9 == 0
    let x := fun n => if to1 n then 1 else 2
    (x 13 = 1 ∨ k.ms 10 10 = 0 → After (.trap c 0 0 imm) s fun t => Entered c (x 13) 13 imm.toNat s t ∧ OnlyCore c s t) ∧
    (x 14 = 1 ∨ k.ms 10 10 = 0 → After (.brk c 0 0 0) s fun t => Entered c (x 14) 14 0 s t ∧ OnlyCore c s t) ∧
    (x 13 = 2 → k.ms 10 10 = 1 → After (.trap c 0 0 imm) s fun t => (t.core c).run = .stopped ∧ t.bit Reg.TND_TPEND 0 = true ∧
      Logged 1 3 9 (b2n core1) 13 (k.srN 0x2002 % 2 ^ 32) s t)) ∧
  (∀ (imm : BitVec 14) (s : State), let c := CoreId.tender
    Ready c s → NoPfx c s → (s.core c).level = 2 → (s.core c).ms 10 10 = 0 →
    After (.trap c 0 0 imm) s (fun t => Entered c 2 13 imm.toNat s t ∧ OnlyCore c s t) ∧
    After (.brk c 0 0 0) s (fun t => Entered c 2 14 0 s t ∧ OnlyCore c s t)) ∧
  (∀ (imm : BitVec 14) (s : State), let c := CoreId.deckle
    Ready c s → NoPfx c s → s.bits Reg.DKL_STATE 1 0 ≠ 2 →
    let counted := fun t : State => (t.core c).srN 1 = ((s.core c).srN 1 + 6) % 2 ^ 32
    After (.trap c 0 0 imm) s (fun t => t.bits Reg.DKL_STATE 1 0 = 2 ∧ t.bits Reg.DKL_STATE 7 4 = 9 ∧ counted t) ∧
    After (.brk c 0 0 0) s (fun t => t.bits Reg.DKL_STATE 1 0 = 2 ∧ t.bits Reg.DKL_STATE 7 4 = 9 ∧ counted t)) ∧
  (∀ (core1 : Bool) (s : State), let c := CoreId.mill core1
    Ready c s → NoPfx c s →
    let k := s.core c
    (k.level = 2 → After (.rte c 0 0 0) s fun t =>
      (t.core c).level = k.ms 8 7 ∧ (t.core c).ms 3 3 = k.ms 5 5 ∧ (t.core c).ms 10 10 = 0 ∧ (t.core c).pc.toNat = k.srN 0x2002 ∧
      (t.core c).resv = none ∧ SameG c s t ∧ OnlyCore c s t ∧
      (∀ n, n ≠ 1 → n ≠ 2 → n ≠ 0x2000 → (t.core c).srN n = k.srN n)) ∧
    (k.level = 1 → After (.rte c 0 0 0) s fun t =>
      (t.core c).level = k.ms 6 6 ∧ (t.core c).ms 2 2 = k.ms 4 4 ∧ (t.core c).ms 9 9 = 0 ∧ (t.core c).pc.toNat = k.srN 0x1002 ∧
      (t.core c).resv = none ∧ SameG c s t ∧ OnlyCore c s t ∧
      (∀ n, n ≠ 1 → n ≠ 2 → n ≠ 0x2000 → (t.core c).srN n = k.srN n)) ∧
    (k.level = 0 → After (.rte c 0 0 0) s fun t => t = s.takeTrap c 5 (wordA 0x2D 0 0 0 4))) ∧
  (∀ s : State, let c := CoreId.tender
    Ready c s → NoPfx c s → (s.core c).level = 2 → After (.rte c 0 0 0) s fun t =>
      (t.core c).level = 2 ∧ (t.core c).ms 3 3 = (s.core c).ms 5 5 ∧ (t.core c).ms 10 10 = 0 ∧
      (t.core c).pc.toNat = (s.core c).srN 0x2002 % 2 ^ 32 ∧ OnlyCore c s t)

/-- FENCE and FENCE.I retire; SEV sets both event latches; WAIT completes at once, suspends, and wakes with the mask of what
holds. (R104, R105, R107, R108.) -/
def Obligations.EventsAndFences : Prop :=
  (∀ (c : CoreId) (s : State), Ready c s → NoPfx c s →
    After (.fence c 0 0 0) s (WentTo c (nextPc c s) s) ∧
    (coreWidth c = 64 → After (.fenceI c 0 0 0) s (WentTo c (nextPc c s) s)) ∧
    (coreWidth c ≠ 64 → After (.fenceI c 0 0 0) s fun t => t = s.takeTrap c 0 (wordA 0x2D 0 0 0 1)) ∧
    (c = .tender ∨ c = .deckle → After (.sev c 0 0 0) s (WentTo c (nextPc c s) s)) ∧
    (∀ core1, c = .mill core1 → After (.sev c 0 0 0) s fun t => (∀ b, (t.core (.mill b)).evt = true) ∧
      Retired (fun _ => False) c (nextPc c s) s t ∧ (∀ b, SameG (.mill b) s t) ∧ (∀ o, (∀ b, o ≠ .mill b) → t.core o = s.core o) ∧
      t = { s with cores := t.cores, freeIdx := t.freeIdx })) ∧
  (∀ (c : CoreId) (d a : BitVec 6) (s : State), Ready c s → NoPfx c s → HasReg c d → HasReg c a → (∀ t l, c ≠ .lane t l) →
    let k := s.core c
    let m := b2n (coreWidth c == 64 && k.evt) + 2 * b2n (decide (mip s c &&& k.srN 0x2006 ≠ 0))
    (coreWidth c = 64 → k.level < 2 → k.ms 11 11 = 1 → After (.wait c d a 0) s fun t => t = s.takeTrap c 5 (wordA 0x2D d a 0 2)) ∧
    (¬(coreWidth c = 64 ∧ k.level < 2 ∧ k.ms 11 11 = 1) →
      (m = 0 → After (.wait c d a 0) s fun t => t = s.setCore c { k with run := .waiting d s.clk (k.g a).toNat }) ∧
      (m ≠ 0 → After (.wait c d a 0) s fun t => Retired (fun _ => False) c (nextPc c s) s t ∧ Gets c d (BitVec.ofNat 64 m) s t ∧
        (t.core c).evt = false ∧ OnlyCore c s t))) ∧
  (∀ (c : CoreId) (d : BitVec 6) (since tmo : Nat) (s : State), (∀ t l, c ≠ .lane t l) → (s.core c).run = .waiting d since tmo →
    let k := s.core c
    let m := b2n (coreWidth c == 64 && k.evt) + 2 * b2n (decide (mip s c &&& k.srN 0x2006 ≠ 0)) +
      4 * b2n (decide (tmo ≠ 0 ∧ tmo ≤ cyclesIn c (s.clk - since)))
    (m ≠ 0 → After (.waitWake c) s fun t => (t.core c).run = .running ∧ (t.core c).evt = false ∧
      Gets c d (BitVec.ofNat 64 m) s t ∧ (t.core c).pc.toNat = nextPc c s % 2 ^ coreWidth c ∧ OnlyCore c s t) ∧
    (m = 0 → NoEffect (.waitWake c) s))

/-- Interrupt edges, requests, the source a Mill line answers, interrupt entry with its cause and level, and a lockstep
mismatch. (R111, R112, R113, R115, R116, R117.) -/
def Obligations.InterruptsAndLockstep : Prop :=
  ((∀ (src : Fin 128) (s : State),
    (s.domOn 0 = true → After (.irqSourceEdge src) s fun t => t.bit (Reg.MILL_IRQ_PEND (src.val / 32)) (src.val % 32) = true ∧
      (∀ j, j < 32 → j ≠ src.val % 32 →
        t.bit (Reg.MILL_IRQ_PEND (src.val / 32)) j = s.bit (Reg.MILL_IRQ_PEND (src.val / 32)) j) ∧
      RegEffect (fun a => a = Reg.MILL_IRQ_PEND (src.val / 32)) s t) ∧
    (s.domOn 0 = false → NoEffect (.irqSourceEdge src) s)) ∧
  (∀ (req : BitVec 2) (s : State), s.domOn 0 = true → After (.swiRequest req) s fun t =>
    (∀ j, j < 32 → t.bit (Reg.MILL_IRQ_PEND 3) j =
      (s.bit (Reg.MILL_IRQ_PEND 3) j || (j == 30 && req.getLsbD 0) || (j == 31 && req.getLsbD 1))) ∧
    RegEffect (fun a => a = Reg.MILL_IRQ_PEND 3) s t) ∧
  (∀ (core1 : Bool) (n : Nat) (s : State), let c := CoreId.mill core1
    let k := s.core c
    k.run = .running → NoPfx c s →
    let up := (k.srN 0x2006).testBit 1 = true ∧ (k.level < 2 ∨ k.ms 3 3 = 1)
    (millLine s core1 1 = some n → up → After (.interruptEntry c) s fun t => Entered c 2 (2 ^ 63) n s t ∧ OnlyCore c s t) ∧
    (¬(millLine s core1 1 ≠ none ∧ up) → millLine s core1 0 = some n → (k.srN 0x2006).testBit 0 = true →
      (k.level = 0 ∨ (k.level = 1 ∧ k.ms 2 2 = 1)) →
      After (.interruptEntry c) s fun t => Entered c (if k.ms 9 9 = 1 then 2 else 1) (2 ^ 63) n s t ∧ OnlyCore c s t)) ∧
  (∀ s : State, let c := CoreId.tender
    let k := s.core c
    k.run = .running → NoPfx c s → k.level = 2 → s.rdN Reg.TND_TPEND &&& s.rdN Reg.TND_TIRQ_EN ≠ 0 → (k.srN 0x2006).testBit 1 = true →
    k.ms 3 3 = 1 → After (.interruptEntry c) s fun t => Entered c 2 (2 ^ 31) 0 s t ∧ OnlyCore c s t) ∧
  (∀ (core1 : Bool) (s : State), let c := CoreId.mill core1
    (s.core c).run ≠ .held → (s.core c).run ≠ .stopped → After (.lockstepMismatch core1) s fun t =>
      (t.core c).run = .stopped ∧ (∀ o, o ≠ c → t.core o = s.core o) ∧ t.bit Reg.TND_TPEND 0 = true ∧
      (∀ x ∈ t.tnd.stalls, x ∈ s.tnd.stalls ∧ (∀ d n sx a, x.op ≠ .load c.num d n sx a) ∧ (∀ n v a, x.op ≠ .store c.num n v a)) ∧
      Logged 1 3 8 (b2n core1) 0 0 s t)) ∧
  (∀ (s : State) (core1 : Bool) (level : Nat), level < 2 →
    let here := fun m => s.bit (Reg.MILL_IRQ_PEND (m / 32)) (m % 32) = true ∧ s.bit (Reg.MILL_IRQ_ROUTE m) 0 = true ∧
      s.bit (Reg.MILL_IRQ_ROUTE m) 1 = core1 ∧ s.bits (Reg.MILL_IRQ_ROUTE m) 2 2 = level
    let prio := fun m => s.bits (Reg.MILL_IRQ_ROUTE m) 6 3
    (∀ n, millLine s core1 level = some n → n < 128 ∧ here n ∧
      ∀ m, m < 128 → here m → prio m ≤ prio n ∧ (prio m = prio n → n ≤ m)) ∧
    (millLine s core1 level = none → ∀ m, m < 128 → ¬here m))

/-- Words decode and encode alike; unlisted words, absent registers and opcodes, set must-be-zero fields and stray L prefixes
are ILLEGAL. (R78, R80, R83, R86, R87, R96, R100, R105, R113, R120, R141, R148.) -/
def Obligations.IllegalUnits : Prop :=
  (∀ (c : CoreId) (w : BitVec 32) (i : Instr), fqDecode c w = some i ↔ fqEncode i = some (c, w)) ∧
  (∀ (c : CoreId) (w : BitVec 32), let op := w.toNat / 2 ^ 26
    let fn := w.toNat % 2 ^ 8
    fqDecode c w ≠ none ↔ (op = 0x01 ∧ fn ≤ 0x1A) ∨ (0x02 ≤ op ∧ op ≤ 0x16) ∨ (0x18 ≤ op ∧ op ≤ 0x1B) ∨ (op = 0x1C ∧ fn ≤ 3) ∨
      op = 0x20 ∨ (0x24 ≤ op ∧ op ≤ 0x26) ∨ (0x28 ≤ op ∧ op ≤ 0x2C) ∨ (op = 0x2D ∧ fn ≤ 5) ∨ op = 0x30 ∨ (op = 0x38 ∧ fn ≤ 4) ∨
      (op = 0x39 ∧ (fn ≤ 5 ∨ (8 ≤ fn ∧ fn ≤ 0x0D) ∨ fn = 0x10 ∨ fn = 0x11 ∨ (0x18 ≤ fn ∧ fn ≤ 0x1B))) ∨ op = 0x3A ∨
      (op = 0x3B ∧ w.toNat / 2 ^ 12 % 4 < 2)) ∧
  (∀ (c : CoreId) (w : BitVec 32) (s : State), Ready c s → fqDecode c w = none →
    After (.lPrefix c w) s fun t => t = s.takeTrap c 0 ((s.core c).firstWord w.toNat)) ∧
  ∀ (c : CoreId) (d a b : BitVec 6) (imm : BitVec 14) (s : State), Ready c s →
    let first := fun w => match (s.core c).pfx with
      | none => w
      | some l => 0x30 * 2 ^ 26 + l.toNat
    let illegal := fun w t => t = s.takeTrap c 0 (first w)
    (¬(HasReg c d ∧ HasReg c a ∧ HasReg c b) → After (.add c d a b) s (illegal (wordA 0x01 d a b 0)) ∧
      After (.fadd c d a b false 0) s (illegal (wordA 0x03 d a b 0))) ∧
    (¬(HasReg c d ∧ HasReg c a) → After (.addi c d a imm) s (illegal (wordI 0x04 d a imm)) ∧
      After (.ldw c d a imm) s (illegal (wordI 0x14 d a imm)) ∧ After (.stw c d a imm) s (illegal (wordI 0x1A d a imm))) ∧
    (coreWidth c = 32 → After (.ldd c d a imm) s (illegal (wordI 0x16 d a imm)) ∧
      After (.fadd c d a b true 0) s (illegal (wordA 0x03 d a b 128)) ∧ After (.lih c d a imm) s (illegal (wordI 0x0D d a imm))) ∧
    (b ≠ 0 → After (.clz c d a b) s (illegal (wordA 0x01 d a b 0x18))) ∧
    (coreWidth c ≤ imm.toNat → After (.shli c d a imm) s (illegal (wordI 0x0A d a imm))) ∧
    ((s.core c).pfx ≠ none → After (.add c d a b) s (illegal (wordA 0x01 d a b 0)) ∧
      After (.lPrefix c (0x30#6 ++ 0#26)) s (illegal (wordJ 0x30 0)) ∧ After (.shli c d a imm) s (illegal (wordI 0x0A d a imm)) ∧
      After (.gets c d a imm) s (illegal (wordI 0x28 d a imm)))

/-- On FQ-T and FQ-P each unit adds the clock cycles of the R119 table, and one for an L prefix, to CYCLE and to a lane's
period. (R117, R119, R134.) -/
def Obligations.CycleCounts : Prop :=
  ∀ (c : CoreId) (d a b : BitVec 6) (imm : BitVec 14) (s : State), Ready c s → HasReg c d → HasReg c a → HasReg c b → coreWidth c = 32 →
    let lane := ∃ t l, c = .lane t l
    let adds := fun (n : Nat) (t : State) => (t.core c).srN 1 = ((s.core c).srN 1 + n) % 2 ^ 32 ∧
      (∀ x l, c = .lane x l → (laneOf t x l).cycles = (laneOf s x l).cycles + n)
    (¬lane → NoPfx c s → After (.add c d a b) s (adds 1) ∧ After (.mul c d a b) s (adds 4) ∧ After (.div c d a b) s (adds 33) ∧
      After (.remu c d a b) s (adds 33) ∧ After (.j c 0) s (adds 2) ∧ After (.fence c 0 0 0) s (adds 1)) ∧
    (lane → NoPfx c s → After (.add c d a b) s (adds 1) ∧ After (.mul c d a b) s (adds 1) ∧ After (.div c d a b) s (adds 12) ∧
      After (.remu c d a b) s (adds 12) ∧ After (.j c 0) s (adds 1) ∧ After (.fdiv c d a b false 0) s (adds 14) ∧
      After (.fsqrt c d a 0 false 0) s (adds 16) ∧ After (.fadd c d a b false 0) s (adds 1)) ∧
    After (.addi c d a imm) s (adds (1 + if (s.core c).pfx = none then 0 else 1))

/-- What a fixed-point unit of a lane leaves: `v` in d, its flags added to FPCSR, QSAT set where the result was limited (R148, R149). -/
def WroteQ (x : Fin 4) (l : Fin 8) (d : BitVec 6) (v : Int) (sat : Bool) (fl : Flags) (s t : State) : Prop :=
  let c := CoreId.lane x l
  Retired (fun n => n = 0) c (nextPc c s) s t ∧ (t.core c).srN 0 = ((s.core c).srN 0 ||| fl) % 2 ^ 64 ∧ Gets c d (BitVec.ofInt 64 v) s t ∧
  t.bit (Reg.PRS_T_L_STAT x l) 3 = (s.bit (Reg.PRS_T_L_STAT x l) 3 || sat) ∧
  (∀ j, j < 32 → j ≠ 3 → t.bit (Reg.PRS_T_L_STAT x l) j = s.bit (Reg.PRS_T_L_STAT x l) j) ∧
  (∀ o, o ≠ c → t.core o = s.core o) ∧
  RegsBut (fun a => a = Reg.PRS_T_L_STAT x l ∨ a = Reg.PRS_T_L_PC x l) s t ∧ SameLanes c s t ∧
  t = { s with cores := t.cores, regs := t.regs, inst := t.inst, prs := { s.prs with lane := t.prs.lane } }

/-- Fixed point: the exact result limited to Q15 or Q31 with QSAT where it had to be; F2Q and Q2F of finite values, infinities
and NaNs. (R141, R148, R149.) -/
def Obligations.FixedPointResults : Prop :=
  (∀ (x : Fin 4) (l : Fin 8) (d a b : BitVec 6) (s : State), let c := CoreId.lane x l
    Ready c s → NoPfx c s → HasReg c d → HasReg c a → HasReg c b →
    let q15 := fun r => (((s.core c).g r).setWidth 16).toInt
    let q31 := fun r => (((s.core c).g r).setWidth 32).toInt
    let sh := ((s.core c).g b).toNat % 32
    let put := fun (n : Nat) (v : Int) =>
      WroteQ x l d (max (-2 ^ (n - 1)) (min (2 ^ (n - 1) - 1) v)) (decide (v < -2 ^ (n - 1) ∨ 2 ^ (n - 1) - 1 < v)) 0 s
    After (.qadd15 c d a b) s (put 16 (q15 a + q15 b)) ∧
    After (.qadd31 c d a b) s (put 32 (q31 a + q31 b)) ∧
    After (.qsub15 c d a b) s (put 16 (q15 a - q15 b)) ∧
    After (.qsub31 c d a b) s (put 32 (q31 a - q31 b)) ∧
    After (.qmul15 c d a b) s (put 16 ((q15 a * q15 b + 2 ^ 14) / 2 ^ 15)) ∧
    After (.qmul31 c d a b) s (put 32 ((q31 a * q31 b + 2 ^ 30) / 2 ^ 31)) ∧
    After (.qmac15 c d a b) s (put 16 (q15 d + (q15 a * q15 b + 2 ^ 14) / 2 ^ 15)) ∧
    After (.qmac31 c d a b) s (put 32 (q31 d + (q31 a * q31 b + 2 ^ 30) / 2 ^ 31)) ∧
    After (.qshl31 c d a b) s (put 32 (q31 a * 2 ^ sh)) ∧
    After (.qshr31 c d a b) s (put 32 (if sh = 0 then q31 a else (q31 a + 2 ^ (sh - 1)) / 2 ^ sh)) ∧
    (b = 0 → After (.qneg15 c d a b) s (put 16 (-q15 a)) ∧ After (.qneg31 c d a b) s (put 32 (-q31 a)) ∧
      After (.qabs15 c d a b) s (put 16 (q15 a).natAbs) ∧ After (.qabs31 c d a b) s (put 32 (q31 a).natAbs))) ∧
  (∀ (x : Fin 4) (l : Fin 8) (d a : BitVec 6) (s : State), let c := CoreId.lane x l
    Ready c s → NoPfx c s → HasReg c d → HasReg c a →
    let v := ((s.core c).g a).toNat % 2 ^ 32
    let conv := fun (n : Nat) (t : State) => match fpDecode f32 v with
      | .nan _ => WroteQ x l d 0 false 16 s t
      | .inf neg => WroteQ x l d (if neg then -2 ^ (n - 1) else 2 ^ (n - 1) - 1) true 0 s t
      | .fin sg m e => let r := roundInt 0 sg m (e + (n - 1 : Nat))
        WroteQ x l d (max (-2 ^ (n - 1)) (min (2 ^ (n - 1) - 1) r.1)) (decide (r.1 < -2 ^ (n - 1) ∨ 2 ^ (n - 1) - 1 < r.1))
          (if r.1 < -2 ^ (n - 1) ∨ 2 ^ (n - 1) - 1 < r.1 ∨ r.2 = false then 0 else 1) s t
    After (.f2q15 c d a 0) s (conv 16) ∧ After (.f2q31 c d a 0) s (conv 32) ∧
    After (.q2f15 c d a 0) s (WroteFp c d (fpRoundZ f32 0 (((s.core c).g a).setWidth 16).toInt (-15) false) s) ∧
    After (.q2f31 c d a 0) s (WroteFp c d (fpRoundZ f32 0 (((s.core c).g a).setWidth 32).toInt (-31) false) s))

/-- HYS, CLMP, RMP, INTG and LUT: results, the status words of RMP and INTG, NV for NaN operands, and LUT's traps. (R142, R143,
R144, R145, R146, R147.) -/
def Obligations.ControlExtensionResults : Prop :=
  ∀ (x : Fin 4) (l : Fin 8) (d a b : BitVec 6) (s : State), let c := CoreId.lane x l
    Ready c s → NoPfx c s → HasReg c d → HasReg c a →
    let k := s.core c
    let g := fun r => (k.g r).toNat % 2 ^ 32
    let lt := fpLtB f32
    let pair := b.toNat % 2 = 0 ∧ 4 ≤ b.toNat ∧ b.toNat ≤ 30
    let quad := b.toNat % 4 = 0 ∧ 4 ≤ b.toNat ∧ b.toNat ≤ 28
    let clamp := fun lo hi v => let u := if lt v lo then lo else v
      if lt hi u then hi else u
    let limit := fun v => if isNan f32 v || lt v 0 then 0 else v
    let put2 := fun (v w : Nat) (r2 : BitVec 6) (fl : Nat) (t : State) =>
      Retired (fun n => n = 0) c (nextPc c s) s t ∧ (t.core c).srN 0 = (k.srN 0 ||| fl) % 2 ^ 64 ∧ OnlyCore c s t ∧
      ∀ r, (t.core c).g r = if r = d ∧ r ≠ 0 then BitVec.ofNat 64 (v % 2 ^ 32) else if r = r2 then BitVec.ofNat 64 w else k.g r
    (pair → After (.hys c d a b) s (WroteFp c d (if lt (g (b + 1)) (g a) then 1 else if lt (g a) (g b) then 0 else if g d = 0 then 0 else 1,
        if isNan f32 (g a) then 16 else 0) s) ∧
      After (.clmp c d a b) s (WroteFp c d (clamp (g b) (g (b + 1)) (if isNan f32 (g a) then 0 else g a),
        if isNan f32 (g a) then 16 else 0) s)) ∧
    (quad → ¬(b.toNat ≤ d.toNat ∧ d.toNat ≤ b.toNat + 3) →
      let delta := fpSub f32 0 (g a) (g d)
      let up := fpAdd f32 0 (g d) (limit (g (b + 1)))
      let down := fpSub f32 0 (g d) (limit (g b))
      After (.rmp c d a b) s (if isNan f32 (g a) || isNan f32 (g d) then put2 (g d) 1 (b + 2) 16
        else if lt (limit (g (b + 1))) delta.1 then put2 up.1 1 (b + 2) ((delta.2 ||| up.2) % 16)
        else if lt delta.1 (2 ^ 31 ^^^ limit (g b)) then put2 down.1 1 (b + 2) ((delta.2 ||| down.2) % 16)
        else put2 (g a) 0 (b + 2) (delta.2 % 16)) ∧
      let sum := fpAdd f32 0 (g d) (g a)
      let v := clamp (g b) (g (b + 1)) sum.1
      After (.intg c d a b) s (if g (b + 2) ≠ 0 then put2 (g d) 4 (b + 3) 0
        else if isNan f32 (g a) || isNan f32 (g d) then put2 (g d) 8 (b + 3) 16
        else put2 v ((if fpEqB f32 v (g b) then 1 else 0) + (if fpEqB f32 v (g (b + 1)) then 2 else 0)) (b + 3) (sum.2 % 16))) ∧
    (quad → let at_ := g b
      let n := g (b + 3)
      (at_ % 4 ≠ 0 → After (.lut c d a b) s fun t => t = s.takeTrap c 6 at_) ∧
      (at_ % 4 = 0 → (n < 2 ∨ 1024 < n) → After (.lut c d a b) s fun t => t = s.takeTrap c 10 at_) ∧
      (at_ % 4 = 0 → 2 ≤ n → n ≤ 1024 → 0x10000 ≤ at_ → at_ + 4 * n ≤ 0x12000 →
        After (.lut c d a b) s (WroteFp c d
          (lutValue (fun i => leVal (dataByte c s) (at_ + 4 * i) 4) (g a) (g (b + 1)) (g (b + 2)) n) s)))

/-- Lanes start, stop, mark and read messages, and wait in SYNC; an event, or one missed, lets a lane go with MISSED and
OVERRAN in d. (R129, R130, R132, R133, R136, R138, R139, R140.) -/
def Obligations.LanePeriods : Prop :=
  (∀ (x : Fin 4) (l : Fin 8) (d : BitVec 6) (imm : BitVec 14) (s : State), let c := CoreId.lane x l
    Ready c s → NoPfx c s → HasReg c d → imm.toNat < 16 →
    let p := laneOf s x l
    let missed := sget (fun _ => 0) p.events imm.toNat
    (p.inPeriod = false ∨ missed = 0 → After (.sync c d 0 imm) s fun t =>
      (t.core c).run = .syncWait d imm.toNat (p.inPeriod && p.overran) s.clk ∧ t.bits (Reg.PRS_T_L_STAT x l) 1 0 = 2 ∧
      t.bits (Reg.PRS_T_L_STAT x l) 7 4 = imm.toNat ∧ laneOf t x l = laneIdle ∧ SameG c s t) ∧
    (p.inPeriod = true → missed ≠ 0 → After (.sync c d 0 imm) s fun t =>
      Gets c d (BitVec.ofNat 64 (missed + if p.overran then 256 else 0)) s t ∧ (t.core c).run = .running ∧
      (t.core c).pc.toNat = nextPc c s % 2 ^ 32 ∧ t.bits (Reg.PRS_T_L_STAT x l) 1 0 = 1 ∧ laneOf t x l = ⟨true, false, [], 0⟩) ∧
    (p.inPeriod = true → p.overran = true → After (.sync c d 0 imm) s fun t => ∀ ch, ch < 32 → (prsTxOf s x ch).lane = l →
      (prsTxOf t x ch).len = none ∧ (prsTxOf t x ch).pend = (prsTxOf s x ch).pend) ∧
    ((p.inPeriod && p.overran) = false → After (.sync c d 0 imm) s fun t => ∀ ch n, ch < 32 →
      (prsTxOf s x ch).len = some n → prsTxOf t x ch = if (prsTxOf s x ch).lane = l
        then ⟨(prsTxOf s x ch).pend, (prsTxOf s x ch).stage, (prsTxOf s x ch).inj, none, 0⟩ else prsTxOf s x ch)) ∧
  (∀ (x : Fin 4) (l : Fin 8) (d : BitVec 6) (ch since : Nat) (ovr : Bool) (s : State), let c := CoreId.lane x l
    s.domOn (1 + x.val) = true → (s.core c).run = .syncWait d ch ovr since →
    let due := s.domOn 10 = true ∧ ∃ k, k < 16 ∧ s.bit (Reg.TIM_CMP_CFG k) 0 = true ∧ cmpTgt s k ≤ s.ext
    (sget (fun _ => 0) (laneOf s x l).events ch ≠ 0 → ¬due → After (.syncWake x l) s fun t =>
      Gets c d (if ovr then 256 else 0) s t ∧ (t.core c).run = .running ∧ t.bits (Reg.PRS_T_L_STAT x l) 1 0 = 1 ∧
      laneOf t x l = ⟨true, false, [], 0⟩) ∧
    (sget (fun _ => 0) (laneOf s x l).events ch = 0 ∨ due → NoEffect (.syncWake x l) s)) ∧
  (∀ (x : Fin 4) (l : Fin 8) (a : BitVec 6) (ch : BitVec 12) (s : State), let c := CoreId.lane x l
    Ready c s → NoPfx c s → HasReg c a → ch.toNat < 32 →
    let n := ((s.core c).g a).toNat % 2 ^ 32
    let ok := txOwned s x l ch.toNat = true ∧ (n = 0 ∨ (4 ≤ n ∧ n ≤ 512 ∧ n % 4 = 0))
    (ok → After (.pub c 0 a ch) s fun t => prsTxOf t x ch.toNat = { prsTxOf s x ch.toNat with len := if n = 0 then none else some n, lane := if n = 0 then 0 else l.val } ∧
      Retired (fun _ => False) c (nextPc c s) s t ∧ SameG c s t) ∧
    (¬ok → After (.pub c 0 a ch) s fun t => t = s.takeTrap c 11 (0x50000 + 0x200 * ch.toNat))) ∧
  (∀ (x : Fin 4) (l : Fin 8) (d : BitVec 6) (m : BitVec 12) (s : State), let c := CoreId.lane x l
    Ready c s → NoPfx c s → HasReg c d → m.toNat < 32 →
    let v := boxOf s x m.toNat
    After (.subMailbox c d 0 m) s (Wrote c d (BitVec.ofNat 64 (match v.view with
      | none => if v.vnew then 1 else 0
      | some w => (if v.vnew then 1 else 0) + 2 + 256 * w.length + 65536 * (v.varr % 65536))) s)) ∧
  (∀ (x : Fin 4) (l : Fin 8) (s : State), let c := CoreId.lane x l
    s.domOn (1 + x.val) = true →
    let st := s.bits (Reg.PRS_T_L_STAT x l) 1 0
    (st = 0 ∨ st = 3 → After (.laneRun x l) s fun t => (t.core c).run = .running ∧ (t.core c).pc = 0 ∧ (∀ r, (t.core c).g r = 0) ∧
      (t.core c).srN 0 = 0 ∧ (t.core c).srN 2 = 0 ∧ t.bits (Reg.PRS_T_L_STAT x l) 1 0 = 1 ∧ t.bit (Reg.PRS_T_L_CTL x l) 0 = true ∧
      (∀ o, o ≠ c → t.core o = s.core o)) ∧
    (st = 1 ∨ st = 2 → After (.laneStop x l) s fun t => (t.core c).run = .held ∧ t.bits (Reg.PRS_T_L_STAT x l) 1 0 = 0 ∧
      t.bit (Reg.PRS_T_L_CTL x l) 0 = false ∧ SameG c s t ∧ ∀ ch, ch < 32 → (prsTxOf s x ch).lane = l → (prsTxOf t x ch).len = none))

/-- The host's side of a tile: mailbox bindings, writes of tile memory that only idle owners allow, and the throttle at 146 and
144 degrees. (R124, R127, R128, R137.) -/
def Obligations.PressHostSide : Prop :=
  (∀ (x : Fin 4) (m : Fin 32) (v : Word) (s : State), s.domOn (1 + x.val) = true →
    let a := Reg.PRS_T_RX_CFG x m
    After (.prsRxCfgWrite x m v) s fun t => t.rdN a = v.toNat % 2 ^ 15 ∧
      (v.toNat % 2 ^ 10 ≠ s.bits a 9 0 → boxOf t x m = prsBoxEmpty ∧ t.rdN (Reg.PRS_T_RX_CNT x m) = 0) ∧
      (v.toNat % 2 ^ 10 = s.bits a 9 0 → RegEffect (· = a) s t)) ∧
  (∀ (rq : Requester) (x : Fin 4) (off : BitVec 18) (v : Word) (s : State), s.domOn (1 + x.val) = true → off.toNat % 4 = 0 →
    (0x10000 ≤ off.toNat → prsHostMay x off.toNat s = true → After (.prsHostWrite rq x off v) s fun t => t.resp = .done ∧
      (∀ k, sget zeroByte t.prs.mem k = if 0x40000 * x.val + off.toNat ≤ k ∧ k < 0x40000 * x.val + off.toNat + 4 then
        BitVec.ofNat 8 (v.toNat / 256 ^ (k - (0x40000 * x.val + off.toNat))) else sget zeroByte s.prs.mem k) ∧
      t = { s with resp := .done, prs := { s.prs with mem := t.prs.mem } }) ∧
    (0x10000 ≤ off.toNat → prsHostMay x off.toNat s = false →
      After (.prsHostWrite rq x off v) s fun t => t = { s with resp := .busError })) ∧
  (∀ (x : Fin 4) (temp : Int) (s : State), s.domOn (1 + x.val) = true →
    (s.bit (Reg.PRS_T_STAT x) 9 = false → 1168 < temp → After (.pressThrottle x temp) s fun t => t.bit (Reg.PRS_T_STAT x) 9 = true) ∧
    (s.bit (Reg.PRS_T_STAT x) 9 = true → temp < 1152 → After (.pressThrottle x temp) s fun t => t.bit (Reg.PRS_T_STAT x) 9 = false) ∧
    (1152 ≤ temp → temp ≤ 1168 → NoEffect (.pressThrottle x temp) s))

/-- Job `k` has ended (R170): it is off the list, and CAL_STAT says so. -/
def JobOff (k : Nat) (good : Bool) (s t : State) : Prop :=
  t.cal.jobs = s.cal.jobs.eraseIdx k ∧ t.bit Reg.CAL_STAT 0 = true ∧ (good = false → t.bit Reg.CAL_STAT 1 = true)

/-- Word 0 of a job's status record in DRAM (R169). -/
def statusWord (d : List Word) (t : State) : Nat := rdz t.dram (dD d 0x20 - dramBase) 4

/-- Handle `n` lies in its job's region on every tile that runs it, and the region in the tiles' stores (R159, R165). -/
def InRegion (j : CalJob) (n : Nat) : Prop :=
  let h := j.hdl n
  j.tiles ≠ [] ∧ 0 < h.rows ∧ 0 < h.cols ∧ h.rows ≤ h.ld ∧ h.fits j.lay = true ∧ dLsBase j.d + dLsSize j.d ≤ 2 ^ 20

/-- The job goes on to its next macro-instruction; `f` gives the job as it then is. -/
def GoesOn (k : Nat) (j : CalJob) (P : CalJob → Prop) (s t : State) : Prop :=
  ∃ j', t.cal.jobs = s.cal.jobs.set k j' ∧ j'.pc = j.pc + 1 ∧ j'.run = .running ∧ j'.d = j.d ∧ j'.hdls = j.hdls ∧ j'.prog = j.prog ∧
    j'.staged.take j.staged.length = j.staged ∧ P j'

/-- Element (i, c) of a handle is stored, and one of those that `w` names. -/
def Written (h : Hdl) (w : Nat → Nat → Prop) (i c : Nat) : Prop := i < h.rows ∧ c < h.cols ∧ h.stored i c = true ∧ w i c

/-- The elements of handle `n` that `w` names hold `v`, computed in format `d` and rounded once into the handle's (R161). -/
def HoldsElems (j : CalJob) (n : Nat) (d : Bool) (w : Nat → Nat → Prop) (v : Nat → Nat → Nat) (t : State) : Prop :=
  let h := j.hdl n
  ∀ i c, Written h w i c → rdz t.cal.mem (h.addr j.lay i c) h.esz = recast d h.dbl (v i c) % 2 ^ (8 * h.esz)

/-- One of them is infinite, a NaN or beyond 2^100 (R172). -/
def TooBig (j : CalJob) (n : Nat) (d : Bool) (w : Nat → Nat → Prop) (v : Nat → Nat → Nat) : Prop :=
  let h := j.hdl n
  ∃ i c, Written h w i c ∧ tooBig h.dbl (recast d h.dbl (v i c)) = true

/-- A macro-instruction has written `v` to the elements of handle `n` that `w` names and to no other byte of the local stores, and gone on
with `P` of its job, or ended the job OVERFLOW (R161, R172). -/
def MacroWrites (k : Nat) (j : CalJob) (n : Nat) (d : Bool) (w : Nat → Nat → Prop) (v : Nat → Nat → Nat) (P : CalJob → Prop)
    (s t : State) : Prop :=
  let h := j.hdl n
  HoldsElems j n d w v t ∧
  (∀ a, (∀ i c, Written h w i c → a < h.addr j.lay i c ∨ h.addr j.lay i c + h.esz ≤ a) →
    sget zeroByte t.cal.mem a = sget zeroByte s.cal.mem a) ∧
  (¬TooBig j n d w v → GoesOn k j P s t) ∧ (TooBig j n d w v → JobOff k false s t)

/-- Every stored element of handle `n` is written. -/
def MacroWrote (k : Nat) (j : CalJob) (n : Nat) (d : Bool) (v : Nat → Nat → Nat) (s t : State) : Prop :=
  MacroWrites k j n d (fun _ _ => True) v (fun _ => True) s t

/-- The elements of two handles share no byte of the local stores. -/
def Apart (j : CalJob) (m n : Nat) : Prop :=
  let g := j.hdl m
  let h := j.hdl n
  ∀ i c i' c', i < g.rows → c < g.cols → g.stored i c = true → i' < h.rows → c' < h.cols → h.stored i' c' = true →
    g.addr j.lay i c + g.esz ≤ h.addr j.lay i' c' ∨ h.addr j.lay i' c' + h.esz ≤ g.addr j.lay i c

/-- The tiles of a suspended job hold no running job and no suspended one of a higher class (R167). -/
def Free (j : CalJob) (js : List CalJob) : Prop :=
  ∀ e ∈ js, (∃ n ∈ dNamed e.d, n ∈ dNamed j.d) → e.run ≠ .running ∧ (e.run = .suspended → j.cls ≤ e.cls)

/-- Calender jobs queue, start after their checks, preempt lower classes, resume; a full queue drops a push, a failed check
ends the job at once. (R164, R165, R166, R167, R168, R170.) -/
def Obligations.CalenderScheduling : Prop :=
  (∀ (q : Fin 2) (v : Word) (s : State), s.domOn 5 = true →
    let depth := (s.cal.jobs.filter fun j => j.cls == q.val + 1 && j.run == .waiting).length
    (depth < 16 → After (.calQueuePush q v) s fun t => t.cal.jobs = s.cal.jobs ++ [newJob (q + 1) 0 (wbits v 22 0) 0 0 0] ∧
      t.bits (Reg.CAL_Q_STAT q) 4 0 = depth + 1) ∧
    (16 ≤ depth → After (.calQueuePush q v) s fun t => t.cal = s.cal ∧ t.bit (Reg.CAL_Q_STAT q) 8 = true ∧ t.bit Reg.CAL_STAT 4 = true)) ∧
  (∀ (k : Nat) (j : CalJob) (s : State), s.domOn 5 = true → s.cal.jobs[k]? = some j →
    (s.domOn 0 = true → j.run = .waiting → ∀ d, readDesc s j.desc = some d →
      let j1 := if j.cls = 0 then j else { j with startExt := s.rdN Reg.TIM_NOW, startClk := s.clk }
      (mayStart s k j1 d = false → NoEffect (.jobStart k) s) ∧
      (mayStart s k j1 d = true → (∀ n ∈ dNamed d, s.domOn (5 + n) = true) →
        (∀ c, prepare s j1 d = .inl c → 4 ≤ c → c ≤ 5 ∨ 9 ≤ c → c ≤ 10 → After (.jobStart k) s fun t => JobOff k false s t ∧
          (inDram (dD d 0x20) 64 = true → deadlineDue s (j1.bind s d) = false → statusWord d t =
            (c + if (∃ n ∈ dNamed d, s.bit Reg.CAL_TILE_MASK n = true) then 2 ^ 17 else 0) % 2 ^ 32)) ∧
        (∀ j', prepare s j1 d = .inr j' → After (.jobStart k) s fun t => t.cal.jobs = s.cal.jobs.set k j' ∧
          j'.run = .running ∧ j'.started = true ∧ j'.d = d ∧ t.dram = s.dram ∧
          (∀ n m, n ∈ dNamed d → m < 8 → sget (fun _ => none) j'.views (8 * n + m) = sget (fun _ => none) s.cal.box (8 * n + m)))) ∧
      (mayStart s k j1 d = true → ∀ n ∈ dNamed d, s.domOn (5 + n) = false → s.contained (5 + n) = false → After (.jobStart k) s fun t =>
        t.cal = s.cal ∧ 2 ≤ t.bits (Reg.PWR_DC_STAT (5 + n)) 1 0)) ∧
    (j.run ≠ .waiting → NoEffect (.jobStart k) s ∧ NoEffect (.jobPreempt k) s) ∧
    (j.run = .waiting → After (.jobPreempt k) s fun t => t.dram = s.dram ∧ t.cal.jobs = s.cal.jobs.map fun e =>
      if e.run = .running ∧ j.cls < e.cls ∧ (∃ n ∈ dNamed e.d, n ∈ dNamed (jobDesc s j)) then { e with run := .suspended } else e) ∧
    (j.run = .suspended → Free j s.cal.jobs → After (.jobResume k) s fun t =>
      t.cal.jobs = s.cal.jobs.set k { j with run := .running, flags := j.flags |||
        if (∃ n ∈ j.tiles, s.bits (Reg.CAL_T_STAT n) 3 2 ≠ 0) then 2 ^ 16 else 0 } ∧ t.dram = s.dram) ∧
    (j.run ≠ .suspended ∨ ¬Free j s.cal.jobs → NoEffect (.jobResume k) s))

/-- Calender endings: DONE or ITLIMIT, STALE at the deadline with its fallback, ABORTED by JOB_ID; a tile's clock follows its
temperature. (R155, R162, R164, R167, R169, R170, R180.) -/
def Obligations.CalenderEndings : Prop :=
  (∀ (k : Nat) (j : CalJob) (s : State), s.domOn 5 = true → s.cal.jobs[k]? = some j →
    (j.run = .running → j.prog.length ≤ j.pc → After (.jobEnd k) s fun t => JobOff k true s t ∧
      (s.domOn 0 = true → j.d ≠ [] → deadlineDue s j = false → inDram (dD j.d 0x20) 64 = true →
        statusWord j.d t = ((if j.limited then 1 else 0) + j.flags) % 2 ^ 32) ∧
      (s.domOn 0 = true → j.d ≠ [] → deadlineDue s j = true → inDram (dD j.d 0x20) 64 = true →
        statusWord j.d t = (2 + (j.flags ||| (if isAlloc j.d && j.started then 2 ^ 13 else 0))) % 2 ^ 32) ∧
      (deadlineDue s j = false → dKind j.d = 2 → j.limited = true → ∀ n c, t.feltCh n c = s.feltCh n c) ∧
      (deadlineDue s j = false → dIrq j.d = true → s.bit Reg.CAL_IRQ_EN 0 = true → s.domOn 0 = true → t.bit (Reg.MILL_IRQ_PEND 0) 20 = true)) ∧
    (j.run ≠ .running ∨ j.pc < j.prog.length → NoEffect (.jobEnd k) s) ∧
    (let d := jobDesc s j
      let due := dW d 0x14 ≠ 0 ∧ j.startClk + dW d 0x14 ≤ s.clk ∧ (j.run = .waiting → j.cls = 0)
      (¬due → NoEffect (.jobDeadline k) s) ∧
      (due → After (.jobDeadline k) s fun t => JobOff k false s t ∧ (s.domOn 0 = true → inDram (dD d 0x20) 64 = true →
        statusWord d t = (2 + (j.flags ||| (if isAlloc d && j.started then 2 ^ 13 else 0))) % 2 ^ 32)) ∧
      (due → s.domOn 0 = true → isAlloc d = true → j.started = true → After (.jobDeadline k) s fun t =>
        (t.feltCh (pubStation d) (fget (dW d 0x38) 21 16)).pend = some ((holdStep s d (j.fallback.take 72)).take (dW d 0x48 / 4))))) ∧
  (∀ (id : BitVec 16) (s : State), s.domOn 5 = true → After (.calAbort id) s fun t => t.cal.jobs =
    (s.cal.jobs.map fun j => { j with d := jobDesc s j }).filter fun j => !(dId j.d == id.toNat && j.d != [])) ∧
  (∀ (x : Fin 4) (temp : Int) (s : State), s.domOn (5 + x.val) = true →
    let old := s.bits (Reg.CAL_T_STAT x) 3 2
    let new := if 1184 < temp then 2 else if 1168 < temp then 1 else if temp < 1152 then 0 else old
    (new = old → NoEffect (.calThrottle x temp) s) ∧
    (new ≠ old → After (.calThrottle x temp) s fun t => t.bits (Reg.CAL_T_STAT x) 3 2 = new ∧
      (s.domOn 5 = true → t.bit Reg.CAL_STAT 3 = true) ∧ t.bit Reg.TND_TPEND 0 = true ∧
      t.cal = { s.cal with jobs := s.cal.jobs.map fun j =>
        if j.run = .running ∧ x.val ∈ j.tiles ∧ new ≠ 0 then { j with flags := j.flags ||| 2 ^ 16 } else j }))

/-- LOADM, STOREM, GEMV, GEMM, SYRK, AXPY, NORM, SHIFT, PIVCHK: the elements written, the format rounded into, OVERFLOW and
PIVOT_LIMIT. (R97, R161, R162, R172.) -/
def Obligations.MacroResults : Prop :=
  ∀ (k : Nat) (j : CalJob) (m : Macro) (s : State), s.domOn 5 = true → s.calReady k m.op = some (j, m) → opShapeOk j.hdls m = true →
    let h := j.hdl
    let d := j.dbl (opHandles m)
    let x := fun n i c => (s.calMat j d n).at i c
    let t := fbit m.flags 0
    let lin := fun old xs => cFma d (cMul d (par d m.p1) old) (par d m.p0) (calSum d 0 xs)
    let words := fun n => (List.range (h n).cols).flatMap fun c => (List.range (h n).rows).flatMap fun i =>
      wordsOf ((s.calMat j (h n).dbl n).at i c) ((h n).esz / 4)
    let at_ := m.p0 + 2 ^ 32 * m.p1
    (m.op = 1 → InRegion j m.h0 →
      (m.flags % 4 = 0 → inDram at_ ((h m.h0).rows * (h m.h0).cols * (h m.h0).esz) = true → After (.loadm k) s
        (MacroWrote k j m.h0 (h m.h0).dbl
          (fun i c => rdz s.dram (at_ - dramBase + (c * (h m.h0).rows + i) * (h m.h0).esz) (h m.h0).esz) s)) ∧
      (m.flags % 4 = 2 → After (.loadm k) s (MacroWrote k j m.h0 d (x m.h1) s)) ∧
      (m.flags % 4 = 1 → After (.loadm k) s (fun u => GoesOn k j (fun _ => True) s u ∨ JobOff k false s u) ∧
        let e := (h m.h0).esz / 4
        let msg := fun c => (sget (fun _ => none) j.views (8 * (h m.h0).home (dNamed j.d) c + m.imm % 8)).getD []
        let o := fun i c => (c * (h m.h0).rows + i) * e
        ((∀ c, c < (h m.h0).cols → (h m.h0).rows * (h m.h0).cols * e ≤ (msg c).length) → After (.loadm k) s (MacroWrote k j m.h0 (h m.h0).dbl
          (fun i c => ((msg c).getD (o i c) 0).toNat + (if e = 2 then 2 ^ 32 * ((msg c).getD (o i c + 1) 0).toNat else 0)) s)))) ∧
    (m.op = 2 → After (.storem k) s fun u => u.cal.mem = s.cal.mem ∧ u.dram = s.dram ∧ GoesOn k j (fun j' => j'.staged = j.staged ++
      [if m.flags % 2 = 1 then .felt (m.imm % 64) (words m.h0) else .dram at_ (words m.h0)]) s u) ∧
    (m.op = 8 → InRegion j m.h2 → After (.gemv k) s (MacroWrote k j m.h2 d (fun i c => lin (x m.h2 i c)
      ((List.range (h m.h1).rows).map fun q => (if t then x m.h0 q i else x m.h0 i q, x m.h1 q c))) s)) ∧
    (m.op = 9 → InRegion j m.h2 → After (.gemm k) s (MacroWrote k j m.h2 d (fun i c => lin (x m.h2 i c)
      ((List.range (if t then (h m.h0).rows else (h m.h0).cols)).map fun q =>
        (if t then x m.h0 q i else x m.h0 i q, if fbit m.flags 1 then x m.h1 c q else x m.h1 q c))) s)) ∧
    (m.op = 10 → InRegion j m.h2 → After (.syrk k) s (MacroWrites k j m.h2 d (fun i c => c ≤ i) (fun i c => lin (x m.h2 i c)
      ((List.range (if t then (h m.h0).rows else (h m.h0).cols)).map fun q =>
        (if t then x m.h0 q i else x m.h0 i q, if t then x m.h0 q c else x m.h0 c q))) (fun _ => True) s)) ∧
    (m.op = 11 → InRegion j m.h1 → After (.axpy k) s
      (MacroWrote k j m.h1 d (fun i c => cFma d (x m.h1 i c) (par d m.p0) (x m.h0 i c)) s)) ∧
    (m.op = 12 → InRegion j m.h1 → ∃ norm : Nat, After (.norm k) s (MacroWrites k j m.h1 d
        (fun i c => i = 0 ∧ c = 0) (fun _ _ => norm) (fun _ => True) s) ∧
      (t = false → (h m.h0).cols = 1 → norm = cSqrt d (calSum d 0 ((List.range (h m.h0).rows).map fun i => (x m.h0 i 0, x m.h0 i 0))))) ∧
    (m.op = 14 → InRegion j m.h0 → After (.shift k) s (MacroWrote k j m.h0 d (fun i c =>
      let r := i + m.imm * m.p1
      if r < (h m.h0).rows then x m.h0 r c else x m.h0 ((h m.h0).rows - m.p1 + (r - (h m.h0).rows) % m.p1) c) s)) ∧
    (m.op = 15 → (m.imm < j.pivots → After (.pivchk k) s (JobOff k false s)) ∧
      (j.pivots ≤ m.imm → After (.pivchk k) s fun u => u.cal.mem = s.cal.mem ∧ u.dram = s.dram ∧ GoesOn k j (fun _ => True) s u))

/-- Factorisations with regularised pivots, solves, the integer search and QP.STEP: what each writes, by its recurrence, for
every order. (R97, R156, R161, R163, R164, R171, R172, R183.) -/
def Obligations.MacroFactorsAndSolves : Prop :=
  ∀ (k : Nat) (j : CalJob) (m : Macro) (s : State), s.domOn 5 = true → s.calReady k m.op = some (j, m) → opShapeOk j.hdls m = true → m.h0 < 256 →
    (∀ e ∈ j.facts, e.1 < 256) →
    let h := j.hdl
    let d := j.dbl (opHandles m)
    let x := fun n i c => (s.calMat j d n).at i c
    let n := (h m.h0).rows
    let kind := sget (fun _ => 0) j.facts m.h0
    let all := fun (_ _ : Nat) => True
    -- The pivot rule R171 for a matrix `a`.
    let tau := fun (a : Mat) => cMul d (par d (if dW j.d 0x28 = 0 then 0x35800000 else dW j.d 0x28)) (infNorm d a)
    let lam := fun a => if dW j.d 0x2C = 0 then tau a else par d (dW j.d 0x2C)
    let zero := fun (a : Mat) => cAbs d (infNorm d a) == 0
    let hit := fun (chol : Bool) a v => (if chol then cLt d v (tau a) else cLt d (cAbs d v) (tau a)) || (zero a && cAbs d v == 0)
    let piv := fun (chol : Bool) a v =>
      if !hit chol a v then v else if zero a then lam a
      else if chol then (if cLt d (cAdd d v (lam a)) (tau a) then tau a else cAdd d v (lam a))
      else if cAbs d v = 0 then lam a
      else if fpSign (fmtOf d) v then cNeg d (cAdd d (cAbs d v) (lam a)) else cAdd d (cAbs d v) (lam a)
    let hits := fun chol a r (v : Nat → Nat) => ((List.range r).filter fun i => hit chol a (v i)).length
    let badDim := fun chol a r v => zero a = true ∧ cAbs d (lam a) = 0 ∧ 0 < hits chol a r v
    let sym : Mat := (List.range n).map fun i => (List.range n).map fun c => if c ≤ i then x m.h0 i c else x m.h0 c i
    (m.op = 3 → InRegion j m.h0 → ∃ l : Nat → Nat → Nat,
      let v := fun i => cDotSub d (x m.h0 i i) ((List.range i).map fun q => (l i q, l i q))
      (∀ i c, c < i → i < n → l i c = cDiv d (cDotSub d (x m.h0 i c) ((List.range c).map fun q => (l i q, l c q))) (l c c)) ∧
      (∀ i, i < n → l i i = cSqrt d (piv true sym (v i))) ∧
      (badDim true sym n v → After (.factChol k) s (JobOff k false s)) ∧
      (¬badDim true sym n v → After (.factChol k) s (MacroWrites k j m.h0 d all (fun i c => if c ≤ i then l i c else 0)
        (fun j' => sget (fun _ => 0) j'.facts m.h0 = 1 ∧ j'.pivots = j.pivots + hits true sym n v) s))) ∧
    (m.op = 4 → InRegion j m.h0 → ∃ l y : Nat → Nat → Nat,
      let v := fun i => cDotSub d (x m.h0 i i) ((List.range i).map fun q => (y i q, l i q))
      (∀ i c, c < i → i < n → y i c = cDotSub d (x m.h0 i c) ((List.range c).map fun q => (y i q, l c q)) ∧ l i c = cDiv d (y i c) (l c c)) ∧
      (∀ i, i < n → l i i = piv false sym (v i)) ∧
      (badDim false sym n v → After (.factLdl k) s (JobOff k false s)) ∧
      (¬badDim false sym n v → After (.factLdl k) s (MacroWrites k j m.h0 d all (fun i c => if c ≤ i then l i c else 0)
        (fun j' => sget (fun _ => 0) j'.facts m.h0 = 2 ∧ j'.pivots = j.pivots + hits false sym n v) s))) ∧
    (m.op = 5 → m.h0 ≠ m.h1 → m.h1 < 256 → InRegion j m.h0 → InRegion j m.h1 → Apart j m.h0 m.h1 → ∃ (r : Nat → Nat → Nat → Nat) (y : Nat → Nat),
      let order := min n (h m.h0).cols
      let below := fun q => (List.range n).filter fun i => decide (q < i)
      let sig := fun q => calSum d 0 ((below q).map fun i => (r q i q, r q i q))
      let flat := fun q => cAbs d (sig q) == 0
      let beta := fun q =>
        let nrm := cSqrt d (calSum d (sig q) [(r q q q, r q q q)])
        if flat q then r q q q else if fpSign (fmtOf d) (r q q q) then nrm else cNeg d nrm
      let v := fun q i => if flat q then 0 else cDiv d (r q i q) (cSub d (r q q q) (beta q))
      let w := fun q c => cMul d (y q) (calSum d (r q q c) ((below q).map fun i => (v q i, r q i c)))
      let a := s.calMat j d m.h0
      (∀ i c, i < n → c < (h m.h0).cols → r 0 i c = x m.h0 i c) ∧
      (∀ q i c, q < order → i < n → c < (h m.h0).cols → y q = (if flat q then 0 else cDiv d (cSub d (beta q) (r q q q)) (beta q)) ∧
        r (q + 1) i c =
          if i < q ∨ c < q then r q i c
          else if c = q then (if i = q then piv false a (beta q) else v q i)
          else if i = q then cSub d (r q q c) (w q c) else cDotSub d (r q i c) [(w q c, v q i)]) ∧
      (badDim false a order beta → After (.factQr k) s (JobOff k false s)) ∧
      (¬badDim false a order beta → After (.factQr k) s fun t =>
        HoldsElems j m.h0 d all (r order) t ∧ HoldsElems j m.h1 d all (fun i _ => y i) t ∧
        (¬TooBig j m.h0 d all (r order) → ¬TooBig j m.h1 d all (fun i _ => y i) →
          GoesOn k j (fun j' => sget (fun _ => 0) j'.facts m.h0 = 3 ∧ j'.pivots = j.pivots + hits false a order beta) s t) ∧
        (TooBig j m.h0 d all (r order) ∨ TooBig j m.h1 d all (fun i _ => y i) → JobOff k false s t))) ∧
    (m.op = 6 → m.flags % 2 = 0 → InRegion j m.h1 → ∃ y : Nat → Nat → Nat,
      (∀ i c, i < (h m.h1).rows → c < (h m.h1).cols →
        let v := cDotSub d (x m.h1 i c) ((List.range i).map fun q => (x m.h0 i q, y q c))
        y i c = if kind = 2 then v else cDiv d v (x m.h0 i i)) ∧
      After (.solveF k) s (MacroWrote k j m.h1 d y s)) ∧
    (m.op = 6 → m.flags % 2 = 1 → InRegion j m.h1 → ∃ b : Nat → Nat → Nat → Nat,
      let below := fun q => (List.range (h m.h1).rows).filter fun i => decide (q < i)
      let w := fun q c => cMul d (x m.h2 q 0) (calSum d (b q q c) ((below q).map fun i => (x m.h0 i q, b q i c)))
      (∀ i c, b 0 i c = x m.h1 i c) ∧
      (∀ q i c, q < (h m.h2).rows → i < (h m.h1).rows → c < (h m.h1).cols → b (q + 1) i c =
        if i < q then b q i c else if i = q then cSub d (b q q c) (w q c) else cDotSub d (b q i c) [(w q c, x m.h0 i q)]) ∧
      After (.solveF k) s (MacroWrote k j m.h1 d (b (h m.h2).rows) s)) ∧
    (m.op = 7 → m.flags % 2 = 0 → NoEffect (.ilsSearch k) s ∧ (InRegion j m.h1 → ∃ z : Nat → Nat → Nat,
      let order := (h m.h0).cols
      let u := fun i q => if j.lower m.h0 then x m.h0 q i else x m.h0 i q
      (∀ i c, i < (h m.h1).rows → c < (h m.h1).cols →
        let v := cDotSub d (x m.h1 i c) (((List.range order).filter fun q => decide (i < q)).map fun q => (u i q, z q c))
        z i c = if order ≤ i then x m.h1 i c else if kind = 2 then v else cDiv d v (u i i)) ∧
      After (.solveB k) s (MacroWrote k j m.h1 d z s))) ∧
    (m.op = 7 → m.flags % 2 = 1 → NoEffect (.solveB k) s ∧ (InRegion j m.h2 →
      let v := (s.calMat j d m.h1).col 0
      let r := ilsSolve d (s.calMat j d m.h0) v (if m.p1 = 0 then 200000 else m.p1)
      let left := fun (j' : CalJob) => (∀ w, r.1.ratio d = some w → j'.ratio = w) ∧ j'.flags = j.flags |||
        (if r.2 then 2 ^ 15 else if fpLeB f32 (if m.p0 = 0 then 0x40400000 else m.p0) j'.ratio.toNat then 2 ^ 14 else 0)
      (∀ z g, r.1.best = some (z, g) →
        After (.ilsSearch k) s (MacroWrites k j m.h2 d all (fun i _ => cOfInt d ((z[i]?).getD 0)) left s)) ∧
      (r.1.best = none → After (.ilsSearch k) s fun t => GoesOn k j left s t ∨ JobOff k false s t) ∧
      (v.length = 1 → ∀ f, floorOf d (x m.h1 0 0) = some f → After (.ilsSearch k) s (MacroWrites k j m.h2 d all
        (fun _ _ => cOfInt d (if nearLow d (x m.h1 0 0) f (f + 1) then f else f + 1)) left s)))) ∧
    (m.op = 13 → InRegion j m.h3 →
      let p := s.qpProblem j d m
      let x0 := (List.range n).map fun i => x m.h3 i 2
      let lo := fun i => x m.h3 i 0
      let hi := fun i => x m.h3 i 1
      let start := (List.range n).map fun i =>
        if cLt d (x m.h3 i 2) (lo i) then lo i else if cLt d (hi i) (x m.h3 i 2) then hi i else x m.h3 i 2
      let moved := ((List.range n).filter fun i => numAt start i != numAt x0 i).length
      let maxit := if m.imm = 0 then dW j.d 4 else m.imm
      let r := p.solve (par d m.p0) (par d m.p1) maxit (j.active.map fun w => wbits w 23 0) start
      (p.feasible (par d m.p1) start = false → After (.qpStep k) s (JobOff k false s)) ∧
      (p.feasible (par d m.p1) start = true → p.feasible (par d m.p1) r.x = true ∧ r.iters ≤ maxit ∧
        (r.opt = true → ∀ e ∈ r.act, p.isEq e.1 = false → cLt d (numAt r.mult e.1) (cNeg d (par d m.p0)) = false) ∧
        (r.opt = false → r.iters = maxit) ∧
        After (.qpStep k) s (MacroWrites k j m.h3 d (fun _ c => 2 ≤ c)
          (fun i c => if c = 3 then numAt r.mult i else if i < n then numAt r.x i else numAt r.ax (i - n))
          (fun j' => j'.clipped = j.clipped + moved ∧ j'.iters = j.iters + r.iters ∧ (j'.limited = true ↔ j.limited = true ∨ r.opt = false)) s)))

/-- Only channel `c` of the baseband, and the registers `p` names, may have changed. -/
def OnlyChannel (c : Nat) (p : Nat → Prop) (s t : State) : Prop :=
  t = { s with regs := t.regs, inst := t.inst, freeIdx := t.freeIdx, nbb := { s.nbb with ch := t.nbb.ch } } ∧ RegsBut p s t ∧ ∀ d, d ≠ c → t.nch d = s.nch d

/-- Channel configuration: a rejected write only sets CFG_REJ, an accepted one takes effect and EN starts PULLIN; correlator
offsets; time of week. (R186, R187, R188, R192, R194, R201.) -/
def Obligations.ChannelConfiguration : Prop :=
  ∀ (c : Fin 192) (v : Word) (s : State), s.domOn 9 = true →
    let st := Reg.NBB_CH_STAT c
    let old := s.rd (Reg.NBB_CH_CFG c)
    let newId := wbits v 9 8 ≠ wbits old 9 8 ∨ wbits v 23 11 ≠ wbits old 23 11
    let badId := wbits v 9 8 = 3 ∨ prnOk (wbits v 15 11) (wbits v 23 16) = false
    let l := wbits v 31 24
    let badLeader := l ≠ 255 ∧ (192 ≤ l ∨ l = c.val ∨ s.bits (Reg.NBB_CH_CFG l) 23 11 ≠ wbits v 23 11 ∨
      s.bits (Reg.NBB_CH_CFG l) 9 8 = wbits v 9 8)
    let rejected := (newId ∧ chState s c ≠ 0) ∨ badId ∨ badLeader
    let x := s.nch c
    let starts := wbit v 0 = true ∧ chState s c = 0
    let rej := fun t => t.bit st 3 = true ∧ RegEffect (· = st) s t ∧ chState t c = chState s c
    (rejected → After (.nbbChCfgWrite c v) s rej) ∧
    (¬rejected → After (.nbbChCfgWrite c v) s fun t => t.rd (Reg.NBB_CH_CFG c) = v &&& 0xFFFFFB7F ∧
      chState t c = (if starts then 1 else chState s c) ∧ OnlyChannel c (fun a => a = Reg.NBB_CH_CFG c ∨ a = st) s t ∧
      (starts → (t.nch c).acc1 = (t.nch c).fCar ∧ (t.nch c).acc2 = 0 ∧ (t.nch c).acc3 = 0 ∧ (t.nch c).lockMs = 0 ∧ (t.nch c).tow = false) ∧
      (¬starts → t.freeIdx = s.freeIdx ∧ t.nch c = if wbit v 2 = false ∧ x.aided = true then
        { x with acc1 := fA x.acc1 (aidNow s x), aided := false } else x)) ∧
    (let e := wbits v 3 0
     (1 ≤ e → e ≤ 8 → e < wbits v 7 4 → After (.nbbSpcWrite c v) s fun t => t.rd (Reg.NBB_CH_SPC c) = v &&& 0xFFFFF ∧
       RegEffect (· = Reg.NBB_CH_SPC c) s t) ∧
     (e < 1 ∨ 8 < e ∨ wbits v 7 4 ≤ e → After (.nbbSpcWrite c v) s rej)) ∧
    After (.towWrite c v) s fun t => t.rd (Reg.NBB_CH_TOW c) = v ∧ OnlyChannel c (· = Reg.NBB_CH_TOW c) s t ∧
      (t.nch c).tow = wbit v 31 ∧ (t.nch c).half = wbit v 31 ∧
      (wbit v 31 = true → (t.nch c).addMs = x.addMs + wbits v 29 0 ∧ (t.nch c).addHalf = x.addHalf + b2n (wbit v 30) ∧
        (t.nch c).count = x.count) ∧ (wbit v 31 = false → (t.nch c).count = x.since)

/-- Loop updates: dumps shown, the filter's new terms, IDLE with EN clear, COAST on a bad gain set, lock after 20 updates,
LOST; an aid not renewed ends. (R187, R188, R190, R191, R192, R193, R195, R200, R201.) -/
def Obligations.LoopUpdates : Prop :=
  ∀ (c : Fin 192) (iq : List (Int × Int)) (cn0 : BitVec 12) (sym : Option (BitVec 16)) (s : State), s.domOn 9 = true →
    let go := Instr.loopUpdate c iq cn0 sym
    let cfg := s.rd (Reg.NBB_CH_CFG c)
    let g := wbits cfg 6 4
    let st := chState s c
    let x := s.nch c
    let hist := ((iq[2]?).getD (0, 0) :: x.hist).take 20
    let weak := fpLtB f64 (fD (fOfInt cn0.toNat) (fOfInt 16)) (gainF s g 8)
    let long := fpLeB f64 (gainF s g 9) (fOfInt (x.loss + 1 : Nat))
    let runs := st ≠ 0 ∧ wbit cfg 0 = true
    (st = 0 → NoEffect go s) ∧
    (st ≠ 0 → wbit cfg 0 = false → After go s fun t => chState t c = 0 ∧ t.nch c = { nbbChIdle with aid := x.aid, aidNew := x.aidNew } ∧
      OnlyChannel c (· = Reg.NBB_CH_STAT c) s t) ∧
    (runs → After go s fun t => t.bits (Reg.NBB_CH_STAT c) 27 16 = cn0.toNat ∧
      ∀ k, k < 7 → t.rdN (Reg.NBB_CH_CORR c k) = (fpCast f64 f32 0 (magF ((iq[k]?).getD (0, 0)))).1 % 2 ^ 32) ∧
    (runs → gainValid s g = false → After go s fun t => chState t c = 4 ∧ t.bit (Reg.NBB_CH_STAT c) 5 = true ∧
      (t.nch c).acc1 = x.acc1 ∧ (t.nch c).acc2 = x.acc2) ∧
    (runs → gainValid s g = true → st = 3 → After go s fun t => chState t c = 3 ∧ (wbit cfg 3 = false → t.nbb.acq = s.nbb.acq) ∧
      (wbit cfg 3 = true → x.own = false → s.nbb.acq.length < 32 → ∃ w, t.nbb.acq = s.nbb.acq ++ [(w, true)])) ∧
    (runs → gainValid s g = true → st = 1 ∨ st = 2 → weak = true → long = true → After go s fun t => chState t c = 3 ∧
      t.bit Reg.NBB_STAT 5 = true) ∧
    (runs → gainValid s g = true → st = 1 → weak = false → fpLeB f64 (gainF s g 7) (lockInd hist) = true → After go s fun t =>
      chState t c = if 19 ≤ x.up then 2 else 1) ∧
    (runs → gainValid s g = true → st = 2 → weak = false → fpLtB f64 (lockInd hist) (fS (gainF s g 7) 0x3FD3333333333333) = true →
      After go s fun t => chState t c = (if 19 ≤ x.down then 1 else 2) ∧
        t.bits (Reg.NBB_CH_STAT c) 15 8 = (s.bits (Reg.NBB_CH_STAT c) 15 8 + if 19 ≤ x.down then 1 else 0) % 256) ∧
    (runs → gainValid s g = true → st = 2 → wbits cfg 31 24 = 255 → wbit cfg 2 = false → x.aided = false → After go s fun t =>
      let sig := wbits cfg 15 11
      let dump := fun k => (iq[k]?).getD (0, 0)
      let d := discr (isPilot sig) (s.bits (Reg.NBB_CH_SPC c) 3 0) x.prev (dump 1) (dump 2) (dump 3)
      let ef := if wbit cfg 1 then d.2.1 else 0
      let k := gainF s g
      let y := t.nch c
      y.acc2 = fA (fA x.acc2 (fM (k 2) d.1)) (fM (k 4) ef) ∧
      y.acc1 = fA (fA (fA x.acc1 (fM (k 1) d.1)) (fM (k 3) ef)) y.acc2 ∧
      y.fCar = fA (fA 0 y.acc1) (fM (k 0) d.1) ∧ y.acc3 = fA x.acc3 (fM (k 6) d.2.2) ∧
      y.rCode = fA (fA (fM (fOfInt (chipRate sig)) (fA (fOfInt 1) (fD y.fCar (fOfInt (carrierHz sig (wbits cfg 23 16))))))
        (fM (k 5) d.2.2)) y.acc3) ∧
    (runs → After go s fun t => (t.nch c).ms = (x.ms + 1 + x.addMs) % weekMs (wbits cfg 15 11) ∧ (t.nch c).addMs = 0 ∧
      (t.nch c).prev = (iq[2]?).getD (0, 0) ∧ (t.nch c).hist = hist ∧ (t.nch c).last = s.clk ∧
      (t.nch c).adr = (((x.adr : Int) + overTime x.fCar (s.clk - x.last : Nat)) % 2 ^ 64).toNat) ∧
    (let age := (if s.bits Reg.NBB_AID_CFG 15 8 = 0 then 50 else s.bits Reg.NBB_AID_CFG 15 8) * 1000000
     let newest := x.aidNew.orElse fun _ => x.aid
     (∀ d r t0, newest = some (d, r, t0) → t0 + age ≤ s.clk → After (.aidExpire c) s fun t => (t.nch c).aid = none ∧
       (t.nch c).aidNew = none ∧ (t.nch c).aided = false ∧ (t.nch c).acc1 = (if x.aided then fA x.acc1 (aidNow s x) else x.acc1) ∧
       OnlyChannel c (fun _ => False) s t) ∧
     (∀ d r t0, newest = some (d, r, t0) → s.clk < t0 + age → NoEffect (.aidExpire c) s) ∧
     (newest = none → NoEffect (.aidExpire c) s))

/-- Acquisition: queued requests, invalid ones ended at once, results on the search grid in order, the hand-off to an IDLE
channel, the result FIFO. (R196, R197, R198.) -/
def Obligations.AcquisitionEngine : Prop :=
  (∀ s : State, s.domOn 9 = true →
    let r := [0, 1, 2, 3].map fun k => s.rd (Reg.NBB_ACQ_REQ k)
    let w3 := r.getD 3 0
    let bad := prnOk (wbits (r.getD 0 0) 15 11) (wbits (r.getD 0 0) 23 16) = false ∨ wbits w3 3 0 < 1 ∨ 10 < wbits w3 3 0 ∨ wbits w3 11 4 = 0
    (s.nbb.acq.length < 32 → bad → s.nbb.res.length < 32 → After .acqPush s fun t => t.nbb.acq = s.nbb.acq ∧ t.bit Reg.NBB_STAT 3 = true ∧
      t.nbb.res = s.nbb.res ++ [[r.getD 0 0, 0, 0, 6]]) ∧
    (s.nbb.acq.length < 32 → ¬bad → After .acqPush s fun t =>
      t = { s with nbb := { s.nbb with acq := s.nbb.acq ++ [([0, 1, 2, 3].map fun k => s.rd (Reg.NBB_ACQ_REQ k), false)] } }) ∧
    (32 ≤ s.nbb.acq.length → After .acqPush s fun t => t.nbb = s.nbb ∧ t.bit Reg.NBB_STAT 4 = true) ∧
    (∀ r rest, s.nbb.res = r :: rest → After .acqPop s fun t => t.nbb.res = rest ∧
      t.resp = .data (BitVec.ofNat 64 (s.rdN (Reg.NBB_ACQ_RES 3))) ∧
      ∀ q rest', rest = q :: rest' → ∀ k, k < 4 → t.rd (Reg.NBB_ACQ_RES k) = q.getD k 0) ∧
    (s.nbb.res = [] → After .acqPop s fun t => t = { s with resp := .data (BitVec.ofNat 64 (s.rdN (Reg.NBB_ACQ_RES 3))) })) ∧
  (∀ (dop phase : Word) (ratio : BitVec 16) (s : State), s.domOn 9 = true →
    let go := Instr.acqResult dop phase ratio
    (s.nbb.acq = [] → NoEffect go s) ∧
    (∀ r own rest, s.nbb.acq = (r, own) :: rest → s.nbb.res.length < 32 →
      let w0 := r.getD 0 0
      let c := wbits w0 31 24
      let thr := if wbits (r.getD 3 0) 31 16 = 0 then 0x280 else wbits (r.getD 3 0) 31 16
      let bad := inGrid r dop phase = false
      let result := fun (d p : Word) (f : Bool) (st q : Nat) (t : State) => t.nbb.acq = rest ∧ t.bit Reg.NBB_STAT 3 = true ∧
        t.nbb.res = s.nbb.res ++ [[w0, d, p, BitVec.ofNat 32 (b2n f + 2 * st + 65536 * q)]]
      (bad → NoEffect go s) ∧
      (∀ i, i ≤ 2 * dopBins r → dop.toNat = binDop r i → phase.toNat < codeMs (wbits w0 15 11) * halfPerMs (wbits w0 15 11) → ¬bad) ∧
      (¬bad → ratio.toNat < thr → After go s (result dop phase false 0 ratio.toNat)) ∧
      (¬bad → thr ≤ ratio.toNat → c = 255 → After go s (result dop phase true 0 ratio.toNat)) ∧
      (¬bad → thr ≤ ratio.toNat → c < 192 → own = false → chState s c = 0 → After go s fun t => result dop phase true 1 ratio.toNat t ∧
        chState t c = 1 ∧ (t.nch c).fCar = (fpCast f32 f64 0 dop.toNat).1 ∧
        (t.nch c).phase = (phase.toNat % halfPerMs (wbits w0 15 11) : Nat) ∧ t.bit (Reg.NBB_CH_CFG c) 0 = true ∧ t.bits (Reg.NBB_CH_CFG c) 9 8 = wbits w0 9 8 ∧
        t.bits (Reg.NBB_CH_CFG c) 23 11 = wbits w0 23 11 ∧ t.bits (Reg.NBB_CH_CFG c) 7 1 = s.bits (Reg.NBB_CH_CFG c) 7 1) ∧
      (¬bad → thr ≤ ratio.toNat → c < 192 → own = false → chState s c ≠ 0 → After go s fun t => result dop phase true 2 ratio.toNat t ∧
        chState t c = chState s c ∧ t.rd (Reg.NBB_CH_CFG c) = s.rd (Reg.NBB_CH_CFG c))) ∧
    (∀ p rest, s.nbb.acq = p :: rest → inGrid p.1 dop phase = true → 32 ≤ s.nbb.res.length → After go s fun t => t.nbb.res = s.nbb.res ∧ t.nbb.acq = rest ∧
      t.bit Reg.NBB_STAT 4 = true))

/-- Epoch records published once and put in the ring where they fit; notches, jamming indicators, quiet captures and the
antenna states. (R202, R203, R204, R205, R206.) -/
def Obligations.ObservablesAndAntennas : Prop :=
  (∀ s : State, s.domOn 9 = true →
    (∀ e, s.nbb.ep = some e → e.pub = false → s.domOn 0 = true → After .obsRecordPublish s fun t =>
      t.nbb = { s.nbb with ep := some { e with pub := true } } ∧ ∀ j, j < 12 →
        let ws := (e.recs.filter fun r => r.1 / 16 = j).flatMap fun r => r.2
        (t.feltCh 10 j).pend = if ws = [] then (s.feltCh 10 j).pend else some ws) ∧
    (s.nbb.ep = none → NoEffect .obsRecordPublish s ∧ NoEffect .epochBlockWrite s) ∧
    (∀ e, s.nbb.ep = some e → e.blk = false → s.bit Reg.NBB_RING_CFG 19 = true →
      let size := 2 ^ min (s.bits Reg.NBB_RING_CFG 27 24) 12 * 4096
      let n := 4 * (epochBlock s e).length
      let wr := s.rdN Reg.NBB_RING_WR
      let used := ringUsed wr (s.rdN Reg.NBB_RING_RD) size
      (used + n < size → After .epochBlockWrite s fun t => t.rdN Reg.NBB_RING_WR = (wr + n) % size ∧ t.bit Reg.NBB_STAT 0 = true ∧
        t.nbb = { s.nbb with ep := some { e with blk := true } }) ∧
      (size ≤ used + n → After .epochBlockWrite s fun t => t.rdN Reg.NBB_RING_WR = wr ∧ t.bit Reg.NBB_STAT 2 = true ∧ t.dram = s.dram))) ∧
  (∀ (a : Fin 3) (b : Fin 2) (k : Fin 4) (lines : List (BitVec 16 × Nat)) (s : State), s.domOn 9 = true →
    let r := Reg.NBB_ANT_B_NOTCH a b k
    let go := Instr.notchUpdate a b k lines
    let held := fun (f : BitVec 16) => ∃ q, q < 4 ∧ q ≠ k.val ∧ s.bits (Reg.NBB_ANT_B_NOTCH a b q) 1 0 = 2 ∧
      s.bit (Reg.NBB_ANT_B_NOTCH a b q) 3 = true ∧ s.bits (Reg.NBB_ANT_B_NOTCH a b q) 19 4 = f.toNat
    let line := notchLine s a b k lines
    let linked := a ≠ 0 ∧ s.bit r 2 = true
    (linked → After go s fun t => t.bits r 23 3 = s.bits (Reg.NBB_ANT_B_NOTCH 0 b k) 23 3 ∧ RegEffect (· = r) s t) ∧
    (¬linked → s.bits r 1 0 = 1 → After go s fun t => t.bit r 3 = true ∧ RegEffect (· = r) s t) ∧
    (¬linked → s.bits r 1 0 = 0 → After go s fun t => t.bit r 3 = false ∧ RegEffect (· = r) s t) ∧
    (∀ f, line = some f → ∃ h, (f, h) ∈ lines ∧ 1200 ≤ h ∧ ¬held f ∧ ∀ g i, (g, i) ∈ lines → ¬held g → i ≤ h) ∧
    (line = none → ∀ f h, (f, h) ∈ lines → h < 1200 ∨ held f) ∧
    (∀ f, line = some f → ¬linked → s.bits r 1 0 = 2 → After go s fun t => t.bit r 3 = true ∧ t.bits r 19 4 = f.toNat ∧
      RegsBut (· = r) s t) ∧
    (∀ t0, line = none → ¬linked → s.bits r 1 0 = 2 → sget (fun _ => none) s.nbb.noLine (8 * a.val + 4 * b.val + k.val) = some t0 →
      t0 + 100000000 ≤ s.clk → After go s fun t => t.bit r 3 = false ∧ RegEffect (· = r) s t)) ∧
  (∀ (a : Fin 3) (b : Fin 2) (agc n0 : Int) (clip : Byte) (s : State), s.domOn 9 = true →
    let ref := (sget (fun _ => none) s.nbb.quiet (2 * a.val + b.val)).getD (quietStart s a b)
    let j := min 15 ((max (max (ref.1 - agc) (n0 - ref.2)) 0).toNat / 200)
    let field := fun u => State.bits u (Reg.NBB_ANT_STAT a) (19 + 4 * b.val) (16 + 4 * b.val)
    let thr := s.bits (Reg.NBB_ANT_CTL a) 6 3
    After (.jamEval a b agc n0 clip) s fun t => field t = j ∧ t.bits (Reg.NBB_ANT_STAT a) 15 0 = s.bits (Reg.NBB_ANT_STAT a) 15 0 ∧
      (thr ≠ 0 → field s < thr → thr ≤ j → t.bit Reg.NBB_STAT 7 = true) ∧ (thr = 0 ∨ thr ≤ field s ∨ j < thr → t.rd Reg.NBB_STAT = s.rd Reg.NBB_STAT)) ∧
  (∀ (a : Fin 3) (ma : Nat) (s : State), s.domOn 9 = true →
    let st := Reg.NBB_ANT_STAT a
    let cap := fun (u : State) b => sget (fun _ => none) u.nbb.cap (2 * a.val + b)
    (s.bit (Reg.NBB_ANT_CTL a) 7 = false → After (.quietCapture a) s fun t => t.bit (Reg.NBB_ANT_CTL a) 7 = true ∧
      RegsBut (· = Reg.NBB_ANT_CTL a) s t ∧ ∀ b, b < 2 → cap t b = some (s.clk, 0, 0, 0)) ∧
    (∀ t0 x y n x' y' n', cap s 0 = some (t0, x, y, n) → cap s 1 = some (t0, x', y', n') → t0 + 10000000000 ≤ s.clk → 0 < n → 0 < n' →
      After (.quietCaptureDone a) s fun t => t.bit (Reg.NBB_ANT_CTL a) 7 = false ∧ cap t 0 = none ∧ cap t 1 = none ∧
        sget (fun _ => none) t.nbb.quiet (2 * a.val) = some (x / (n : Int), y / (n : Int)) ∧
        sget (fun _ => none) t.nbb.quiet (2 * a.val + 1) = some (x' / (n' : Int), y' / (n' : Int))) ∧
    (s.bits st 1 0 = 1 → ma < 3 → After (.antOpen a ma) s fun t => t.bits st 1 0 = 2 ∧ t.bit Reg.NBB_STAT 6 = true) ∧
    (s.bits st 1 0 ≠ 1 ∨ 3 ≤ ma → NoEffect (.antOpen a ma) s) ∧
    (s.bits st 1 0 = 2 → 3 ≤ ma → ma ≤ 60 → After (.antOpenClear a ma) s fun t => t.bits st 1 0 = 1 ∧ RegEffect (· = st) s t) ∧
    (s.bits st 1 0 = 1 ∨ s.bits st 1 0 = 2 → 60 < ma → After (.antShort a ma) s fun t => t.bits st 1 0 = 3 ∧ t.bit Reg.NBB_STAT 6 = true ∧
      sget (fun _ => false) t.nbb.short a = true) ∧
    (sget (fun _ => false) s.nbb.short a = true → s.bits (Reg.NBB_ANT_CTL a) 1 0 = 1 ∨ s.bits (Reg.NBB_ANT_CTL a) 1 0 = 2 →
      After (.antRetry a) s fun t => t.bits st 1 0 = 1 ∧ sget (fun _ => false) t.nbb.short a = false ∧ RegsBut (· = st) s t))

/-- The time model: a commit is adopted, slewed or stepped at a whole second; slews end, holdover begins, and PPS_OUT pulses
and ends. (R208, R209, R210, R211, R212, R290.) -/
def Obligations.TimeModel : Prop :=
  ∀ s : State, s.domOn 9 = true →
    let x := s.nbb.time
    let st := s.bits Reg.NBB_TIME_STAT 1 0
    let new := writtenModel s
    let scale := if s.bits Reg.NBB_TSOL_CTL 2 1 = 1 then 1 else 0
    let e := new.eval s.ext - effNow s
    let fresh := st = 0 ∨ scale ≠ x.scale
    let leap := leapOf scale e
    let rest := e - leap * (1000000000 * 2 ^ 40)
    let sec := ppsSec s (effNow s)
    let due := st ≠ 0 ∧ s.bit Reg.NBB_PPS_CFG 0 = true ∧ x.next ≤ sec ∧ ∀ m d w, x.step = some (m, d, w) → sec < w
    let width := let w := s.bits Reg.NBB_PPS_CFG 11 2
      if w < 1 ∨ 500 < w then 100 else w
    After .tsolCommit s (fun t => t.bits Reg.NBB_TIME_STAT 1 0 = 1 ∧ t.nbb.time.unc = s.rdN Reg.NBB_TSOL_UNC ∧
      t.nbb.time.u0 = min (s.rdN Reg.NBB_TSOL_UNC + ns40 (slewNow t.nbb.time s.ext)) (2 ^ 32 - 1) ∧ t.rdN Reg.NBB_TIME_UNC = t.nbb.time.u0 ∧
      t.nbb.time.commit = s.clk ∧ t.nbb.time.scale = scale) ∧
    (fresh → After .tsolCommit s fun t => t.nbb.time.model = new ∧ t.nbb.time.r0 = 0 ∧ t.nbb.time.step = none ∧
      t.bit Reg.NBB_TIME_STAT 2 = false) ∧
    (e.natAbs < 2000 * 2 ^ 40 → leap = 0) ∧
    (¬fresh → x.step = none → rest.natAbs < 2000 * 2 ^ 40 → After .tsolCommit s fun t => t.nbb.time.model = new ∧ t.nbb.time.r0 = rest ∧
      t.nbb.time.rAt = s.ext ∧ t.nbb.time.step = none ∧ t.nbb.time.next = x.next + leap ∧
      t.bit Reg.NBB_TIME_STAT 2 = decide (rest ≠ 0)) ∧
    (¬fresh → x.step = none → 2000 * 2 ^ 40 ≤ rest.natAbs → After .tsolCommit s fun t => t.nbb.time.model = x.model ∧
      t.nbb.time.step = some (new, rest, sec + 1)) ∧
    (∀ m d w, ¬fresh → x.step = some (m, d, w) → After .tsolCommit s fun t => t.nbb.time.model = x.model ∧
      t.nbb.time.step = some (new, e, w)) ∧
    (∀ m d w, x.step = some (m, d, w) →
      (w ≤ sec → After .timeStep s fun t => t.nbb.time.model = m ∧ t.nbb.time.step = none ∧
        t.rd64 Reg.NBB_STEP_AT_LO Reg.NBB_STEP_AT_HI = (secLocal s w % 2 ^ 64).toNat ∧ t.rd Reg.NBB_STEP_SIZE = stepSize d ∧
        t.bit Reg.NBB_TIME_STAT 3 = true ∧ t.bit Reg.NBB_STAT 8 = true) ∧
      (sec < w → NoEffect .timeStep s)) ∧
    (x.step = none → NoEffect .timeStep s) ∧
    (s.bit Reg.NBB_TIME_STAT 2 = true → slewNow x s.ext = 0 → After .slewEnd s fun t => t.nbb.time.r0 = 0 ∧
      t.bit Reg.NBB_TIME_STAT 2 = false ∧ RegsBut (fun a => a = Reg.NBB_TIME_STAT ∨ a = Reg.NBB_TIME_UNC) s t) ∧
    (s.bit Reg.NBB_TIME_STAT 2 = false ∨ slewNow x s.ext ≠ 0 → NoEffect .slewEnd s) ∧
    (st = 1 → x.commit + holdTimeout s * 1000000 ≤ s.clk → After .holdoverTimeout s fun t => t.bits Reg.NBB_TIME_STAT 1 0 = 2 ∧
      t.nbb.time = x ∧ t.bit Reg.NBB_STAT 8 = true ∧ t.lib.gm = false ∧
      t.out = s.out ++ if s.lib.gm then [.announce 248 (some 255) none] else []) ∧
    (st ≠ 1 ∨ s.clk < x.commit + holdTimeout s * 1000000 → NoEffect .holdoverTimeout s) ∧
    (due → After .ppsOutPulse s fun t => t.out = s.out ++ [.pps true] ∧ t.nbb.time = { x with next := sec + 1, pulse := some s.clk } ∧
      t.rd64 Reg.NBB_PPS_LAST_LO Reg.NBB_PPS_LAST_HI = (secLocal s sec % 2 ^ 64).toNat ∧
      t.rd64 Reg.NBB_PPS_SEC_LO Reg.NBB_PPS_SEC_HI = (sec % 2 ^ 64).toNat) ∧
    (¬due → NoEffect .ppsOutPulse s) ∧
    (∀ t0, x.pulse = some t0 →
      (t0 + width * 1000000 ≤ s.clk → After .ppsPulseEnd s fun t => t = { s with out := s.out ++ [.pps false], nbb := t.nbb } ∧
        t.nbb = { s.nbb with time := { x with pulse := none } }) ∧
      (s.clk < t0 + width * 1000000 → NoEffect .ppsPulseEnd s)) ∧
    (x.pulse = none → NoEffect .ppsPulseEnd s)

/-- Fusion: a sensor enters ACQUIRE, records leave the ring in order, transforms and targets; the aligned block and Doppler
aids go out. (R218, R219, R220, R222, R224, R225, R228, R230, R231, R236, R404.) -/
def Obligations.Fusion : Prop :=
  ((∀ (k : Fin 64) (v : Word) (s : State), s.domOn 10 = true →
    let was := s.bit (Reg.FSN_SNS_CFG k) 0
    let go := Instr.sensorEnWrite k v
    After go s (fun t => t.rd (Reg.FSN_SNS_CFG k) = v &&& 0x0FFFFF7F ∧ SameMem s t) ∧
    (wbit v 0 ≠ was → After go s fun t => snsClock t k = (if wbit v 0 then 1 else 0) ∧ t.snsH k = fsnSnsIdle ∧ rejected t k = false ∧
      (snsClock s k ≠ (if wbit v 0 then 1 else 0) → t.bit Reg.FSN_STAT 3 = true)) ∧
    (wbit v 0 = was → After go s fun t => RegEffect (· = Reg.FSN_SNS_CFG k) s t)) ∧
  (∀ (v : Word) (s : State), s.domOn 10 = true → After (.subqWrite v) s fun t => t.rd Reg.FSN_SUBQ_WR = v &&& 0xFFFFFFC0 ∧
    RegEffect (· = Reg.FSN_SUBQ_WR) s t) ∧
  (∀ s : State, s.domOn 10 = true →
    let size := 2 ^ min (s.bits Reg.FSN_SUBQ_CFG 27 24) 8 * 4096
    let rd := s.rdN Reg.FSN_SUBQ_RD % size
    let some_ := s.bit Reg.FSN_SUBQ_CFG 19 = true ∧ rd ≠ s.rdN Reg.FSN_SUBQ_WR % size
    let r := s.dramWords (0x800000000 + s.bits Reg.FSN_SUBQ_CFG 18 0 * 4096 + rd) 16
    let kind := wbits (r.getD 0 0) 11 8
    (¬some_ → NoEffect .sampleRecordProcess s) ∧
    (some_ → After .sampleRecordProcess s fun t => t.rdN Reg.FSN_SUBQ_RD = (rd + 64) % size ∧ t.dram = s.dram) ∧
    (some_ → kind = 0 ∨ 6 ≤ kind ∨ s.bit (Reg.FSN_SNS_CFG (wbits (r.getD 0 0) 5 0)) 0 = false → After .sampleRecordProcess s fun t =>
      t.bit Reg.FSN_STAT 6 = true ∧ t.fsn = s.fsn)) ∧
  (∀ s : State, s.domOn 10 = true →
    (s.bit Reg.FSN_XF_CTL 2 = true → After .xfCommit s fun t => t.bit Reg.FSN_STAT 9 = true ∧ t.fsn = s.fsn ∧
      t.rd Reg.FSN_XF_CTL = s.rd Reg.FSN_XF_CTL) ∧
    (s.bit Reg.FSN_XF_CTL 2 = false → After .xfCommit s fun t => t.bit Reg.FSN_XF_CTL 1 = true ∧ t.bit Reg.FSN_XF_CTL 2 = true ∧
      t.bit Reg.FSN_XF_CTL 0 = s.bit Reg.FSN_XF_CTL 0 ∧ t = { s with regs := t.regs, inst := t.inst, fsn := { s.fsn with commit := some s.clk } } ∧
      RegsBut (· = Reg.FSN_XF_CTL) s t) ∧
    (∀ t0 tr, s.fsn.switch = some (t0, tr) →
      (s.clk < t0 + 400000000 → NoEffect .xfHoldEnd s) ∧
      (t0 + 400000000 ≤ s.clk → After .xfHoldEnd s fun t => t.fsn = { s.fsn with switch := none } ∧
        t.bit Reg.FSN_XF_CTL 2 = s.fsn.commit.isSome ∧ RegsBut (· = Reg.FSN_XF_CTL) s t)) ∧
    (s.fsn.switch = none → NoEffect .xfHoldEnd s) ∧
    (s.fsn.sec = false → s.fsn.lastImu + 5000000 ≤ s.clk → After .imuSecondarySwitch s fun t =>
      t = { s with fsn := { s.fsn with sec := true, since := s.ext } }) ∧
    (s.fsn.sec = true ∨ s.clk < s.fsn.lastImu + 5000000 → NoEffect .imuSecondarySwitch s)) ∧
  (∀ (x : Fin 128) (n e d : Word) (s : State), s.domOn 10 = true → After (.trackFix x n e d) s fun t =>
    t.rd (Reg.FSN_TRK_FIX x 0) = n ∧ t.rd (Reg.FSN_TRK_FIX x 1) = e ∧ t.rd (Reg.FSN_TRK_FIX x 2) = d ∧
    (trkState s x = 0 → OnlyRegs s t ∧ t.rd (Reg.FSN_TRK_FIXED x) = s.rd (Reg.FSN_TRK_FIXED x)) ∧
    (trkState s x ≠ 0 → t = { s with regs := t.regs, inst := t.inst, fsn := { s.fsn with trk := t.fsn.trk } } ∧
      t.bit (Reg.FSN_TRK_FIXED x) 0 = true ∧ t.bit (Reg.FSN_TRK_W x 0) 2 = true ∧ trkState t x = trkState s x ∧
      t.trkH x = { s.trkH x with fix := none, rej := false, passes := 0 } ∧ ∀ y, y ≠ x.val → t.trkH y = s.trkH y))) ∧
  (∀ s : State, s.domOn 10 = true →
    let x := s.bits Reg.FSN_ALIGN_CFG 21 20
    let o := s.bits Reg.FSN_ALIGN_CFG 19 6 * 64
    let go := Instr.alignBlockWrite
    (s.fsn.block = none → NoEffect go s) ∧
    (∀ ws, s.fsn.block = some ws →
      (s.domOn (5 + x) = true → After go s fun t => t.fsn = { s.fsn with block := none } ∧ t.bit Reg.FSN_STAT 0 = true ∧
        (∀ i, i < ws.length → rdz t.cal.mem (2 ^ 20 * x + o + 4 * i) 4 = (ws.getD i 0).toNat) ∧
        (∀ a, a < 2 ^ 20 * x + o ∨ 2 ^ 20 * x + o + 4 * ws.length ≤ a → sget zeroByte t.cal.mem a = sget zeroByte s.cal.mem a)) ∧
      (s.domOn (5 + x) = false → s.contained (5 + x) = true → After go s fun t => t.fsn.block = none ∧ t.cal = s.cal ∧
        t.bit Reg.FSN_STAT 1 = true ∧ StallLogged .fusion 2 (5 + x) (0x300000000 + 0x100000 * x + o) s t) ∧
      (s.domOn (5 + x) = false → s.contained (5 + x) = false → s.bit (Reg.PWR_DC_CTL (5 + x)) 2 = false → After go s fun t =>
        t.fsn.block = none ∧ t.cal = s.cal ∧ t.bit Reg.FSN_STAT 1 = true ∧
        StallLogged .fusion 3 (5 + x) (0x300000000 + 0x100000 * x + o) s t) ∧
      (s.domOn (5 + x) = false → s.contained (5 + x) = false → s.bit (Reg.PWR_DC_CTL (5 + x)) 2 = true →
        (∀ y ∈ s.tnd.stalls, y.op ≠ .alignBlock) → After go s fun t => t.fsn = s.fsn ∧ t.cal = s.cal ∧
        2 ≤ t.bits (Reg.PWR_DC_STAT (5 + x)) 1 0 ∧
        t.tnd.stalls = s.tnd.stalls ++ [⟨.fusion, 0, 0x300000000 + 0x100000 * x + o, 5 + x, s.clk, .alignBlock⟩])) ∧
    (s.fsn.aid = false → NoEffect .aidPublish s) ∧
    (s.fsn.aid = true → s.domOn 0 = true → After .aidPublish s fun t => t.fsn = { s.fsn with aid := false } ∧ ∀ i, i < 3 → ∃ m,
      (t.feltCh 11 ((s.bits Reg.FSN_AID_CFG 25 20 + i) % 64)).pend = some m ∧ m.length = 128 ∧
      ∀ k, k < 64 → let e := s.dramWords (0x800000000 + s.bits Reg.FSN_AID_CFG 18 0 * 4096 + 32 * (64 * i + k)) 8
        wbit (e.getD 6 0) 2 = false → m.getD (2 * k) 0 = 0 ∧ m.getD (2 * k + 1) 0 = 0))

/-- Serial ports: FIFOs, line errors, delimiters and the start bit captured after one, the RS-485 release, stamps, their borrow
and calibration. (R238, R239, R240, R241, R242.) -/
def Obligations.SerialPorts : Prop :=
  (∀ (n : Fin 8) (b : Byte) (fe pe : Bool) (s : State), s.domOn 10 = true → let x := s.serH n
    let cfg := Reg.FSN_SER_CFG n
    let deaf := s.bit cfg 0 = false ∨ (s.bit cfg 1 = true ∧ x.drive = true)
    let captured := s.bits (Reg.TIM_CAP_CFG n) 1 0 = 2 ∧ s.bit cfg 24 = true ∧ x.armed = true
    let event := fun i (t : State) => t.bit (Reg.FSN_SER_STAT n) i = true ∧ t.bit Reg.FSN_STAT 10 = true
    let rx := Instr.serCharRx n b fe pe
    (deaf → NoEffect rx s) ∧
    (¬deaf → 256 ≤ x.rx.length → After rx s fun t => t.serH n = { x with armed := false } ∧ event 4 t) ∧
    (¬deaf → After rx s fun t => t.rdN (Reg.TIM_CAP_CNT n) = (s.rdN (Reg.TIM_CAP_CNT n) + if captured then 1 else 0) % 2 ^ 32 ∧
      (captured → sget (fun _ => false) s.tim.frozen n = false →
        t.rd64 (Reg.TIM_CAP_TIME_LO n) (Reg.TIM_CAP_TIME_HI n) = (s.ext - delimBits s n) % 2 ^ 64)) ∧
    (¬deaf → x.rx.length < 256 → After rx s fun t =>
      (let armed := !fe && !pe && (b == 0x24 || b == 0x21)
       t.serH n = { x with armed, rx := x.rx ++ [BitVec.ofNat 32 (b.toNat + 256 + 512 * b2n fe + 1024 * b2n pe)] }) ∧
      t.bits (Reg.FSN_SER_STAT n) 16 8 = x.rx.length + 1 ∧ (fe = true → event 2 t) ∧ (pe = true → event 3 t) ∧
      (fe = false → pe = false → b = 0x24 ∨ b = 0x21 → event 0 t) ∧ (fe = false → pe = false → b = 0x0A → event 1 t) ∧
      (∀ m, m ≠ n.val → t.serH m = s.serH m) ∧ SameMem s t) ∧
    (x.rx = [] → After (.serDataRead n) s fun t => t = { s with resp := .data 0 }) ∧
    (∀ w ws, x.rx = w :: ws → After (.serDataRead n) s fun t => t.resp = .data (w.setWidth 64) ∧ t.serH n = { x with rx := ws } ∧
      RegsBut (· = Reg.FSN_SER_STAT n) s t) ∧
    (256 ≤ x.tx.length → NoEffect (.serDataWrite n b) s) ∧
    (x.tx.length < 256 → After (.serDataWrite n b) s fun t => RegsBut (· = Reg.FSN_SER_STAT n) s t ∧
      (s.bit cfg 0 = false ∨ x.shift.isSome → t.serH n = { x with tx := x.tx ++ [b] }) ∧
      (s.bit cfg 0 = true → x.shift = none → x.tx = [] → t.serH n = { x with shift := some b, drive := x.drive || s.bit cfg 1 })) ∧
    (s.bit cfg 0 = false → NoEffect (.serCharTx n) s) ∧
    (∀ c, s.bit cfg 0 = true → x.shift = some c → After (.serCharTx n) s fun t => t.out = s.out ++ [.ser n c] ∧ (t.serH n).ended = s.clk ∧
      (x.tx = [] → t.serH n = { x with shift := none, ended := s.clk }) ∧
      (∀ d ds, x.tx = d :: ds → t.serH n = { x with shift := some d, tx := ds, drive := x.drive || s.bit cfg 1, ended := s.clk })) ∧
    (let past := 1000000000 ≤ (s.clk - x.ended) * serBaud s n
     (x.drive = true → x.shift = none → x.tx = [] → past → After (.serTxRelease n) s fun t => t.serH n = { x with drive := false } ∧
       t.out = s.out ++ [.serRelease n]) ∧
     (x.drive = false ∨ x.shift.isSome ∨ x.tx ≠ [] ∨ ¬past → NoEffect (.serTxRelease n) s))) ∧
  (∀ (n : Fin 8) (s : State), s.domOn 0 = true → s.domOn 10 = true → After (.delimiterStamp n) s fun t => ∃ l, t = { s with lib := l } ∧
    sget (fun _ => none) l.stamp n = some (if s.bit (Reg.FSN_SER_CFG n) 24
      then (s.rd64 (Reg.TIM_CAP_TIME_LO n) (Reg.TIM_CAP_TIME_HI n) : Int) - charTime s n
      else (s.ext : Int) - sget (fun _ => 0) s.lib.lCal n - delimBits s n)) ∧
  (∀ (n : Fin 8) (tel : List (Int × Int × Int)) (s : State), s.domOn 0 = true → s.domOn 10 = true →
    let ls := tel.filterMap (serLatency s n)
    let open_ := s.bit (Reg.FSN_SER_CFG n) 24 = true ∧ (64 ≤ tel.length ∨ sget (fun _ => 0) s.lib.serFrom n + 120000000000 ≤ s.clk)
    let lCal := fun (t : State) => sget (fun _ => 0) t.lib.lCal n = ls.sum / ls.length
    (¬open_ ∨ ls = [] → NoEffect (.serCalibration n tel) s) ∧
    (open_ → ls ≠ [] → (∃ l ∈ ls, 25000 < l) → After (.serCalibration n tel) s fun t => fbit t.lib.serStat n = true ∧ lCal t ∧ t.regs = s.regs) ∧
    (open_ → ls ≠ [] → (∀ l ∈ ls, l ≤ 25000) → After (.serCalibration n tel) s fun t =>
      lCal t ∧ fbit t.lib.serStat n = false ∧ t.bit (Reg.FSN_SER_CFG n) 24 = false ∧ t.bits (Reg.TIM_CAP_CFG n) 1 0 = 1 ∧
      RegsBut (fun a => a = Reg.FSN_SER_CFG n ∨ a = Reg.TIM_CAP_CFG n) s t)) ∧
  (∀ (n : Fin 8) (v : DWord) (s : State), s.domOn 0 = true → s.domOn 10 = true →
    let cfg := Reg.FSN_SER_CFG n
    let go := Instr.registerWrite .mill0 2 (BitVec.ofNat 40 cfg) 4 v
    s.felt.hit = false → v.getLsbD 0 = true → v.toNat % 2 ^ 24 ≠ s.bits cfg 23 0 → After go s fun t => t.bits cfg 23 0 = v.toNat % 2 ^ 24 ∧ t.bit cfg 24 = true ∧
      t.bits (Reg.TIM_CAP_CFG n) 1 0 = 2 ∧ sget (fun _ => 0) t.lib.serFrom n = s.clk ∧
      ∀ i, i < 16 → s.bits (Reg.ENC_IN_CFG i) 10 8 = n → t.bit (Reg.ENC_IN_CFG i) 6 = false)

/-- Headbox chains: a value, its calibration and its stamp per output; restarts clear, an invalid DEC and a lost clock say so;
user calibration. (R243, R244, R245, R246, R247, R248, R250, R251, R252, R253.) -/
def Obligations.HeadboxChains : Prop :=
  (∀ e, e < 32 → (firRom e).length = firTaps e ∧ (firRom e).sum = 2 ^ 15 ∧ (firRom e).reverse = firRom e) ∧
  (halfband.length = 11 ∧ halfband.sum = 2 ^ 15 ∧ halfband.reverse = halfband) ∧
  (∀ (c : Fin 40) (xs : List Int) (ns : Nat) (s : State), s.domOn 10 = true →
    let go := Instr.chainOutput c xs ns
    let k := chainCfg s c
    let st := Reg.HBX_CH_STAT c
    let idle := s.bit (Reg.HBX_CH_CFG c) 0 = false ∨ s.bit st 6 = true
    let gd := if c.val < 16 then k.delay2 * 25 else if 24 ≤ c.val then k.delay2 * 4000 else k.delay2 * ns / 2048
    (idle → NoEffect go s) ∧
    (¬idle → k.dec < 8 ∨ 256 < k.dec → After go s fun t => t.rd (Reg.HBX_CH_OUT c) = 0 ∧ t.rd (Reg.HBX_CH_RAW c) = 0 ∧
      t.bit st 0 = false ∧ t.bit st 1 = true ∧ t.bit Reg.HBX_STAT 0 = true ∧ t.hbx = s.hbx) ∧
    (¬idle → 8 ≤ k.dec → k.dec ≤ 256 → After go s fun t =>
      t.rd (Reg.HBX_CH_OUT c) = calValue s c (t.rd (Reg.HBX_CH_RAW c)).toInt ∧
      t.rd64 (Reg.HBX_CH_TIME_LO c) (Reg.HBX_CH_TIME_HI c) = (s.ext - gd) % 2 ^ 64 ∧
      t.bit st 0 = decide (k.delay2 ≤ (s.chainOf c).n + 4 * k.dec) ∧ (t.chainOf c).n = (s.chainOf c).n + 4 * k.dec ∧
      (∀ d, d ≠ c.val → t.chainOf d = s.chainOf d) ∧ SameMem s t)) ∧
  (∀ (c : Fin 40) (chain : Bool) (v : Word) (s : State), s.domOn 10 = true →
    let go := Instr.chainRestart c chain v
    let r := if chain then Reg.HBX_CH_CHAIN c else Reg.HBX_CH_CFG c
    let new := v &&& (if chain then 0x3FFFFFFF else 0x1FFF)
    let st := Reg.HBX_CH_STAT c
    let changed := if chain then new ≠ s.rd r else wbits new 5 0 ≠ wbits (s.rd r) 5 0
    After go s (fun t => t.rd r = new ∧ (changed → t.chainOf c = hbxChainIdle ∧ t.bit st 0 = false) ∧ (¬changed → t.hbx = s.hbx) ∧
      (24 ≤ c.val → chain = false → wbit v 4 = false → t.bits st 8 7 = 0) ∧
      ((chainCfg t c).ok = true → t.bit st 1 = false) ∧
      ((chainCfg t c).ok = false → t.bit st 1 = true ∧ t.rd (Reg.HBX_CH_OUT c) = 0 ∧
        t.rd (Reg.HBX_CH_RAW c) = 0 ∧ t.bit Reg.HBX_STAT 0 = true))) ∧
  (∀ (b : Fin 8) (s : State), s.domOn 10 = true → let st := Reg.HBX_CH_STAT (16 + b.val)
    (After (.clkErr b) s fun t => t.bit st 6 = true ∧ t.bit st 0 = false ∧ t.hbx = s.hbx ∧
      t.rd (Reg.HBX_CH_OUT (16 + b.val)) = s.rd (Reg.HBX_CH_OUT (16 + b.val)) ∧ (s.bit st 6 = false → t.bit Reg.HBX_STAT 6 = true)) ∧
    (s.bit st 6 = true → After (.bsClockRecover b) s fun t => t.bit st 6 = false ∧ t.bit st 0 = false ∧
      t.chainOf (16 + b.val) = hbxChainIdle ∧ RegsBut (· = st) s t) ∧
    (s.bit st 6 = false → NoEffect (.bsClockRecover b) s)) ∧
  (∀ (c : Fin 40) (trim : Bool) (v : Word) (s : State), s.domOn 10 = true →
    (trim = true → finite32 v = false → After (.usrCalWrite c trim v) s fun t => t.bit (Reg.HBX_CH_STAT c) 1 = true ∧
      t.bit Reg.HBX_STAT 0 = true ∧ t.rd (Reg.HBX_CH_USR_TRIM c) = s.rd (Reg.HBX_CH_USR_TRIM c)) ∧
    (trim = false ∨ finite32 v = true → After (.usrCalWrite c trim v) s fun t =>
      t.rd (if trim then Reg.HBX_CH_USR_TRIM c else Reg.HBX_CH_USR_OFS c) = v ∧
      t.rd (Reg.HBX_CH_EFF_OFS c) = lim32 ((s.rd (Reg.HBX_CH_FAC_OFS c)).toInt + (t.rd (Reg.HBX_CH_USR_OFS c)).toInt) ∧
      t.rd (Reg.HBX_CH_EFF_GAIN c) = effGain (s.rd (Reg.HBX_CH_FAC_GAIN c)) (t.rd (Reg.HBX_CH_USR_TRIM c)) ∧
      RegEffect (fun a => a = Reg.HBX_CH_USR_TRIM c ∨ a = Reg.HBX_CH_USR_OFS c ∨ a = Reg.HBX_CH_EFF_OFS c ∨ a = Reg.HBX_CH_EFF_GAIN c) s t))

/-- Valves follow their band within the minimum times and fail off on overcurrent, timeout, undervoltage and a closed gate;
publications and IMU. (R254, R255, R257, R258, R259, R260, R261, R262, R357.) -/
def Obligations.ValvesAndPublications : Prop :=
  (∀ (v : Fin 16) (bits : BitVec 7) (s : State), s.domOn 10 = true →
    let go := Instr.bandDecision v bits
    let st := Reg.HBX_VLV_STAT v
    let x := s.valve v
    let i := calValue s v (fastF bits.toNat * 2 ^ 20)
    let past := g32Lt 0x40600000 i = true ∧ 3 ≤ x.oc
    let due := ∃ u l t0, x.band = some (u, l, t0) ∧ t0 + bandTmo s v ≤ s.clk
    let stopped := x.band = none ∨ s.bit Reg.PAIR_LEASE_STAT 8 = false ∨ s.bit (Reg.HBX_VLV_CFG v) 0 = false ∨ s.bit st 3 = true ∨
      s.bit st 1 = true ∨ x.wait = true ∨ past ∨ (s.bit (Reg.HBX_VLV_CFG v) 4 = true ∧ (s.bit st 4 = true ∨ due))
    (After go s fun t => t.bit st 0 = true → (t.valve v).at_ + 2000000 ≤ s.clk →
      s.bit (Reg.HBX_CH_CFG v) 0 = true → (chainCfg s v).ok = true → t.bit st 2 = g32Lt (s.rd (Reg.HBX_CH_OUT v)) 0x3CA3D70A) ∧
    After go s (fun t => (t.valve v).fast = i ∧ t.bit st 1 = (s.bit st 1 || decide past) ∧
      t.bits st 31 16 = (s.bits st 31 16 + if s.bit st 0 = false ∧ t.bit st 0 = true then 1 else 0) % 65536 ∧
      (∀ w, w ≠ v.val → t.valve w = s.valve w)) ∧
    (stopped → After go s fun t => t.bit st 0 = false) ∧
    (∀ u l t0, ¬stopped → x.band = some (u, l, t0) →
      (s.bit st 0 = true → After go s fun t => t.bit st 0 = !(g32Lt u i && decide (x.at_ + tonMin s v ≤ s.clk))) ∧
      (s.bit st 0 = false → After go s fun t => t.bit st 0 = (g32Lt i l && decide (x.at_ + toffMin s v ≤ s.clk)))) ∧
    (due → s.bit (Reg.HBX_VLV_CFG v) 0 = true → After (.bandTimeout v) s fun t => t.bit st 4 = true ∧
      t.bit st 0 = (s.bit st 0 && !s.bit (Reg.HBX_VLV_CFG v) 4)) ∧
    (¬due ∨ s.bit (Reg.HBX_VLV_CFG v) 0 = false → NoEffect (.bandTimeout v) s)) ∧
  (∀ (mv : Nat) (s : State), s.domOn 10 = true →
    (mv < 12000 → After (.valveUndervoltage mv) s fun t => t.hbx.uv = true ∧ ∀ v, v < 16 →
      t.bit (Reg.HBX_VLV_STAT v) 3 = true ∧ t.bit (Reg.HBX_VLV_STAT v) 0 = false) ∧
    (12000 ≤ mv → NoEffect (.valveUndervoltage mv) s) ∧
    (s.hbx.uv = true → 14000 ≤ mv → After (.valveUvRecover mv) s fun t => t.hbx = { s.hbx with uv := false } ∧
      ∀ v, v < 16 → t.bit (Reg.HBX_VLV_STAT v) 3 = false ∧ t.bit (Reg.HBX_VLV_STAT v) 0 = s.bit (Reg.HBX_VLV_STAT v) 0) ∧
    (s.hbx.uv = false ∨ mv < 14000 → NoEffect (.valveUvRecover mv) s)) ∧
  (∀ (k : Fin 8) (v : Word) (s : State), s.domOn 10 = true → let r := Reg.HBX_BMB_CFG k
    After (.bmbCfgWrite k v) s fun t => t.rd r = v &&& 0xFFFFF ∧
      (wbits v 9 0 ≠ s.bits r 9 0 → sget (fun _ => none) t.hbx.bmb k = none) ∧ (wbits v 9 0 = s.bits r 9 0 → t.hbx = s.hbx) ∧
      ∀ w, w < 16 → s.bits (Reg.HBX_VLV_CFG w) 3 1 = k.val →
        t.bit (Reg.HBX_VLV_STAT w) 6 = decide (s.bit (Reg.HBX_VLV_CFG w) 0 = true ∧ ¬(wbits v 13 10 ≤ w ∧ w < wbits v 13 10 + min (wbits v 18 14) 16))) ∧
  (∀ (p : Fin 16) (s : State), s.domOn 10 = true →
    (∀ m, sget (fun _ => none) s.hbx.pub p = some m → s.domOn 0 = true → After (.hbxPubSend p) s fun t =>
      sget (fun _ => none) t.hbx.pub p = none ∧ (t.feltCh 12 (s.bits (Reg.HBX_PUB_CFG p) 11 6)).pend = some m) ∧
    (sget (fun _ => none) s.hbx.pub p = none → NoEffect (.hbxPubSend p) s)) ∧
  (∀ (raw : List Int) (rs fs fail late : Bool) (s : State), s.domOn 10 = true →
    let go := Instr.imuSample raw rs fs fail late
    (s.bit Reg.HBX_IMU_CTL 0 = false ∨ s.clk < s.hbx.imuAt + 500000 → NoEffect go s) ∧
    (s.bit Reg.HBX_IMU_CTL 0 = true → s.hbx.imuAt + 500000 ≤ s.clk → After go s fun t =>
      t.hbx.imuN = (s.hbx.imuN + 1) % 256 ∧ t.hbx.imuAt = s.clk ∧ t.hbx.imu.length = 9 ∧
      (∀ i, i < 6 → t.hbx.imu.getD (2 + i) 0 = (Config.imuCorrect raw (imuFac s) (imuUsr s)).getD i 0) ∧
      t.hbx.imu.getD 8 0 = BitVec.ofNat 32 (b2n rs + 2 * b2n fs + 4 * b2n fail + 256 * ((s.hbx.imuN + 1) % 256)) ∧
      (late = true → t.bit Reg.HBX_STAT 5 = true)))

/-- Nothing changes but registers `p` names and what the Encoder holds of input `n`. -/
def OnlyInput (n : Nat) (p : Nat → Prop) (s t : State) : Prop :=
  t = { s with regs := t.regs, inst := t.inst, enc := t.enc } ∧ RegsBut p s t ∧ ∀ m, m ≠ n → t.encH m = s.encH m

/-- Position, speed and acceleration read as the canonical NaN (R271). -/
def EncNans (n : Nat) (t : State) : Prop :=
  t.rd (Reg.ENC_IN_POS n) = 0x7FC00000 ∧ t.rd (Reg.ENC_IN_SPD n) = 0x7FC00000 ∧ t.rd (Reg.ENC_IN_ACC n) = 0x7FC00000

/-- Latch set `k` of input `n` holds count `c` and time `x` (R274). -/
def Latched (n k : Nat) (c : Int) (x : Nat) (t : State) : Prop :=
  t.rd64 (Reg.ENC_IN_LAT n (4 * k)) (Reg.ENC_IN_LAT n (4 * k + 1)) = (BitVec.ofInt 64 c).toNat ∧
  t.rd64 (Reg.ENC_IN_LAT n (4 * k + 2)) (Reg.ENC_IN_LAT n (4 * k + 3)) = x % 2 ^ 64

/-- Encoder inputs: counted and lost edges, broken wires, indices and drift, the observer's steps, standstill, absolute reads,
latches and restarts. (R263, R264, R265, R266, R267, R268, R269, R271, R273, R274.) -/
def Obligations.EncoderInputs : Prop :=
  (∀ (n : Fin 12) (ab : BitVec 2) (age : Nat) (s : State), s.domOn 10 = true →
    let go := Instr.countedEdge n ab age
    let st := Reg.ENC_IN_STAT n
    let x := s.encH n
    let counts := s.bit (Reg.ENC_IN_CFG n) 0 = true ∧ encCfgOk s n = true ∧ abBad s n = false ∧ ab.toNat ≠ x.ab
    let d := (quadPos ab.toNat + 4 - quadPos x.ab) % 4
    let pos := (d == 1) != s.bit (Reg.ENC_IN_CFG n) 2
    let c := encCount s n + if pos then 1 else -1
    let short := age < 8 * s.bits (Reg.ENC_IN_CFG n) 17 15
    (short → NoEffect go s) ∧
    (¬short → ¬counts → After go s fun t => t = s.setEnc n { x with ab := ab.toNat }) ∧
    (¬short → counts → d = 2 → After go s fun t => encCount t n = encCount s n ∧ t.bit st 8 = true ∧ t.bit Reg.ENC_STAT n = true ∧
      (encShaft s n = false → t.bit st 1 = false) ∧ OnlyInput n (fun a => a = st ∨ a = Reg.ENC_STAT ∨ IrqPend a) s t) ∧
    (¬short → counts → d ≠ 2 → After go s fun t => (t.encH n).last = some (s.ext - 8 * (age / 8), pos) ∧
      encCount t n = (if encShaft s n then (BitVec.ofInt 64 c).toInt else c % (encCpr s n : Int)) ∧
      OnlyInput n (fun a => a = st ∨ a = Reg.ENC_IN_COUNT_LO n ∨ a = Reg.ENC_IN_COUNT_HI n) s t)) ∧
  (∀ (n : Fin 16) (pair : Fin 3) (s : State), s.domOn 10 = true →
    let st := Reg.ENC_IN_STAT n
    let bad := s.bit st (5 + pair) = true
    let has := n.val < 12 ∨ pair.val = 0
    let ab := n.val < 12 ∧ pair.val < 2
    let x := s.encH n
    let f := s.bits (Reg.ENC_IN_CFG n) 25 18
    let wfilt := 100 * if f = 0 then 10 else f
    let since := ((sget (fun _ => none) x.same pair).getD s.clk)
    let agreed := ((sget (fun _ => none) x.agree pair).getD s.clk)
    let notes := fun same agree => s.setEnc n { x with
      same := sset (fun _ => none) x.same pair same, agree := sset (fun _ => none) x.agree pair agree }
    let dis := Instr.wireDisagreement n pair
    let agr := Instr.wireAgree n pair
    (¬has → NoEffect dis s ∧ NoEffect agr s) ∧
    (has → bad ∨ s.clk ≤ since + wfilt → After dis s fun t => t = notes (some since) none) ∧
    (¬bad → has → since + wfilt < s.clk → After dis s fun t => t.bit st (5 + pair) = true ∧ t.bit Reg.ENC_STAT n = true ∧
      encCount t n = encCount s n ∧
      (ab → t.bit st 0 = false ∧ t.bit st 1 = false ∧ t.bit st 10 = false ∧ EncNans n t ∧ (t.encH n).index = none) ∧
      (¬ab → OnlyInput n (fun a => a = st ∨ a = Reg.ENC_STAT ∨ IrqPend a) s t)) ∧
    (has → ¬bad → After agr s fun t => t = notes none none) ∧
    (has → bad → s.clk < agreed + 10000000 → After agr s fun t => t = notes none (some agreed)) ∧
    (bad → has → agreed + 10000000 ≤ s.clk → After agr s fun t => t.bit st (5 + pair) = false ∧ encCount t n = encCount s n ∧
      (ab → s.bit st (6 - pair) = false → t.bit st 2 = true ∧ (t.encH n).wHat = 0 ∧ (t.encH n).pHat = fOfInt (encCount s n) ∧
        t.bit st 0 = (s.bit (Reg.ENC_IN_CFG n) 0 && encCfgOk s n)) ∧
      (¬ab → OnlyInput n (· = st) s t))) ∧
  (∀ (n : Fin 12) (age : Nat) (s : State), s.domOn 10 = true →
    let go := Instr.indexEvent n age
    let cfg := s.rd (Reg.ENC_IN_CFG n)
    let st := Reg.ENC_IN_STAT n
    let x := s.encH n
    let c := encCount s n
    let ofs := s.bits (Reg.ENC_IN_IDX n) 23 0
    let tol := s.bits (Reg.ENC_IN_IDX n) 31 24
    let armed := s.bit (Reg.ENC_IN_CTL n) 0
    let dir := match x.last with | some (_, d) => d | none => true
    let taken := wbit cfg 0 = true ∧ wbit cfg 3 = true ∧ encCfgOk s n = true ∧ encWire s n = 0 ∧ x.ab = wbits cfg 5 4
    (¬taken → NoEffect go s) ∧
    (taken → After go s fun t => t.bit (Reg.ENC_IN_CTL n) 0 = false ∧
      (sget (fun _ => false) x.frozen 0 = false → Latched n 0 c (s.ext - 8 * (age / 8)) t) ∧
      (sget (fun _ => false) x.frozen 0 = true → sget (fun _ => none) (t.encH n).held 0 = some (c, s.ext - 8 * (age / 8)) ∧
        ∀ k, k < 4 → t.rd (Reg.ENC_IN_LAT n k) = s.rd (Reg.ENC_IN_LAT n k))) ∧
    (taken → encShaft s n = false → armed = true ∨ s.bit st 1 = false → After go s fun t => encCount t n = ofs ∧ t.bit st 1 = true) ∧
    (taken → encShaft s n = false → armed = false → s.bit st 1 = true → After go s fun t => encCount t n = c ∧
      t.bit st 9 = (s.bit st 9 || decide ((tol : Int) < idxDiff c ofs (encCpr s n)))) ∧
    (taken → encShaft s n = true → After go s fun t => encCount t n = c ∧ (t.encH n).index = some (c, dir)) ∧
    (taken → encShaft s n = true → armed = true ∨ x.index = none → After go s fun t => t.bit st 10 = false ∧ t.bit st 9 = s.bit st 9) ∧
    (∀ c0 d0, taken → encShaft s n = true → armed = false → x.index = some (c0, d0) →
      let drift := c - c0 + (if dir then -1 else 1) * (encCpr s n : Int)
      (d0 ≠ dir ∨ x.revIdx = true → After go s fun t => t.bit st 10 = false ∧ t.rd (Reg.ENC_IN_DRIFT n) = s.rd (Reg.ENC_IN_DRIFT n)) ∧
      (d0 = dir → x.revIdx = false → After go s fun t => t.bit st 10 = true ∧ t.rd (Reg.ENC_IN_DRIFT n) = BitVec.ofInt 32 drift ∧
        t.rdN (Reg.ENC_IN_MAXDRIFT n) = max (s.rdN (Reg.ENC_IN_MAXDRIFT n)) (min drift.natAbs (2 ^ 32 - 1)) ∧
        t.bit st 9 = (s.bit st 9 || decide (tol < drift.natAbs))))) ∧
  (∀ (n : Fin 16) (s : State), s.domOn 10 = true →
    let st := Reg.ENC_IN_STAT n
    let en := s.bit (Reg.ENC_IN_CFG n) 0 = true
    let x := s.encH n
    let cp := cprF s n
    let single := fun v => (fpCast f64 f32 0 v).1 % 2 ^ 32
    let om := fM twoPi (fOfInt (max 5 (min (s.bits (Reg.ENC_IN_OBS n) 8 0) 500) : Nat))
    let e := encError s n x
    let acc := fM (fM om om) e
    let shows := fun (t : State) p w a => (t.encH n).pHat = p ∧ (t.encH n).wHat = w ∧ t.rd (Reg.ENC_IN_POS n) = encPos t n p ∧
      t.rdN (Reg.ENC_IN_SPD n) = single (fD w cp) ∧ t.rdN (Reg.ENC_IN_ACC n) = single (fD a cp)
    let on := en ∧ stepDue s n = true
    (¬en → NoEffect (.observerStep n) s ∧ NoEffect (.standstill n) s) ∧
    (¬on → NoEffect (.observerStep n) s) ∧
    (on → After (.observerStep n) s fun t => t.rd64 (Reg.ENC_IN_STEP_LO n) (Reg.ENC_IN_STEP_HI n) = s.ext % 2 ^ 64 ∧
      t.bit st 0 = encValid s n ∧ encCount t n = encCount s n ∧ (encValid s n = false → EncNans n t) ∧
      t.bit st 3 = (encValid s n && x.rev)) ∧
    (on → encValid s n = true → s.bit st 2 = true → x.seed = none → After (.observerStep n) s fun t => t.bit st 2 = true ∧
      t.rd (Reg.ENC_IN_SPD n) = 0 ∧ t.rd (Reg.ENC_IN_ACC n) = 0 ∧ (t.encH n).wHat = 0 ∧ (t.encH n).pHat = fOfInt (encCount s n)) ∧
    (∀ up iv, on → encValid s n = true → s.bit st 2 = true → x.seed = some (up, iv) → After (.observerStep n) s fun t => t.bit st 2 = false ∧
      shows t (fOfInt (encCount s n)) (fD (fOfInt (if up then 1000000000 else -1000000000)) (fOfInt (max iv 1 : Nat))) 0) ∧
    (on → encValid s n = true → s.bit st 2 = false → After (.observerStep n) s fun t => t.bit st 2 = false ∧
      shows t (encWrapP s n (fA x.pHat (fM stepT (fA x.wHat (fM (fM (fOfInt 2) om) e))))) (fA x.wHat (fM stepT acc)) acc) ∧
    (let due := s.bit st 2 = false ∧ x.still + stillTmo s n * 1000000 ≤ s.clk
     (¬due → NoEffect (.standstill n) s) ∧
     (en → due → After (.standstill n) s fun t => t.bit st 2 = true ∧ (t.encH n).wHat = 0 ∧ encCount t n = encCount s n ∧
       (t.encH n).pHat = fOfInt (encCount s n) ∧
       (encValid s n = true → t.rd (Reg.ENC_IN_SPD n) = 0 ∧ t.rd (Reg.ENC_IN_ACC n) = 0 ∧
         t.rd (Reg.ENC_IN_POS n) = encPos t n (fOfInt (encCount s n)))))) ∧
  (∀ (k : Fin 4) (raw : Word) (ok nE nW : Bool) (ns : Nat) (s : State), s.domOn 10 = true →
    let n := 12 + k.val
    let go := Instr.absTransfer k raw ok nE nW ns
    let st := Reg.ENC_IN_STAT n
    let x := s.encH n
    let runs := s.bit (Reg.ENC_IN_CFG n) 0 = true ∧ encCfgOk s n = true
    let biss := s.bit (Reg.ENC_IN_ABS n) 0
    let bad := ok = false ∨ 80000 < ns ∨ (biss = true ∧ nE = false) ∨ s.bit st 5 = true
    let bits := s.bits (Reg.ENC_IN_ABS n) 6 1
    let v := (if s.bit (Reg.ENC_IN_ABS n) 7 then ungray raw.toNat else raw.toNat) % 2 ^ bits
    (¬runs → NoEffect go s) ∧
    (runs → After go s fun t => t.bit st 13 = (s.bit st 13 || (biss && !nW))) ∧
    (runs → bad → After go s fun t => t.bit st 12 = true ∧ t.bit Reg.ENC_STAT n = true ∧ encCount t n = encCount s n ∧
      (t.encH n).rej = min (x.rej + 1) 10 ∧ (t.encH n).meas = none ∧ (9 ≤ x.rej → t.bit st 0 = false ∧ EncNans n t)) ∧
    (runs → ¬bad → After go s fun t => t.bit st 0 = true ∧ t.bit st 1 = true ∧ (t.encH n).rej = 0 ∧ (t.encH n).absV = v ∧
      (encShaft s n = false → encCount t n = (v % encCpr s n : Nat)) ∧ (encShaft s n = true → x.absOk = false → encCount t n = v) ∧
      (encShaft s n = true → x.absOk = true →
        let d := ((v : Int) - x.absV) % 2 ^ bits
        encCount t n = (BitVec.ofInt 64 (encCount s n + if 2 ^ bits / 2 ≤ d then d - 2 ^ bits else d)).toInt) ∧
      (encValid s n = false → (t.encH n).wHat = 0 ∧ t.bit st 2 = false) ∧
      (encValid s n = true → ∃ p, (t.encH n).meas = some (p, s.ext - ns + s.rdN (Reg.ENC_IN_ABS_LAT n))))) ∧
  (∀ (n : Fin 16) (cpr : Bool) (v : Word) (s : State), s.domOn 10 = true →
    let r := if cpr then Reg.ENC_IN_CPR n else Reg.ENC_IN_CFG n
    let new := v &&& (if cpr then 0x1FFFFFF else 0x3FFFFFF)
    let st := Reg.ENC_IN_STAT n
    let changed := if cpr then new ≠ s.rd r else wbits new 2 0 ≠ wbits (s.rd r) 2 0
    let go := Instr.encCfgWrite n cpr v
    After go s (fun t => t.rd r = new ∧ t.bit st 0 = encValid t n ∧ (encValid t n = false → EncNans n t) ∧
      t.bit st 11 = (t.bit (Reg.ENC_IN_CFG n) 0 && !encCfgOk t n)) ∧
    (changed → After go s fun t => encCount t n = 0 ∧ t.bit st 1 = false ∧ t.bit st 10 = false ∧ t.bit st 2 = true ∧
      (t.encH n).index = none ∧ (t.encH n).wHat = 0) ∧
    (¬changed → After go s fun t => encCount t n = encCount s n ∧ t.enc = s.enc ∧ t.bit st 1 = s.bit st 1)) ∧
  (∀ (n : Fin 16) (k : Fin 3) (s : State), s.domOn 10 = true →
    let x := s.encH n
    After (.realign n) s (fun t => t.bit (Reg.ENC_IN_CTL n) 0 = true ∧ RegEffect (· = Reg.ENC_IN_CTL n) s t) ∧
    After (.latchReadLo n k) s (fun t => t.resp = .data (BitVec.ofNat 64 (s.rdN (Reg.ENC_IN_LAT n (4 * k)))) ∧ t.regs = s.regs ∧
      sget (fun _ => false) (t.encH n).frozen k = true) ∧
    After (.latchReadHi n k) s (fun t => t.resp = .data (BitVec.ofNat 64 (s.rdN (Reg.ENC_IN_LAT n (4 * k + 3)))) ∧
      sget (fun _ => false) (t.encH n).frozen k = false ∧ (sget (fun _ => none) x.held k = none → t.regs = s.regs) ∧
      ∀ c tm, sget (fun _ => none) x.held k = some (c, tm) → Latched n k c tm t))

/-- One 8 ns tick of the time base has passed (R275, R277, R280, R281, R283). -/
def Ticked (s t : State) : Prop :=
  let inc : Nat := match s.tim.pInc with | some v => v.toNat | none => s.rdN Reg.TIM_INC
  let ofs : Int := match s.tim.pOfs with | some v => v.toInt | none => 0
  let now : Nat := s.rdN Reg.TIM_NOW + (s.tim.frac + inc) / 2 ^ 24
  t.clk = s.clk + 8 ∧ t.pending = s.pending ∧
  (timeRuns s = false → t.rd Reg.TIM_NOW = s.rd Reg.TIM_NOW ∧ t.tim = s.tim) ∧
  (timeRuns s = true → t.rdN Reg.TIM_INC = inc ∧ t.tim.frac = (s.tim.frac + inc) % 2 ^ 24 ∧
    (t.rdN Reg.TIM_NOW : Int) = (now + ofs) % 2 ^ 32 ∧ timPending t = false ∧ (s.tim.pOfs.isSome = true → t.bit Reg.TIM_STAT 5 = false) ∧
    (2 ^ 32 ≤ now → s.domOn 10 = true → t.bit Reg.TIM_STAT 0 = true) ∧
    (s.tim.pOfs = none → t.bits Reg.TIM_WRAPS 7 0 = (s.bits Reg.TIM_WRAPS 7 0 + if 2 ^ 32 ≤ now then 1 else 0) % 256) ∧
    (s.tim.excess = 0 → 0 ≤ now + ofs → now + ofs < 2 ^ 32 → now < 2 ^ 32 → t.extU = s.extU) ∧
    (now + ofs < 0 → (s.domOn 10 = true → t.bit Reg.TIM_STAT 1 = true) ∧
      (s.tim.excess = 0 → t.extU = (s.extU + 2 ^ 32 - 1) % 2 ^ 32)) ∧
    (s.tim.excess = 0 → 2 ^ 32 ≤ now → s.tim.pOfs = none → s.tim.pFold = 0 →
      t.extU = if s.lag < 255 then (s.extU + 1) % 2 ^ 32 else s.extU) ∧
    (s.tim.pFold ≠ 0 → s.lag = 255 → now < 2 ^ 32 → s.tim.pOfs = none → let n := min s.tim.pFold 255
      t.extU = (s.extU + min n s.tim.excess) % 2 ^ 32) ∧
    (s.domOn 10 = true → ∀ k, k < 16 → cmpTgt t k = match sget (fun _ => none) s.tim.pTgt k with
      | some v => if s.bit (Reg.TIM_CMP_CFG k) 0 = true ∧ cmpTgt s k ≤ t.ext then cmpTgt s k else v.toNat
      | none => cmpTgt s k))

/-- With no command waiting, a step is one 8 ns tick (the model's choice, by the assumption log's entry on the idle step): NOW
advances by the increment, a pending increment, offset, fold or target takes effect, wraps are counted; CORRECTION_APPLY and
NOW_WRAP are such a tick where one is due. Writes of TIM_INC, TIM_OFFSET, TIM_EXT_FOLD and a compare target are accepted or
refused as R277, R279, R280 and R283 say. (R275, R276, R277, R279, R280, R281.) -/
def Obligations.LocalTime : Prop :=
  (∀ s : State, s.pending = [] → ∃ t, step s = .next t ∧ Ticked s t) ∧
  (∀ s : State, timeRuns s = true →
    (timPending s = true → After .correctionApply s (Ticked s)) ∧ (timPending s = false → NoEffect .correctionApply s) ∧
    (wrapsNext s = true → After .nowWrap s fun t => Ticked s t ∧ (s.domOn 10 = true → t.bit Reg.TIM_STAT 0 = true)) ∧
    (wrapsNext s = false → NoEffect .nowWrap s)) ∧
  (∀ s : State, timeRuns s = false → NoEffect .correctionApply s ∧ NoEffect .nowWrap s) ∧
  (∀ (v : Word) (s : State), s.domOn 10 = true →
    let inRange := 0x07F00000 ≤ v.toNat ∧ v.toNat ≤ 0x08100000
    let ofsOk := v.toInt.natAbs ≤ 1000000000 ∧ s.bit Reg.TIM_STAT 5 = false ∧ 0 ≤ (nextExt s : Int) + v.toInt
    let refused := fun i t => State.bit t Reg.TIM_STAT i = true ∧ RegEffect (fun a => a = Reg.TIM_STAT ∨ IrqPend a) s t
    (inRange → After (.timIncWrite v) s fun t => t = { s with tim := { s.tim with pInc := some v } }) ∧
    (¬inRange → After (.timIncWrite v) s (refused 3)) ∧
    (ofsOk → After (.timOffsetWrite v) s fun t => t = { s with tim := { s.tim with pOfs := some v }, regs := t.regs, inst := t.inst } ∧
      t.bit Reg.TIM_STAT 5 = true ∧ RegsBut (· = Reg.TIM_STAT) s t) ∧
    (¬ofsOk → After (.timOffsetWrite v) s (refused 4))) ∧
  (∀ (n : Byte) (s : State), s.domOn 10 = true → After (.extFold n) s fun t =>
    t = { s with tim := { s.tim with pFold := s.tim.pFold + n.toNat } }) ∧
  (∀ (k : Fin 16) (hi : Word) (s : State), s.domOn 10 = true → After (.cmpTargetWrite k hi) s fun t =>
    t = { s with tim := { s.tim with pTgt := t.tim.pTgt } } ∧
    sget (fun _ => none) t.tim.pTgt k = some (hi ++ sget (fun _ => 0) s.tim.tgtLo k))

/-- Compare events advance or end their channel, drive TM outputs and wake; captures stamp, freeze and hold; PPS_IN; snapshots;
the PTP servo. (R20, R278, R282, R406, R283, R284, R285, R286, R287, R290, R291.) -/
def Obligations.ComparesAndCaptures : Prop :=
  (∀ (k : Fin 16) (s : State), s.domOn 10 = true →
    let go := Instr.compareEvent k
    let cfg := Reg.TIM_CMP_CFG k
    let cnt := Reg.TIM_CMP_CNT k
    let p := cmpPeriod s k
    let next := cmpTgt s k + p
    let n := if next ≤ s.ext then (s.ext - next) / p + 1 else 0
    let crossed := sget (fun _ => 0) s.inst.pulses k
    (cmpDue s k = false → NoEffect go s) ∧
    (cmpDue s k = true → After go s fun t => t.bits cnt 15 0 = (s.bits cnt 15 0 + 1) % 2 ^ 16 ∧ (cfg ∉ s.inst.sw → t.bit cfg 0 = decide (p ≠ 0)) ∧
      t.bits cnt 31 16 = min (s.bits cnt 31 16 + if p = 0 then 0 else n) (2 ^ 16 - 1) ∧ t.ext = s.ext ∧
      (p ≠ 0 → 0 < n → t.bit Reg.TIM_STAT 6 = true) ∧
      (sget (fun _ => none) s.tim.pTgt k = none → cmpTgt t k = if p = 0 then cmpTgt s k else (next + n * p) % 2 ^ 64) ∧
      (∀ v, sget (fun _ => none) s.tim.pTgt k = some v → cmpTgt t k = v.toNat) ∧
      (14 ≤ k.val → s.bit (Reg.TIM_TM_CFG (k - 14)) 0 = true → Out.tm (k - 14) true ∈ t.out) ∧
      (s.tim.armed = false → t = { s with regs := t.regs, inst := t.inst, tim := t.tim, out := t.out }) ∧
      (s.tim.armed = true → s.domOn 0 = true → crossed < 255 → t.bit (Reg.MILL_IRQ_PEND 0) k = true) ∧
      (s.tim.armed = true → s.domOn 0 = true → 255 ≤ crossed → t.bit (Reg.PWR_DC_STAT 0) 9 = true ∧ t.lib.t0 = s.lib.t0) ∧
      (s.tim.armed = true → s.domOn 0 = true → crossed < 255 → k.val = 0 →
        if s.lib.startAt.any (cmpTgt s k < ·) then t.lib.t0 = s.lib.t0 ∧ t.lib.k = s.lib.k
        else t.lib.t0 = cmpTgt s k ∧ t.lib.k = cycleK s (cmpTgt s k) ∧ t.lib.startAt = none ∧ fbit t.lib.due 0 = true ∧ t.pair.adopt = none ∧ t.pair.cont = none ∧
          t.lib.clean = if s.lib.t0 ≠ 0 ∧ s.lib.due = 0 ∧ s.lib.lawOvr = false ∧ s.lib.plStale = false then min (s.lib.clean + 1) 100 else 0) ∧
      (s.tim.armed = true → ∀ d, 1 ≤ d → d < 10 → s.domOn d = false → s.contained d = false → s.bit (Reg.PWR_DC_CTL d) (16 + k) = true →
        2 ≤ t.bits (Reg.PWR_DC_STAT d) 1 0 ∧ t.bits (Reg.PWR_DC_STAT d) 31 16 = min (s.bits (Reg.PWR_DC_STAT d) 31 16 + 1) (2 ^ 16 - 1)))) ∧
  (∀ (n : Fin 2) (s : State), s.domOn 10 = true →
    (∀ t0, sget (fun _ => none) s.tim.tm n = some t0 →
      let width := (s.bits (Reg.TIM_TM_CFG n) 31 2 + 7) / 8 * 8
      (width ≤ s.clk - t0 → After (.tmPulseEnd n) s fun t => t = { s with tim := { s.tim with tm := t.tim.tm }, out := s.out ++ [.tm n false] } ∧
        sget (fun _ => none) t.tim.tm n = none) ∧
      (s.clk - t0 < width → NoEffect (.tmPulseEnd n) s)) ∧
    (sget (fun _ => none) s.tim.tm n = none → NoEffect (.tmPulseEnd n) s)) ∧
  (∀ (k : Fin 8) (age : Nat) (s : State), s.domOn 10 = true →
    let go := Instr.captureEvent k age
    let frozen := sget (fun _ => false) s.tim.frozen k
    let stamp := fun (t : State) => t.rd64 (Reg.TIM_CAP_TIME_LO k) (Reg.TIM_CAP_TIME_HI k)
    let src := s.bits (Reg.TIM_CAP_CFG k) 1 0
    let line := s.bit (Reg.FSN_SER_CFG k) 0 = true ∧ s.bit (Reg.FSN_SER_CFG k) 24 = true ∧ (s.serH k).armed = true
    (src = 0 ∨ (src = 2 ∧ ¬line) → NoEffect go s) ∧
    (src = 2 → line → After go s fun t => (t.serH k).armed = false) ∧
    (src ≠ 0 → (src = 2 → line) → After go s fun t => t.rdN (Reg.TIM_CAP_CNT k) = (s.rdN (Reg.TIM_CAP_CNT k) + 1) % 2 ^ 32 ∧
      (frozen = false → stamp t = (s.ext - age) % 2 ^ 64) ∧
      (frozen = true → stamp t = stamp s ∧ sget (fun _ => none) t.tim.held k = some (BitVec.ofNat 64 (s.ext - age))) ∧
      (frozen = true → sget (fun _ => none) s.tim.held k ≠ none → t.bit Reg.TIM_STAT 7 = true))) ∧
  (∀ (k : Fin 9) (s : State), s.domOn 10 = true →
    After (.capReadLo k) s (fun t => t.resp = .data (BitVec.ofNat 64 (s.rdN (capLo k))) ∧ t.regs = s.regs ∧
      sget (fun _ => false) t.tim.frozen k = true) ∧
    After (.capReadHi k) s (fun t => t.resp = .data (BitVec.ofNat 64 (s.rdN (capHi k))) ∧ sget (fun _ => false) t.tim.frozen k = false ∧
      (sget (fun _ => none) s.tim.held k = none → t.regs = s.regs) ∧
      ∀ v, sget (fun _ => none) s.tim.held k = some v → t.rd64 (capLo k) (capHi k) = v.toNat ∧ sget (fun _ => none) t.tim.held k = none)) ∧
  (∀ (age : Nat) (s : State), s.domOn 10 = true →
    let go := Instr.ppsInEdge age
    let cnt := Reg.TIM_PPSIN_CNT
    let early := ∃ t0, s.tim.ppsLast = some t0 ∧ s.clk - age - t0 < 500000000
    (s.bit Reg.TIM_PPSIN_CFG 0 = false → NoEffect go s) ∧
    (s.bit Reg.TIM_PPSIN_CFG 0 = true → early → After go s fun t => RegEffect (· = cnt) s t ∧
      t.bits cnt 31 16 = min (s.bits cnt 31 16 + 1) (2 ^ 16 - 1) ∧ t.bits cnt 15 0 = s.bits cnt 15 0) ∧
    (s.bit Reg.TIM_PPSIN_CFG 0 = true → ¬early → After go s fun t => t.bits cnt 15 0 = (s.bits cnt 15 0 + 1) % 2 ^ 16 ∧
      t.bit Reg.TIM_STAT 8 = true ∧ t.tim.ppsLast = some (s.clk - age) ∧ (sget (fun _ => false) s.tim.frozen 8 = false →
        t.rd64 Reg.TIM_PPSIN_TIME_LO Reg.TIM_PPSIN_TIME_HI = (s.ext - age) % 2 ^ 64))) ∧
  (∀ (r : Fin 3) (s : State), s.domOn 10 = true → After (.snapshotRead r) s fun t =>
    t.resp = .data (BitVec.ofNat 64 (s.rdN Reg.TIM_NOW)) ∧ t.rd (Reg.TIM_SNAP_LO r) = s.rd Reg.TIM_NOW ∧
    t.rdN (Reg.TIM_SNAP_HI r) = s.extU ∧ t.bits (Reg.TIM_SNAP_W r) 7 0 = s.bits Reg.TIM_WRAPS 7 0 ∧
    t.bits (Reg.TIM_SNAP_W r) 15 8 = s.lag ∧
    RegsBut (fun a => a = Reg.TIM_SNAP_LO r ∨ a = Reg.TIM_SNAP_HI r ∨ a = Reg.TIM_SNAP_W r) s t) ∧
  (∀ (best : Bool) (err : Int) (inc : Word) (s : State), s.domOn 0 = true → s.domOn 10 = true →
    let go := Instr.ptpServoUpdate best err inc
    let locked := s.bits Reg.NBB_TIME_STAT 1 0 = 1
    let gm := best = true ∧ locked
    let ok := 0x07F00000 + 13421 ≤ inc.toNat ∧ inc.toNat + 13421 ≤ 0x08100000
    After go s (fun t => t.lib.gm = decide gm ∧ t.rd Reg.TIM_NOW = s.rd Reg.TIM_NOW ∧ t.rd Reg.TIM_INC = s.rd Reg.TIM_INC ∧
      (s.lib.gm = true → ¬locked → Out.announce 248 (some 255) none ∈ t.out)) ∧
    (gm → After go s fun t => (s.nbb.time.scale = 0 → Out.announce 6 none (some (effNow s / 2 ^ 40 + 19000000000)) ∈ t.out) ∧ t.tim.pOfs = s.tim.pOfs ∧ t.lib.oPtp = s.lib.oPtp ∧
      (ok → t.tim.pInc = some inc)) ∧
    (¬gm → err.natAbs < 50000 → After go s fun t => t.tim.pOfs = s.tim.pOfs ∧ t.lib.oPtp = s.lib.oPtp ∧
      (ok → ∃ v : Word, t.tim.pInc = some v ∧ v.toNat ≤ inc.toNat + 13421 ∧ inc.toNat ≤ v.toNat + 13421)) ∧
    (¬gm → 50000 ≤ err.natAbs → err.natAbs < 1000000000 → s.bit Reg.TIM_STAT 5 = false → 0 ≤ (nextExt (timIncWrite inc s) : Int) + err → After go s fun t =>
      t.tim.pOfs = some (BitVec.ofInt 32 err) ∧ t.lib.oPtp = s.lib.oPtp) ∧
    (¬gm → 1000000000 ≤ err.natAbs → After go s fun t => t.tim.pOfs = s.tim.pOfs ∧ t.lib.oPtp = s.lib.oPtp + err ∧ t.nbb = s.nbb))

/-- The unit is in SAFE_FAULT: outputs off, both cuts open, the cause recorded and logged; a unit already there is left as it is
(R294, R299, R318). -/
def FaultedBy (cause : Nat) (s t : State) : Prop :=
  (s.bits Reg.DKL_STATE 1 0 = 2 → t = s) ∧
  (s.bits Reg.DKL_STATE 1 0 ≠ 2 → t.bits Reg.DKL_STATE 1 0 = 2 ∧ t.bits Reg.DKL_STATE 7 4 = cause % 16 ∧
    t.bits Reg.DKL_IO_STAT 25 16 = 3 * 2 ^ 8 ∧ t.bit Reg.DKL_STAT 7 = true ∧ t.dkl = { s.dkl with alarmOut := false } ∧
    t.trips = s.trips ∧ LoggedOwn 16 cause s t)

/-- A demand on thruster `i` from the software stops, an ESTOP input or a connection (R300, R308, R316). -/
def Demanded (s : State) (i : Nat) : Prop :=
  fbit s.dkl.sw i = true ∨
  (∃ n m tp, n < 16 ∧ s.scr.ins[n]? = some ⟨.estop m, tp⟩ ∧ fbit m.toNat i = true ∧
    (s.bit Reg.DKL_IO_STAT n = false ∨ s.bit Reg.DKL_IN_FAULT n = true)) ∨
  ∃ c r, c < 32 ∧ s.scr.rx[c]? = some r ∧ fbit r.mask.toNat i = true ∧
    let x := s.conn c
    (r.stop = true ∧ (x.payload = none ∨ x.timeout = true ∨ x.fault = true)) ∨
    (r.fdbk = false ∧ ∀ p, x.payload = some p → x.timeout = false → x.fault = false → fbit (p.getD 0 0).toNat i = true)

/-- The copy agrees with its connection (R312). -/
def ValidCopy (r : RxCfg) (p : SafePdu) : Prop :=
  p.version = 1 ∧ p.conn = r.conn ∧ p.node = r.node.setWidth 32 ∧ (p.len.toNat = r.len ∨ p.len = 0) ∧
  4 * p.payload.length = p.len.toNat ∧ p.crc = pduCrc r.seed p

/-- The Deckle: demands latch stops until a reset without demand, outputs follow, inputs and outputs fault, and unit faults and
START act. (R298, R299, R300, R303, R304, R306, R307, R308, R309, R310, R311, R318.) -/
def Obligations.DeckleFunctions : Prop :=
  let io := Reg.DKL_IO_STAT
  (∀ (rb : List Nat) (s : State), s.domOn 13 = true →
    let go := Instr.safetyCycle rb
    let run := dklState s = 1
    let back := fun n => rb.getD n 0
    let posLost := s.domOn 10 = false ∨ s.bits Reg.FSN_DEGR_STAT 2 0 = 4 ∨
      (s.fsn.steps = s.dkl.step ∧ ms s.scr.posTmo ≤ s.clk - s.dkl.stepAt)
    After go s (fun t => t.dkl.cycIrq = true ∧ t.bit Reg.DKL_STATE 8 = decide (s.bits Reg.TND_PSTATE 6 4 = 1) ∧ dklState t = dklState s) ∧
    (¬run → After go s fun t => t.trips = s.trips ∧ t.rd io = s.rd io) ∧
    (run → After go s fun t => t.dkl.resetCmd = false ∧ t.dkl.sw = 0 ∧
      (∀ i, i < 24 → Demanded s i → fbit t.trips i = true) ∧
      (s.dkl.resetCmd = false → ∀ i, fbit s.trips i = true → fbit t.trips i = true) ∧
      (s.dkl.resetCmd = true → t.bit Reg.DKL_STATE 3 = false ∧ ∀ i, i < 24 → ¬Demanded s i → fbit s.dkl.demand i = false →
        sget (fun _ => none) t.dkl.doFrom i = none → sget (fun _ => none) t.dkl.envFrom i = none →
        sget (fun _ => none) t.dkl.envActFrom i = none → fbit t.trips i = false)) ∧
    (run → After go s fun t => ∀ n : Fin 8,
      let mine := fun (i : Nat) => ∃ x, s.scr.thr[i]? = some x ∧ x.enable = some n
      let off := t.bit io (24 + n / 4) = true ∨ t.bit Reg.DKL_IN_FAULT (16 + n) = true
      (s.scr.alarmOut ≠ some n → (t.bit io (16 + n) = true ↔ (∃ i, mine i) ∧ (∀ i, mine i → fbit t.trips i = false) ∧ ¬off)) ∧
      (s.scr.alarmOut = some n → (∀ i, ¬mine i) → (t.bit io (16 + n) = true ↔ t.bit Reg.DKL_STATE 2 = false ∧ ¬off)) ∧
      (s.bit io (16 + n) = false → 5000 ≤ back n → t.bit io (24 + n / 4) = true) ∧
      (s.bit io (16 + n) = true → back n ≤ 18000 → (∀ m, m < 8 → s.bit io (16 + m) = false → back m < 5000) →
        t.bit Reg.DKL_IN_FAULT (16 + n) = true)) ∧
    (run → After go s fun t => (posLost → t.bit Reg.DKL_STATE 2 = true) ∧ (¬posLost → 0 < s.scr.posTmo →
      t.bit Reg.DKL_STATE 2 = (s.bit Reg.DKL_STATE 2 && !decide (ms 1000 ≤ s.clk - s.dkl.posEnd))))) ∧
  (∀ (svc : Option WdgService) (s : State), s.domOn 13 = true →
    let good := ∃ w, svc = some w ∧ 250 ≤ w.at_ ∧ w.at_ ≤ 950 ∧ w.token = Config.wdgToken s.dkl.token
    (good → After (.deckleWatchdogFault svc) s fun t => t = { s with dkl := { s.dkl with token := s.dkl.token + 1 } }) ∧
    (¬good → After (.deckleWatchdogFault svc) s (FaultedBy 5 s))) ∧
  (∀ (levels : BitVec 16) (s : State), s.domOn 13 = true → After (.safeInputSample levels) s fun t =>
    t.dkl.sample = (s.dkl.sample + 1) % 80 ∧ t.trips = s.trips ∧ t.bits io 25 16 = s.bits io 25 16 ∧
    (∀ p ∈ s.scr.pairs, ((sget (fun _ => none) t.dkl.diff p).isSome = true ↔ t.bit io (2 * p) ≠ t.bit io (2 * p + 1))) ∧
    ∀ n, n < 16 →
      let level := fbit levels.toNat n
      let run := sget (fun _ => (false, 0)) s.dkl.inRun n
      let len := if run.1 = level then run.2 + 1 else 1
      let h := sget (fun _ => 0) s.dkl.hist n
      let tested := fun (m : Fin 4) => s.dkl.sample = 20 * m.val + 1
      let src := (s.scr.ins[n]?).bind (·.tp)
      (∀ m, src = some m → tested m → t.bit io n = s.bit io n ∧
        t.bit Reg.DKL_IN_FAULT n = (s.bit Reg.DKL_IN_FAULT n || level)) ∧
      ((∀ m, src = some m → ¬tested m) → t.bit io n = if s.scr.inFilt ≤ len then level else s.bit io n) ∧
      (src = none → t.bit Reg.DKL_IN_FAULT n = s.bit Reg.DKL_IN_FAULT n) ∧
      (∀ m, src = some m → s.dkl.sample % 20 = 2 → s.dkl.sample ≠ 20 * m.val + 2 → level = true → fbit h 2 = true → h % 4 ≠ 3 →
        t.bit Reg.DKL_IN_FAULT n = true)) ∧
  (∀ (k : Fin 8) (s : State), s.domOn 13 = true →
    let due := ∃ t0, sget (fun _ => none) s.dkl.diff k = some t0 ∧ k ∈ s.scr.pairs ∧ ms s.scr.discT < s.clk - t0
    (due → After (.discrepancy k) s fun t => t.bit Reg.DKL_IN_FAULT (2 * k) = true ∧ t.bit Reg.DKL_IN_FAULT (2 * k + 1) = true ∧
      RegEffect (fun a => a = Reg.DKL_IN_FAULT ∨ a = Reg.DKL_STAT ∨ IrqPend a) s t) ∧
    (¬due → NoEffect (.discrepancy k) s)) ∧
  (∀ (n : Fin 8) (mv : Nat) (s : State), s.domOn 13 = true →
    let fails := s.bit io (16 + n) = true ∧ dklState s = 1 ∧ 5000 ≤ mv
    (fails → After (.offPulse n mv) s fun t => t.bit io (24 + n / 4) = true ∧ t.bit Reg.DKL_STAT 4 = true ∧
      (∀ m, m < 8 → t.bit io (16 + m) = (s.bit io (16 + m) && decide (m / 4 ≠ n.val / 4))) ∧
      RegEffect (fun a => a = io ∨ a = Reg.DKL_STAT ∨ IrqPend a) s t) ∧
    (¬fails → NoEffect (.offPulse n mv) s)) ∧
  (∀ (g : Fin 2) (fell : Bool) (s : State), s.domOn 13 = true →
    let last := sget (fun _ => 0) s.dkl.cutTest g
    let may := dklState s = 0 ∨ (dklState s = 1 ∧ (∀ m, m < 8 → m / 4 = g.val → s.bit io (16 + m) = false) ∧
      ms 50 ≤ s.clk - sget (fun _ => 0) s.dkl.offFrom g ∧ ms 3600000 ≤ s.clk - last)
    (¬may → NoEffect (.cutTest g fell) s) ∧
    (may → fell = true → After (.cutTest g fell) s fun t => t = { s with dkl := { s.dkl with cutTest := t.dkl.cutTest } } ∧
      sget (fun _ => 0) t.dkl.cutTest g = s.clk) ∧
    (may → fell = false → After (.cutTest g fell) s (FaultedBy 8 s)) ∧
    (ms (720 * 3600000) ≤ s.clk - last → After (.cutTestDue g) s fun t => t.bit Reg.DKL_STAT 6 = true ∧
      RegEffect (fun a => a = Reg.DKL_STAT ∨ IrqPend a) s t) ∧
    (s.clk - last < ms (720 * 3600000) → NoEffect (.cutTestDue g) s)) ∧
  (∀ (mask : BitVec 24) (cause : BitVec 4) (n : Nat) (s : State), s.domOn 13 = true →
    After (.swStop mask) s (fun t => t = { s with dkl := { s.dkl with sw := s.dkl.sw ||| mask.toNat } }) ∧
    After (.safeFault cause) s (FaultedBy cause.toNat s) ∧
    NoEffect (.codeCrcCheck true) s ∧ After (.codeCrcCheck false) s (FaultedBy 3 s) ∧
    After (.memoryScrub n false) s (fun t => t = { s with dkl := { s.dkl with corr := s.dkl.corr + n } }) ∧
    After (.memoryScrub n true) s (FaultedBy 2 { s with dkl := { s.dkl with corr := s.dkl.corr + n } })) ∧
  (∀ (fail : Option (BitVec 4)) (s : State), s.domOn 13 = true →
    let w := fun j i => (scrWords s j).getD i 0
    let ok := fun j => w j 1023 = 0xDC135C01 ∧ w j 1022 = s.dkl.accept ∧
      s.dkl.accept.toNat = crc32c 0xFFFFFFFF true (wordBytes ((scrWords s j).take 1022))
    let runs := fun j => After (.deckleStart none) s fun t => dklState t = 1 ∧ t.bit Reg.DKL_STATE 3 = true ∧ t.trips = 0xFFFFFF ∧
      t.bits io 25 24 = 0 ∧ t.dkl.slot = some j ∧ t.rd Reg.DKL_SCR_CRC = w j 1022 ∧ t.dkl.scr = some (Config.scrDecode (scrWords s j))
    (dklState s ≠ 0 → NoEffect (.deckleStart fail) s) ∧
    (dklState s = 0 →
      (∀ c, After (.deckleStart (some c)) s (FaultedBy c.toNat s)) ∧
      (∀ k, k < 2 → s.dkl.slot = some k → w k 1023 = 0xDC135C01 →
        runs (if ok (1 - k) ∧ (w k 0).toNat < (w (1 - k) 0).toNat then 1 - k else k)) ∧
      ((s.dkl.slot = none ∧ s.dkl.scr = none) ∨ (∃ k, k < 2 ∧ s.dkl.slot = some k ∧ w k 1023 ≠ 0xDC135C01) → (ok 0 → runs 0) ∧ (¬ok 0 → ok 1 → runs 1) ∧
        (¬ok 0 → ¬ok 1 → After (.deckleStart none) s (FaultedBy 10 s)))))

/-- Safe connections: invalid copies only counted, sequence rules, comparison of the two copies, misses and lost networks, and
the timeout's safe value. (R312, R314, R315, R316.) -/
def Obligations.SafeConnections : Prop :=
  (∀ (netB : Bool) (p : SafePdu) (s : State), s.domOn 13 = true →
    let go := Instr.safeCopyRx netB p
    (dklState s ≠ 1 → NoEffect go s) ∧
    (dklState s = 1 → After go s fun t => t.trips = s.trips ∧ ∀ c r, c < 32 → s.scr.rx[c]? = some r →
      let st := Reg.DKL_CONN_STAT c
      let x := s.conn c
      let y := t.conn c
      let accepted := fun (gap : Nat) => y.lastSeq = some p.seq ∧ y.lastRx = s.clk ∧ y.timeout = false ∧ y.fault = x.fault ∧
        y.payload = (if p.payload = [] then x.payload else some p.payload) ∧ y.wait = x.wait ++ [(p.seq, netB, s.clk, p)] ∧
        t.bits st 15 8 = min (s.bits st 15 8 + gap) 255 ∧ (x.fault = false → y.payload ≠ none → t.bits st 1 0 = 1)
      (p.conn ≠ r.conn → y = x ∧ t.rd st = s.rd st) ∧
      (p.conn = r.conn → ¬ValidCopy r p → y = x ∧
        t.bits st 23 16 = min (s.bits st 23 16 + if netB then 0 else 1) 255 ∧
        t.bits st 31 24 = min (s.bits st 31 24 + if netB then 1 else 0) 255 ∧ t.bits st 15 0 = s.bits st 15 0) ∧
      (ValidCopy r p → x.lastSeq = none → accepted 0) ∧
      (∀ l, ValidCopy r p → x.lastSeq = some l → let d := (p.seq - l).toNat
        (d = 1 → accepted 0) ∧ (1 < d → d < 2 ^ 31 → accepted 1) ∧
        (2 ^ 31 ≤ d → y = { x with old := x.old + 1 } ∧ t.rd st = s.rd st) ∧
        (d = 0 → ∀ b at_ q rest, x.wait = (p.seq, b, at_, q) :: rest → (∀ e ∈ rest, e.1 ≠ p.seq) →
          (q = p → b = netB → y = x ∧ t.rd st = s.rd st) ∧
          (q ≠ p ∨ b ≠ netB → y.wait = rest ∧ y.lastRx = x.lastRx ∧ y.payload = x.payload) ∧
          (q ≠ p → y.fault = true ∧ t.bits st 1 0 = 3 ∧ (s.bits st 1 0 ≠ 3 → t.bit Reg.DKL_STAT 5 = true)) ∧
          (q = p → b ≠ netB → y.fault = x.fault ∧ y.missA = 0 ∧ y.missB = 0 ∧ y.same.isSome = true ∧
            (r.fdbk = false → x.fault = false → p.payload ≠ [] → y.reset = fbit (p.payload.getD 0 0).toNat 31 ∧
              (y.reset = true → x.reset = false → t.dkl.resetCmd = true))))))) ∧
  (∀ (c : Fin 32) (s : State), s.domOn 13 = true →
    let st := Reg.DKL_CONN_STAT c
    let x := s.conn c
    (x.wait = [] ∨ s.scr.rx[c.val]? = none → NoEffect (.cmpWinExpire c) s) ∧
    (∀ r seq netB at_ p rest, s.scr.rx[c.val]? = some r → x.wait = (seq, netB, at_, p) :: rest →
      let i := if netB then 2 else 3
      let n := if netB then x.missA + 1 else x.missB + 1
      (s.clk - at_ < ms r.cmpWin → NoEffect (.cmpWinExpire c) s) ∧
      (ms r.cmpWin ≤ s.clk - at_ → After (.cmpWinExpire c) s fun t => (t.conn c).wait = rest ∧
        (if netB then (t.conn c).missA else (t.conn c).missB) = n ∧ (if netB then (t.conn c).missB else (t.conn c).missA) = 0 ∧ t.bit st i = (s.bit st i || decide (3 ≤ n)) ∧
        t.trips = s.trips ∧ (t.conn c).payload = x.payload ∧ (s.bit st i = false → (t.conn c).reset = x.reset) ∧
        (s.bit st i = true → r.fdbk = false → x.fault = false → p.payload ≠ [] → (t.conn c).reset = fbit (p.payload.getD 0 0).toNat 31))) ∧
    (s.scr.rx[c.val]? = none → NoEffect (.connectionTimeout c) s) ∧
    (∀ r, s.scr.rx[c.val]? = some r →
      let due := x.lastSeq ≠ none ∧ ms r.tmo ≤ s.clk - x.lastRx
      (¬due → NoEffect (.connectionTimeout c) s) ∧
      (due → After (.connectionTimeout c) s fun t => t.conn c = { x with timeout := true, lastSeq := none } ∧
        t.bits st 1 0 = (if x.fault then 3 else 2) ∧ (t.bits st 1 0 ≠ s.bits st 1 0 → t.bit Reg.DKL_STAT 5 = true) ∧
        RegsBut (fun a => a = st ∨ a = Reg.DKL_STAT ∨ IrqPend a) s t)))

/-- A Ply descriptor in flight at `d.addr` has been completed with status `st`: its completion word, the stamps asked for, and OWN
cleared (R339). -/
def Completed (d : PlyFlight) (st : Nat) (t : State) : Prop :=
  let o := d.addr - dramBase
  rdz t.dram (o + 24) 4 = st + 4 * b2n d.sentA + 8 * b2n d.sentB ∧ fbit (rdz t.dram (o + 8) 4) 31 = false ∧
  (d.stamp = true → d.sentA = true → rdz t.dram (o + 32) 8 = d.stA % 2 ^ 64) ∧
  (d.stamp = true → d.sentB = true → rdz t.dram (o + 40) 8 = d.stB % 2 ^ 64) ∧ t.bit Reg.PLY_STAT (if st = 0 then 2 else 3) = true

/-- Ply: links and addresses, supervision frames, transmit descriptors discarded, refused, queued and completed, and received
frames counted or delivered. (R322, R323, R324, R327, R328, R329, R339, R340.) -/
def Obligations.PlyNetworks : Prop :=
  (∀ (p : Fin 4) (up gbit halfOnly : Bool) (s : State), s.domOn 11 = true →
    let go := Instr.linkChange p up gbit halfOnly
    let st := Reg.PLY_PORT_STAT p
    let runs := s.bit (Reg.PLY_PORT_CFG p) 0 = true ∧ (s.bits Reg.TND_PSTATE 6 4 = 1 → p = 0 ∨ p = 2)
    let link := up && !halfOnly && (s.bit (Reg.PLY_PORT_CFG p) 1 || (s.bit (Reg.PLY_PORT_CFG p) 2 == gbit))
    (¬runs → NoEffect go s) ∧
    (runs → After go s fun t => t.bit st 0 = link ∧ t.bit st 1 = (link && gbit) ∧ t.bit st 2 = (s.bit st 2 || (up && halfOnly)) ∧
      (s.bit st 0 ≠ link → t.bit Reg.PLY_STAT 0 = true) ∧ (link = false → ∀ q, q < 4 → plyQ t p q = []) ∧
      (∀ r q, r ≠ p.val → q < 4 → plyQ t r q = plyQ s r q) ∧
      RegsBut (fun a => a = st ∨ a = Reg.PLY_STAT ∨ IrqPend a) s t)) ∧
  (∀ (net : Fin 2) (mac : BitVec 48) (s : State), s.domOn 11 = true → After (.addressAgeOut net mac) s fun t =>
    t = { s with ply := { s.ply with addrs := t.ply.addrs } } ∧ ∀ a, a ∈ t.ply.addrs ↔
      a ∈ s.ply.addrs ∧ ¬(a.net = net.val ∧ a.mac = mac.toNat ∧ a.at_ + 300000000000 ≤ s.clk)) ∧
  (∀ s : State,
    let due := s.domOn 11 = true ∧ s.bit Reg.PLY_NODE 14 = true ∧ s.ply.supAt + 2000000000 ≤ s.clk
    let f := supFrame s.ply.node s.ply.supSeq
    (¬due → NoEffect .prpSupervision s) ∧
    (due → (∀ a ∈ s.ply.addrs, a.mac ≠ beAt f 0 6) → After .prpSupervision s fun t => t.ply.supAt = s.clk ∧
      t.ply.supSeq = (s.ply.supSeq + 1) % 65536 ∧ SameMem s t ∧ ∀ p, p < 4 →
        let out := f ++ plyTrailer f s.ply.supSeq (p / 2)
        (portUp s p = true → queueFits s p 0 out = true → plyQ t p 0 = plyQ s p 0 ++ [⟨out, none, p / 2⟩]) ∧
        (portUp s p = true → queueFits s p 0 out = false → plyQ t p 0 = plyQ s p 0 ∧ t.bit Reg.PLY_STAT 4 = true ∧
          t.bits (Reg.PLY_PORT_DROP p) 7 0 = min (s.bits (Reg.PLY_PORT_DROP p) 7 0 + 1) 255) ∧
        (portUp s p = false → plyQ t p 0 = plyQ s p 0))) ∧
  (∀ (r : Fin 2) (v : Word) (s : State), s.domOn 11 = true → After (.txRingWrite r v) s fun t =>
    t.rd (Reg.PLY_TXR_WR r) = v ∧ RegEffect (· = Reg.PLY_TXR_WR r) s t) ∧
  (∀ s : State,
    let alive := s.domOn 11 = true ∧ s.bit Reg.PLY_NODE 14 = true
    let r := if txReady s 0 then 0 else 1
    let a := txDesc s r (txTake s r)
    let w := fun i => rdz s.dram (a - dramBase + 4 * i) 4
    let src := w 0 + 2 ^ 32 * w 1
    let len := fget (w 2) 10 0
    let f := memBytes zeroByte s.dram (src - dramBase) len
    let net := fget (w 2) 12 11
    let q := fget (w 2) 15 13 / 2
    let late := w 4 + 2 ^ 32 * w 5
    let h := plyBodyAt f
    let bad := net = 3 ∨ len < 60 ∨ 1516 < len ∨ fget (w 2) 30 17 ≠ 0 ∨ fget (w 3) 31 15 ≠ 0 ∨ (∃ i, 12 ≤ i ∧ i < 16 ∧ w i ≠ 0) ∨
      (plyEtherType f = 0x88B5 ∧ byteAt f h / 16 = 2)
    let missed := (late ≠ 0 ∧ late < s.ext) ∨ pubLate s f = true
    let n := plySeq s (fget (w 3) 13 0) (fbit (w 3) 14)
    let out := fun (k : Nat) => if net = 0 then f ++ plyTrailer f n k else f
    let goes := fun (p : Nat) => (net = 0 ∨ net = p / 2 + 1) ∧ p ∈ plyPorts s (p / 2) (beAt f 0 6) none
    let d0 : PlyFlight := ⟨0, r, a, 0, 0, false, false, 0, 0, false⟩
    let ends := fun st t => Completed d0 st t ∧
      t.rdN (Reg.PLY_TXR_RD r) = (s.rdN (Reg.PLY_TXR_RD r) + 1) % ringLen (s.rdN (Reg.PLY_TXR_CFG r)) ∧ ∀ p i, plyQ t p i = plyQ s p i
    (¬alive ∨ (txReady s 0 = false ∧ txReady s 1 = false) → NoEffect .txDescriptorProcess s) ∧
    (alive → txReady s r = true → inDram src len = true → (∀ d ∈ s.ply.flight, d.ring ≠ r) →
      After .txDescriptorProcess s (fun t => txTake t r = (txTake s r + 1) % ringLen (s.rdN (Reg.PLY_TXR_CFG r)) ∧
        (bad → t.pair.bodies = s.pair.bodies) ∧
        (¬bad → t.pair.bodies = s.pair.bodies ++ if plyEtherType f = 0x88B5 ∧ byteAt f h / 16 = 1 then f.drop (h + 16) else [])) ∧
      (bad → After .txDescriptorProcess s (ends 3)) ∧
      (¬bad → missed → After .txDescriptorProcess s (ends 1)) ∧
      (¬bad → ¬missed → (∀ b ∈ s.ply.addrs, b.port / 2 = b.net) → After .txDescriptorProcess s fun t =>
        (net = 0 → plySeq t (fget (w 3) 13 0) (fbit (w 3) 14) = (n + 1) % 65536) ∧
        ((∀ p, p < 4 → goes p → queueFits s p q (out 0) = false) → Completed d0 2 t) ∧
        ((∃ p, p < 4 ∧ goes p ∧ queueFits s p q (out 0) = true) → t.dram = s.dram) ∧
        ∀ p, p < 4 → (goes p → queueFits s p q (out (p / 2)) = true →
          plyQ t p q = plyQ s p q ++ [⟨out (p / 2), some s.ply.nextId, p / 2⟩]) ∧
          (¬goes p → plyQ t p q = plyQ s p q)))) ∧
  (∀ (r : Fin 2) (s : State), s.domOn 11 = true →
    let mine := s.ply.flight.filter (·.ring == r.val)
    (mine = [] → NoEffect (.txComplete r) s) ∧
    (∀ d rest, mine = d :: rest →
      (d.left ≠ 0 → NoEffect (.txComplete r) s) ∧
      (d.left = 0 → d.st < 4 → (∀ e ∈ rest.head?, e.left ≠ 0) → (∀ e ∈ s.ply.flight, e.id = d.id → e = d) → s.domOn 0 = true →
        After (.txComplete r) s fun t => Completed d (if d.st ≠ 0 then d.st else if d.sentA || d.sentB then 0 else 2) t ∧
          t.ply = { s.ply with flight := s.ply.flight.filter (·.id != d.id) } ∧
          t.rdN (Reg.PLY_TXR_RD r) = (s.rdN (Reg.PLY_TXR_RD r) + 1) % ringLen (s.rdN (Reg.PLY_TXR_CFG r))))) ∧
  (∀ (p : Fin 4) (f : List Byte) (fcsOk : Bool) (s : State), s.domOn 11 = true →
    let go := Instr.plyFrameRx p f fcsOk
    let err := Reg.PLY_PORT_RXERR p
    let ply := plyEtherType f = 0x88B5
    let runs := portUp s p = true ∧ fcsOk = true ∧ plyEtherType f ≠ 0x8808
    let here := runs ∧ toMac s (p.val / 2) f = true
    let h := plyBodyAt f
    let tr := hasTrailer f
    let dup := tr = true ∧ ∃ w, s.ply.wins.find? (·.src == srcMac f) = some w ∧ beAt f (f.length - 6) 2 ∈ winLive s w
    let data := (¬ply ∧ plyEtherType f ≠ 0x88FB) ∨
      (ply ∧ plyHeaderOk s f = true ∧ byteAt f h / 16 = 4 ∧ leAt f (h + 6) 2 ≠ 0)
    let g := if tr then f.take (f.length - 6) else f
    let a := rxDesc s
    let o := a - dramBase
    let buf := rdz s.dram o 8
    let room := s.bit Reg.PLY_RXR_CFG 19 = true ∧ s.domOn 0 = true ∧ inDram a 32 = true ∧ fbit (rdz s.dram (o + 8) 4) 31 = true
    (portUp s p = false ∨ (fcsOk = true ∧ plyEtherType f = 0x8808) → NoEffect go s) ∧
    (portUp s p = true → fcsOk = false → After go s fun t => RegEffect (· = err) s t ∧
      t.bits err 15 0 = min (s.bits err 15 0 + 1) 65535 ∧ t.bits err 31 16 = s.bits err 31 16) ∧
    (runs → ¬here → After go s fun t => SameMem s t ∧ t.ply.wins = s.ply.wins ∧ t.rd err = s.rd err) ∧
    (here → ply → plyHeaderOk s f = false → After go s fun t => SameMem s t ∧ t.ply.wins = s.ply.wins ∧
      t.bits err 31 16 = min (s.bits err 31 16 + 1) 65535) ∧
    (here → data → dup → After go s fun t => SameMem s t ∧ t.rdN Reg.PLY_PRP_DUP = min (s.rdN Reg.PLY_PRP_DUP + 1) (2 ^ 32 - 1)) ∧
    (here → data → tr = true → After go s fun t =>
      let wrong := decide ((beAt f (f.length - 4) 2 / 4096 = 0xA) ≠ (p.val / 2 = 0))
      let out := decide (∀ w ∈ s.ply.wins, w.src ≠ srcMac f)
      t.rdN Reg.PLY_PRP_WRONG_LAN = min (s.rdN Reg.PLY_PRP_WRONG_LAN + b2n wrong) (2 ^ 32 - 1) ∧
      (out = true → t.rdN Reg.PLY_PRP_OOW = min (s.rdN Reg.PLY_PRP_OOW + 1) (2 ^ 32 - 1)) ∧ (wrong || out → t.bit Reg.PLY_STAT 6 = true)) ∧
    (here → ply → plyHeaderOk s f = true → byteAt f h / 16 = 2 → After go s fun t => t.dram = s.dram ∧
      t.rd Reg.PLY_RXR_WR = s.rd Reg.PLY_RXR_WR ∧ t.rd Reg.PLY_PRP_DUP = s.rd Reg.PLY_PRP_DUP) ∧
    (runs → plyEtherType f = 0x88F7 → After go s fun t => ∀ r q, plyQ t r q = plyQ s r q) ∧
    (runs → data → plyEtherType f ≠ 0x88F7 → (∀ b ∈ s.ply.addrs, b.mac ≠ beAt f 0 6) → beAt f 0 6 ≠ srcMac f →
      beAt f 0 6 ≠ nodeMac s.ply.node →
      let r := p.val / 2 * 2 + (1 - p.val % 2)
      let q := plyQueue f
      portUp s r = true → queueFits s r q f = true → After go s fun t => plyQ t r q = plyQ s r q ++ [⟨f, none, p.val / 2⟩]) ∧
    (here → data → ¬dup → ¬room → After go s fun t => t.bit Reg.PLY_STAT 5 = true ∧ SameMem s t) ∧
    (here → data → ¬dup → room → After go s fun t => t.bit Reg.PLY_STAT 1 = true ∧
      t.rdN Reg.PLY_RXR_WR = (s.rdN Reg.PLY_RXR_WR + 1) % ringLen (s.rdN Reg.PLY_RXR_CFG) ∧
      rdz t.dram (o + 8) 4 % 2 ^ 11 = g.length % 2 ^ 11 ∧ fbit (rdz t.dram (o + 8) 4) 31 = false ∧
      fget (rdz t.dram (o + 8) 4) 12 11 = p.val ∧ rdz t.dram (o + 16) 8 = s.ext % 2 ^ 64 ∧
      (inDram buf g.length = true → buf + g.length ≤ a ∨ a + 32 ≤ buf → memBytes zeroByte t.dram (buf - dramBase) g.length = g)))

/-- Nothing changes but controller `n`: its registers, its buffers and what it drives. -/
def OnlyCan (n : Nat) (s t : State) : Prop :=
  t = { s with regs := t.regs, inst := t.inst, can := t.can, out := t.out, freeIdx := t.freeIdx } ∧ (∀ m, m ≠ n → canOf t m = canOf s m) ∧
  RegsBut (fun a => Window (Reg.CAN_STAT n) (Reg.CAN_STAT (n + 1)) a ∨ IrqPend a) s t

/-- CAN FD: INIT, joining and recovery, error counters and states, reception into buffers and the FIFO, arbitration, sending,
cancelling and locks. (R343, R346, R347, R348, R349, R350, R351, R352, R353, R354.) -/
def Obligations.CanControllers : Prop :=
  (∀ (n : Fin 6) (occ : Nat) (s : State), s.domOn 11 = true →
    let mode := Reg.CAN_MODE n
    let x := canOf s n
    let st := canState s n
    (∀ init, After (.canInitWrite n init) s (OnlyCan n s)) ∧
    (x.active = none → After (.canInitWrite n true) s fun t => t.bit mode 0 = true ∧ t.bit mode 4 = false ∧
      canState t n = (if st = 3 ∨ st = 4 then 3 else 0)) ∧
    (x.active ≠ none → After (.canInitWrite n true) s fun t => t.bit mode 0 = true ∧ canState t n = st ∧ (canOf t n).initPend = true) ∧
    (s.bit mode 0 = false → NoEffect (.canInitWrite n false) s) ∧
    (s.bit mode 0 = true →
      let ok := canTimingOk (s.rdN (Reg.CAN_NBT n)) (s.rdN (Reg.CAN_DBT n))
      After (.canInitWrite n false) s fun t => t.bit mode 0 = !ok ∧ canState t n = st ∧ (ok = false → t.bit (Reg.CAN_STAT n) 8 = true)) ∧
    (s.bit mode 0 = true ∨ st ≠ 0 → NoEffect (.canBusJoin n) s) ∧
    (s.bit mode 0 = false → st = 0 → After (.canBusJoin n) s fun t => RegEffect (· = Reg.CAN_STATE n) s t ∧
      canState t n = canErrState (s.bits (Reg.CAN_STATE n) 8 0) (s.bits (Reg.CAN_STATE n) 23 16)) ∧
    (s.bit mode 0 = true ∨ st ≠ 3 → NoEffect (.canRecover n) s) ∧
    (s.bit mode 0 = false → st = 3 → After (.canRecover n) s fun t => canState t n = 4 ∧ t.bits (Reg.CAN_STATE n) 23 16 = 0 ∧
      t.bit mode 4 = true ∧ RegEffect (fun a => a = Reg.CAN_STATE n ∨ a = mode) s t) ∧
    (st ≠ 4 → NoEffect (.canRecovered n occ) s) ∧
    (st = 4 → occ < 128 → After (.canRecovered n occ) s fun t => canState t n = 4 ∧ t.bits (Reg.CAN_STATE n) 23 16 = occ) ∧
    (st = 4 → 128 ≤ occ → After (.canRecovered n occ) s fun t => t.rd (Reg.CAN_STATE n) = 0x01000000 ∧ t.bit mode 4 = false ∧
      t.bit (Reg.CAN_STAT n) 4 = true ∧ OnlyCan n s t) ∧
    After (.canFlush n) s (fun t => OnlyCan n s t ∧ ∀ b, b < 64 →
      canStatus t n b = (if canStatus s n b = 1 then 4 else canStatus s n b) ∧
      (canStatus s n b = 1 → t.bit (Reg.CAN_STAT n) 1 = true))) ∧
  (∀ (n : Fin 6) (w0 w1 : Word) (data : List Word) (age : Nat) (s : State), s.domOn 11 = true →
    let go := Instr.canFrameRx n w0 w1 data age
    let x := canOf s n
    let stamp := (s.rdN Reg.TIM_NOW + 2 ^ 32 - age % 2 ^ 32) % 2 ^ 32
    let on := canState s n = 1 ∨ canState s n = 2
    let takes := fun b => b < 64 ∧ s.bit (Reg.CAN_BUF_CFG n b) 31 = true ∧ s.bit (Reg.CAN_BUF_CFG n b) 30 = false ∧
      canMatch w0.toNat (s.rdN (Reg.CAN_BUF_CFG n b)) (s.rdN (Reg.CAN_BUF_MASK n b)) = true
    let fifo := s.bit (Reg.CAN_FIFO_ID n) 31 = true ∧
      canMatch w0.toNat (s.rdN (Reg.CAN_FIFO_ID n)) (s.rdN (Reg.CAN_FIFO_MASK n)) = true
    let rec_ := s.bits (Reg.CAN_STATE n) 23 16
    let rec' := fun (t : State) => t.bits (Reg.CAN_STATE n) 23 16
    (¬on → NoEffect go s) ∧
    (on → After go s fun t => OnlyCan n s t ∧
      if s.bit (Reg.CAN_MODE n) 1 = true ∨ rec_ = 0 then rec' t = rec_ else if rec_ ≤ 127 then rec' t = rec_ - 1
        else 119 ≤ rec' t ∧ rec' t ≤ 127) ∧
    (∀ b, on → takes b → (∀ c, takes c → b ≤ c) →
      let e := canEntry w0 w1 data 0 stamp
      (x.lock ≠ some b → After go s fun t => (∀ k, k < 19 → t.rd (Reg.CAN_BUF_W n b k) = e.getD k 0) ∧
        t.bit (Reg.CAN_BUF_CTL n b) 2 = true ∧ canOf t n = x ∧ t.bit (Reg.CAN_STAT n) 0 = true ∧
        t.bit (Reg.CAN_BUF_CTL n b) 3 = (s.bit (Reg.CAN_BUF_CTL n b) 3 || s.bit (Reg.CAN_BUF_CTL n b) 2)) ∧
      (x.lock = some b → After go s fun t => canOf t n = { x with held := some e } ∧
        (∀ k, k < 19 → t.rd (Reg.CAN_BUF_W n b k) = s.rd (Reg.CAN_BUF_W n b k)) ∧
        t.bit (Reg.CAN_BUF_CTL n b) 3 = (s.bit (Reg.CAN_BUF_CTL n b) 3 || x.held.isSome))) ∧
    (on → (∀ b, ¬takes b) → fifo → x.fifo.length < 32 → After go s fun t => t.bit (Reg.CAN_STAT n) 0 = true ∧
      canOf t n = { x with fifo := x.fifo ++ [canEntry w0 w1 data 0x3F stamp] } ∧
      t.bits (Reg.CAN_FIFO_STAT n) 5 0 = x.fifo.length + 1) ∧
    (on → (∀ b, ¬takes b) → fifo → 32 ≤ x.fifo.length → After go s fun t => canOf t n = x ∧ t.bit (Reg.CAN_STAT n) 5 = true) ∧
    (on → (∀ b, ¬takes b) → ¬fifo → After go s fun t => canOf t n = x ∧ ∀ b k, b < 64 → k < 19 →
      t.rd (Reg.CAN_BUF_W n b k) = s.rd (Reg.CAN_BUF_W n b k) ∧ t.rd (Reg.CAN_BUF_CTL n b) = s.rd (Reg.CAN_BUF_CTL n b))) ∧
  (∀ (n : Fin 6) (s : State), s.domOn 11 = true →
    let on := canState s n = 1 ∨ canState s n = 2
    let tec := s.bits (Reg.CAN_STATE n) 8 0
    let rec_ := s.bits (Reg.CAN_STATE n) 23 16
    let listen := s.bit (Reg.CAN_MODE n) 1
    let x := canOf s n
    let counts := fun (k r : Nat) (t : State) => t.bits (Reg.CAN_STATE n) 8 0 = k ∧ t.bits (Reg.CAN_STATE n) 23 16 = min r 255 ∧
      canState t n = (if 255 < k then 3 else if 127 < k ∨ 127 < r then 2 else 1) ∧ (255 < k → t.bit (Reg.CAN_STAT n) 3 = true)
    let go := Instr.canBusError n
    (¬on → ∀ e, NoEffect (go e) s) ∧
    (on → tec ≤ 255 →
      (listen = true → NoEffect (go .receiver) s ∧ NoEffect (go .receiver8) s) ∧
      (listen = false → After (go .receiver) s (counts tec (rec_ + 1)) ∧ After (go .receiver8) s (counts tec (rec_ + 8))) ∧
      (s.bit (Reg.CAN_MODE n) 3 = false → After (go .exception) s fun t => t.bit (Reg.CAN_STAT n) 7 = true ∧
        RegEffect (fun a => a = Reg.CAN_STAT n ∨ IrqPend a) s t) ∧
      (s.bit (Reg.CAN_MODE n) 3 = true → listen = false → After (go .exception) s (counts tec (rec_ + 1))) ∧
      (x.initPend = false → After (go .transmitter) s (counts (tec + 8) rec_)) ∧
      (∀ b at_, x.active = some (b, at_) → ∀ e, e = CanErr.transmitter ∨ e = CanErr.transmitterUncounted → After (go e) s fun t =>
        canStatus t n b = (if x.cancel then 6 else 1) ∧ (canOf t n).active = none))) ∧
  (∀ (n : Fin 6) (b : Fin 64) (s : State), s.domOn 11 = true →
    let st := canStatus s n b
    let w0 := s.rdN (Reg.CAN_BUF_W n b 0)
    let w1 := s.rdN (Reg.CAN_BUF_W n b 1)
    let asks := s.bit (Reg.CAN_BUF_CFG n b) 30 = true ∧ st ≠ 1 ∧ st ≠ 2
    let bad := (fbit w0 30 = true ∧ fbit w1 4 = true) ∨ (fbit w1 5 = true ∧ fbit w1 4 = false)
    (¬asks → NoEffect (.canTxReq n b) s) ∧
    (asks → After (.canTxReq n b) s fun t => canStatus t n b = (if bad then 7 else 1) ∧ (bad → t.bit (Reg.CAN_STAT n) 1 = true) ∧
      RegEffect (fun a => a = Reg.CAN_BUF_CTL n b ∨ a = Reg.CAN_STAT n ∨ IrqPend a) s t) ∧
    (st = 1 → After (.canCancel n b) s fun t => canStatus t n b = 4 ∧ t.bit (Reg.CAN_STAT n) 1 = true ∧ t.can = s.can) ∧
    (st = 2 → After (.canCancel n b) s fun t => t.regs = s.regs ∧ canOf t n = { canOf s n with cancel := true }) ∧
    (st ≠ 1 → st ≠ 2 → NoEffect (.canCancel n b) s)) ∧
  (∀ (n : Fin 6) (s : State), s.domOn 11 = true →
    let x := canOf s n
    let may := (canState s n = 1 ∨ canState s n = 2) ∧ x.active = none ∧ x.initPend = false ∧ s.bit (Reg.CAN_MODE n) 1 = false
    let waits := fun b => b < 64 ∧ canStatus s n b = 1 ∧ s.rdN (Reg.CAN_BUF_CFG n b) / 2 ^ 30 = 3
    let key := fun b => canKey (s.rdN (Reg.CAN_BUF_W n b 0))
    let tec := s.bits (Reg.CAN_STATE n) 8 0
    (¬may ∨ (∀ b, ¬waits b) → NoEffect (.canTxStart n) s) ∧
    (∀ b, may → waits b → (∀ c, waits c → key b < key c ∨ (key b = key c ∧ b ≤ c)) → After (.canTxStart n) s fun t =>
      canStatus t n b = 2 ∧ canOf t n = { x with active := some (b, s.rdN Reg.TIM_NOW), cancel := false } ∧
      RegsBut (· = Reg.CAN_BUF_CTL n b) s t ∧
      t.out = s.out ++ if s.bit (Reg.CAN_MODE n) 2 then [] else [.can n ((List.range 18).map fun w => s.rd (Reg.CAN_BUF_W n b w))]) ∧
    (x.active = none → ∀ e, NoEffect (.canTxEnd n e) s) ∧
    (∀ b at_, x.active = some (b, at_) →
      let fdf := s.bit (Reg.CAN_BUF_W n b 1) 4
      let ends := fun (v : Nat) (t : State) => canStatus t n b = v ∧ (canOf t n).active = none ∧ (v ≠ 1 → t.bit (Reg.CAN_STAT n) 1 = true)
      After (.canTxEnd n .lost) s (ends (if x.cancel then 4 else 1)) ∧
      (∀ c, After (.canTxEnd n (.error c)) s (ends (if x.cancel then 6 else 1))) ∧
      (∀ d, fdf = true → 127 < d → After (.canTxEnd n (.success d)) s fun t => ends (if x.cancel then 6 else 1) t ∧
        t.rd (Reg.CAN_TDCR n) = 0xFF) ∧
      (∀ d, fdf = false ∨ d ≤ 127 → After (.canTxEnd n (.success d)) s fun t => ends (if x.cancel then 5 else 3) t ∧
        (s.bit (Reg.CAN_MODE n) 2 = false → b < 64 → t.rdN (Reg.CAN_BUF_W n b 18) = at_ % 2 ^ 32) ∧
        t.bits (Reg.CAN_STATE n) 8 0 = tec - 1 ∧ (fdf = true → t.rdN (Reg.CAN_TDCR n) = d)))) ∧
  (∀ (n : Fin 6) (w : Fin 65) (s : State), s.domOn 11 = true →
    let x := canOf s n
    let v := w.val
    let tx := v < 64 ∧ s.bit (Reg.CAN_BUF_CFG n v) 30 = true
    (x.lock = some v ∨ tx → NoEffect (.canWindowLock n w) s) ∧
    (x.lock = none → ¬tx → v = 64 → x.fifo = [] → NoEffect (.canWindowLock n w) s) ∧
    (x.lock = none → ¬tx → v < 64 ∨ x.fifo ≠ [] → After (.canWindowLock n w) s fun t => t = s.setCan n { x with lock := some v }) ∧
    (∀ u, x.lock = some u → u ≠ v → ¬tx → v < 64 → After (.canWindowLock n w) s fun t => (canOf t n).lock = some v ∧
      (canOf t n).held = none ∧ (u = 64 → (canOf t n).fifo = x.fifo.drop 1) ∧
      (u < 64 → t.bit (Reg.CAN_BUF_CTL n u) 2 = x.held.isSome)) ∧
    (x.lock ≠ some v → NoEffect (.canWindowRelease n w) s) ∧
    (x.lock = some v → v = 64 → After (.canWindowRelease n w) s fun t => canOf t n =
      { x with lock := none, held := none, fifo := x.fifo.drop 1 } ∧ t.bits (Reg.CAN_FIFO_STAT n) 5 0 = (x.fifo.length - 1) % 64 ∧
      RegsBut (· = Reg.CAN_FIFO_STAT n) s t) ∧
    (x.lock = some v → v < 64 → After (.canWindowRelease n w) s fun t => canOf t n = { x with lock := none, held := none } ∧
      t.bit (Reg.CAN_BUF_CTL n v) 2 = x.held.isSome ∧
      ∀ e, x.held = some e → ∀ k, k < 19 → t.rd (Reg.CAN_BUF_W n v k) = e.getD k 0))

/-- The packets that go out for `items` (type, sub-type, offset, payload), each on its lane with the next SEQ (R359, R360). -/
def MirrorPackets (s : State) (items : List (Nat × Nat × Nat × List Word)) : List Out :=
  items.zipIdx.map fun x =>
    let n := (s.pair.seq + x.2) % 2 ^ 32
    .mirror (laneFor s n) (mirWords x.1.1 x.1.2.1 n (s.lib.k % 2 ^ 32) x.1.2.2.1 x.1.2.2.2)

/-- The link can carry packets: the pair is enabled and a lane is up. -/
def LinkUp (s : State) : Prop := s.bit Reg.PAIR_CFG 0 = true ∧ (laneUp s 0 = true ∨ laneUp s 1 = true)

/-- The holder has stepped down: its gate is shut and every valve driver OFF (R357, R372). -/
def SteppedDown (t : State) : Prop :=
  t.bits Reg.PAIR_LEASE_STAT 1 0 = 2 ∧ t.bit Reg.PAIR_LEASE_STAT 8 = false ∧ t.bit Reg.PAIR_STAT 1 = true ∧ t.pair.cont = none ∧
  (t.domOn 10 = true → ∀ v, v < 16 → t.bit (Reg.HBX_VLV_STAT v) 0 = false)

/-- The module has taken the lease at the epoch after `e` (R373). -/
def TookLease (e : Nat) (t : State) : Prop :=
  let e' := (e + 1) % 2 ^ 32
  (t.pair.cont = if t.bits Reg.PAIR_CFG 2 1 = 2 ∧ t.bit Reg.PAIR_LEASE_STAT 6 = false then some e else none) ∧
  t.bits Reg.PAIR_LEASE_STAT 1 0 = 1 ∧ t.bit Reg.PAIR_LEASE_STAT 8 = true ∧ t.rdN Reg.PAIR_EPOCH = e' ∧ t.bit Reg.PAIR_STAT 0 = true ∧
  (t.domOn 12 = true → rdz t.mram 0x1000 4 = e' ∧ rdz t.mram 0x1FFC 4 = 0xE90C0001)

/-- The mirror link: packets, lanes and SYNC, snapshot parts, mirror frames and hashes, PLAN_RUN across modules, dirty pages,
resynchronisation. (R359, R360, R361, R362, R363, R364, R365, R366, R367, R368, R369.) -/
def Obligations.MirrorLink : Prop :=
  (∀ (ws : List Word) (s : State), s.domOn 11 = true →
    let go := Instr.mirrorPacketRx ws
    let w := fun i => (ws.getD i 0).toNat
    let crcOk := 5 ≤ ws.length ∧ ws.getLast? = some (BitVec.ofNat 32 (crc32c 0xFFFFFFFF true (wordBytes ws.dropLast)))
    let n := w 0 / 65536
    let ty := w 0 % 256
    let formOk := 1 ≤ ty ∧ ty ≤ 7 ∧ n % 4 = 0 ∧ n ≤ 4096 ∧ ws.length = 5 + n / 4
    let pl := (ws.drop 4).dropLast
    let on := s.bit Reg.PAIR_CFG 0 = true
    let asks := ty ≠ 5 ∧ ty ≠ 7
    let new := asks → w 1 ∉ s.pair.seen
    let valid := on ∧ crcOk ∧ formOk
    let sub := w 0 / 256 % 256
    (¬on ∨ (crcOk ∧ ¬formOk) → NoEffect go s) ∧
    (on → ¬crcOk → After go s fun t => RegEffect (· = Reg.PAIR_LINK_STAT) s t ∧
      t.bits Reg.PAIR_LINK_STAT 31 24 = min (s.bits Reg.PAIR_LINK_STAT 31 24 + 1) 255) ∧
    (valid → asks → LinkUp s → After go s fun t => ∃ rest, t.out = s.out ++
      .mirror (laneFor s s.pair.seq) (mirWords 5 0 s.pair.seq 0 0 [ws.getD 1 0]) :: rest) ∧
    (valid → ¬new → After go s fun t => t = { s with out := t.out, pair := { s.pair with seq := t.pair.seq } }) ∧
    (valid → asks → new → After go s fun t => w 1 ∈ t.pair.seen) ∧
    (valid → ty = 7 → After go s fun t => t.pair.helloRx = some s.clk ∧ t.bit Reg.PAIR_LINK_STAT 2 = (laneUp s 0 || laneUp s 1)) ∧
    (valid → ty = 5 → After go s fun t => ∀ x, x ∈ t.pair.sent ↔ x ∈ s.pair.sent ∧ x.seq ∉ pl.map BitVec.toNat) ∧
    (valid → ty = 1 → new → holder s = false → twinNow s = true → After go s fun t => t.pair.snapK = w 2 ∧ SameMem s t ∧
      t.pair.snap = (if s.pair.snapK = w 2 then s.pair.snap else []) ++ [(sub / 4 % 2, sub % 4, w 3, pl)]) ∧
    (valid → ty = 6 → new → holder s = false → twinNow s = true → pl.length = 1024 → s.domOn 0 = true →
      inDram (mstBase s + 4096 * w 3) 4096 = true → After go s fun t =>
        memWords zeroByte t.dram (mstBase s + 4096 * w 3 - dramBase) 1024 = pl)) ∧
  (∀ (seq : Word) (s : State), s.domOn 11 = true →
    let go := Instr.mirrorRetransmit seq
    let link := Reg.PAIR_LINK_STAT
    (s.pair.sent.find? (·.seq == seq.toNat) = none → NoEffect go s) ∧
    (∀ x, s.pair.sent.find? (·.seq == seq.toNat) = some x →
      (s.clk < x.at_ + 50000 → NoEffect go s) ∧
      (x.at_ + 50000 ≤ s.clk → x.n = 1 → After go s fun t => t.out = s.out ++ [.mirror (laneFor s seq.toNat) x.ws] ∧
        t.bits link 15 8 = min (s.bits link 15 8 + 1) 255 ∧ ∀ y ∈ t.pair.sent, y.seq = seq.toNat → y.n = 2 ∧ y.at_ = s.clk) ∧
      (x.at_ + 50000 ≤ s.clk → x.n ≠ 1 → After go s fun t => t.pair.sent = s.pair.sent.filter (·.xfer != x.xfer) ∧ t.out = s.out ∧
        t.bits link 23 16 = min (s.bits link 23 16 + 1) 255))) ∧
  (∀ s : State,
    let due := s.domOn 11 = true ∧ s.bit Reg.PAIR_CFG 0 = true ∧ s.pair.helloTx + 1000000 ≤ s.clk
    (¬due → NoEffect .helloSend s) ∧
    (due → After .helloSend s fun t => t.pair.helloTx = s.clk ∧ RegEffect (fun _ => False) { s with pair := t.pair, out := t.out } t ∧
      t.out = s.out ++ [.mirror 0 (mirWords 7 0 s.pair.seq 0 0 []), .mirror 1 (mirWords 7 0 ((s.pair.seq + 1) % 2 ^ 32) 0 0 [])])) ∧
  (∀ (lane : Option (Fin 2 × Bool)) (s : State), s.domOn 11 = true → After (.laneStateChange lane) s fun t =>
    let up := fun l => match lane with | some (m, u) => if m.val = l then u else laneUp s l | none => laneUp s l
    let now := (up 0 || up 1) && match s.pair.helloRx with | some h => decide (s.clk ≤ h + 5000000) | none => false
    laneUp t 0 = up 0 ∧ laneUp t 1 = up 1 ∧ inSync t = now ∧
    (laneUp s 0 ≠ up 0 ∨ laneUp s 1 ≠ up 1 ∨ inSync s ≠ now → t.bit Reg.PAIR_STAT 6 = true) ∧
    (inSync s = false → now = true → holder s = true → s.pair.lostAt + 500000000 < s.clk → t.pair.pass = some 0)) ∧
  (∀ (p : Fin 2) (s : State), s.domOn 11 = true →
    let sends := holder s = true ∧ s.pair.cont = none ∧ twinNow s = true ∧ s.domOn 0 = true ∧ ((snapSegs s p).map (snapLen s)).sum ≤ 32768
    let pNat := p.val
    (¬sends → NoEffect (.snapGo p) s) ∧
    (sends → LinkUp s → s.pair.seq < 2 ^ 32 → After (.snapGo p) s fun t => t.out = s.out ++ MirrorPackets s
      ((snapSegs s p).flatMap fun g => (mirChunks (segWords s g)).map fun c => (1, 4 * pNat + g % 4, c.1, c.2))) ∧
    (let waits := holder s = false ∧ twinNow s = true ∧ s.pair.snapDone = false
     let missed := fun t => State.bit t Reg.PAIR_STAT 4 = true ∧ t.pair.snapDone = true ∧ t.pair.miss = true ∧ SameMem s t
     let ready := (∀ g ∈ snapSegs s p, (segGot s g).isSome = true) ∧ snapLen s (4 * pNat) ≠ 0 ∧ s.fsn.block = none ∧
       s.pair.snapStep < s.fsn.steps ∧ s.ext < snapDl s ∧ s.domOn 0 = true
     (¬waits → NoEffect (.snapPartWrite p) s ∧ NoEffect .snapDeadline s) ∧
     (waits → ¬ready → After (.snapPartWrite p) s missed) ∧
     (waits → s.ext < snapDl s → NoEffect .snapDeadline s) ∧ (waits → snapDl s ≤ s.ext → After .snapDeadline s missed) ∧
     (waits → ready → After (.snapPartWrite p) s fun t => t.pair.snapDone = true ∧ t.pair.miss = s.pair.miss ∧
       ∀ ws, snapSegs s p = [4 * pNat] → segGot s (4 * pNat) = some ws → inDram (snapDst s (4 * pNat)) (4 * ws.length) = true →
         memWords zeroByte t.dram (snapDst s (4 * pNat) - dramBase) ws.length = ws))) ∧
  (∀ s : State, s.domOn 11 = true →
    let runs := s.bit Reg.PAIR_CFG 0 = true ∧ s.domOn 0 = true ∧ pairMode s ≠ 0
    let g := if holder s ∨ twinNow s = true then s.gather else s
    let h := mirHash g
    (¬runs → NoEffect .mirGo s) ∧
    (runs → After .mirGo s fun t => t.rd Reg.PAIR_MIR_HASH = h.state ∧ t.pair.bodies = [] ∧ SameMem g t ∧
      h.state = BitVec.ofNat 32 (crc32c 0xFFFFFFFF true (wordBytes (regionShared (regionWords g)))) ∧
      ((∀ b, s.pair.hashRx = some b → b.k ≠ h.k) → t.pair.hashOwn = some h) ∧
      (LinkUp s → s.pair.seq < 2 ^ 32 → t.out = s.out ++ MirrorPackets s
        ((if holder s then (mirChunks (mirPayload g)).map fun c => (2, 0, c.1, c.2) else []) ++
          if holder s ∨ twinNow s = true then [(3, 0, 0, [h.state, h.cmds, BitVec.ofNat 32 (b2n h.excuse)])] else [])) ∧
      (∀ b, holder s = false → twinNow s = true → s.pair.pResync = true → s.pair.hashRx = some b → b.k = h.k → b.state ≠ h.state →
        t.bit Reg.PAIR_STAT 3 = true ∧ t.pair.adopt = some h.k)) ∧
    (s.pair.asm = [] → NoEffect .mirrorAbandon s) ∧
    (s.pair.asm ≠ [] → After .mirrorAbandon s fun t => t.pair = { s.pair with asm := [] } ∧ t.bit Reg.PAIR_STAT 5 = true) ∧
    After .resync s (fun t => t.bit Reg.PAIR_MST_CTL 0 = true ∧ t.pair = { s.pair with pass := some 0, resync := false }) ∧
    (let done := s.pair.pass = some 16384 ∧ (s.pair.dirty.any fun e => decide (64 ≤ e.1)) = false
     (¬done → NoEffect .resyncDone s) ∧
     (done → After .resyncDone s fun t => t.pair.resync = true ∧ t.pair.pass = none ∧ t.bit Reg.PAIR_MST_CTL 0 = false ∧
       t.bit Reg.PAIR_STAT 12 = true))) ∧
  (∀ (a : BitVec 40) (pg : Fin 16384) (s : State), s.domOn 11 = true →
    let base := mstBase s
    let page := (a.toNat - base) / 4096
    let inside := base ≤ a.toNat ∧ a.toNat < base + 0x4000000
    let next := s.pair.pass = some pg.val
    let src := base + 4096 * pg.val
    let sends := holder s = true ∧ inSync s = true ∧ s.domOn 0 = true ∧ inDram src 4096 = true ∧
      (next ∨ (pageDirty s pg = true ∧ 64 ≤ pg.val ∧ (twinNow s = true ∨ pg.val < 8192)))
    (¬inside ∨ pageDirty s page = true → NoEffect (.pageDirty a) s) ∧
    (inside → pageDirty s page = false → After (.pageDirty a) s fun t => pageDirty t page = true ∧
      t.bits Reg.PAIR_MST_DIRTY 15 0 = min (s.bits Reg.PAIR_MST_DIRTY 15 0 + 1) 65535 ∧ ∀ q, q ≠ page → pageDirty t q = pageDirty s q) ∧
    (¬sends → NoEffect (.pageSend pg) s) ∧
    (sends → After (.pageSend pg) s fun t => pageDirty t pg = false ∧ (next → t.pair.pass = some (pg.val + 1)) ∧ SameMem s t ∧
      (LinkUp s → s.pair.seq < 2 ^ 32 → t.out = s.out ++ MirrorPackets s [(6, 0, pg.val, s.dramWords src 1024)]))) ∧
  (∀ (page : Bool) (s : State),
    let may := s.domOn 12 = true ∧ s.bits Reg.TND_PSTATE 6 4 = 1
    let o := cycleSlot s.pair.slot
    (¬may → NoEffect (.mirrorSlotStore page) s) ∧
    (s.pair.frame = none ∨ s.pair.stored = true → NoEffect (.mirrorSlotStore false) s) ∧
    (s.pair.pages = [] → NoEffect (.mirrorSlotStore true) s) ∧
    (∀ k ws h1 h2, may → s.pair.frame = some (k, ws, h1, h2) → s.pair.stored = false → ws.length ≤ 81920 →
      After (.mirrorSlotStore false) s fun t => memWords zeroByte t.mram o ws.length = ws ∧ rdz t.mram (o + 0x50000) 4 = k % 2 ^ 32 ∧
        rdz t.mram (o + 0x50004) 4 = h1.toNat ∧ rdz t.mram (o + 0x50008) 4 = h2.toNat ∧ rdz t.mram (o + 0x50FFC) 4 = 0x3C1A0001 ∧
        t.pair = { s.pair with stored := true, slot := 1 - s.pair.slot }) ∧
    (∀ pg ws rest, may → s.pair.pages = (pg, ws) :: rest → 64 ≤ pg → pg < 8192 → ws.length = 1024 →
      After (.mirrorSlotStore true) s fun t => memWords zeroByte t.mram (0x200000 + 4096 * (pg - 64)) 1024 = ws ∧
        t.pair.pages = rest)) ∧
  (∀ (s r : State) (i j : Fin 8) (n : Nat) (ws : List Word),
    let age := (s.bits (Reg.CAL_ARM_CNT i) 15 0 + 65536 - planRun ws % 65536) % 65536
    4 < ws.length → s.lib.k + n < 2 ^ 32 → age + n < 65536 →
      let own := r.planOwn j (s.lib.k + n) (s.planShared i ws)
      (r.bits (Reg.CAL_ARM_CNT j) 15 0 + 1 + 65536 - planRun own) % 65536 = age + n ∧ ∀ q, q ≠ 4 → own[q]? = ws[q]?)

/-- The lease: frames every period, what is heard, taking under R373, stepping down, RELEASE, proof runs and their verdict, and
the takeover from WATCH. (R357, R370, R371, R372, R373, R374, R375, R377, R378, R379, R380.) -/
def Obligations.Lease : Prop :=
  (∀ s : State, s.domOn 11 = true →
    let due := s.bit Reg.PAIR_CFG 0 = true ∧ s.pair.sendAt + min 20 (leaseL s / 3) * 1000000 ≤ s.clk
    let releasing := s.pair.relLeft ≠ 0
    (¬due → NoEffect .leaseSend s) ∧
    (due → After .leaseSend s fun t => t.pair.sendAt = s.clk ∧ t.pair.relLeft = s.pair.relLeft - 1 ∧
      t.pair.renewAt = (if holder s = true ∧ ¬releasing ∧ pathUp s = true then s.clk else s.pair.renewAt) ∧
      (LinkUp s → t.out = s.out ++ [.mirror (laneFor s s.pair.seq) (mirWords 4 0 s.pair.seq (s.lib.k % 2 ^ 32) 0
        (leaseWords s false (decide releasing) (if releasing then s.pair.relEp.toNat else s.rdN Reg.PAIR_EPOCH)))])) ∧
    (holder s = false → NoEffect .leaseRelease s) ∧
    (holder s = true → After .leaseRelease s fun t => SteppedDown t ∧ t.pair.relLeft = 2 ∧ t.pair.relEp = s.rd Reg.PAIR_EPOCH ∧
      t.rd Reg.PAIR_EPOCH = s.rd Reg.PAIR_EPOCH)) ∧
  (∀ (epoch : Word) (hold : Bool) (ws : List Word) (s : State), s.domOn 11 = true →
    let go := Instr.leaseFrameRx epoch hold ws
    let w := fun i => (ws.getD i 0).toNat
    let taken := s.bit Reg.PAIR_CFG 0 = true ∧ ws.length = 7 ∧ w 0 % 256 = 1
    let rel := fbit (w 0) 9 = true
    let own := s.rdN Reg.PAIR_EPOCH
    let tie := hold = true ∧ epoch.toNat = own ∧ roleB s = true
    let takes := rel ∧ holder s = false ∧ newer own epoch.toNat = false ∧ s.bits Reg.PAIR_CFG 2 1 = 2 ∧ w 5 = s.rdN Reg.UPD_VERSION ∧
      fbit (w 6) 0 = true ∧ fbit (w 0) 12 = false
    (¬taken → NoEffect go s) ∧
    (taken → After go s fun t => t.bit Reg.PAIR_LEASE_STAT 4 = true ∧
      t.bit Reg.PAIR_LEASE_STAT 6 = decide (w 5 ≠ s.rdN Reg.UPD_VERSION) ∧ (w 5 ≠ s.rdN Reg.UPD_VERSION → t.bit Reg.PAIR_STAT 10 = true) ∧
      (rel ∨ fbit (w 0) 10 = true → t.bit Reg.PAIR_STAT 2 = true) ∧ t.pair.pResync = fbit (w 6) 0) ∧
    (taken → ¬rel → After go s fun t => t.rdN Reg.PAIR_EPOCH = (if newer epoch.toNat own = true then epoch.toNat else own)) ∧
    (taken → ¬rel → holder s = true → newer epoch.toNat own = true ∨ tie → After go s SteppedDown) ∧
    (taken → holder s = true → newer epoch.toNat own = false → ¬tie → After go s fun t => holder t = true) ∧
    (taken → holder s = false → hold = true → newer own epoch.toNat = false → newer epoch.toNat own = false → After go s fun t =>
      t.pair.heard = some s.clk ∧ t.pair.pL = w 3 % 65536 ∧ t.bit Reg.PAIR_LEASE_STAT 7 = fbit (w 0) 11) ∧
    (taken → takes → newer epoch.toNat own = false → After go s (TookLease own))) ∧
  (∀ s : State, s.domOn 11 = true →
    let on := s.bit Reg.PAIR_CFG 0 = true
    let heardOut := s.pair.start + (leaseL s + 20 + if roleB s then 100 else 0) * 1000000 ≤ s.clk
    let free := heardOut ∧
      ∀ h, s.pair.heard = some h → h + (max (leaseL s) s.pair.pL + 20) * 1000000 ≤ s.clk
    let vis := fun v => ∃ x : Nat, v = some x ∧ s.clk ≤ x + visWin s
    let visible := vis s.pair.visA ∨ vis s.pair.visB
    let blocked := s.bit Reg.PAIR_CFG 4 = true ∧ s.bit Reg.PAIR_LEASE_STAT 7 = true
    let lapsed := s.pair.renewAt + leaseL s * 1000000 < s.clk
    (¬on → NoEffect .leaseEval s) ∧
    (on → After .leaseEval s fun t => (t.bit Reg.PAIR_LEASE_STAT 2 = true ↔ vis s.pair.visA) ∧
      (t.bit Reg.PAIR_LEASE_STAT 3 = true ↔ vis s.pair.visB)) ∧
    (on → holder s = true → lapsed → After .leaseEval s SteppedDown) ∧
    (on → holder s = true → ¬lapsed → After .leaseEval s fun t => holder t = true ∧ t.bit Reg.PAIR_LEASE_STAT 8 = s.bit Reg.PAIR_LEASE_STAT 8 ∧
      (pairMode s ≠ 0 → s.bit Reg.PAIR_LEASE_STAT 4 = true →
        (3 < partnerLag s → t.bit Reg.PAIR_LEASE_STAT 5 = true) ∧
        (s.bit Reg.PAIR_LEASE_STAT 5 = true → partnerLag s ≤ 1 → s.pair.okK ≠ s.lib.k → 49 ≤ s.pair.okRun →
          t.bit Reg.PAIR_LEASE_STAT 5 = false ∧ t.bit Reg.PAIR_STAT 7 = true))) ∧
    (on → holder s = false → free → visible → ¬blocked → After .leaseEval s (TookLease (s.rdN Reg.PAIR_EPOCH))) ∧
    (on → holder s = false → ¬free → After .leaseEval s fun t =>
      t.bits Reg.PAIR_LEASE_STAT 1 0 = (if heardOut ∧ s.bits Reg.PAIR_LEASE_STAT 1 0 = 0 then 2 else s.bits Reg.PAIR_LEASE_STAT 1 0) ∧ t.rd Reg.PAIR_EPOCH = s.rd Reg.PAIR_EPOCH) ∧
    (on → holder s = false → free → ¬visible ∨ blocked → After .leaseEval s fun t => t.bits Reg.PAIR_LEASE_STAT 1 0 = 3 ∧
      t.rd Reg.PAIR_EPOCH = s.rd Reg.PAIR_EPOCH)) ∧
  (∀ s : State, s.domOn 11 = true →
    let period := s.bits Reg.PAIR_PROOF_CFG 7 0 * 3600000000000
    let due := s.bit Reg.PAIR_CFG 0 = true ∧ holder s = true ∧ s.bits Reg.PAIR_CFG 2 1 = 1 ∧ s.pair.proof = none ∧ period ≠ 0 ∧
      s.pair.lastEnd + period ≤ s.clk ∧ ∀ r, s.pair.refused = some r → r + 600000000000 ≤ s.clk
    let can := s.bit Reg.PAIR_LEASE_STAT 4 = true ∧ inSync s = true ∧ s.bit Reg.PAIR_LEASE_STAT 6 = false
    let passes := s.bits Reg.PAIR_PROOF_STAT 15 0 = 0 ∧ 9 * (s.lib.k - s.pair.firstK) ≤ 10 * s.pair.compared ∧
      s.bit Reg.PAIR_LEASE_STAT 5 = false
    let past := fun t0 => holder s = true ∧ t0 + s.bits Reg.PAIR_PROOF_CFG 17 8 * 1000000000 ≤ s.clk
    (¬due → NoEffect .proofRunStart s) ∧
    (due → ¬can → After .proofRunStart s fun t => t.pair = { s.pair with refused := some s.clk } ∧ t.bit Reg.PAIR_STAT 13 = true) ∧
    (due → can → After .proofRunStart s fun t => t.pair.proof = some s.clk ∧ t.pair.pass = some 0 ∧ t.rd Reg.PAIR_PROOF_STAT = 0 ∧
      t.bit Reg.PAIR_MST_CTL 0 = true ∧ twinNow t = true) ∧
    (s.pair.proofAt = none → NoEffect .proofRunEnd s) ∧
    (∀ t0, s.pair.proofAt = some t0 →
      (¬past t0 → NoEffect .proofRunEnd s) ∧
      (past t0 → After .proofRunEnd s fun t => t.pair.proof = none ∧ t.pair.lastEnd = s.clk ∧ t.bit Reg.PAIR_STAT 8 = true ∧
        (t.pair.pUnfit = true ↔ ¬passes) ∧ (¬passes → t.bit Reg.PAIR_STAT 9 = true)))) ∧
  (∀ s : State,
    let may := s.domOn 11 = true ∧ s.domOn 0 = true ∧ s.domOn 12 = true ∧ holder s = true ∧ s.bits Reg.PAIR_CFG 2 1 = 1
    (¬may → NoEffect .watchTakeover s) ∧
    (may → After .watchTakeover s fun t => t.tim.armed = true ∧ t.mram = s.mram ∧ t.lib.startAt = some (takeoverAt s) ∧
      (newestSlot s = none → t.lib = { s.lib with startAt := some (takeoverAt s) }) ∧
      (∀ i, newestSlot s = some i →
        let frame := memWords zeroByte s.mram (cycleSlot i) 81920
        let region := frame.take (mirLen s / 4)
        let own := splitLists 12 (region.drop Config.regionLib)
        let word := fun n => ((own.getD 0 []).getD n 0).toNat
        t.lib.mode = word 0 % 8 ∧ t.lib.reqSeq = word 3 ∧ t.lib.demand = own.getD 3 [] ∧ t.lib.integ = own.getD 5 [] ∧
        t.lib.input = own.getD 8 [] ∧ t.lib.record = own.getD 9 [] ∧
        (s.domOn 5 = false → blockAmong s (snapSegs s 0 ++ snapSegs s 1) (frame.drop (mirLen s / 4)) = none →
          inDram (mstBase s) (mirLen s) = true → memWords zeroByte t.dram (mstBase s - dramBase) region.length = region)) ∧
      ∀ i, i < 8128 → rdz s.mram (0x1B0000 + 8 * i) 8 ≠ 0 → inDram (mstBase s + 4096 * (i + 64)) 4096 = true →
        memWords zeroByte t.dram (mstBase s + 4096 * (i + 64) - dramBase) 1024 = memWords zeroByte s.mram (0x200000 + 4096 * i) 1024))

/-- The domain reads its reset values in every class D register but those `p` names, and its cores are held (R392, R395). -/
def DomainClearedBut (p : Nat → Prop) (n : Nat) (t : State) : Prop :=
  (∀ a f, regFam a = some f → f.cls = 'D' → regDomain a = n → ¬p a → t.rd a = resetOf a) ∧
  (n = 0 → (t.core (.mill false)).run = .held ∧ (t.core (.mill true)).run = .held) ∧
  (∀ (x : Fin 4) l, n = 1 + x.val → (t.core (.lane x l)).run = .held) ∧ (n = 13 → (t.core .deckle).run = .held)

def DomainCleared (n : Nat) (t : State) : Prop := DomainClearedBut (fun _ => False) n t

/-- The state a TARGET below WAKING asks for: RETAIN keeps something in DC1-DC4, DC9 and DC12 alone (R387). -/
def sleepState (n target : Nat) : Nat :=
  if target = 1 ∧ ((1 ≤ n ∧ n ≤ 4) ∨ n = 9 ∨ n = 12) then 1 else 0

/-- The module wakes (R390): CUR reads WAKING, its cause is latched and logged, the domains of the flow start. -/
def Woken (src : Nat) (s t : State) : Prop :=
  curState t = 5 ∧ t.bits Reg.TND_PSTATE 1 0 = 0 ∧ t.bits Reg.TND_WAKE 12 8 = src ∧ t.bit Reg.TND_STAT 3 = true ∧
  t.bit Reg.TND_TPEND 3 = true ∧ Logged 0 0 3 src (curState s) 0 s t ∧
  t.tnd = { t.tnd with entry := none, wakeFrom := some (curState s) } ∧
  ∀ n, n < 14 → t.bits (Reg.PWR_DC_STAT n) 1 0 =
    if s.contained n = false ∧ (n = 0 ∨ 9 ≤ n ∨ 2 ≤ s.bits (Reg.PWR_DC_CTL n) 1 0) then max 2 (s.bits (Reg.PWR_DC_STAT n) 1 0)
    else s.bits (Reg.PWR_DC_STAT n) 1 0

/-- A supply holds the module up, no load has been shed and no cold boot is due: a wake source is heard (R389, R402). -/
def Up (s : State) : Prop :=
  s.tnd.bootDue = false ∧ s.tnd.recovery = false ∧ s.tnd.supply ≠ .shed ∧ ∀ pf, s.tnd.supply ≠ .off pf

/-- A system or watchdog reset has run (R392, R393): cause, class S, the cores but the Deckle's, a cold boot due. -/
def SystemReset (cause : Nat) (t : State) : Prop :=
  t.bits Reg.TND_RESET_CAUSE 15 0 = cause ∧ t.tnd.bootDue = true ∧ t.tnd.stalls = [] ∧ t.tnd.recovery = false ∧
  (∀ a f, regFam a = some f → f.cls = 'S' → t.rd a = resetOf a) ∧
  (∀ c, c ≠ .tender → c ≠ .deckle → (t.core c).run = .held) ∧ t.tnd.inRom = none ∧
  t.core .tender = { coreHeld with run := .running } ∧ t.bit Reg.TND_MWDG 15 = false ∧ rdz t.ao 0x1038 4 = 0

/-- A Mill-only soft reset has run (R392): both logical cores restart, nothing else of the module is touched but the record. -/
def SoftReset (cause sev : Nat) (s t : State) : Prop :=
  t.bits Reg.TND_RESET_CAUSE 15 0 = cause ∧
  (∀ b, t.core (.mill b) = if s.tnd.recovery = true then s.core (.mill b) else { coreHeld with run := .running }) ∧
  (∀ c, c ≠ .mill false → c ≠ .mill true → t.core c = s.core c) ∧
  Logged 0 sev (0x100 + cause % 128) (t.rdN Reg.TND_RESET_CAUSE) s.rtcSec 0 s t ∧
  RegsBut (fun a => a = Reg.TND_RESET_CAUSE ∨ a = Reg.TND_LOG_WR) s t ∧ t.dram = s.dram ∧ t.mram = s.mram ∧ t.nor = s.nor

/-- A domain's life: TARGET, resets, joint resets, memory errors, containment until RELEASE, what OFF and reset clear, the
Mill's start. (R16, R22, R296, R299, R387, R395, R396, R404, R407, R408, R470.) -/
def Obligations.DomainLife : Prop :=
  let st := fun (u : State) n => u.bits (Reg.PWR_DC_STAT n) 1 0
  (∀ (n : Fin 14) (v : BitVec 2) (s : State), let acts := curState s = 0 ∧ ((1 ≤ n.val ∧ n.val ≤ 10) ∨ n.val = 12) ∧ s.contained n = false
    After (.domainTargetWrite n v) s (fun t => t.bits (Reg.PWR_DC_CTL n) 1 0 = v.toNat) ∧
    (¬acts → After (.domainTargetWrite n v) s (RegEffect (· = Reg.PWR_DC_CTL n) s)) ∧
    (acts → 2 ≤ v.toNat → After (.domainTargetWrite n v) s fun t => st t n = max 2 (st s n) ∧
      RegEffect (fun a => a = Reg.PWR_DC_CTL n ∨ a = Reg.PWR_DC_STAT n) s t) ∧
    (acts → v.toNat < 2 → After (.domainTargetWrite n v) s fun t => st t n = (if st s n = 0 then 0 else sleepState n v.toNat) ∧
      (2 ≤ st s n → DomainCleared n t))) ∧
  (∀ (n : Fin 14) (rq : Requester) (s : State), let may := (n.val ≠ 0 ∧ n.val ≠ 13) ∨ rq = .tender
    (may → s.contained n = false → After (.domainRst n rq) s fun t => st t n = 2 ∧ t.bit (Reg.PWR_DC_STAT n) 2 = true ∧
      t.bit (Reg.PWR_DC_CTL n) 3 = true ∧ DomainCleared n t ∧ (5 ≤ n.val → n.val ≤ 8 → t.bit Reg.PWR_JOINT_RST (n.val - 5) = true)) ∧
    (¬may ∨ s.contained n = true → NoEffect (.domainRst n rq) s) ∧
    (may → s.contained n = true → After (.domainRelease n rq) s fun t => t.contained n = false ∧ DomainCleared n t ∧
      st t n = if curState s = 0 ∧ ((1 ≤ n.val ∧ n.val ≤ 10) ∨ n.val = 12) ∧ s.bits (Reg.PWR_DC_CTL n) 1 0 < 2
        then sleepState n (s.bits (Reg.PWR_DC_CTL n) 1 0) else 2) ∧
    (¬may ∨ s.contained n = false → NoEffect (.domainRelease n rq) s)) ∧
  (∀ (mask : BitVec 4) (s : State), After (.jointRst mask) s fun t => ∀ k, k < 4 →
    if mask.getLsbD k ∧ s.contained (5 + k) = false then
      st t (5 + k) = 2 ∧ t.bit (Reg.PWR_DC_STAT (5 + k)) 2 = true ∧ t.bit Reg.PWR_JOINT_RST k = true ∧
        ((∀ j, k < j → j < 4 → mask.getLsbD j = false) → DomainCleared (5 + k) t)
    else t.rd (Reg.PWR_DC_STAT (5 + k)) = s.rd (Reg.PWR_DC_STAT (5 + k))) ∧
  (∀ (n : Fin 14) (cause : BitVec 4) (at_ : Word) (s : State), let go := Instr.domainFault n cause at_
    (cause = 0 → s.domOn n = true →
      (∀ k, k < 4 → (n.val = 1 + k → After go s fun t => t.bit (Reg.PRS_T_STAT k) 8 = true ∧ RegEffect (· = Reg.PRS_T_STAT k) s t) ∧
        (n.val = 5 + k → After go s fun t => t.bit (Reg.CAL_T_STAT k) 4 = true ∧ RegEffect (· = Reg.CAL_T_STAT k) s t)) ∧
      (n.val = 13 → After go s fun t => t = { s with dkl := { s.dkl with corr := s.dkl.corr + 1 } }) ∧
      (n.val = 0 ∨ (9 ≤ n.val ∧ n.val ≤ 12) → NoEffect go s)) ∧
    (cause = 0 → s.domOn n = false → NoEffect go s) ∧
    (cause = 5 → n = 0 → at_.toNat < 0x70000000 → After go s fun t => t = { s with dramBad := t.dramBad } ∧
      ∀ w, sget (fun _ => false) t.dramBad w = (decide (w = at_.toNat / 4) || sget (fun _ => false) s.dramBad w)) ∧
    (5 ≤ cause.toNat → cause ≠ 5 ∨ n ≠ 0 ∨ 0x70000000 ≤ at_.toNat → NoEffect go s)) ∧
  (∀ (n : Fin 14) (cause : BitVec 4) (at_ : Word) (s : State), 1 ≤ cause.toNat → cause.toNat ≤ 4 →
    (2 ≤ st s n → s.contained n = false → (∀ x ∈ s.tnd.stalls, x.dom ≠ n.val) → After (.domainFault n cause at_) s fun t => t.contained n = true ∧
      t.bits (Reg.PWR_DC_STAT n) 7 4 = cause.toNat ∧ t.bit Reg.TND_STAT 8 = true ∧ t.bit Reg.TND_TPEND 0 = true ∧
      t.domOn n = false ∧ DomainClearedBut (fun a => 5 ≤ n.val ∧ n.val ≤ 8 ∧ a = Reg.CAL_T_STAT (n.val - 5)) n t ∧
      (5 ≤ n.val → n.val ≤ 8 → t.rdN (Reg.CAL_T_STAT (n.val - 5)) = 3) ∧ (n.val ≤ 4 ∨ n.val = 9 ∨ n.val = 10 →
        Logged (1 + n) 3 cause.toNat (t.rdN (Reg.PWR_DC_STAT n)) (if cause = 1 then at_.toNat else 0) 0 s t)) ∧
    (∀ (rq : Requester) (p t0 : Nat), 2 ≤ st s n → s.contained n = false → n ≠ 0 → rq.num < 3 → s.tnd.stalls = [⟨rq, 2, p, n, t0, .busRead⟩] →
      After (.domainFault n cause at_) s fun t => t.contained n = true ∧ t.tnd.stalls = [] ∧ t.resp = .busError ∧ t.bit Reg.TND_STAT 1 = true ∧
        t.rdN (Reg.TND_STALL_LOG (s.bits Reg.TND_STALL_WR 3 0) 0) = rq.num + 32 + 256 * n.val ∧
        t.bits Reg.TND_STALL_WR 3 0 = (s.bits Reg.TND_STALL_WR 3 0 + 1) % 16) ∧
    (st s n < 2 ∨ s.contained n = true → NoEffect (.domainFault n cause at_) s)) ∧
  (∀ (n : Fin 14) (s : State),
    (s.contained n = false → st s n = 2 → (∀ x ∈ s.tnd.stalls, x.dom ≠ n.val) → After (.domainOn n) s fun t => t.domOn n = true ∧
      t.bit (Reg.PWR_DC_CTL n) 3 = false ∧ (5 ≤ n.val → n.val ≤ 8 → t.bit Reg.PWR_JOINT_RST (n.val - 5) = false) ∧
      (n.val = 13 → t.bit Reg.DKL_STAT 8 = true ∧ (t.core .deckle).run = .running ∧ (t.core .deckle).pc = 0) ∧
      (n.val = 0 → s.tnd.recovery = false → (∀ b, t.core (.mill b) = { coreHeld with run := .running }) ∧
        t.tnd.inRom = some (curState s == 5 && s.tnd.wakeFrom.isSome && resumeOk s))) ∧
    (s.contained n = true ∨ st s n ≠ 2 → NoEffect (.domainOn n) s)) ∧
  (∀ (s : State) (b : Bool), s.pending = [] → s.tnd.inRom = some true → (s.core (.mill b)).run = .running →
    ∃ t, step s = .next t ∧ (t.core (.mill b)).pc.toNat = rdz s.ao 0x1000 8 ∧ t.tnd.inRom = none)

/-- Power states: a request enters or is refused, each wake source wakes with its number, the entry and the wake end, a
non-holder returns to WATCH. (R372, R387, R388, R389, R390, R391, R438.) -/
def Obligations.PowerStates : Prop :=
  (∀ (v : BitVec 2) (s : State), let cur := curState s
    let may := cur < v.toNat ∧ s.bit Reg.UPD_ACT_CTL 0 = false ∧ holder s = false ∧ (v = 1 → s.bits Reg.PAIR_CFG 2 1 = 1)
    let there := 2 ≤ v.toNat ∧ cur = v.toNat
    (v ≠ 0 → may → After (.pstateReq v) s fun t => t.bits Reg.TND_PSTATE 1 0 = v.toNat ∧ curState t = 4 ∧
      t.tnd = { s.tnd with entry := some (v.toNat, 0) } ∧ t.tim = { s.tim with armed := false } ∧
      RegsBut (· = Reg.TND_PSTATE) s t ∧ SameMem s t) ∧
    (there → NoEffect (.pstateReq v) s) ∧
    (v ≠ 0 → ¬may → ¬there → After (.pstateReq v) s fun t => t.bit Reg.TND_STAT 4 = true ∧ t.rd Reg.TND_PSTATE = s.rd Reg.TND_PSTATE ∧
      Logged 0 1 4 v.toNat cur 0 s t) ∧
    (v = 0 → cur = 0 ∨ cur = 5 → NoEffect (.pstateReq v) s) ∧
    (v = 0 → Up s → cur = 1 ∨ cur = 2 ∨ cur = 4 → After (.pstateReq v) s (Woken 7 s)) ∧
    (v = 0 → Up s → cur = 3 → After (.pstateReq v) s (SystemReset 8))) ∧
  (∀ s : State, let cur := curState s
    let wakes := Up s ∧ (cur = 1 ∨ cur = 2 ∨ cur = 4)
    let watch := cur = 1 ∨ (cur = 4 ∧ ∃ d, s.tnd.entry = some (1, d))
    let alarm := s.rd64 Reg.TND_ALARM_LO Reg.TND_ALARM_HI
    let due := alarm ≠ 0 ∧ alarm ≤ s.rd64 Reg.TND_RTC_LO Reg.TND_RTC_HI ∧ ∀ pf, s.tnd.supply ≠ .off pf
    (wakes → s.bit Reg.TND_WAKE 0 = true → due → After .rtcAlarm s fun t => Woken 1 s t ∧
      t.rd64 Reg.TND_ALARM_LO Reg.TND_ALARM_HI = 0) ∧
    (due → s.bit Reg.TND_WAKE 0 = false ∨ cur = 0 → After .rtcAlarm s fun t =>
      RegEffect (fun a => a = Reg.TND_ALARM_LO ∨ a = Reg.TND_ALARM_HI) s t ∧ t.rd64 Reg.TND_ALARM_LO Reg.TND_ALARM_HI = 0) ∧
    (alarm = 0 ∨ s.rd64 Reg.TND_RTC_LO Reg.TND_RTC_HI < alarm → NoEffect .rtcAlarm s) ∧
    (wakes → s.bit Reg.TND_WAKE 1 = true → After .j17Wake s (Woken 2 s)) ∧
    (wakes → s.bit Reg.TND_WAKE 2 = true → After .can0Wake s (Woken 3 s)) ∧
    (wakes → watch → s.bit Reg.TND_WAKE 3 = true → After .plyWakeFrame s (Woken 4 s)) ∧
    (Up s → cur = 3 → s.bit Reg.TND_WAKE 1 = true → After .j17Wake s (SystemReset 8)) ∧
    (Up s → cur = 3 → s.bit Reg.TND_WAKE 2 = true → After .can0Wake s (SystemReset 8)) ∧
    (¬watch ∨ s.bit Reg.TND_WAKE 3 = false → NoEffect .plyWakeFrame s) ∧
    (s.tnd.supply = .shed ∨ (∃ pf, s.tnd.supply = .off pf) → NoEffect .j17Wake s ∧ NoEffect .can0Wake s ∧ NoEffect .plyWakeFrame s)) ∧
  (∀ (k : Nat) (s : State),
    (s.tnd.entry = none → NoEffect (.stateEntryDone k) s) ∧
    (∀ v d, s.tnd.entry = some (v, d) → k < 14 → After (.stateEntryDone k) s fun t => t.tnd.entry = some (v, max d k) ∧
      t.rd Reg.TND_PSTATE = s.rd Reg.TND_PSTATE) ∧
    (∀ v d, s.tnd.entry = some (v, d) → v < 4 → 14 ≤ k → After (.stateEntryDone k) s fun t => t.tnd.entry = none ∧ curState t = v)) ∧
  (∀ s : State, let up := ∀ n, n = 0 ∨ (9 ≤ n ∧ n ≤ 13) → s.domOn n = true ∨ s.contained n = true
    let byTarget := fun n => ((1 ≤ n ∧ n ≤ 10) ∨ n = 12) ∧ s.contained n = false
    (curState s = 5 → up → (∀ n, byTarget n → 2 ≤ s.bits (Reg.PWR_DC_CTL n) 1 0 ∧ 2 ≤ s.bits (Reg.PWR_DC_STAT n) 1 0) →
      After .wakeDone s fun t => curState t = 0 ∧ t.tim = { s.tim with armed := true } ∧ t.tnd.wakeFrom = none ∧
        RegsBut (· = Reg.TND_PSTATE) s t) ∧
    (curState s = 5 → up → After .wakeDone s fun t => curState t = 0 ∧ ∀ n, byTarget n → s.bits (Reg.PWR_DC_CTL n) 1 0 < 2 →
      t.bits (Reg.PWR_DC_STAT n) 1 0 = if s.bits (Reg.PWR_DC_STAT n) 1 0 = 0 then 0 else sleepState n (s.bits (Reg.PWR_DC_CTL n) 1 0)) ∧
    (curState s ≠ 5 ∨ ¬up → NoEffect .wakeDone s)) ∧
  (∀ s : State, let idle := curState s = 0 ∧ s.domOn 11 = true ∧ pairMode s = 1 ∧ holder s = false ∧ twinNow s = false ∧
      s.lib.pubAt + 100000000 ≤ s.clk
    (idle → s.bits Reg.PAIR_CFG 2 1 = 1 → s.bit Reg.UPD_ACT_CTL 0 = false → After .returnToSleep s fun t => curState t = 4 ∧ t.tnd.entry = some (1, 0)) ∧
    (¬idle → NoEffect .returnToSleep s))

/-- Resets: power-on, brown-out, system and soft resets, and both watchdogs: when each acts and what it leaves. (R355, R384,
R392, R393, R394, R395, R396, R402.) -/
def Obligations.ResetsAndWatchdogs : Prop :=
  (∀ (v : Word) (s : State), if v = 0xD0A5 then After (.sysRst v) s (SystemReset 8) else NoEffect (.sysRst v) s) ∧
  (∀ s : State, (s.domOn 0 = true → After .softRst s (SoftReset 64 1 s)) ∧ (s.domOn 0 = false → NoEffect .softRst s)) ∧
  (∀ (open_ : Bool) (s : State), After (.powerOnReset open_) s fun t => t.nor = s.nor ∧ t.mram = s.mram ∧ t.dram = [] ∧ t.ao = [] ∧
    t.cores = [] ∧ t.tnd.bootDue = true ∧ t.tnd.supply = .good ∧ t.pair.strapB = open_ ∧ t.tim = timReset ∧
    (∀ a, a ≠ Reg.PAIR_EPOCH → t.rd a = resetOf a) ∧
    (rdz s.mram 0x1FFC 4 = 0xE90C0001 → t.rdN Reg.PAIR_EPOCH = rdz s.mram 0x1000 4)) ∧
  (∀ s : State, ∀ pf, s.tnd.supply = .off pf → NoEffect .brownOutReset s) ∧
  (∀ s : State, (∀ pf, s.tnd.supply ≠ .off pf) → After .brownOutReset s fun t => t.bits Reg.TND_RESET_CAUSE 15 0 = 2 ∧ t.tnd.supply = .off false ∧ t.dram = [] ∧
    t.tnd.mem = [] ∧ (∀ a, 0x1000 ≤ a → sget zeroByte t.ao a = 0) ∧
    ∀ n, n < 14 → t.bits (Reg.PWR_DC_STAT n) 7 0 = 0) ∧
  (∀ (rq : Requester) (s : State),
    (rq ≠ .tender → NoEffect (.twdgWrite rq) s) ∧
    (rq = .tender → (∀ t0, s.tnd.twdgLast = some t0 → t0 + 10000000 ≤ s.clk) → After (.twdgWrite rq) s fun t =>
      t = { s with tnd := { s.tnd with twdgLast := some s.clk } }) ∧
    (∀ t0, rq = .tender → s.tnd.twdgLast = some t0 → s.clk < t0 + 10000000 →
      (s.tnd.supply = .shed → NoEffect (.twdgWrite rq) s) ∧ (s.tnd.supply ≠ .shed → After (.twdgWrite rq) s (SystemReset 16)))) ∧
  (∀ s : State, let last := s.tnd.twdgLast.getD s.tnd.twdgFrom
    (s.clk < last + 1000000000 → NoEffect .twdgExpire s) ∧
    (last + 1000000000 ≤ s.clk → s.tnd.supply ≠ .shed → (∀ pf, s.tnd.supply ≠ .off pf) → After .twdgExpire s (SystemReset 16))) ∧
  (∀ s : State, After .mwdgKick s fun t => t = { s with tnd := { s.tnd with mwdgFrom := s.clk, mwdgHalf := false } }) ∧
  (∀ s : State, let ms := s.bits Reg.TND_MWDG 13 0
    let timeout := (if ms = 0 then 1000 else min ms 10000) * 1000000
    let runs := s.bit Reg.TND_MWDG 15 = true ∧ s.domOn 0 = true ∧ (s.core (.mill false)).run ≠ .held
    let again := ∃ t0, s.tnd.mwdgExp = some t0 ∧ s.clk ≤ t0 + 10000000000
    (runs → s.tnd.mwdgHalf = false → s.tnd.mwdgFrom + timeout / 2 ≤ s.clk → After .mwdgHalf s fun t =>
      t.bit Reg.TND_TPEND 6 = true ∧ RegsBut (· = Reg.TND_TPEND) s t ∧ t.tnd = { s.tnd with mwdgHalf := true } ∧ SameMem s t) ∧
    (¬runs ∨ s.tnd.mwdgHalf = true ∨ s.clk < s.tnd.mwdgFrom + timeout / 2 → NoEffect .mwdgHalf s) ∧
    (¬runs ∨ s.clk < s.tnd.mwdgFrom + timeout → NoEffect .mwdgExpire s) ∧
    (runs → s.tnd.mwdgFrom + timeout ≤ s.clk → s.bit Reg.TND_MWDG 14 = false → ¬again → After .mwdgExpire s fun t =>
      SoftReset 96 3 s t ∧ t.tnd.mwdgExp = some s.clk) ∧
    (runs → s.tnd.mwdgFrom + timeout ≤ s.clk → s.bit Reg.TND_MWDG 14 = true ∨ again → After .mwdgExpire s (SystemReset 40)))

/-- Power failure: the warning, its end within RIDE, load shed at RIDE's end, the flush and OFF, and the feed's return. (R398,
R399, R400, R401, R402, R456.) -/
def Obligations.PowerFailure : Prop :=
  ∀ s : State, let ride := min (s.bits Reg.TND_PFAIL_CFG 4 0) 20 * 1000000
    let sens := fun i => s.rdN (Reg.TND_SENS i)
    (s.tnd.supply = .good → s.tnd.charged = true → After .powerFailWarning s fun t => t.tnd = { s.tnd with supply := .warned s.clk } ∧
      t.bit Reg.TND_STAT 2 = true ∧ t.bit Reg.TND_TPEND 2 = true ∧ SameMem s t ∧
      RegsBut (fun a => a = Reg.TND_STAT ∨ a = Reg.TND_TPEND ∨ IrqPend a) s t) ∧
    (s.tnd.supply ≠ .good ∨ s.tnd.charged = false → NoEffect .powerFailWarning s) ∧
    (∀ t0, s.tnd.supply = .warned t0 →
      (t0 + 1000000 ≤ s.clk → s.clk ≤ t0 + ride → After .pfwEnd s fun t => t.tnd.supply = .good ∧ Logged 0 2 2 (sens 6) (sens 7) 1 s t) ∧
      (s.clk < t0 + 1000000 ∨ t0 + ride < s.clk → NoEffect .pfwEnd s) ∧
      (s.clk < t0 + ride → NoEffect .rideEnd s) ∧
      (t0 + ride ≤ s.clk → After .rideEnd s fun t => t.tnd.supply = .shed ∧ t.tnd.entry = none ∧ t.tnd.wakeFrom = none ∧
        (∀ n, 1 ≤ n → n ≤ 11 → t.bits (Reg.PWR_DC_STAT n) 1 0 = 0) ∧ ∀ b, (t.core (.mill b)).run = .held)) ∧
    (s.tnd.supply = .shed → After .powerFailFlush s fun t => t.tnd.supply = .off true ∧ t.dram = [] ∧ t.nor = s.nor ∧
      ∀ n, n < 14 → t.bits (Reg.PWR_DC_STAT n) 7 0 = 0) ∧
    (s.tnd.supply ≠ .shed → NoEffect .powerFailFlush s) ∧
    (∀ pf, s.tnd.supply = .off pf → After .feedReturn s fun t => t.tnd.supply = .good ∧ t.tnd.bootDue = true ∧
      t.core .tender = { coreHeld with run := .running } ∧
      t.bits Reg.TND_RESET_CAUSE 15 0 = if pf then 6 else s.bits Reg.TND_RESET_CAUSE 15 0) ∧
    ((∀ pf, s.tnd.supply ≠ .off pf) → NoEffect .feedReturn s)

/-- The Tender's services: sensor readings against limits, the log's copy, RTC and alarm pairs, flush lengths, calibration
banks. (R385, R386, R389, R400, R409, R410, R456.) -/
def Obligations.TenderServices : Prop :=
  (∀ (rs : List Int) (s : State), (∀ pf, s.tnd.supply ≠ .off pf) →
    let reading := fun i => if i = 15 ∧ s.domOn 10 = false then 0 else rs.getD i 0
    let limit := fun i hi => (BitVec.ofNat 16 (s.rdN (Reg.TND_SENS_LIM i) / if hi then 65536 else 1)).toInt
    let outside := fun i => reading i < limit i false ∨ limit i true < reading i
    After (.sensorSample rs) s fun t =>
      (∀ i, i < 16 → t.rd (Reg.TND_SENS i) = BitVec.ofInt 32 (reading i) ∧
        (sget (fun _ => false) t.tnd.sensOut i = true ↔ outside i)) ∧
      (∀ i, i < 16 → outside i → sget (fun _ => false) s.tnd.sensOut i = false → t.bit Reg.TND_STAT 0 = true ∧ t.bit Reg.TND_TPEND 4 = true) ∧
      (t.tnd.charged = true ↔ s.tnd.charged = true ∨ 4800 ≤ rs.getD 8 0) ∧
      t.dram = s.dram ∧ t.mram = s.mram ∧ t.nor = s.nor) ∧
  (∀ (rs : List Int) (pf : Bool) (s : State), s.tnd.supply = .off pf → NoEffect (.sensorSample rs) s) ∧
  (∀ s : State, (s.domOn 12 = true → After .logCopy s fun t => t.tnd.copied = s.tnd.seq ∧
      t.tnd.nandLog.length = s.tnd.nandLog.length + ((unwritten s).filter fun i => rdz s.ao (0x2000 + 32 * (i % 512) + 28) 4 == 0x106C0001).length ∧ t.tnd.nandLog.take s.tnd.nandLog.length = s.tnd.nandLog ∧
      t.regs = s.regs) ∧
    (s.domOn 12 = false → NoEffect .logCopy s)) ∧
  (∀ (hi : Word) (s : State),
    After (.rtcWrite hi) s (fun t => t.tnd = { s.tnd with rtcPend := some (hi ++ s.tnd.rtcLo) } ∧ t.regs = s.regs) ∧
    After (.alarmWrite hi) s (fun t => t = { s with tnd := { s.tnd with almPend := some (hi ++ s.tnd.almLo) } })) ∧
  (∀ (n : Fin 16) (v : Word) (s : State),
    let sum := ((List.range 16).map fun k => if k = n.val then v.toNat else s.rdN (Reg.TND_FLUSH k 2)).sum
    (sum ≤ 0x700000 → After (.flushLenWrite n v) s fun t => t.rdN (Reg.TND_FLUSH n 2) = v.toNat / 64 * 64 ∧
      RegEffect (· = Reg.TND_FLUSH n 2) s t) ∧
    (0x700000 < sum → After (.flushLenWrite n v) s fun t => t.rd (Reg.TND_FLUSH n 2) = s.rd (Reg.TND_FLUSH n 2) ∧
      t.bit Reg.TND_STAT 6 = true ∧ Logged 0 1 6 n v.toNat 0 s t)) ∧
  (∀ s : State, let o := bankFree s
    let crc := crc32c 0xFFFFFFFF true (memBytes zeroByte s.mram (o + 0x10) 0xFFE8)
    After .calOpen s (fun t => rdz t.mram (o + 0xFFF8) 4 = 0 ∧ RegsBut (· = Reg.TND_CAL_CTL) s t ∧
      (∀ a, a < o + 0xFFF8 ∨ o + 0xFFFC ≤ a → sget zeroByte t.mram a = sget zeroByte s.mram a)) ∧
    (rdz s.mram (o + 8) 4 ≠ crc → After .calCommit s fun t => t.mram = s.mram ∧ t.bit Reg.TND_STAT 5 = true ∧ Logged 0 1 5 0 0 0 s t) ∧
    (rdz s.mram (o + 8) 4 = crc → After .calCommit s fun t =>
      let q := (match bankForce s with | some c => rdz s.mram (c + 4) 4 + 1 | none => 1) % 2 ^ 32
      rdz t.mram (o + 4) 4 = q ∧ rdz t.mram (o + 0xFFFC) 4 = q ∧ rdz t.mram (o + 0xFFF8) 4 = 0xCA1B0001 ∧
      RegsBut (· = Reg.TND_CAL_CTL) s t))

/-- The Reel takes a post or change as lost (R418): POST_LOST counts it and REEL_STAT.LOST is set, nothing else changes. -/
def PostLost (s t : State) : Prop :=
  t.bits Reg.REEL_LOST 15 0 = min (s.bits Reg.REEL_LOST 15 0 + 1) 0xFFFF ∧ t.bit Reg.REEL_STAT 4 = true ∧
  RegEffect (fun a => a = Reg.REEL_LOST ∨ a = Reg.REEL_STAT ∨ IrqPend a) s t

/-- `s` with the front entry of the Reel's queue gone. -/
def unqueued (s : State) : State := { s with reel := { s.reel with queue := s.reel.queue.tail } }

/-- Bytes `o` to `o + n - 1` of the Reel's buffer may change, nothing else but the queue. -/
def OnlyBuffer (o n : Nat) (s t : State) : Prop :=
  t = { unqueued s with reel := { (unqueued s).reel with buf := t.reel.buf } } ∧
  ∀ a, a < o ∨ o + n ≤ a → sget zeroByte t.reel.buf a = sget zeroByte s.reel.buf a

/-- The Reel flush record in MRAM is complete (R400, R421), nothing outside it has changed, and FLUSHED is set. -/
def Flushed (s t : State) : Prop :=
  rdz t.mram (0x2800000 + 4) 4 = 0x100000 ∧ rdz t.mram (0x2800000 + 16 + 0x100000) 4 = 0x100018 ∧
  rdz t.mram (0x2800000 + 16 + 0x100004) 4 = 0xF1D50001 ∧ t.bit Reg.REEL_STAT 0 = true ∧ t.bit Reg.REEL_CTL 0 = false ∧
  ∀ a, a < 0x2800000 ∨ 0x2800000 + 0x100018 ≤ a → sget zeroByte t.mram a = sget zeroByte s.mram a

/-- The Reel: posts, queue entries, clears, flushes and migrations, the cursor's copy, the lifetime counters' polls and merges,
leap entries. (R413, R414, R416, R417, R418, R419, R420, R421, R422, R423, R424, R426.) -/
def Obligations.ReelRecorder : Prop :=
  (∀ (r : Fin 3) (v : Word) (s : State), s.domOn 12 = true →
    let arg := s.rdN (Reg.REEL_POST_ARG r)
    let kind := arg % 4
    let i := arg / 4 % 1024
    let bad := kind = 3 ∨ (kind = 0 ∧ 256 ≤ i) ∨ (kind = 1 ∧ 512 ≤ i)
    let other := (kind = 0 ∧ s.bits (Reg.REEL_HIST_CFG i) 2 1 ≠ 0) ∨ (kind = 1 ∧ s.bits (Reg.REEL_XTR_CFG i) 2 1 ≠ 0)
    let e : ReelEnt := if kind = 0 then .sample true i v else if kind = 1 then .sample false i v
      else .alarm (arg / 4 % 256) (arg / 1024 % 4) (arg / 65536) v
    (bad → After (.reelPost r v) s (PostLost s)) ∧
    (¬bad → other → NoEffect (.reelPost r v) s) ∧
    (¬bad → ¬other → 256 ≤ s.reel.queue.length → After (.reelPost r v) s (PostLost s)) ∧
    (¬bad → ¬other → s.reel.queue.length < 256 → After (.reelPost r v) s fun t =>
      t = { s with reel := { s.reel with queue := s.reel.queue ++ [e] } })) ∧
  (∀ (s : State) (es : List ReelEnt), s.domOn 12 = true →
    let go := Instr.queueEntryApply
    (s.reel.queue = [] → NoEffect go s) ∧
    (∀ h v, s.reel.queue = .sample true h v :: es →
      let lo := s.rdN (Reg.REEL_HIST_LO h)
      let width := s.rdN (Reg.REEL_HIST_WIDTH h)
      let counts := s.bit (Reg.REEL_HIST_CFG h) 0 = true ∧ 0 < width ∧ width < 0x7F800000
      let bin := 0x2000 + 256 * h + 4 * histBin lo width v.toNat
      (counts → isNan f32 v.toNat = false → After go s fun t => OnlyBuffer bin 4 s t ∧
        rdz t.reel.buf bin 4 = min (rdz s.reel.buf bin 4 + 1) 0xFFFFFFFF) ∧
      (counts → isNan f32 v.toNat = true → After go s fun t =>
        t.rdN Reg.REEL_NAN_CNT = min (s.rdN Reg.REEL_NAN_CNT + 1) 0xFFFFFFFF ∧ RegEffect (· = Reg.REEL_NAN_CNT) (unqueued s) t) ∧
      (¬counts → After go s fun t => t = unqueued s)) ∧
    (∀ x v, s.reel.queue = .sample false x v :: es → s.bit (Reg.REEL_XTR_CFG x) 0 = true →
      let o := 0x12000 + 32 * x
      let first := rdz s.reel.buf (o + 28) 4 % 2 = 0
      let lower := first ∨ fpLtB f32 v.toNat (rdz s.reel.buf o 4) = true
      let higher := first ∨ fpLtB f32 (rdz s.reel.buf (o + 4) 4) v.toNat = true
      (isNan f32 v.toNat = false → After go s fun t => OnlyBuffer o 32 s t ∧ rdz t.reel.buf (o + 28) 4 = 1 ∧
        rdz t.reel.buf (o + 24) 4 = min (rdz s.reel.buf (o + 24) 4 + 1) 0xFFFFFFFF ∧
        (lower → rdz t.reel.buf o 4 = v.toNat ∧ rdz t.reel.buf (o + 8) 8 = s.rtc) ∧
        (¬lower → rdz t.reel.buf o 4 = rdz s.reel.buf o 4 ∧ rdz t.reel.buf (o + 8) 8 = rdz s.reel.buf (o + 8) 8) ∧
        (higher → rdz t.reel.buf (o + 4) 4 = v.toNat ∧ rdz t.reel.buf (o + 16) 8 = s.rtc) ∧
        (¬higher → rdz t.reel.buf (o + 4) 4 = rdz s.reel.buf (o + 4) 4 ∧ rdz t.reel.buf (o + 16) 8 = rdz s.reel.buf (o + 16) 8)) ∧
      (isNan f32 v.toNat = true → After go s fun t => RegEffect (· = Reg.REEL_NAN_CNT) (unqueued s) t)) ∧
    (∀ src sev code d, s.reel.queue = .alarm src sev code d :: es →
      let key := src + 256 * sev + 65536 * code
      let full := 29952 ≤ (s.reel.alarms.filter fun a => !a.arch).length
      let merges := ∃ a, s.reel.alarms.getLast? = some a ∧ a.key = key ∧ a.arch = false
      (∀ as a, s.reel.alarms = as ++ [a] → a.key = key → a.arch = false → After go s fun t =>
        t = { unqueued s with reel := { (unqueued s).reel with
          alarms := as ++ [⟨a.first, a.key, a.data, s.rtc, min (a.rep + 1) 0xFFFF, false, a.seq⟩] } }) ∧
      (¬merges → full → After go s fun t => t.reel.alarms = s.reel.alarms ∧
        t.bits Reg.REEL_LOST 31 16 = min (s.bits Reg.REEL_LOST 31 16 + 1) 0xFFFF ∧ LoggedOwn 19 2 s t) ∧
      (¬merges → s.reel.alarms.length < 29952 → After go s fun t =>
        t.reel.alarms = s.reel.alarms ++ [⟨s.rtc, key, d, s.rtc, 0, false, s.rdN Reg.REEL_ALM_NEXT⟩] ∧
        t.rdN Reg.REEL_ALM_NEXT = (s.rdN Reg.REEL_ALM_NEXT + 1) % 2 ^ 32 ∧ SameMem s t)) ∧
    (∀ why ring, s.reel.queue = .capture why ring :: es → After go s fun t => ∃ c, t.reel.caps = s.reel.caps ++ [c] ∧ c.reason = why ∧
      c.ring = ring ∧
      c.time = s.rtc ∧ c.alarms = (s.reel.alarms.filter fun a => !a.arch) ∧ t.regs = s.regs ∧
      ∀ a, 0x2000 ≤ a → a < 0x16000 → sget zeroByte c.hx a = sget zeroByte s.reel.buf a) ∧
    (∀ h, s.reel.queue = .clear 0 h :: es → h < 256 → After go s fun t => OnlyBuffer (0x2000 + 256 * h) 256 s t ∧
      ∀ b, b < 64 → rdz t.reel.buf (0x2000 + 256 * h + 4 * b) 4 = 0) ∧
    (∀ x, s.reel.queue = .clear 2 x :: es → x < 512 → After go s fun t => OnlyBuffer (0x12000 + 32 * x) 32 s t ∧
      rdz t.reel.buf (0x12000 + 32 * x) 32 = 0) ∧
    (s.reel.queue = .flush :: es → After go s fun t => Flushed s t ∧ t.reel.queue = es) ∧
    (∀ as ring, s.reel.queue = .mark as ring :: es → After go s fun t =>
      t.reel.alarms = s.reel.alarms.map (fun a => { a with arch := a.arch || as.any fun x => x.seq == a.seq && (ring || x == a) }) ∧ t.reel.buf = s.reel.buf ∧
      SameMem s t)) ∧
  (∀ (rq : Requester) (lvl : Fin 3) (v : Word) (s : State), s.domOn 12 = true →
    let go := Instr.reelClear rq lvl v
    let what := v.toNat % 8
    let may := (rq = .tender ∨ 0 < lvl.val) ∧ s.reel.queue.length < 256
    (¬may → After go s fun t => t = { s with resp := .busError }) ∧
    (may → After go s fun t => t = { s with reel := { s.reel with queue :=
      if 5 ≤ what then s.reel.queue else if what = 4 then s.reel.queue ++ [.capture 2 true]
      else s.reel.queue ++ [.capture 2 false, .clear what (v.toNat / 8 % 1024)] } })) ∧
  (∀ (v : Word) (s : State), s.domOn 12 = true →
    let flush := v.toNat % 2 = 1 ∧ s.bit Reg.REEL_CTL 0 = false
    let migrate := v.toNat / 2 % 2 = 1 ∧ s.bit Reg.REEL_CTL 1 = false
    After (.reelCtlWrite v) s fun t => t = { s with regs := t.regs, inst := t.inst, reel := { s.reel with queue := t.reel.queue } } ∧
      t.reel.queue = s.reel.queue ++ (if flush then [.flush] else []) ++ (if migrate then [.capture 3 false] else []) ∧
      RegsBut (· = Reg.REEL_CTL) s t ∧ (flush → t.bit Reg.REEL_CTL 0 = true) ∧ (migrate → t.bit Reg.REEL_CTL 1 = true)) ∧
  (∀ s : State, s.domOn 12 = true →
    let n := s.bits Reg.REEL_CFG 10 0
    let due := s.reel.flushAt + (if n = 0 ∨ 1440 < n then 10 else n) * 60000000000 ≤ s.clk
    (ReelEnt.flush ∉ s.reel.queue → s.reel.fault = false → ¬due → NoEffect .reelFlush s) ∧
    (s.reel.queue.head? = some .flush → After .reelFlush s fun t => Flushed s t ∧ t.reel.queue = s.reel.queue.tail ∧ t.ao = s.ao ∧
      t.reel.fault = s.reel.fault) ∧
    (s.reel.queue = [] → s.reel.fault = false → due → After .reelFlush s fun t => Flushed s t ∧ t.reel.flushAt = s.clk ∧ t.ao = s.ao) ∧
    (s.reel.queue = [] → s.reel.fault = true → After .reelFlush s fun t => Flushed s t ∧ LoggedOwn 19 1 s t)) ∧
  (∀ (ok : Bool) (s : State), s.domOn 12 = true →
    let n := s.bits Reg.REEL_CFG 18 11
    let due := s.reel.migAt + (if n = 0 ∨ 168 < n then 24 else n) * 3600000000000 ≤ s.clk
    (s.reel.caps = [] → ¬due → NoEffect (.migration ok) s) ∧
    (s.reel.caps = [] → due → s.reel.queue = [] → After (.migration true) s fun t => t.reel.migAt = s.clk ∧ t.reel.caps = [] ∧
      t.bit Reg.REEL_STAT 1 = true) ∧
    (∀ c cs, s.reel.caps = c :: cs →
      After (.migration false) s (fun t => t.reel.caps = cs ∧ t.reel.archive = s.reel.archive ∧ t.reel.queue = s.reel.queue ∧
        t.reel.alarms = s.reel.alarms ∧ t.bit Reg.REEL_STAT 2 = true ∧ t.bit Reg.REEL_CTL 1 = (if c.reason = 3 then false else s.bit Reg.REEL_CTL 1) ∧ LoggedOwn 19 3 s t) ∧
      After (.migration true) s (fun t => t.reel.caps = cs ∧ t.reel.queue = s.reel.queue ++ [.mark c.alarms c.ring] ∧
        (∃ k, t.reel.archive = (s.reel.archive ++ [{ c with seq := s.rdN Reg.REEL_ARCH_NEXT }]).drop k) ∧
        t.bit Reg.REEL_STAT 1 = true ∧ t.bit Reg.REEL_CTL 1 = (if c.reason = 3 then false else s.bit Reg.REEL_CTL 1) ∧
        rdz t.ao (0x808 + 8 * 71) 8 = min (rdz s.ao (0x808 + 8 * 71) 8 + (64 + 0x14000 + 32 * c.alarms.length + 8)) (2 ^ 64 - 1) ∧
        t.mram = s.mram ∧ t.dram = s.dram ∧ t.nor = s.nor))) ∧
  (∀ (pos : Word) (s : State), s.domOn 12 = true →
    let space := s.bits Reg.REEL_CUR_CTL 2 0
    After (.cursorLatch pos) s (fun t => t = { s with regs := t.regs, inst := t.inst, reel := { s.reel with cur := t.reel.cur } } ∧
      t.rd Reg.REEL_CUR_POS = pos ∧ t.rd Reg.REEL_CUR_STAT = 0 ∧
      RegsBut (fun a => a = Reg.REEL_CUR_POS ∨ a = Reg.REEL_CUR_STAT) s t ∧
      t.reel.cur = some ((cursorWords t space pos.toNat (s.rdN Reg.REEL_CUR_OFS)).getD []) ∧
      (6 ≤ space → t.reel.cur = some []) ∧
      (space = 0 → pos.toNat < 256 → ∃ ws, t.reel.cur = some ws ∧ ws.length = 64 ∧
        ∀ i, i < 64 → (ws.getD i 0).toNat = rdz s.reel.buf (0x2000 + 256 * pos.toNat + 4 * i) 4))) ∧
  (∀ s : State, s.domOn 12 = true →
    (s.reel.cur = none → NoEffect .cursorReady s) ∧
    (∀ ws, s.reel.cur = some ws → After .cursorReady s fun t =>
      t = { s with regs := t.regs, inst := t.inst, reel := { s.reel with cur := none } } ∧ t.rdN Reg.REEL_CUR_STAT = (if ws = [] then 2 else 1) ∧
      (∀ i, i < 64 → t.rd (Reg.REEL_WIN i) = ws.getD i 0) ∧
      RegsBut (fun a => a = Reg.REEL_CUR_STAT ∨ ∃ i, i < 64 ∧ a = Reg.REEL_WIN i) s t)) ∧
  (∀ s : State, s.domOn 12 = true → let late := s.reel.stale = false ∧ s.reel.thrAt + 1000000000 ≤ s.clk
    (late → After .runStale s fun t => t.bit Reg.REEL_STAT 5 = true ∧ t.reel.stale = true ∧
      t = { s with regs := t.regs, inst := t.inst, ao := t.ao, reel := { s.reel with stale := true, runAt := s.clk, runFrac := t.reel.runFrac } } ∧
      RegsBut (fun a => a = Reg.REEL_STAT ∨ IrqPend a) s t) ∧
    (¬late → NoEffect .runStale s)) ∧
  (∀ (wear : Nat) (s : State), s.domOn 12 = true →
    let ns := fun i => sget (fun _ => 0) s.reel.runFrac i + if s.bit Reg.REEL_THR_RUN i = true ∧ s.reel.stale = false
      then min s.clk (s.reel.thrAt + 1000000000) - s.reel.runAt else 0
    (s.clk < s.reel.pollAt + 100000000 → NoEffect (.counterPoll wear) s) ∧
    (s.reel.pollAt + 100000000 ≤ s.clk → After (.counterPoll wear) s fun t => t.reel.pollAt = s.clk ∧ t.regs = s.regs ∧
      rdz t.ao (0x808 + 8 * 72) 8 = wear % 2 ^ 64 ∧
      (∀ i, i < 24 → rdz t.ao (0x810 + 8 * i) 8 = min (rdz s.ao (0x810 + 8 * i) 8 + ns i / 1000000) (2 ^ 64 - 1) ∧
        sget (fun _ => 0) t.reel.runFrac i = ns i % 1000000) ∧
      (∀ v a b, v < 16 → s.domOn 10 = true → sget (fun _ => none) s.reel.swBase v = some a → b = s.bits (Reg.HBX_VLV_STAT v) 31 16 →
        rdz t.ao (0x808 + 8 * (49 + v)) 8 = min (rdz s.ao (0x808 + 8 * (49 + v)) 8 + (b + 65536 - a) % 65536) (2 ^ 64 - 1)) ∧
      (∀ a, a < 0x810 ∨ 0x808 + 8 * 73 ≤ a → sget zeroByte t.ao a = sget zeroByte s.ao a) ∧ t.mram = s.mram)) ∧
  (∀ s : State, let cur := s.bits Reg.TND_PSTATE 6 4
    let due := s.reel.mergeAt + (if cur = 2 ∨ cur = 3 then 3600000000000 else 10000000000) ≤ s.clk
    (¬due → NoEffect .counterMerge s) ∧
    (due → After .counterMerge s fun t => t.regs = s.regs ∧ (∀ n, n < 73 → cntEffective t n = cntEffective s n) ∧
      (∀ n, n < 73 → cntTotal t n = cntEffective s n) ∧ (∀ n, n < 72 → rdz t.ao (0x808 + 8 * n) 8 = 0) ∧
      cntSeq t = (cntSeq s + 1) % 2 ^ 32 ∧ rdz t.ao 0x800 4 = cntSeq t ∧
      (∀ a, a < 0x24000 ∨ 0x26000 ≤ a → sget zeroByte t.mram a = sget zeroByte s.mram a) ∧
      ∀ a, a < 0x800 ∨ 0x808 + 8 * 73 ≤ a → sget zeroByte t.ao a = sget zeroByte s.ao a)) ∧
  (∀ (v : Word) (s : State), s.domOn 12 = true →
    let go := Instr.leapDelta v
    let time := s.rd64 Reg.REEL_LEAP_T_LO Reg.REEL_LEAP_T_HI
    let n := calendarW s 0x10 4
    let at_ := fun (u : State) i => calendarW u (0x20 + 16 * i) 8
    let delta := fun (u : State) i => BitVec.ofNat 32 (calendarW u (0x28 + 16 * i) 4)
    let held := ∃ i, i < n ∧ at_ s i = time ∧ delta s i = v
    let fits := n = 0 ∨ (at_ s (n - 1) < time ∧ (v = delta s (n - 1) + 1 ∨ v = delta s (n - 1) - 1))
    (held → NoEffect go s) ∧
    (¬held → 120 ≤ n ∨ ¬fits → After go s fun t => t.bit Reg.REEL_STAT 6 = true ∧
      RegEffect (fun a => a = Reg.REEL_STAT ∨ IrqPend a) s t) ∧
    (¬held → n < 120 → fits → After go s fun t => calendarW t 0x10 4 = n + 1 ∧ at_ t n = time ∧ delta t n = v ∧
      (∀ i, i < n → at_ t i = at_ s i ∧ delta t i = delta s i) ∧ calendarW t 8 8 = calendarW s 8 8 ∧ LoggedOwn 19 5 s t ∧
      ∀ a, a < 0x2A000 ∨ 0x2C000 ≤ a → sget zeroByte t.mram a = sget zeroByte s.mram a))

/-- A status bit of the update engine is set, and nothing but UPD_STAT and its interrupt has changed. -/
def UpdRefused (i : Nat) (s t : State) : Prop :=
  t.bit Reg.UPD_STAT i = true ∧ RegEffect (fun a => a = Reg.UPD_STAT ∨ IrqPend a) s t

/-- The stage and the download record's header. -/
def UpdIs (stage : Nat) (hdr : Option (List Word)) (t : State) : Prop := t.bits Reg.UPD_STATE 2 0 = stage ∧ t.upd.hdr = hdr

/-- The boot selector of R436 in force: its flags, VERSION, fallback VERSION, FLOOR, trial start and window, with the next SEQ. -/
def Selected (flags ver fallback floor start window : Nat) (s t : State) : Prop :=
  (∀ i v, (i, v) ∈ [(8, flags), (12, ver), (16, fallback), (20, floor), (24, start), (28, window)] → selW t i = v % 2 ^ 32) ∧
  (∀ c, selCopy s = some c → selW t 4 = (rdz s.mram (c + 4) 4 + 1) % 2 ^ 32) ∧ (selCopy t).isSome = true

/-- A trial has ended in a fallback (R441): the other slot in force, FELL_BACK set, then the system reset. -/
def FellBack (s t : State) : Prop :=
  Selected (1 - selActive s + 4) (selW s 16) (selW s 12) (selW s 20) 0 0 s t ∧ SystemReset 8 t ∧ t.bit Reg.UPD_STAT 10 = true

/-- Field update: header checks, blocks, resumption, verification, installation, activation, trial boots, confirmation and
fallback, recovery. (R427, R430, R431, R432, R433, R434, R435, R436, R437, R438, R440, R441.) -/
def Obligations.FieldUpdate : Prop :=
  (∀ s : State, s.domOn 12 = true →
    let ws := (List.range 128).map fun w => s.rd (Reg.UPD_HDR w)
    let rej := hdrCheck s ws
    let st := s.bits Reg.UPD_STATE 2 0
    (rej ≠ 0 → After .updCheck s fun t => t.bits Reg.UPD_STATE 6 3 = rej ∧ t.bit Reg.UPD_STAT 1 = true ∧ t.upd = s.upd ∧
      t.bits Reg.UPD_STATE 2 0 = st) ∧
    (rej = 0 → s.upd.hdr ≠ some ws ∨ s.upd.commit ≠ 0xD0A10001 → After .updCheck s fun t => UpdIs 1 (some ws) t ∧ t.upd.map_ = [] ∧
      t.upd.commit = 0xD0A10001 ∧ t.bit Reg.UPD_STAT 0 = true ∧
      (∀ k, k < 16 → t.rd (Reg.UPD_BITMAP k) = 0) ∧ t.bit Reg.UPD_CTL 1 = false ∧ t.bit Reg.UPD_CTL 2 = false ∧ SameMem s t) ∧
    (rej = 0 → s.upd.hdr = some ws → s.upd.commit = 0xD0A10001 → After .updCheck s fun t => t.upd = s.upd ∧ t.bit Reg.UPD_STAT 0 = true ∧
      (st ≠ 0 → UpdIs st (some ws) t) ∧ (st = 0 → t.bit Reg.UPD_STAT 3 = true)) ∧
    (ws.headD 0 ≠ 0x574D4B31 → rej = 1) ∧
    (rej = 0 → ws.getD 2 0 = 0x2D46524D ∧ ws.getD 3 0 = 0x00383447 ∧ selFloor s ≤ (ws.getD 5 0).toNat ∧ 1 ≤ (ws.getD 10 0).toNat ∧
      (ws.getD 10 0).toNat ≤ 8 ∧ (ws.getD 11 0).toNat ≤ 0x1F80000 - 512)) ∧
  (∀ (v : Word) (s : State), s.domOn 12 = true →
    let i := v.toNat % 512
    let go := Instr.updBlockSubmit v
    (∀ ws, s.upd.hdr = some ws → s.bits Reg.UPD_STATE 2 0 = 1 → i < ((ws.getD 11 0).toNat + 65535) / 65536 → After go s fun t =>
      t = { s with upd := { s.upd with block := some (i, s.rd64 Reg.UPD_BLK_ADDR_LO Reg.UPD_BLK_ADDR_HI / 64 * 64) } }) ∧
    (∀ ws, s.upd.hdr = some ws → ((ws.getD 11 0).toNat + 65535) / 65536 ≤ i → After go s (UpdRefused 2 s)) ∧
    (s.upd.hdr = none ∨ s.bits Reg.UPD_STATE 2 0 ≠ 1 → After go s (UpdRefused 2 s))) ∧
  (∀ s : State, s.domOn 12 = true →
    (s.upd.block = none ∨ s.upd.hdr = none → NoEffect .blockCommit s) ∧
    (∀ i a ws, s.upd.block = some (i, a) → s.upd.hdr = some ws → i < 512 →
      let n := min 65536 ((ws.getD 11 0).toNat - 65536 * i)
      let all := ∀ j, j < ((ws.getD 11 0).toNat + 65535) / 65536 → j = i ∨ sget (fun _ => false) s.upd.map_ j = true
      (s.domOn 0 = true → 0x800000000 ≤ a → a + n ≤ 0x870000000 → After .blockCommit s fun t => t.upd.block = none ∧
        (∀ k, k < n → sget zeroByte t.upd.body (65536 * i + k) = sget zeroByte s.dram (a - 0x800000000 + k)) ∧
        (∀ k, k < 65536 * i ∨ 65536 * i + n ≤ k → sget zeroByte t.upd.body k = sget zeroByte s.upd.body k) ∧
        (∀ j, sget (fun _ => false) t.upd.map_ j = (decide (j = i) || sget (fun _ => false) s.upd.map_ j)) ∧
        (∀ j, j < 512 → t.bit (Reg.UPD_BITMAP (j / 32)) (j % 32) = sget (fun _ => false) t.upd.map_ j) ∧
        t.bits Reg.UPD_STATE 2 0 = (if all then 2 else s.bits Reg.UPD_STATE 2 0) ∧
        rdz t.ao (0x808 + 8 * 71) 8 = min (rdz s.ao (0x808 + 8 * 71) 8 + n) (2 ^ 64 - 1) ∧
        t.upd.commit = 0xD0A10001 ∧ t.mram = s.mram ∧ t.dram = s.dram ∧ t.nor = s.nor) ∧
      (s.domOn 0 = false → After .blockCommit s fun t => t.upd = { s.upd with block := none } ∧ t.bit Reg.UPD_STAT 2 = true))) ∧
  (∀ s : State, s.domOn 12 = true →
    (s.upd.hdr = none ∨ s.upd.commit ≠ 0xD0A10001 → After .downloadResume s fun t => t.upd = { s.upd with sched := false } ∧
      (s.upd.sched = true → t.bit Reg.UPD_STAT 9 = true ∧ t.bit Reg.UPD_ACT_CTL 0 = false) ∧ SameMem s t) ∧
    (∀ ws, s.upd.hdr = some ws → s.upd.commit = 0xD0A10001 → s.bits Reg.UPD_STATE 2 0 = 0 →
      (hdrCheck s ws ≠ 0 → After .downloadResume s fun t => t.upd.hdr = none ∧ SameMem s t) ∧
      (hdrCheck s ws = 0 → After .downloadResume s fun t => t.upd.map_ = s.upd.map_ ∧ t.bit Reg.UPD_STAT 3 = true ∧
        UpdIs (if s.upd.stage = 4 then 4 else if s.upd.stage = 3 then 3 else if ∀ j, j < ((ws.getD 11 0).toNat + 65535) / 65536 →
          sget (fun _ => false) s.upd.map_ j = true then 2 else 1) (some ws) t)) ∧
    After .updAbort s (fun t => t.bit Reg.UPD_ACT_CTL 0 = false ∧ t.upd.sched = false ∧ SameMem s t ∧
      (s.bits Reg.UPD_STATE 2 0 ≤ 3 → UpdIs 0 none t) ∧
      (4 ≤ s.bits Reg.UPD_STATE 2 0 → t.upd = { s.upd with sched := false } ∧ RegsBut (· = Reg.UPD_ACT_CTL) s t))) ∧
  (∀ s : State, s.domOn 12 = true → let st := s.bits Reg.UPD_STATE 2 0
    (st = 2 → After .updVerify s fun t => t.bit Reg.UPD_CTL 1 = true ∧ RegEffect (· = Reg.UPD_CTL) s t) ∧
    (st ≠ 2 → NoEffect .updVerify s) ∧
    (s.upd.hdr = none ∨ s.bit Reg.UPD_CTL 1 = false → NoEffect .verifyDone s) ∧
    (∀ ws, s.upd.hdr = some ws → s.bit Reg.UPD_CTL 1 = true →
      let body := memBytes zeroByte s.upd.body 0 (ws.getD 11 0).toNat
      (bodyOk ws body = true → After .verifyDone s fun t => UpdIs 3 (some ws) t ∧ t.bit Reg.UPD_STAT 4 = true ∧ t.bit Reg.UPD_CTL 1 = false) ∧
      (bodyOk ws body = false → After .verifyDone s fun t => UpdIs 1 (some ws) t ∧ t.bit Reg.UPD_STAT 5 = true ∧ t.upd.map_ = [] ∧
        t.bit Reg.UPD_CTL 1 = false))) ∧
  (∀ s : State, s.domOn 12 = true → let st := s.bits Reg.UPD_STATE 2 0
    let slot := if selActive s = 0 then 0x2080000 else 0x100000
    let outside := fun a => a < slot ∨ slot + 0x1F80000 ≤ a
    (selTrial s = true → After .updInstall s (UpdRefused 8 s)) ∧
    (selTrial s = false → st ≠ 3 → NoEffect .updInstall s) ∧
    (selTrial s = false → st = 3 → After .updInstall s fun t => t.bit Reg.UPD_CTL 2 = true ∧ RegsBut (· = Reg.UPD_CTL) s t ∧
      (∀ a, sget erasedByte t.nor a = if slot ≤ a ∧ a < slot + 512 then 0xFF else sget erasedByte s.nor a) ∧ t.mram = s.mram) ∧
    (∀ ok, s.upd.hdr = none ∨ s.bit Reg.UPD_CTL 2 = false → NoEffect (.installDone ok) s) ∧
    (∀ ws, s.upd.hdr = some ws → ws.length = 128 → s.bit Reg.UPD_CTL 2 = true → (ws.getD 11 0).toNat ≤ 0x1F80000 - 512 →
      After (.installDone true) s (fun t => UpdIs 4 (some ws) t ∧ t.bit Reg.UPD_STAT 6 = true ∧ t.rd Reg.UPD_STAGED_VER = ws.getD 5 0 ∧
        (∀ a, outside a → sget erasedByte t.nor a = sget erasedByte s.nor a) ∧ memWords erasedByte t.nor slot 128 = ws ∧
        memBytes erasedByte t.nor (slot + 512) (ws.getD 11 0).toNat = memBytes zeroByte s.upd.body 0 (ws.getD 11 0).toNat) ∧
      After (.installDone false) s (fun t => UpdIs 3 (some ws) t ∧ t.upd.stage = 2 ∧ t.bit Reg.UPD_STAT 7 = true ∧
        (∀ a, slot ≤ a → a < slot + 512 → sget erasedByte t.nor a = 0xFF) ∧
        ∀ a, outside a → sget erasedByte t.nor a = sget erasedByte s.nor a))) ∧
  (∀ (v : Word) (s : State), s.domOn 12 = true →
    (v ≠ 0xC0F17E11 ∨ selTrial s = false → NoEffect (.updConfirm v) s) ∧
    (v = 0xC0F17E11 → selTrial s = true → After (.updConfirm v) s fun t => t.bit Reg.UPD_STATE 8 = false ∧
      Selected (selActive s) (selW s 12) (selW s 16)
        (max (selW s 20) (memRd erasedByte s.nor ((if selActive s = 0 then 0x100000 else 0x2080000) + 0x18) 4)) 0 0 s t ∧
      ∀ a, 0x1000 ≤ a → sget zeroByte t.mram a = sget zeroByte s.mram a)) ∧
  (∀ s : State, s.domOn 12 = true →
    let due := s.bit Reg.UPD_ACT_CTL 0 = true ∧ s.rd64 Reg.UPD_ACT_LO Reg.UPD_ACT_HI ≤ s.ext
    let free := if selActive s = 0 then 0x2080000 else 0x100000
    (¬due → NoEffect .activation s) ∧
    (due → s.bit Reg.UPD_ACT_CTL 1 = false → After .activation s fun t => t.bit Reg.UPD_STAT 9 = true ∧ t.bit Reg.UPD_ACT_CTL 0 = false ∧
      t.bits Reg.UPD_STATE 2 0 = s.bits Reg.UPD_STATE 2 0 ∧ SameMem s t) ∧
    (due → s.bit Reg.UPD_ACT_CTL 1 = true → After .activation s fun t => SystemReset 8 t ∧
      Selected (1 - selActive s + 2) (memRd erasedByte s.nor (free + 0x14) 4) (selW s 12) (selW s 20) s.rtcSec
        (let w := memRd erasedByte s.nor (free + 0x1D) 2
        if w = 0 then 600 else w) s t)) ∧
  (∀ s : State,
    (selTrial s = true → selW s 24 + selW s 28 < s.rtcSec → After .trialFallback s (FellBack s)) ∧
    (selTrial s = false ∨ s.rtcSec ≤ selW s 24 + selW s 28 → NoEffect .trialFallback s)) ∧
  (∀ s : State,
    (s.tnd.bootDue = false ∨ s.tnd.supply ≠ .good → NoEffect .coldBoot s) ∧
    (s.tnd.bootDue = true → s.tnd.supply = .good → After .coldBoot s fun t =>
      (selCopy s).isSome = true → s.bit Reg.TND_RESET_CAUSE 0 = false → selTrial s = true →
        (selBoots s = 3 ∨ selW s 24 + selW s 28 ≤ s.rtcSec → FellBack s t) ∧
        (selBoots s < 3 → s.rtcSec < selW s 24 + selW s 28 → slotValid s (selActive s) = true →
          Selected (selW s 8 + 8) (selW s 12) (selW s 16) (selW s 20) (selW s 24) (selW s 28) s t ∧ t.tnd.bootDue = false ∧
            t.bits Reg.TND_PSTATE 6 4 = 5 ∧
            (s.contained 12 = false → 2 ≤ t.bits (Reg.PWR_DC_STAT 12) 1 0))) ∧
    (s.tnd.bootDue = true → s.tnd.supply = .good → (selCopy s).isSome = true → selTrial s = false →
      slotValid s (selActive s) = false → After .coldBoot s fun t => t.tnd.recovery = true ∧ t.tnd.bootDue = false ∧
        t.bits Reg.UPD_STATE 2 0 = 5 ∧ ∀ b, t.core (.mill b) = s.core (.mill b))) ∧
  (∀ (hdr : List Word) (body : List Byte) (s : State),
    let rej := hdrCheck s hdr
    let good := rej = 0 ∧ bodyOk hdr body = true ∧ body.length = (hdr.getD 11 0).toNat
    (s.tnd.recovery = false → NoEffect (.recoveryFurnish hdr body) s) ∧
    (s.tnd.recovery = true → ¬good → After (.recoveryFurnish hdr body) s fun t => t.bits Reg.UPD_STATE 6 3 = rej ∧
      RegEffect (· = Reg.UPD_STATE) s t) ∧
    (s.tnd.recovery = true → good → hdr.length = 128 → After (.recoveryFurnish hdr body) s fun t => t.tnd.recovery = false ∧
      t.tnd.bootDue = true ∧ memWords erasedByte t.nor 0x100000 128 = hdr ∧
      memBytes erasedByte t.nor (0x100000 + 512) body.length = body ∧
      Selected 0 (hdr.getD 5 0).toNat (selW s 12) (selW s 20) 0 0 s t ∧
      ∀ a, 0x1000 ≤ a → sget zeroByte t.mram a = sget zeroByte s.mram a))

/-- No request waits (R446). -/
def PanelIdle (s t : State) : Prop :=
  t.pnl = { s.pnl with req := none, temp := none } ∧ t.bit Reg.PNL_CTL 0 = false ∧ t.bits Reg.PNL_STATE 1 0 = 0 ∧
  t.bit Reg.PNL_STATE 2 = false

/-- The stress counter of block `k` after an update of `len` frames whose rectangle touches the blocks `bs` (R449). -/
def Charged (bs : List Nat) (len : Nat) (comp : Nat → Nat) (s t : State) : Prop :=
  (∀ k, k < 592 → stress t k = (stress s k + if k ∈ bs then len + comp k else 0) % 2 ^ 64) ∧
  stressSeq t = (stressSeq s + 1) % 2 ^ 32 ∧
  ∀ a, a < 0x26000 ∨ 0x2A000 ≤ a → sget zeroByte t.mram a = sget zeroByte s.mram a

/-- The panel: requests and their refusals, what an update takes at its start with its journal, each frame's drive, the end,
and recovery as DC12 comes ON. (R443, R444, R445, R446, R447, R448, R449, R450, R451.) -/
def Obligations.StatusPanel : Prop :=
  (∀ s : State, s.domOn 12 = true →
    let x0 := s.bits Reg.PNL_RECT 8 0
    let y0 := s.bits Reg.PNL_RECT 15 9
    let x1 := s.bits Reg.PNL_RECT 24 16
    let y1 := s.bits Reg.PNL_RECT 31 25
    let busy := s.pnl.upd.isSome = true ∨ s.pnl.req.isSome = true ∨ s.pnl.unknown.isSome = true
    let temp := (s.rd (Reg.TND_SENS 5)).toInt
    let refused := fun i t => State.bit t Reg.PNL_STAT i = true ∧ RegEffect (fun a => a = Reg.PNL_STAT ∨ IrqPend a) s t
    (busy → After .pnlGo s (refused 2)) ∧
    (¬busy → x1 < x0 ∨ y1 < y0 ∨ 296 ≤ x1 → After .pnlGo s (refused 1)) ∧
    (¬busy → x0 ≤ x1 → y0 ≤ y1 → x1 < 296 → After .pnlGo s fun t =>
      t = { s with regs := t.regs, inst := t.inst,
                   pnl := { s.pnl with req := some (x0, y0, x1, y1), temp := if -160 ≤ temp ∧ temp ≤ 480 then some temp else none } } ∧
      RegsBut (fun a => a = Reg.PNL_CTL ∨ a = Reg.PNL_STATE) s t ∧ t.bit Reg.PNL_CTL 0 = true ∧ t.bits Reg.PNL_STATE 1 0 = 1 ∧
      (t.bit Reg.PNL_STATE 2 = true ↔ temp < -160 ∨ 480 < temp)) ∧
    (s.pnl.req.isSome = true → s.pnl.upd = none → After .pnlCancel s fun t => PanelIdle s t ∧ SameMem s t ∧
      RegsBut (fun a => a = Reg.PNL_CTL ∨ a = Reg.PNL_STATE) s t) ∧
    (s.pnl.req = none ∨ s.pnl.upd.isSome = true → NoEffect .pnlCancel s)) ∧
  (∀ s : State, s.domOn 12 = true →
    let now := (s.rd (Reg.TND_SENS 5)).toInt
    let inRange := s.pnl.temp.isSome = true ∨ (-160 ≤ now ∧ now ≤ 480)
    let b := (min 7 ((s.pnl.temp.getD now + 160) / 80)).toNat
    let wanted := (s.pnl.req.isSome = true ∨ s.pnl.unknown.isSome = true) ∧ s.tnd.supply ≠ .shed
    (s.pnl.upd.isSome = true ∨ ¬wanted → NoEffect .updateStart s) ∧
    (s.pnl.upd = none → wanted → ¬inRange → After .updateStart s fun t => t.bit Reg.PNL_STATE 2 = true ∧ RegEffect (· = Reg.PNL_STATE) s t) ∧
    (s.pnl.upd = none → wanted → inRange → bandUsable s b = false → After .updateStart s fun t => t.bit Reg.PNL_STATE 4 = true ∧
      SameMem s t ∧ t.pnl.upd = none ∧ (s.pnl.unknown = none → PanelIdle s t)) ∧
    (s.bit Reg.TND_STAT 7 = true → bandUsable s b = false) ∧
    (s.pnl.upd = none → wanted → inRange → bandUsable s b = true → After .updateStart s fun t =>
      let clear := s.pnl.unknown.isSome
      let r := s.pnl.unknown.getD (s.pnl.req.getD (0, 0, 0, 0))
      ∃ u, t.pnl.upd = some u ∧ u.rect = r ∧ u.band = b ∧ u.clear = clear ∧ u.frame = 0 ∧ t.mram = s.mram ∧ t.out = s.out ∧
        u.len = memRd erasedByte s.nor (0x1000 + 0x200 * b + if clear then 0x110 else 0) (if clear then 1 else 4) ∧
        (∀ p ∈ u.px, p.2.2.1 = (if clear then 0 else rdz s.ao (0x8000 + (74 * p.2.1 + p.1 / 4)) 1 / 4 ^ (p.1 % 4) % 4) ∧
          r.1 ≤ p.1 ∧ p.1 ≤ r.2.2.1 ∧ r.2.1 ≤ p.2.1 ∧ p.2.1 ≤ r.2.2.2 ∧ (clear = true → p.2.2.2 = 3) ∧
          (clear = false → let o := 74 * p.2.1 + p.1 / 4
            p.2.2.2 = s.rdN (Reg.PNL_TARGET (o / 4)) / 256 ^ (o % 4) % 256 / 4 ^ (p.1 % 4) % 4)) ∧
        (∀ x y, r.1 ≤ x → x ≤ r.2.2.1 → r.2.1 ≤ y → y ≤ r.2.2.2 → ∃ p ∈ u.px, p.1 = x ∧ p.2.1 = y) ∧
        (u.total = u.len ∨ ∃ k ∈ rectBlocks r, u.total = u.len + sget (fun _ => 0) u.comp k) ∧
        (∀ k ∈ rectBlocks r, sget (fun _ => 0) u.comp k = min 8 (stress s k / memRd erasedByte s.nor (0x1004 + 0x200 * b) 4) ∧
          u.len + sget (fun _ => 0) u.comp k ≤ u.total) ∧
        t.bits Reg.PNL_STATE 1 0 = 2 ∧ t.bits Reg.PNL_STATE 7 5 = b ∧ t.bits Reg.PNL_STATE 14 8 = 0 ∧
        rdz t.ao 0xF3C 4 = 0x7A1E0001 ∧ rdz t.ao 0xF04 4 = b + (if clear then 8 else 0) ∧ rdz t.ao 0xF08 4 = stressSeq s ∧
        (r.1 < 512 → r.2.1 < 128 → r.2.2.1 < 512 → r.2.2.2 < 128 →
          rdz t.ao 0xF00 4 = r.1 + 2 ^ 9 * r.2.1 + 2 ^ 16 * r.2.2.1 + 2 ^ 25 * r.2.2.2) ∧
        ∀ a, a < 0xF00 ∨ 0xF40 ≤ a → sget zeroByte t.ao a = sget zeroByte s.ao a)) ∧
  (∀ s : State, s.domOn 12 = true →
    (s.pnl.upd = none → NoEffect .panelFrame s) ∧
    (∀ u, s.pnl.upd = some u →
      let drive := (u.px.map fun p => (p.1, p.2.1, pixelCode s u u.frame p)).filter fun p => p.2.2 != 0
      (s.tnd.supply = .shed → After .panelFrame s fun t =>
        t = { s with regs := t.regs, inst := t.inst, pnl := { s.pnl with upd := none } } ∧ t.bit Reg.PNL_CTL 0 = false ∧
        RegsBut (fun a => a = Reg.PNL_CTL ∨ a = Reg.PNL_STATE) s t ∧ t.bits Reg.PNL_STATE 1 0 = if s.pnl.unknown.isSome then 1 else 0) ∧
      (s.tnd.supply ≠ .shed → u.frame + 1 < u.total → After .panelFrame s fun t => t.out = s.out ++ [.panel drive] ∧
        t.pnl = { s.pnl with upd := some { u with frame := u.frame + 1 } } ∧ t.bits Reg.PNL_STATE 14 8 = u.frame % 128 ∧
        RegsBut (· = Reg.PNL_STATE) s t ∧ SameMem s t) ∧
      (s.tnd.supply ≠ .shed → u.total ≤ u.frame + 1 → (∀ p ∈ u.px, p.1 < 296 ∧ p.2.1 < 128 ∧ p.2.2.2 < 4) →
        (∀ p ∈ u.px, ∀ q ∈ u.px, p.1 = q.1 → p.2.1 = q.2.1 → p = q) → After .panelFrame s fun t =>
        t.out = s.out ++ [.panel drive] ∧ t.pnl.upd = none ∧ t.bit Reg.PNL_STAT 0 = true ∧ t.bits Reg.PNL_STATE 1 0 = 0 ∧
        rdz t.ao 0xF3C 4 = 0 ∧ Charged (rectBlocks u.rect) u.len (fun k => sget (fun _ => 0) u.comp k) s t ∧
        (∀ p ∈ u.px, rdz t.ao (0x8000 + 74 * p.2.1 + p.1 / 4) 1 / 4 ^ (p.1 % 4) % 4 = p.2.2.2) ∧
        (∀ x y, x < 296 → y < 128 → (∀ p ∈ u.px, p.1 ≠ x ∨ p.2.1 ≠ y) →
          rdz t.ao (0x8000 + 74 * y + x / 4) 1 / 4 ^ (x % 4) % 4 = rdz s.ao (0x8000 + 74 * y + x / 4) 1 / 4 ^ (x % 4) % 4) ∧
        (u.clear = true → t.pnl.unknown = none ∧ t.bit Reg.PNL_STAT 3 = true ∧ rdz t.ao 0xA500 4 = 0x1A6E0001) ∧
        (u.clear = false → t.bit Reg.PNL_CTL 0 = false ∧ t.pnl.unknown = s.pnl.unknown)) ∧
      (∀ p : Nat × Nat × Nat × Nat, u.clear = false → let n := waveLen s u.band false p.2.2.1 p.2.2.2
        let stop := u.len + sget (fun _ => 0) u.comp (37 * (p.2.1 / 8) + p.1 / 8)
        let code := fun i =>
          (let c := memRd erasedByte s.nor (0x1000 + 0x200 * u.band + 0x10 + 16 * (4 * p.2.2.1 + p.2.2.2) + 1 + i / 4) 1 / 4 ^ (i % 4) % 4
           if c = 3 then 0 else c)
        n ≤ u.len → ∀ f, (f < u.len - n → pixelCode s u f p = 0) ∧ (stop ≤ f → pixelCode s u f p = 0) ∧
          (u.len - n ≤ f → f < u.len → pixelCode s u f p = code (f - (u.len - n))) ∧
          (∀ i, u.len ≤ f → f < stop → i < n → code i ≠ 0 → (∀ j, i < j → j < n → code j = 0) → pixelCode s u f p = code i)))) ∧
  (∀ s : State, s.contained 12 = false → s.bits (Reg.PWR_DC_STAT 12) 1 0 = 2 → (∀ x ∈ s.tnd.stalls, x.dom ≠ 12) → After (.domainOn 12) s fun t =>
    let journal := rdz s.ao 0xF3C 4 = 0x7A1E0001
    let w := rdz s.ao 0xF00 4
    let r := (w % 512, w / 2 ^ 9 % 128, w / 2 ^ 16 % 512, w / 2 ^ 25)
    let b := rdz s.ao 0xF04 4 % 8
    let len := if rdz s.ao 0xF04 4 / 8 % 2 = 1 then waveLen s b true 0 0 else waveL s b
    let lost := journal ∧ rdz s.ao 0xF08 4 = stressSeq s
    let temp := (s.rd (Reg.TND_SENS 5)).toInt
    (lost → Charged (rectBlocks r) len (fun k => compOf s b k) s t) ∧ (¬lost → t.mram = s.mram) ∧ t.pnl.upd = none ∧ t.pnl.req = none ∧
    t.pnl.unknown = (if rdz s.ao 0xA500 4 ≠ 0x1A6E0001 then some (0, 0, 295, 127) else if journal then some r else none) ∧
    (t.pnl.unknown.isSome = true → t.bit Reg.PNL_STATE 3 = true ∧ t.bits Reg.PNL_STATE 1 0 = 1 ∧
      (t.bit Reg.PNL_STATE 2 = true ↔ temp < -160 ∨ 480 < temp)))
end

