-- ==== Sys2Proof/Laws/SMap.lean ====
section
/-! SUPPORT. Sparse maps: a read after a write, and the canonical form that every operation keeps. -/

namespace Sys2Proof.Machine

variable {α : Type} {d : Nat → α} {m : SMap α} {k j : Nat} {v : α}

/-! ### A read after a write -/

@[simp] theorem sget_nil : sget d [] k = d k := rfl

theorem sget_cons {e : Nat × α} : sget d (e :: m) k = if e.1 = k then e.2 else sget d m k := rfl

theorem mem_serase {e : Nat × α} : e ∈ serase m k ↔ e ∈ m ∧ e.1 ≠ k := by
  induction m with
  | nil => simp [serase]
  | cons x m ih =>
    by_cases h : x.1 = k
    · simp only [serase, h, if_true, ih, List.mem_cons]
      constructor
      · exact fun ⟨a, b⟩ => ⟨.inr a, b⟩
      · rintro ⟨rfl | a, b⟩
        · exact absurd h b
        · exact ⟨a, b⟩
    · simp only [serase, h, if_false, ih, List.mem_cons]
      constructor
      · rintro (rfl | ⟨a, b⟩)
        · exact ⟨.inl rfl, h⟩
        · exact ⟨.inr a, b⟩
      · rintro ⟨rfl | a, b⟩
        · exact .inl rfl
        · exact .inr ⟨a, b⟩

theorem sget_serase : sget d (serase m k) j = if j = k then d k else sget d m j := by
  induction m with
  | nil => by_cases h : j = k <;> simp [serase, h]
  | cons x m ih =>
    simp only [serase, sget_cons]
    split <;> rename_i h
    · rw [ih]; split <;> rename_i hj
      · rfl
      · rw [if_neg (fun e => hj (e.symm.trans h))]
    · rw [sget_cons, ih]; split <;> rename_i hj
      · rw [if_neg (fun e => h (hj.trans e))]
      · rfl

theorem sget_sinsert (h : ∀ e ∈ m, e.1 ≠ k) : sget d (sinsert m k v) j = if j = k then v else sget d m j := by
  induction m with
  | nil => simp [sinsert, sget, eq_comm]
  | cons x m ih =>
    have hx := h x (List.mem_cons_self ..)
    have ih := ih fun e he => h e (List.mem_cons_of_mem _ he)
    simp only [sinsert, sget_cons]
    split
    · rw [sget_cons, sget_cons]; simp only [eq_comm]
    · rw [sget_cons, ih]; split <;> rename_i h1
      · subst h1; rw [if_neg hx]
      · rfl

/-- A read after a write to the same key gives the value written; every other key reads as before. -/
theorem sget_sset [DecidableEq α] : sget d (sset d m k v) j = if j = k then v else sget d m j := by
  unfold sset
  split <;> rename_i h
  · rw [sget_serase]; subst h; split <;> simp_all
  · rw [sget_sinsert fun e he => (mem_serase.1 he).2, sget_serase]; split <;> rfl

@[simp] theorem sget_sset_same [DecidableEq α] : sget d (sset d m k v) k = v := by simp [sget_sset]

theorem sget_sset_other [DecidableEq α] (h : j ≠ k) : sget d (sset d m k v) j = sget d m j := by simp [sget_sset, h]

/-! ### The canonical form -/

theorem srising_weaken {a b : Nat} (h : srising (some b) m = true) (hab : a ≤ b) : srising (some a) m = true := by
  cases m with
  | nil => rfl
  | cons x m => simp only [srising, Bool.and_eq_true, decide_eq_true_eq] at h ⊢; exact ⟨by omega, h.2⟩

theorem srising_none {a : Nat} (h : srising (some a) m = true) : srising none m = true := by
  cases m with
  | nil => rfl
  | cons x m => simp only [srising, Bool.and_eq_true] at h ⊢; exact h.2

theorem srising_serase {lo : Option Nat} (h : srising lo m = true) : srising lo (serase m k) = true := by
  induction m generalizing lo with
  | nil => simpa [serase] using h
  | cons x m ih =>
    have tl : srising (some x.1) m = true := by
      cases lo <;> simp only [srising, Bool.and_eq_true] at h
      · exact h
      · exact h.2
    simp only [serase]
    split
    · cases lo with
      | none => exact srising_none (ih tl)
      | some a =>
        simp only [srising, Bool.and_eq_true, decide_eq_true_eq] at h
        exact srising_weaken (ih tl) (by omega)
    · cases lo with
      | none => exact ih tl
      | some a =>
        simp only [srising, Bool.and_eq_true, decide_eq_true_eq] at h ⊢
        exact ⟨h.1, ih tl⟩

theorem srising_sinsert {lo : Option Nat} (h : srising lo m = true) (hk : ∀ a, lo = some a → a < k) (hm : ∀ e ∈ m, e.1 ≠ k) :
    srising lo (sinsert m k v) = true := by
  induction m generalizing lo with
  | nil => cases lo <;> simp [sinsert, srising, hk]
  | cons x m ih =>
    have tl : srising (some x.1) m = true := by
      cases lo <;> simp only [srising, Bool.and_eq_true] at h
      · exact h
      · exact h.2
    have hx := hm x (List.mem_cons_self ..)
    simp only [sinsert]
    split <;> rename_i hlt
    · cases lo <;> simp [srising, hlt, tl, hk]
    · have := ih tl (fun a ha => by cases ha; omega) fun e he => hm e (List.mem_cons_of_mem _ he)
      cases lo with
      | none => exact this
      | some a => simp only [srising, Bool.and_eq_true] at h ⊢; exact ⟨h.1, this⟩

theorem mem_sinsert {e : Nat × α} : e ∈ sinsert m k v ↔ e = (k, v) ∨ e ∈ m := by
  induction m with
  | nil => simp [sinsert]
  | cons x m ih =>
    simp only [sinsert]
    split
    · simp
    · rw [List.mem_cons, ih, List.mem_cons]; exact or_left_comm

/-- Writing keeps the canonical form. -/
theorem swf_sset [DecidableEq α] (h : swf d m = true) : swf d (sset d m k v) = true := by
  simp only [swf, Bool.and_eq_true, List.all_eq_true, decide_eq_true_eq] at h ⊢
  unfold sset
  split <;> rename_i hv
  · exact ⟨srising_serase h.1, fun e he => h.2 e (mem_serase.1 he).1⟩
  · refine ⟨srising_sinsert (srising_serase h.1) (by simp) fun e he => (mem_serase.1 he).2, fun e he => ?_⟩
    rcases mem_sinsert.1 he with rfl | he
    · exact hv
    · exact h.2 e (mem_serase.1 he).1

theorem srising_filter {lo : Option Nat} (p : Nat × α → Bool) (h : srising lo m = true) : srising lo (m.filter p) = true := by
  induction m generalizing lo with
  | nil => cases lo <;> rfl
  | cons x m ih =>
    have tl : srising (some x.1) m = true := by
      cases lo <;> simp only [srising, Bool.and_eq_true] at h
      · exact h
      · exact h.2
    rw [List.filter_cons]
    split
    · cases lo with
      | none => exact ih tl
      | some a => simp only [srising, Bool.and_eq_true] at h ⊢; exact ⟨h.1, ih tl⟩
    · cases lo with
      | none => exact srising_none (ih tl)
      | some a =>
        simp only [srising, Bool.and_eq_true, decide_eq_true_eq] at h
        exact srising_weaken (ih tl) (by omega)

/-- Dropping keys keeps the canonical form. -/
theorem swf_filter [DecidableEq α] (p : Nat × α → Bool) (h : swf d m = true) : swf d (m.filter p) = true := by
  simp only [swf, Bool.and_eq_true, List.all_eq_true, decide_eq_true_eq] at h ⊢
  exact ⟨srising_filter p h.1, fun e he => h.2 e (List.mem_filter.1 he).1⟩

theorem swf_sdrop [DecidableEq α] {p : Nat → Bool} (h : swf d m = true) : swf d (sdrop p m) = true := swf_filter _ h

theorem swf_nil [DecidableEq α] : swf d ([] : SMap α) = true := rfl

/-! ### Byte memories -/

variable {e : Nat → Byte} {b : SMap Byte} {a n x : Nat}

theorem swf_memWr (h : swf e b = true) : swf e (memWr e b a n x) = true := by
  induction n generalizing b a x with
  | zero => exact h
  | succ n ih => exact ih (swf_sset h)

theorem swf_memPut {ws : List Word} (h : swf e b = true) : swf e (memPut e b a ws) = true := by
  induction ws generalizing b a with
  | nil => exact h
  | cons w ws ih => exact ih (swf_memWr h)

theorem swf_memPutBytes {bs : List Byte} (h : swf e b = true) : swf e (memPutBytes e b a bs) = true := by
  induction bs generalizing b a with
  | nil => exact h
  | cons w ws ih => exact ih (swf_sset h)

theorem swf_wrz (h : swf zeroByte b = true) : swf zeroByte (wrz b a n x) = true := swf_memWr h

/-- After a store of `n` bytes the stored ones read as the value's bytes, and every other address reads as before. -/
theorem sget_memWr : sget e (memWr e b a n x) j =
    if a ≤ j ∧ j < a + n then BitVec.ofNat 8 (x / 256 ^ (j - a)) else sget e b j := by
  induction n generalizing b a x with
  | zero => simp only [memWr, Nat.add_zero]; rw [if_neg (by omega)]
  | succ n ih =>
    simp only [memWr]
    rw [ih, sget_sset]
    by_cases h : a + 1 ≤ j ∧ j < a + 1 + n
    · rw [if_pos h, if_pos (by omega)]
      have : j - a = (j - (a + 1)) + 1 := by omega
      rw [this, Nat.pow_succ, Nat.mul_comm, Nat.div_div_eq_div_mul]
    · rw [if_neg h]
      by_cases hj : j = a
      · subst hj; simp
      · rw [if_neg hj, if_neg (by omega)]

theorem sget_memPut_out {ws : List Word} (h : j < a ∨ a + 4 * ws.length ≤ j) : sget e (memPut e b a ws) j = sget e b j := by
  induction ws generalizing b a with
  | nil => rfl
  | cons w ws ih =>
    simp only [List.length_cons] at h
    simp only [memPut]
    rw [ih (by omega), sget_memWr, if_neg (by omega)]

theorem sget_memPutBytes_out {bs : List Byte} (h : j < a ∨ a + bs.length ≤ j) : sget e (memPutBytes e b a bs) j = sget e b j := by
  induction bs generalizing b a with
  | nil => rfl
  | cons w ws ih =>
    simp only [List.length_cons] at h
    simp only [memPutBytes]
    rw [ih (by omega), sget_sset_other (by omega)]

end Sys2Proof.Machine
end

