-- ==== Sys2Proof/Laws/State.lean ====
section
/-! SUPPORT. One lemma per field of State per elementary update, true by unfolding: what was written, and that every other field stays.
Reads of registers and cores are given the same way. -/

namespace Sys2Proof.Machine

variable (s : State)

theorem State.rd_eq (a : Nat) : s.rd a = sget resetOf s.regs a := rfl
theorem State.core_eq (o : CoreId) : s.core o = sget coreReset s.cores o.num := rfl

/-! ### `wr` -/

@[simp] theorem State.wr_pending (a : Nat) (v : Word) : (s.wr a v).pending = s.pending := rfl
@[simp] theorem State.wr_clk (a : Nat) (v : Word) : (s.wr a v).clk = s.clk := rfl
@[simp] theorem State.wr_freeIdx (a : Nat) (v : Word) : (s.wr a v).freeIdx = s.freeIdx := rfl
@[simp] theorem State.wr_inst (a : Nat) (v : Word) : (s.wr a v).inst = s.inst := rfl
@[simp] theorem State.wr_resp (a : Nat) (v : Word) : (s.wr a v).resp = s.resp := rfl
@[simp] theorem State.wr_out (a : Nat) (v : Word) : (s.wr a v).out = s.out := rfl
@[simp] theorem State.wr_regs (a : Nat) (v : Word) : (s.wr a v).regs = sset resetOf s.regs a v := rfl
@[simp] theorem State.wr_cores (a : Nat) (v : Word) : (s.wr a v).cores = s.cores := rfl
@[simp] theorem State.wr_dram (a : Nat) (v : Word) : (s.wr a v).dram = s.dram := rfl
@[simp] theorem State.wr_mram (a : Nat) (v : Word) : (s.wr a v).mram = s.mram := rfl
@[simp] theorem State.wr_ao (a : Nat) (v : Word) : (s.wr a v).ao = s.ao := rfl
@[simp] theorem State.wr_nor (a : Nat) (v : Word) : (s.wr a v).nor = s.nor := rfl
@[simp] theorem State.wr_felt (a : Nat) (v : Word) : (s.wr a v).felt = s.felt := rfl
@[simp] theorem State.wr_prs (a : Nat) (v : Word) : (s.wr a v).prs = s.prs := rfl
@[simp] theorem State.wr_tim (a : Nat) (v : Word) : (s.wr a v).tim = s.tim := rfl
@[simp] theorem State.wr_tnd (a : Nat) (v : Word) : (s.wr a v).tnd = s.tnd := rfl
@[simp] theorem State.wr_dkl (a : Nat) (v : Word) : (s.wr a v).dkl = s.dkl := rfl
@[simp] theorem State.wr_fsn (a : Nat) (v : Word) : (s.wr a v).fsn = s.fsn := rfl
@[simp] theorem State.wr_cal (a : Nat) (v : Word) : (s.wr a v).cal = s.cal := rfl
@[simp] theorem State.wr_pair (a : Nat) (v : Word) : (s.wr a v).pair = s.pair := rfl
@[simp] theorem State.wr_nbb (a : Nat) (v : Word) : (s.wr a v).nbb = s.nbb := rfl
@[simp] theorem State.wr_hbx (a : Nat) (v : Word) : (s.wr a v).hbx = s.hbx := rfl
@[simp] theorem State.wr_enc (a : Nat) (v : Word) : (s.wr a v).enc = s.enc := rfl
@[simp] theorem State.wr_ply (a : Nat) (v : Word) : (s.wr a v).ply = s.ply := rfl
@[simp] theorem State.wr_can (a : Nat) (v : Word) : (s.wr a v).can = s.can := rfl
@[simp] theorem State.wr_lib (a : Nat) (v : Word) : (s.wr a v).lib = s.lib := rfl
@[simp] theorem State.wr_reel (a : Nat) (v : Word) : (s.wr a v).reel = s.reel := rfl
@[simp] theorem State.wr_upd (a : Nat) (v : Word) : (s.wr a v).upd = s.upd := rfl
@[simp] theorem State.wr_pnl (a : Nat) (v : Word) : (s.wr a v).pnl = s.pnl := rfl
@[simp] theorem State.wr_core (a : Nat) (v : Word) (q : CoreId) : (s.wr a v).core q = s.core q := rfl

/-! ### `wrN` -/

@[simp] theorem State.wrN_pending (a v : Nat) : (s.wrN a v).pending = s.pending := rfl
@[simp] theorem State.wrN_clk (a v : Nat) : (s.wrN a v).clk = s.clk := rfl
@[simp] theorem State.wrN_freeIdx (a v : Nat) : (s.wrN a v).freeIdx = s.freeIdx := rfl
@[simp] theorem State.wrN_inst (a v : Nat) : (s.wrN a v).inst = s.inst := rfl
@[simp] theorem State.wrN_resp (a v : Nat) : (s.wrN a v).resp = s.resp := rfl
@[simp] theorem State.wrN_out (a v : Nat) : (s.wrN a v).out = s.out := rfl
@[simp] theorem State.wrN_regs (a v : Nat) : (s.wrN a v).regs = sset resetOf s.regs a (BitVec.ofNat 32 v) := rfl
@[simp] theorem State.wrN_cores (a v : Nat) : (s.wrN a v).cores = s.cores := rfl
@[simp] theorem State.wrN_dram (a v : Nat) : (s.wrN a v).dram = s.dram := rfl
@[simp] theorem State.wrN_mram (a v : Nat) : (s.wrN a v).mram = s.mram := rfl
@[simp] theorem State.wrN_ao (a v : Nat) : (s.wrN a v).ao = s.ao := rfl
@[simp] theorem State.wrN_nor (a v : Nat) : (s.wrN a v).nor = s.nor := rfl
@[simp] theorem State.wrN_felt (a v : Nat) : (s.wrN a v).felt = s.felt := rfl
@[simp] theorem State.wrN_prs (a v : Nat) : (s.wrN a v).prs = s.prs := rfl
@[simp] theorem State.wrN_tim (a v : Nat) : (s.wrN a v).tim = s.tim := rfl
@[simp] theorem State.wrN_tnd (a v : Nat) : (s.wrN a v).tnd = s.tnd := rfl
@[simp] theorem State.wrN_dkl (a v : Nat) : (s.wrN a v).dkl = s.dkl := rfl
@[simp] theorem State.wrN_fsn (a v : Nat) : (s.wrN a v).fsn = s.fsn := rfl
@[simp] theorem State.wrN_cal (a v : Nat) : (s.wrN a v).cal = s.cal := rfl
@[simp] theorem State.wrN_pair (a v : Nat) : (s.wrN a v).pair = s.pair := rfl
@[simp] theorem State.wrN_nbb (a v : Nat) : (s.wrN a v).nbb = s.nbb := rfl
@[simp] theorem State.wrN_hbx (a v : Nat) : (s.wrN a v).hbx = s.hbx := rfl
@[simp] theorem State.wrN_enc (a v : Nat) : (s.wrN a v).enc = s.enc := rfl
@[simp] theorem State.wrN_ply (a v : Nat) : (s.wrN a v).ply = s.ply := rfl
@[simp] theorem State.wrN_can (a v : Nat) : (s.wrN a v).can = s.can := rfl
@[simp] theorem State.wrN_lib (a v : Nat) : (s.wrN a v).lib = s.lib := rfl
@[simp] theorem State.wrN_reel (a v : Nat) : (s.wrN a v).reel = s.reel := rfl
@[simp] theorem State.wrN_upd (a v : Nat) : (s.wrN a v).upd = s.upd := rfl
@[simp] theorem State.wrN_pnl (a v : Nat) : (s.wrN a v).pnl = s.pnl := rfl
@[simp] theorem State.wrN_core (a v : Nat) (q : CoreId) : (s.wrN a v).core q = s.core q := rfl

/-! ### `setBits` -/

@[simp] theorem State.setBits_pending (a hi lo v : Nat) : (s.setBits a hi lo v).pending = s.pending := rfl
@[simp] theorem State.setBits_clk (a hi lo v : Nat) : (s.setBits a hi lo v).clk = s.clk := rfl
@[simp] theorem State.setBits_freeIdx (a hi lo v : Nat) : (s.setBits a hi lo v).freeIdx = s.freeIdx := rfl
@[simp] theorem State.setBits_inst (a hi lo v : Nat) : (s.setBits a hi lo v).inst = s.inst := rfl
@[simp] theorem State.setBits_resp (a hi lo v : Nat) : (s.setBits a hi lo v).resp = s.resp := rfl
@[simp] theorem State.setBits_out (a hi lo v : Nat) : (s.setBits a hi lo v).out = s.out := rfl
@[simp] theorem State.setBits_regs (a hi lo v : Nat) : (s.setBits a hi lo v).regs = sset resetOf s.regs a (wset (s.rd a) hi lo v) := rfl
@[simp] theorem State.setBits_cores (a hi lo v : Nat) : (s.setBits a hi lo v).cores = s.cores := rfl
@[simp] theorem State.setBits_dram (a hi lo v : Nat) : (s.setBits a hi lo v).dram = s.dram := rfl
@[simp] theorem State.setBits_mram (a hi lo v : Nat) : (s.setBits a hi lo v).mram = s.mram := rfl
@[simp] theorem State.setBits_ao (a hi lo v : Nat) : (s.setBits a hi lo v).ao = s.ao := rfl
@[simp] theorem State.setBits_nor (a hi lo v : Nat) : (s.setBits a hi lo v).nor = s.nor := rfl
@[simp] theorem State.setBits_felt (a hi lo v : Nat) : (s.setBits a hi lo v).felt = s.felt := rfl
@[simp] theorem State.setBits_prs (a hi lo v : Nat) : (s.setBits a hi lo v).prs = s.prs := rfl
@[simp] theorem State.setBits_tim (a hi lo v : Nat) : (s.setBits a hi lo v).tim = s.tim := rfl
@[simp] theorem State.setBits_tnd (a hi lo v : Nat) : (s.setBits a hi lo v).tnd = s.tnd := rfl
@[simp] theorem State.setBits_dkl (a hi lo v : Nat) : (s.setBits a hi lo v).dkl = s.dkl := rfl
@[simp] theorem State.setBits_fsn (a hi lo v : Nat) : (s.setBits a hi lo v).fsn = s.fsn := rfl
@[simp] theorem State.setBits_cal (a hi lo v : Nat) : (s.setBits a hi lo v).cal = s.cal := rfl
@[simp] theorem State.setBits_pair (a hi lo v : Nat) : (s.setBits a hi lo v).pair = s.pair := rfl
@[simp] theorem State.setBits_nbb (a hi lo v : Nat) : (s.setBits a hi lo v).nbb = s.nbb := rfl
@[simp] theorem State.setBits_hbx (a hi lo v : Nat) : (s.setBits a hi lo v).hbx = s.hbx := rfl
@[simp] theorem State.setBits_enc (a hi lo v : Nat) : (s.setBits a hi lo v).enc = s.enc := rfl
@[simp] theorem State.setBits_ply (a hi lo v : Nat) : (s.setBits a hi lo v).ply = s.ply := rfl
@[simp] theorem State.setBits_can (a hi lo v : Nat) : (s.setBits a hi lo v).can = s.can := rfl
@[simp] theorem State.setBits_lib (a hi lo v : Nat) : (s.setBits a hi lo v).lib = s.lib := rfl
@[simp] theorem State.setBits_reel (a hi lo v : Nat) : (s.setBits a hi lo v).reel = s.reel := rfl
@[simp] theorem State.setBits_upd (a hi lo v : Nat) : (s.setBits a hi lo v).upd = s.upd := rfl
@[simp] theorem State.setBits_pnl (a hi lo v : Nat) : (s.setBits a hi lo v).pnl = s.pnl := rfl
@[simp] theorem State.setBits_core (a hi lo v : Nat) (q : CoreId) : (s.setBits a hi lo v).core q = s.core q := rfl

/-! ### `setBit` -/

@[simp] theorem State.setBit_pending (a i : Nat) (b : Bool) : (s.setBit a i b).pending = s.pending := rfl
@[simp] theorem State.setBit_clk (a i : Nat) (b : Bool) : (s.setBit a i b).clk = s.clk := rfl
@[simp] theorem State.setBit_freeIdx (a i : Nat) (b : Bool) : (s.setBit a i b).freeIdx = s.freeIdx := rfl
@[simp] theorem State.setBit_inst (a i : Nat) (b : Bool) : (s.setBit a i b).inst = s.inst := rfl
@[simp] theorem State.setBit_resp (a i : Nat) (b : Bool) : (s.setBit a i b).resp = s.resp := rfl
@[simp] theorem State.setBit_out (a i : Nat) (b : Bool) : (s.setBit a i b).out = s.out := rfl
@[simp] theorem State.setBit_regs (a i : Nat) (b : Bool) : (s.setBit a i b).regs = sset resetOf s.regs a (wset (s.rd a) i i (if b then 1 else 0)) := rfl
@[simp] theorem State.setBit_cores (a i : Nat) (b : Bool) : (s.setBit a i b).cores = s.cores := rfl
@[simp] theorem State.setBit_dram (a i : Nat) (b : Bool) : (s.setBit a i b).dram = s.dram := rfl
@[simp] theorem State.setBit_mram (a i : Nat) (b : Bool) : (s.setBit a i b).mram = s.mram := rfl
@[simp] theorem State.setBit_ao (a i : Nat) (b : Bool) : (s.setBit a i b).ao = s.ao := rfl
@[simp] theorem State.setBit_nor (a i : Nat) (b : Bool) : (s.setBit a i b).nor = s.nor := rfl
@[simp] theorem State.setBit_felt (a i : Nat) (b : Bool) : (s.setBit a i b).felt = s.felt := rfl
@[simp] theorem State.setBit_prs (a i : Nat) (b : Bool) : (s.setBit a i b).prs = s.prs := rfl
@[simp] theorem State.setBit_tim (a i : Nat) (b : Bool) : (s.setBit a i b).tim = s.tim := rfl
@[simp] theorem State.setBit_tnd (a i : Nat) (b : Bool) : (s.setBit a i b).tnd = s.tnd := rfl
@[simp] theorem State.setBit_dkl (a i : Nat) (b : Bool) : (s.setBit a i b).dkl = s.dkl := rfl
@[simp] theorem State.setBit_fsn (a i : Nat) (b : Bool) : (s.setBit a i b).fsn = s.fsn := rfl
@[simp] theorem State.setBit_cal (a i : Nat) (b : Bool) : (s.setBit a i b).cal = s.cal := rfl
@[simp] theorem State.setBit_pair (a i : Nat) (b : Bool) : (s.setBit a i b).pair = s.pair := rfl
@[simp] theorem State.setBit_nbb (a i : Nat) (b : Bool) : (s.setBit a i b).nbb = s.nbb := rfl
@[simp] theorem State.setBit_hbx (a i : Nat) (b : Bool) : (s.setBit a i b).hbx = s.hbx := rfl
@[simp] theorem State.setBit_enc (a i : Nat) (b : Bool) : (s.setBit a i b).enc = s.enc := rfl
@[simp] theorem State.setBit_ply (a i : Nat) (b : Bool) : (s.setBit a i b).ply = s.ply := rfl
@[simp] theorem State.setBit_can (a i : Nat) (b : Bool) : (s.setBit a i b).can = s.can := rfl
@[simp] theorem State.setBit_lib (a i : Nat) (b : Bool) : (s.setBit a i b).lib = s.lib := rfl
@[simp] theorem State.setBit_reel (a i : Nat) (b : Bool) : (s.setBit a i b).reel = s.reel := rfl
@[simp] theorem State.setBit_upd (a i : Nat) (b : Bool) : (s.setBit a i b).upd = s.upd := rfl
@[simp] theorem State.setBit_pnl (a i : Nat) (b : Bool) : (s.setBit a i b).pnl = s.pnl := rfl
@[simp] theorem State.setBit_core (a i : Nat) (b : Bool) (q : CoreId) : (s.setBit a i b).core q = s.core q := rfl

/-! ### `used` -/

@[simp] theorem State.used_pending : (s.used).pending = s.pending := rfl
@[simp] theorem State.used_clk : (s.used).clk = s.clk := rfl
@[simp] theorem State.used_freeIdx : (s.used).freeIdx = s.freeIdx + 1 := rfl
@[simp] theorem State.used_inst : (s.used).inst = s.inst := rfl
@[simp] theorem State.used_resp : (s.used).resp = s.resp := rfl
@[simp] theorem State.used_out : (s.used).out = s.out := rfl
@[simp] theorem State.used_regs : (s.used).regs = s.regs := rfl
@[simp] theorem State.used_cores : (s.used).cores = s.cores := rfl
@[simp] theorem State.used_dram : (s.used).dram = s.dram := rfl
@[simp] theorem State.used_mram : (s.used).mram = s.mram := rfl
@[simp] theorem State.used_ao : (s.used).ao = s.ao := rfl
@[simp] theorem State.used_nor : (s.used).nor = s.nor := rfl
@[simp] theorem State.used_felt : (s.used).felt = s.felt := rfl
@[simp] theorem State.used_prs : (s.used).prs = s.prs := rfl
@[simp] theorem State.used_tim : (s.used).tim = s.tim := rfl
@[simp] theorem State.used_tnd : (s.used).tnd = s.tnd := rfl
@[simp] theorem State.used_dkl : (s.used).dkl = s.dkl := rfl
@[simp] theorem State.used_fsn : (s.used).fsn = s.fsn := rfl
@[simp] theorem State.used_cal : (s.used).cal = s.cal := rfl
@[simp] theorem State.used_pair : (s.used).pair = s.pair := rfl
@[simp] theorem State.used_nbb : (s.used).nbb = s.nbb := rfl
@[simp] theorem State.used_hbx : (s.used).hbx = s.hbx := rfl
@[simp] theorem State.used_enc : (s.used).enc = s.enc := rfl
@[simp] theorem State.used_ply : (s.used).ply = s.ply := rfl
@[simp] theorem State.used_can : (s.used).can = s.can := rfl
@[simp] theorem State.used_lib : (s.used).lib = s.lib := rfl
@[simp] theorem State.used_reel : (s.used).reel = s.reel := rfl
@[simp] theorem State.used_upd : (s.used).upd = s.upd := rfl
@[simp] theorem State.used_pnl : (s.used).pnl = s.pnl := rfl
@[simp] theorem State.used_rd (r0 : Nat) : (s.used).rd r0 = s.rd r0 := rfl
@[simp] theorem State.used_rdN (r0 : Nat) : (s.used).rdN r0 = s.rdN r0 := rfl
@[simp] theorem State.used_bits (r0 r1 r2 : Nat) : (s.used).bits r0 r1 r2 = s.bits r0 r1 r2 := rfl
@[simp] theorem State.used_bit (r0 r1 : Nat) : (s.used).bit r0 r1 = s.bit r0 r1 := rfl
@[simp] theorem State.used_domOn (r0 : Nat) : (s.used).domOn r0 = s.domOn r0 := rfl
@[simp] theorem State.used_core (q : CoreId) : (s.used).core q = s.core q := rfl

/-! ### `emit` -/

@[simp] theorem State.emit_pending (o : Out) : (s.emit o).pending = s.pending := rfl
@[simp] theorem State.emit_clk (o : Out) : (s.emit o).clk = s.clk := rfl
@[simp] theorem State.emit_freeIdx (o : Out) : (s.emit o).freeIdx = s.freeIdx := rfl
@[simp] theorem State.emit_inst (o : Out) : (s.emit o).inst = s.inst := rfl
@[simp] theorem State.emit_resp (o : Out) : (s.emit o).resp = s.resp := rfl
@[simp] theorem State.emit_out (o : Out) : (s.emit o).out = s.out ++ [o] := rfl
@[simp] theorem State.emit_regs (o : Out) : (s.emit o).regs = s.regs := rfl
@[simp] theorem State.emit_cores (o : Out) : (s.emit o).cores = s.cores := rfl
@[simp] theorem State.emit_dram (o : Out) : (s.emit o).dram = s.dram := rfl
@[simp] theorem State.emit_mram (o : Out) : (s.emit o).mram = s.mram := rfl
@[simp] theorem State.emit_ao (o : Out) : (s.emit o).ao = s.ao := rfl
@[simp] theorem State.emit_nor (o : Out) : (s.emit o).nor = s.nor := rfl
@[simp] theorem State.emit_felt (o : Out) : (s.emit o).felt = s.felt := rfl
@[simp] theorem State.emit_prs (o : Out) : (s.emit o).prs = s.prs := rfl
@[simp] theorem State.emit_tim (o : Out) : (s.emit o).tim = s.tim := rfl
@[simp] theorem State.emit_tnd (o : Out) : (s.emit o).tnd = s.tnd := rfl
@[simp] theorem State.emit_dkl (o : Out) : (s.emit o).dkl = s.dkl := rfl
@[simp] theorem State.emit_fsn (o : Out) : (s.emit o).fsn = s.fsn := rfl
@[simp] theorem State.emit_cal (o : Out) : (s.emit o).cal = s.cal := rfl
@[simp] theorem State.emit_pair (o : Out) : (s.emit o).pair = s.pair := rfl
@[simp] theorem State.emit_nbb (o : Out) : (s.emit o).nbb = s.nbb := rfl
@[simp] theorem State.emit_hbx (o : Out) : (s.emit o).hbx = s.hbx := rfl
@[simp] theorem State.emit_enc (o : Out) : (s.emit o).enc = s.enc := rfl
@[simp] theorem State.emit_ply (o : Out) : (s.emit o).ply = s.ply := rfl
@[simp] theorem State.emit_can (o : Out) : (s.emit o).can = s.can := rfl
@[simp] theorem State.emit_lib (o : Out) : (s.emit o).lib = s.lib := rfl
@[simp] theorem State.emit_reel (o : Out) : (s.emit o).reel = s.reel := rfl
@[simp] theorem State.emit_upd (o : Out) : (s.emit o).upd = s.upd := rfl
@[simp] theorem State.emit_pnl (o : Out) : (s.emit o).pnl = s.pnl := rfl
@[simp] theorem State.emit_rd (o : Out) (r0 : Nat) : (s.emit o).rd r0 = s.rd r0 := rfl
@[simp] theorem State.emit_rdN (o : Out) (r0 : Nat) : (s.emit o).rdN r0 = s.rdN r0 := rfl
@[simp] theorem State.emit_bits (o : Out) (r0 r1 r2 : Nat) : (s.emit o).bits r0 r1 r2 = s.bits r0 r1 r2 := rfl
@[simp] theorem State.emit_bit (o : Out) (r0 r1 : Nat) : (s.emit o).bit r0 r1 = s.bit r0 r1 := rfl
@[simp] theorem State.emit_domOn (o : Out) (r0 : Nat) : (s.emit o).domOn r0 = s.domOn r0 := rfl
@[simp] theorem State.emit_core (o : Out) (q : CoreId) : (s.emit o).core q = s.core q := rfl

/-! ### `setCore` -/

@[simp] theorem State.setCore_pending (id : CoreId) (c : CoreSt) : (s.setCore id c).pending = s.pending := rfl
@[simp] theorem State.setCore_clk (id : CoreId) (c : CoreSt) : (s.setCore id c).clk = s.clk := rfl
@[simp] theorem State.setCore_freeIdx (id : CoreId) (c : CoreSt) : (s.setCore id c).freeIdx = s.freeIdx := rfl
@[simp] theorem State.setCore_inst (id : CoreId) (c : CoreSt) : (s.setCore id c).inst = s.inst := rfl
@[simp] theorem State.setCore_resp (id : CoreId) (c : CoreSt) : (s.setCore id c).resp = s.resp := rfl
@[simp] theorem State.setCore_out (id : CoreId) (c : CoreSt) : (s.setCore id c).out = s.out := rfl
@[simp] theorem State.setCore_regs (id : CoreId) (c : CoreSt) : (s.setCore id c).regs = s.regs := rfl
@[simp] theorem State.setCore_cores (id : CoreId) (c : CoreSt) : (s.setCore id c).cores = sset coreReset s.cores id.num c := rfl
@[simp] theorem State.setCore_dram (id : CoreId) (c : CoreSt) : (s.setCore id c).dram = s.dram := rfl
@[simp] theorem State.setCore_mram (id : CoreId) (c : CoreSt) : (s.setCore id c).mram = s.mram := rfl
@[simp] theorem State.setCore_ao (id : CoreId) (c : CoreSt) : (s.setCore id c).ao = s.ao := rfl
@[simp] theorem State.setCore_nor (id : CoreId) (c : CoreSt) : (s.setCore id c).nor = s.nor := rfl
@[simp] theorem State.setCore_felt (id : CoreId) (c : CoreSt) : (s.setCore id c).felt = s.felt := rfl
@[simp] theorem State.setCore_prs (id : CoreId) (c : CoreSt) : (s.setCore id c).prs = s.prs := rfl
@[simp] theorem State.setCore_tim (id : CoreId) (c : CoreSt) : (s.setCore id c).tim = s.tim := rfl
@[simp] theorem State.setCore_tnd (id : CoreId) (c : CoreSt) : (s.setCore id c).tnd = s.tnd := rfl
@[simp] theorem State.setCore_dkl (id : CoreId) (c : CoreSt) : (s.setCore id c).dkl = s.dkl := rfl
@[simp] theorem State.setCore_fsn (id : CoreId) (c : CoreSt) : (s.setCore id c).fsn = s.fsn := rfl
@[simp] theorem State.setCore_cal (id : CoreId) (c : CoreSt) : (s.setCore id c).cal = s.cal := rfl
@[simp] theorem State.setCore_pair (id : CoreId) (c : CoreSt) : (s.setCore id c).pair = s.pair := rfl
@[simp] theorem State.setCore_nbb (id : CoreId) (c : CoreSt) : (s.setCore id c).nbb = s.nbb := rfl
@[simp] theorem State.setCore_hbx (id : CoreId) (c : CoreSt) : (s.setCore id c).hbx = s.hbx := rfl
@[simp] theorem State.setCore_enc (id : CoreId) (c : CoreSt) : (s.setCore id c).enc = s.enc := rfl
@[simp] theorem State.setCore_ply (id : CoreId) (c : CoreSt) : (s.setCore id c).ply = s.ply := rfl
@[simp] theorem State.setCore_can (id : CoreId) (c : CoreSt) : (s.setCore id c).can = s.can := rfl
@[simp] theorem State.setCore_lib (id : CoreId) (c : CoreSt) : (s.setCore id c).lib = s.lib := rfl
@[simp] theorem State.setCore_reel (id : CoreId) (c : CoreSt) : (s.setCore id c).reel = s.reel := rfl
@[simp] theorem State.setCore_upd (id : CoreId) (c : CoreSt) : (s.setCore id c).upd = s.upd := rfl
@[simp] theorem State.setCore_pnl (id : CoreId) (c : CoreSt) : (s.setCore id c).pnl = s.pnl := rfl
@[simp] theorem State.setCore_rd (id : CoreId) (c : CoreSt) (r0 : Nat) : (s.setCore id c).rd r0 = s.rd r0 := rfl
@[simp] theorem State.setCore_rdN (id : CoreId) (c : CoreSt) (r0 : Nat) : (s.setCore id c).rdN r0 = s.rdN r0 := rfl
@[simp] theorem State.setCore_bits (id : CoreId) (c : CoreSt) (r0 r1 r2 : Nat) : (s.setCore id c).bits r0 r1 r2 = s.bits r0 r1 r2 := rfl
@[simp] theorem State.setCore_bit (id : CoreId) (c : CoreSt) (r0 r1 : Nat) : (s.setCore id c).bit r0 r1 = s.bit r0 r1 := rfl
@[simp] theorem State.setCore_domOn (id : CoreId) (c : CoreSt) (r0 : Nat) : (s.setCore id c).domOn r0 = s.domOn r0 := rfl

/-! ### `setMramW` -/

@[simp] theorem State.setMramW_pending (o v : Nat) : (s.setMramW o v).pending = s.pending := rfl
@[simp] theorem State.setMramW_clk (o v : Nat) : (s.setMramW o v).clk = s.clk := rfl
@[simp] theorem State.setMramW_freeIdx (o v : Nat) : (s.setMramW o v).freeIdx = s.freeIdx := rfl
@[simp] theorem State.setMramW_inst (o v : Nat) : (s.setMramW o v).inst = s.inst := rfl
@[simp] theorem State.setMramW_resp (o v : Nat) : (s.setMramW o v).resp = s.resp := rfl
@[simp] theorem State.setMramW_out (o v : Nat) : (s.setMramW o v).out = s.out := rfl
@[simp] theorem State.setMramW_regs (o v : Nat) : (s.setMramW o v).regs = s.regs := rfl
@[simp] theorem State.setMramW_cores (o v : Nat) : (s.setMramW o v).cores = s.cores := rfl
@[simp] theorem State.setMramW_dram (o v : Nat) : (s.setMramW o v).dram = s.dram := rfl
@[simp] theorem State.setMramW_mram (o v : Nat) : (s.setMramW o v).mram = wrz s.mram o 4 v := rfl
@[simp] theorem State.setMramW_ao (o v : Nat) : (s.setMramW o v).ao = s.ao := rfl
@[simp] theorem State.setMramW_nor (o v : Nat) : (s.setMramW o v).nor = s.nor := rfl
@[simp] theorem State.setMramW_felt (o v : Nat) : (s.setMramW o v).felt = s.felt := rfl
@[simp] theorem State.setMramW_prs (o v : Nat) : (s.setMramW o v).prs = s.prs := rfl
@[simp] theorem State.setMramW_tim (o v : Nat) : (s.setMramW o v).tim = s.tim := rfl
@[simp] theorem State.setMramW_tnd (o v : Nat) : (s.setMramW o v).tnd = s.tnd := rfl
@[simp] theorem State.setMramW_dkl (o v : Nat) : (s.setMramW o v).dkl = s.dkl := rfl
@[simp] theorem State.setMramW_fsn (o v : Nat) : (s.setMramW o v).fsn = s.fsn := rfl
@[simp] theorem State.setMramW_cal (o v : Nat) : (s.setMramW o v).cal = s.cal := rfl
@[simp] theorem State.setMramW_pair (o v : Nat) : (s.setMramW o v).pair = s.pair := rfl
@[simp] theorem State.setMramW_nbb (o v : Nat) : (s.setMramW o v).nbb = s.nbb := rfl
@[simp] theorem State.setMramW_hbx (o v : Nat) : (s.setMramW o v).hbx = s.hbx := rfl
@[simp] theorem State.setMramW_enc (o v : Nat) : (s.setMramW o v).enc = s.enc := rfl
@[simp] theorem State.setMramW_ply (o v : Nat) : (s.setMramW o v).ply = s.ply := rfl
@[simp] theorem State.setMramW_can (o v : Nat) : (s.setMramW o v).can = s.can := rfl
@[simp] theorem State.setMramW_lib (o v : Nat) : (s.setMramW o v).lib = s.lib := rfl
@[simp] theorem State.setMramW_reel (o v : Nat) : (s.setMramW o v).reel = s.reel := rfl
@[simp] theorem State.setMramW_upd (o v : Nat) : (s.setMramW o v).upd = s.upd := rfl
@[simp] theorem State.setMramW_pnl (o v : Nat) : (s.setMramW o v).pnl = s.pnl := rfl
@[simp] theorem State.setMramW_rd (o v : Nat) (r0 : Nat) : (s.setMramW o v).rd r0 = s.rd r0 := rfl
@[simp] theorem State.setMramW_rdN (o v : Nat) (r0 : Nat) : (s.setMramW o v).rdN r0 = s.rdN r0 := rfl
@[simp] theorem State.setMramW_bits (o v : Nat) (r0 r1 r2 : Nat) : (s.setMramW o v).bits r0 r1 r2 = s.bits r0 r1 r2 := rfl
@[simp] theorem State.setMramW_bit (o v : Nat) (r0 r1 : Nat) : (s.setMramW o v).bit r0 r1 = s.bit r0 r1 := rfl
@[simp] theorem State.setMramW_domOn (o v : Nat) (r0 : Nat) : (s.setMramW o v).domOn r0 = s.domOn r0 := rfl
@[simp] theorem State.setMramW_core (o v : Nat) (q : CoreId) : (s.setMramW o v).core q = s.core q := rfl

/-! ### `setAoW` -/

@[simp] theorem State.setAoW_pending (o v : Nat) : (s.setAoW o v).pending = s.pending := rfl
@[simp] theorem State.setAoW_clk (o v : Nat) : (s.setAoW o v).clk = s.clk := rfl
@[simp] theorem State.setAoW_freeIdx (o v : Nat) : (s.setAoW o v).freeIdx = s.freeIdx := rfl
@[simp] theorem State.setAoW_inst (o v : Nat) : (s.setAoW o v).inst = s.inst := rfl
@[simp] theorem State.setAoW_resp (o v : Nat) : (s.setAoW o v).resp = s.resp := rfl
@[simp] theorem State.setAoW_out (o v : Nat) : (s.setAoW o v).out = s.out := rfl
@[simp] theorem State.setAoW_regs (o v : Nat) : (s.setAoW o v).regs = s.regs := rfl
@[simp] theorem State.setAoW_cores (o v : Nat) : (s.setAoW o v).cores = s.cores := rfl
@[simp] theorem State.setAoW_dram (o v : Nat) : (s.setAoW o v).dram = s.dram := rfl
@[simp] theorem State.setAoW_mram (o v : Nat) : (s.setAoW o v).mram = s.mram := rfl
@[simp] theorem State.setAoW_ao (o v : Nat) : (s.setAoW o v).ao = wrz s.ao o 4 v := rfl
@[simp] theorem State.setAoW_nor (o v : Nat) : (s.setAoW o v).nor = s.nor := rfl
@[simp] theorem State.setAoW_felt (o v : Nat) : (s.setAoW o v).felt = s.felt := rfl
@[simp] theorem State.setAoW_prs (o v : Nat) : (s.setAoW o v).prs = s.prs := rfl
@[simp] theorem State.setAoW_tim (o v : Nat) : (s.setAoW o v).tim = s.tim := rfl
@[simp] theorem State.setAoW_tnd (o v : Nat) : (s.setAoW o v).tnd = s.tnd := rfl
@[simp] theorem State.setAoW_dkl (o v : Nat) : (s.setAoW o v).dkl = s.dkl := rfl
@[simp] theorem State.setAoW_fsn (o v : Nat) : (s.setAoW o v).fsn = s.fsn := rfl
@[simp] theorem State.setAoW_cal (o v : Nat) : (s.setAoW o v).cal = s.cal := rfl
@[simp] theorem State.setAoW_pair (o v : Nat) : (s.setAoW o v).pair = s.pair := rfl
@[simp] theorem State.setAoW_nbb (o v : Nat) : (s.setAoW o v).nbb = s.nbb := rfl
@[simp] theorem State.setAoW_hbx (o v : Nat) : (s.setAoW o v).hbx = s.hbx := rfl
@[simp] theorem State.setAoW_enc (o v : Nat) : (s.setAoW o v).enc = s.enc := rfl
@[simp] theorem State.setAoW_ply (o v : Nat) : (s.setAoW o v).ply = s.ply := rfl
@[simp] theorem State.setAoW_can (o v : Nat) : (s.setAoW o v).can = s.can := rfl
@[simp] theorem State.setAoW_lib (o v : Nat) : (s.setAoW o v).lib = s.lib := rfl
@[simp] theorem State.setAoW_reel (o v : Nat) : (s.setAoW o v).reel = s.reel := rfl
@[simp] theorem State.setAoW_upd (o v : Nat) : (s.setAoW o v).upd = s.upd := rfl
@[simp] theorem State.setAoW_pnl (o v : Nat) : (s.setAoW o v).pnl = s.pnl := rfl
@[simp] theorem State.setAoW_rd (o v : Nat) (r0 : Nat) : (s.setAoW o v).rd r0 = s.rd r0 := rfl
@[simp] theorem State.setAoW_rdN (o v : Nat) (r0 : Nat) : (s.setAoW o v).rdN r0 = s.rdN r0 := rfl
@[simp] theorem State.setAoW_bits (o v : Nat) (r0 r1 r2 : Nat) : (s.setAoW o v).bits r0 r1 r2 = s.bits r0 r1 r2 := rfl
@[simp] theorem State.setAoW_bit (o v : Nat) (r0 r1 : Nat) : (s.setAoW o v).bit r0 r1 = s.bit r0 r1 := rfl
@[simp] theorem State.setAoW_domOn (o v : Nat) (r0 : Nat) : (s.setAoW o v).domOn r0 = s.domOn r0 := rfl
@[simp] theorem State.setAoW_core (o v : Nat) (q : CoreId) : (s.setAoW o v).core q = s.core q := rfl

/-! ### `setCan` -/

@[simp] theorem State.setCan_pending (n : Nat) (x : CanSt) : (s.setCan n x).pending = s.pending := rfl
@[simp] theorem State.setCan_clk (n : Nat) (x : CanSt) : (s.setCan n x).clk = s.clk := rfl
@[simp] theorem State.setCan_freeIdx (n : Nat) (x : CanSt) : (s.setCan n x).freeIdx = s.freeIdx := rfl
@[simp] theorem State.setCan_inst (n : Nat) (x : CanSt) : (s.setCan n x).inst = s.inst := rfl
@[simp] theorem State.setCan_resp (n : Nat) (x : CanSt) : (s.setCan n x).resp = s.resp := rfl
@[simp] theorem State.setCan_out (n : Nat) (x : CanSt) : (s.setCan n x).out = s.out := rfl
@[simp] theorem State.setCan_regs (n : Nat) (x : CanSt) : (s.setCan n x).regs = s.regs := rfl
@[simp] theorem State.setCan_cores (n : Nat) (x : CanSt) : (s.setCan n x).cores = s.cores := rfl
@[simp] theorem State.setCan_dram (n : Nat) (x : CanSt) : (s.setCan n x).dram = s.dram := rfl
@[simp] theorem State.setCan_mram (n : Nat) (x : CanSt) : (s.setCan n x).mram = s.mram := rfl
@[simp] theorem State.setCan_ao (n : Nat) (x : CanSt) : (s.setCan n x).ao = s.ao := rfl
@[simp] theorem State.setCan_nor (n : Nat) (x : CanSt) : (s.setCan n x).nor = s.nor := rfl
@[simp] theorem State.setCan_felt (n : Nat) (x : CanSt) : (s.setCan n x).felt = s.felt := rfl
@[simp] theorem State.setCan_prs (n : Nat) (x : CanSt) : (s.setCan n x).prs = s.prs := rfl
@[simp] theorem State.setCan_tim (n : Nat) (x : CanSt) : (s.setCan n x).tim = s.tim := rfl
@[simp] theorem State.setCan_tnd (n : Nat) (x : CanSt) : (s.setCan n x).tnd = s.tnd := rfl
@[simp] theorem State.setCan_dkl (n : Nat) (x : CanSt) : (s.setCan n x).dkl = s.dkl := rfl
@[simp] theorem State.setCan_fsn (n : Nat) (x : CanSt) : (s.setCan n x).fsn = s.fsn := rfl
@[simp] theorem State.setCan_cal (n : Nat) (x : CanSt) : (s.setCan n x).cal = s.cal := rfl
@[simp] theorem State.setCan_pair (n : Nat) (x : CanSt) : (s.setCan n x).pair = s.pair := rfl
@[simp] theorem State.setCan_nbb (n : Nat) (x : CanSt) : (s.setCan n x).nbb = s.nbb := rfl
@[simp] theorem State.setCan_hbx (n : Nat) (x : CanSt) : (s.setCan n x).hbx = s.hbx := rfl
@[simp] theorem State.setCan_enc (n : Nat) (x : CanSt) : (s.setCan n x).enc = s.enc := rfl
@[simp] theorem State.setCan_ply (n : Nat) (x : CanSt) : (s.setCan n x).ply = s.ply := rfl
@[simp] theorem State.setCan_can (n : Nat) (x : CanSt) : (s.setCan n x).can = sset (fun _ => canIdle) s.can n x := rfl
@[simp] theorem State.setCan_lib (n : Nat) (x : CanSt) : (s.setCan n x).lib = s.lib := rfl
@[simp] theorem State.setCan_reel (n : Nat) (x : CanSt) : (s.setCan n x).reel = s.reel := rfl
@[simp] theorem State.setCan_upd (n : Nat) (x : CanSt) : (s.setCan n x).upd = s.upd := rfl
@[simp] theorem State.setCan_pnl (n : Nat) (x : CanSt) : (s.setCan n x).pnl = s.pnl := rfl
@[simp] theorem State.setCan_rd (n : Nat) (x : CanSt) (r0 : Nat) : (s.setCan n x).rd r0 = s.rd r0 := rfl
@[simp] theorem State.setCan_rdN (n : Nat) (x : CanSt) (r0 : Nat) : (s.setCan n x).rdN r0 = s.rdN r0 := rfl
@[simp] theorem State.setCan_bits (n : Nat) (x : CanSt) (r0 r1 r2 : Nat) : (s.setCan n x).bits r0 r1 r2 = s.bits r0 r1 r2 := rfl
@[simp] theorem State.setCan_bit (n : Nat) (x : CanSt) (r0 r1 : Nat) : (s.setCan n x).bit r0 r1 = s.bit r0 r1 := rfl
@[simp] theorem State.setCan_domOn (n : Nat) (x : CanSt) (r0 : Nat) : (s.setCan n x).domOn r0 = s.domOn r0 := rfl
@[simp] theorem State.setCan_core (n : Nat) (x : CanSt) (q : CoreId) : (s.setCan n x).core q = s.core q := rfl

/-! ### `setEnc` -/

@[simp] theorem State.setEnc_pending (n : Nat) (x : EncIn) : (s.setEnc n x).pending = s.pending := rfl
@[simp] theorem State.setEnc_clk (n : Nat) (x : EncIn) : (s.setEnc n x).clk = s.clk := rfl
@[simp] theorem State.setEnc_freeIdx (n : Nat) (x : EncIn) : (s.setEnc n x).freeIdx = s.freeIdx := rfl
@[simp] theorem State.setEnc_inst (n : Nat) (x : EncIn) : (s.setEnc n x).inst = s.inst := rfl
@[simp] theorem State.setEnc_resp (n : Nat) (x : EncIn) : (s.setEnc n x).resp = s.resp := rfl
@[simp] theorem State.setEnc_out (n : Nat) (x : EncIn) : (s.setEnc n x).out = s.out := rfl
@[simp] theorem State.setEnc_regs (n : Nat) (x : EncIn) : (s.setEnc n x).regs = s.regs := rfl
@[simp] theorem State.setEnc_cores (n : Nat) (x : EncIn) : (s.setEnc n x).cores = s.cores := rfl
@[simp] theorem State.setEnc_dram (n : Nat) (x : EncIn) : (s.setEnc n x).dram = s.dram := rfl
@[simp] theorem State.setEnc_mram (n : Nat) (x : EncIn) : (s.setEnc n x).mram = s.mram := rfl
@[simp] theorem State.setEnc_ao (n : Nat) (x : EncIn) : (s.setEnc n x).ao = s.ao := rfl
@[simp] theorem State.setEnc_nor (n : Nat) (x : EncIn) : (s.setEnc n x).nor = s.nor := rfl
@[simp] theorem State.setEnc_felt (n : Nat) (x : EncIn) : (s.setEnc n x).felt = s.felt := rfl
@[simp] theorem State.setEnc_prs (n : Nat) (x : EncIn) : (s.setEnc n x).prs = s.prs := rfl
@[simp] theorem State.setEnc_tim (n : Nat) (x : EncIn) : (s.setEnc n x).tim = s.tim := rfl
@[simp] theorem State.setEnc_tnd (n : Nat) (x : EncIn) : (s.setEnc n x).tnd = s.tnd := rfl
@[simp] theorem State.setEnc_dkl (n : Nat) (x : EncIn) : (s.setEnc n x).dkl = s.dkl := rfl
@[simp] theorem State.setEnc_fsn (n : Nat) (x : EncIn) : (s.setEnc n x).fsn = s.fsn := rfl
@[simp] theorem State.setEnc_cal (n : Nat) (x : EncIn) : (s.setEnc n x).cal = s.cal := rfl
@[simp] theorem State.setEnc_pair (n : Nat) (x : EncIn) : (s.setEnc n x).pair = s.pair := rfl
@[simp] theorem State.setEnc_nbb (n : Nat) (x : EncIn) : (s.setEnc n x).nbb = s.nbb := rfl
@[simp] theorem State.setEnc_hbx (n : Nat) (x : EncIn) : (s.setEnc n x).hbx = s.hbx := rfl
@[simp] theorem State.setEnc_enc (n : Nat) (x : EncIn) : (s.setEnc n x).enc = sset (fun _ => encIdle) s.enc n x := rfl
@[simp] theorem State.setEnc_ply (n : Nat) (x : EncIn) : (s.setEnc n x).ply = s.ply := rfl
@[simp] theorem State.setEnc_can (n : Nat) (x : EncIn) : (s.setEnc n x).can = s.can := rfl
@[simp] theorem State.setEnc_lib (n : Nat) (x : EncIn) : (s.setEnc n x).lib = s.lib := rfl
@[simp] theorem State.setEnc_reel (n : Nat) (x : EncIn) : (s.setEnc n x).reel = s.reel := rfl
@[simp] theorem State.setEnc_upd (n : Nat) (x : EncIn) : (s.setEnc n x).upd = s.upd := rfl
@[simp] theorem State.setEnc_pnl (n : Nat) (x : EncIn) : (s.setEnc n x).pnl = s.pnl := rfl
@[simp] theorem State.setEnc_rd (n : Nat) (x : EncIn) (r0 : Nat) : (s.setEnc n x).rd r0 = s.rd r0 := rfl
@[simp] theorem State.setEnc_rdN (n : Nat) (x : EncIn) (r0 : Nat) : (s.setEnc n x).rdN r0 = s.rdN r0 := rfl
@[simp] theorem State.setEnc_bits (n : Nat) (x : EncIn) (r0 r1 r2 : Nat) : (s.setEnc n x).bits r0 r1 r2 = s.bits r0 r1 r2 := rfl
@[simp] theorem State.setEnc_bit (n : Nat) (x : EncIn) (r0 r1 : Nat) : (s.setEnc n x).bit r0 r1 = s.bit r0 r1 := rfl
@[simp] theorem State.setEnc_domOn (n : Nat) (x : EncIn) (r0 : Nat) : (s.setEnc n x).domOn r0 = s.domOn r0 := rfl
@[simp] theorem State.setEnc_core (n : Nat) (x : EncIn) (q : CoreId) : (s.setEnc n x).core q = s.core q := rfl

/-! ### `setPrsTx` -/

@[simp] theorem State.setPrsTx_pending (t c : Nat) (x : PrsTx) : (s.setPrsTx t c x).pending = s.pending := rfl
@[simp] theorem State.setPrsTx_clk (t c : Nat) (x : PrsTx) : (s.setPrsTx t c x).clk = s.clk := rfl
@[simp] theorem State.setPrsTx_freeIdx (t c : Nat) (x : PrsTx) : (s.setPrsTx t c x).freeIdx = s.freeIdx := rfl
@[simp] theorem State.setPrsTx_inst (t c : Nat) (x : PrsTx) : (s.setPrsTx t c x).inst = s.inst := rfl
@[simp] theorem State.setPrsTx_resp (t c : Nat) (x : PrsTx) : (s.setPrsTx t c x).resp = s.resp := rfl
@[simp] theorem State.setPrsTx_out (t c : Nat) (x : PrsTx) : (s.setPrsTx t c x).out = s.out := rfl
@[simp] theorem State.setPrsTx_regs (t c : Nat) (x : PrsTx) : (s.setPrsTx t c x).regs = s.regs := rfl
@[simp] theorem State.setPrsTx_cores (t c : Nat) (x : PrsTx) : (s.setPrsTx t c x).cores = s.cores := rfl
@[simp] theorem State.setPrsTx_dram (t c : Nat) (x : PrsTx) : (s.setPrsTx t c x).dram = s.dram := rfl
@[simp] theorem State.setPrsTx_mram (t c : Nat) (x : PrsTx) : (s.setPrsTx t c x).mram = s.mram := rfl
@[simp] theorem State.setPrsTx_ao (t c : Nat) (x : PrsTx) : (s.setPrsTx t c x).ao = s.ao := rfl
@[simp] theorem State.setPrsTx_nor (t c : Nat) (x : PrsTx) : (s.setPrsTx t c x).nor = s.nor := rfl
@[simp] theorem State.setPrsTx_felt (t c : Nat) (x : PrsTx) : (s.setPrsTx t c x).felt = s.felt := rfl
@[simp] theorem State.setPrsTx_prs (t c : Nat) (x : PrsTx) : (s.setPrsTx t c x).prs = { s.prs with tx := sset (fun _ => prsTxEmpty) s.prs.tx (32 * t + c) x } := rfl
@[simp] theorem State.setPrsTx_tim (t c : Nat) (x : PrsTx) : (s.setPrsTx t c x).tim = s.tim := rfl
@[simp] theorem State.setPrsTx_tnd (t c : Nat) (x : PrsTx) : (s.setPrsTx t c x).tnd = s.tnd := rfl
@[simp] theorem State.setPrsTx_dkl (t c : Nat) (x : PrsTx) : (s.setPrsTx t c x).dkl = s.dkl := rfl
@[simp] theorem State.setPrsTx_fsn (t c : Nat) (x : PrsTx) : (s.setPrsTx t c x).fsn = s.fsn := rfl
@[simp] theorem State.setPrsTx_cal (t c : Nat) (x : PrsTx) : (s.setPrsTx t c x).cal = s.cal := rfl
@[simp] theorem State.setPrsTx_pair (t c : Nat) (x : PrsTx) : (s.setPrsTx t c x).pair = s.pair := rfl
@[simp] theorem State.setPrsTx_nbb (t c : Nat) (x : PrsTx) : (s.setPrsTx t c x).nbb = s.nbb := rfl
@[simp] theorem State.setPrsTx_hbx (t c : Nat) (x : PrsTx) : (s.setPrsTx t c x).hbx = s.hbx := rfl
@[simp] theorem State.setPrsTx_enc (t c : Nat) (x : PrsTx) : (s.setPrsTx t c x).enc = s.enc := rfl
@[simp] theorem State.setPrsTx_ply (t c : Nat) (x : PrsTx) : (s.setPrsTx t c x).ply = s.ply := rfl
@[simp] theorem State.setPrsTx_can (t c : Nat) (x : PrsTx) : (s.setPrsTx t c x).can = s.can := rfl
@[simp] theorem State.setPrsTx_lib (t c : Nat) (x : PrsTx) : (s.setPrsTx t c x).lib = s.lib := rfl
@[simp] theorem State.setPrsTx_reel (t c : Nat) (x : PrsTx) : (s.setPrsTx t c x).reel = s.reel := rfl
@[simp] theorem State.setPrsTx_upd (t c : Nat) (x : PrsTx) : (s.setPrsTx t c x).upd = s.upd := rfl
@[simp] theorem State.setPrsTx_pnl (t c : Nat) (x : PrsTx) : (s.setPrsTx t c x).pnl = s.pnl := rfl
@[simp] theorem State.setPrsTx_rd (t c : Nat) (x : PrsTx) (r0 : Nat) : (s.setPrsTx t c x).rd r0 = s.rd r0 := rfl
@[simp] theorem State.setPrsTx_rdN (t c : Nat) (x : PrsTx) (r0 : Nat) : (s.setPrsTx t c x).rdN r0 = s.rdN r0 := rfl
@[simp] theorem State.setPrsTx_bits (t c : Nat) (x : PrsTx) (r0 r1 r2 : Nat) : (s.setPrsTx t c x).bits r0 r1 r2 = s.bits r0 r1 r2 := rfl
@[simp] theorem State.setPrsTx_bit (t c : Nat) (x : PrsTx) (r0 r1 : Nat) : (s.setPrsTx t c x).bit r0 r1 = s.bit r0 r1 := rfl
@[simp] theorem State.setPrsTx_domOn (t c : Nat) (x : PrsTx) (r0 : Nat) : (s.setPrsTx t c x).domOn r0 = s.domOn r0 := rfl
@[simp] theorem State.setPrsTx_core (t c : Nat) (x : PrsTx) (q : CoreId) : (s.setPrsTx t c x).core q = s.core q := rfl

/-! ### `setLane` -/

@[simp] theorem State.setLane_pending (t l : Nat) (x : LaneSt) : (s.setLane t l x).pending = s.pending := rfl
@[simp] theorem State.setLane_clk (t l : Nat) (x : LaneSt) : (s.setLane t l x).clk = s.clk := rfl
@[simp] theorem State.setLane_freeIdx (t l : Nat) (x : LaneSt) : (s.setLane t l x).freeIdx = s.freeIdx := rfl
@[simp] theorem State.setLane_inst (t l : Nat) (x : LaneSt) : (s.setLane t l x).inst = s.inst := rfl
@[simp] theorem State.setLane_resp (t l : Nat) (x : LaneSt) : (s.setLane t l x).resp = s.resp := rfl
@[simp] theorem State.setLane_out (t l : Nat) (x : LaneSt) : (s.setLane t l x).out = s.out := rfl
@[simp] theorem State.setLane_regs (t l : Nat) (x : LaneSt) : (s.setLane t l x).regs = s.regs := rfl
@[simp] theorem State.setLane_cores (t l : Nat) (x : LaneSt) : (s.setLane t l x).cores = s.cores := rfl
@[simp] theorem State.setLane_dram (t l : Nat) (x : LaneSt) : (s.setLane t l x).dram = s.dram := rfl
@[simp] theorem State.setLane_mram (t l : Nat) (x : LaneSt) : (s.setLane t l x).mram = s.mram := rfl
@[simp] theorem State.setLane_ao (t l : Nat) (x : LaneSt) : (s.setLane t l x).ao = s.ao := rfl
@[simp] theorem State.setLane_nor (t l : Nat) (x : LaneSt) : (s.setLane t l x).nor = s.nor := rfl
@[simp] theorem State.setLane_felt (t l : Nat) (x : LaneSt) : (s.setLane t l x).felt = s.felt := rfl
@[simp] theorem State.setLane_prs (t l : Nat) (x : LaneSt) : (s.setLane t l x).prs = { s.prs with lane := sset (fun _ => laneIdle) s.prs.lane (8 * t + l) x } := rfl
@[simp] theorem State.setLane_tim (t l : Nat) (x : LaneSt) : (s.setLane t l x).tim = s.tim := rfl
@[simp] theorem State.setLane_tnd (t l : Nat) (x : LaneSt) : (s.setLane t l x).tnd = s.tnd := rfl
@[simp] theorem State.setLane_dkl (t l : Nat) (x : LaneSt) : (s.setLane t l x).dkl = s.dkl := rfl
@[simp] theorem State.setLane_fsn (t l : Nat) (x : LaneSt) : (s.setLane t l x).fsn = s.fsn := rfl
@[simp] theorem State.setLane_cal (t l : Nat) (x : LaneSt) : (s.setLane t l x).cal = s.cal := rfl
@[simp] theorem State.setLane_pair (t l : Nat) (x : LaneSt) : (s.setLane t l x).pair = s.pair := rfl
@[simp] theorem State.setLane_nbb (t l : Nat) (x : LaneSt) : (s.setLane t l x).nbb = s.nbb := rfl
@[simp] theorem State.setLane_hbx (t l : Nat) (x : LaneSt) : (s.setLane t l x).hbx = s.hbx := rfl
@[simp] theorem State.setLane_enc (t l : Nat) (x : LaneSt) : (s.setLane t l x).enc = s.enc := rfl
@[simp] theorem State.setLane_ply (t l : Nat) (x : LaneSt) : (s.setLane t l x).ply = s.ply := rfl
@[simp] theorem State.setLane_can (t l : Nat) (x : LaneSt) : (s.setLane t l x).can = s.can := rfl
@[simp] theorem State.setLane_lib (t l : Nat) (x : LaneSt) : (s.setLane t l x).lib = s.lib := rfl
@[simp] theorem State.setLane_reel (t l : Nat) (x : LaneSt) : (s.setLane t l x).reel = s.reel := rfl
@[simp] theorem State.setLane_upd (t l : Nat) (x : LaneSt) : (s.setLane t l x).upd = s.upd := rfl
@[simp] theorem State.setLane_pnl (t l : Nat) (x : LaneSt) : (s.setLane t l x).pnl = s.pnl := rfl
@[simp] theorem State.setLane_rd (t l : Nat) (x : LaneSt) (r0 : Nat) : (s.setLane t l x).rd r0 = s.rd r0 := rfl
@[simp] theorem State.setLane_rdN (t l : Nat) (x : LaneSt) (r0 : Nat) : (s.setLane t l x).rdN r0 = s.rdN r0 := rfl
@[simp] theorem State.setLane_bits (t l : Nat) (x : LaneSt) (r0 r1 r2 : Nat) : (s.setLane t l x).bits r0 r1 r2 = s.bits r0 r1 r2 := rfl
@[simp] theorem State.setLane_bit (t l : Nat) (x : LaneSt) (r0 r1 : Nat) : (s.setLane t l x).bit r0 r1 = s.bit r0 r1 := rfl
@[simp] theorem State.setLane_domOn (t l : Nat) (x : LaneSt) (r0 : Nat) : (s.setLane t l x).domOn r0 = s.domOn r0 := rfl
@[simp] theorem State.setLane_core (t l : Nat) (x : LaneSt) (q : CoreId) : (s.setLane t l x).core q = s.core q := rfl

/-! ### `setBox` -/

@[simp] theorem State.setBox_pending (t m : Nat) (x : PrsBox) : (s.setBox t m x).pending = s.pending := rfl
@[simp] theorem State.setBox_clk (t m : Nat) (x : PrsBox) : (s.setBox t m x).clk = s.clk := rfl
@[simp] theorem State.setBox_freeIdx (t m : Nat) (x : PrsBox) : (s.setBox t m x).freeIdx = s.freeIdx := rfl
@[simp] theorem State.setBox_inst (t m : Nat) (x : PrsBox) : (s.setBox t m x).inst = s.inst := rfl
@[simp] theorem State.setBox_resp (t m : Nat) (x : PrsBox) : (s.setBox t m x).resp = s.resp := rfl
@[simp] theorem State.setBox_out (t m : Nat) (x : PrsBox) : (s.setBox t m x).out = s.out := rfl
@[simp] theorem State.setBox_regs (t m : Nat) (x : PrsBox) : (s.setBox t m x).regs = s.regs := rfl
@[simp] theorem State.setBox_cores (t m : Nat) (x : PrsBox) : (s.setBox t m x).cores = s.cores := rfl
@[simp] theorem State.setBox_dram (t m : Nat) (x : PrsBox) : (s.setBox t m x).dram = s.dram := rfl
@[simp] theorem State.setBox_mram (t m : Nat) (x : PrsBox) : (s.setBox t m x).mram = s.mram := rfl
@[simp] theorem State.setBox_ao (t m : Nat) (x : PrsBox) : (s.setBox t m x).ao = s.ao := rfl
@[simp] theorem State.setBox_nor (t m : Nat) (x : PrsBox) : (s.setBox t m x).nor = s.nor := rfl
@[simp] theorem State.setBox_felt (t m : Nat) (x : PrsBox) : (s.setBox t m x).felt = s.felt := rfl
@[simp] theorem State.setBox_prs (t m : Nat) (x : PrsBox) : (s.setBox t m x).prs = { s.prs with box := sset (fun _ => prsBoxEmpty) s.prs.box (32 * t + m) x } := rfl
@[simp] theorem State.setBox_tim (t m : Nat) (x : PrsBox) : (s.setBox t m x).tim = s.tim := rfl
@[simp] theorem State.setBox_tnd (t m : Nat) (x : PrsBox) : (s.setBox t m x).tnd = s.tnd := rfl
@[simp] theorem State.setBox_dkl (t m : Nat) (x : PrsBox) : (s.setBox t m x).dkl = s.dkl := rfl
@[simp] theorem State.setBox_fsn (t m : Nat) (x : PrsBox) : (s.setBox t m x).fsn = s.fsn := rfl
@[simp] theorem State.setBox_cal (t m : Nat) (x : PrsBox) : (s.setBox t m x).cal = s.cal := rfl
@[simp] theorem State.setBox_pair (t m : Nat) (x : PrsBox) : (s.setBox t m x).pair = s.pair := rfl
@[simp] theorem State.setBox_nbb (t m : Nat) (x : PrsBox) : (s.setBox t m x).nbb = s.nbb := rfl
@[simp] theorem State.setBox_hbx (t m : Nat) (x : PrsBox) : (s.setBox t m x).hbx = s.hbx := rfl
@[simp] theorem State.setBox_enc (t m : Nat) (x : PrsBox) : (s.setBox t m x).enc = s.enc := rfl
@[simp] theorem State.setBox_ply (t m : Nat) (x : PrsBox) : (s.setBox t m x).ply = s.ply := rfl
@[simp] theorem State.setBox_can (t m : Nat) (x : PrsBox) : (s.setBox t m x).can = s.can := rfl
@[simp] theorem State.setBox_lib (t m : Nat) (x : PrsBox) : (s.setBox t m x).lib = s.lib := rfl
@[simp] theorem State.setBox_reel (t m : Nat) (x : PrsBox) : (s.setBox t m x).reel = s.reel := rfl
@[simp] theorem State.setBox_upd (t m : Nat) (x : PrsBox) : (s.setBox t m x).upd = s.upd := rfl
@[simp] theorem State.setBox_pnl (t m : Nat) (x : PrsBox) : (s.setBox t m x).pnl = s.pnl := rfl
@[simp] theorem State.setBox_rd (t m : Nat) (x : PrsBox) (r0 : Nat) : (s.setBox t m x).rd r0 = s.rd r0 := rfl
@[simp] theorem State.setBox_rdN (t m : Nat) (x : PrsBox) (r0 : Nat) : (s.setBox t m x).rdN r0 = s.rdN r0 := rfl
@[simp] theorem State.setBox_bits (t m : Nat) (x : PrsBox) (r0 r1 r2 : Nat) : (s.setBox t m x).bits r0 r1 r2 = s.bits r0 r1 r2 := rfl
@[simp] theorem State.setBox_bit (t m : Nat) (x : PrsBox) (r0 r1 : Nat) : (s.setBox t m x).bit r0 r1 = s.bit r0 r1 := rfl
@[simp] theorem State.setBox_domOn (t m : Nat) (x : PrsBox) (r0 : Nat) : (s.setBox t m x).domOn r0 = s.domOn r0 := rfl
@[simp] theorem State.setBox_core (t m : Nat) (x : PrsBox) (q : CoreId) : (s.setBox t m x).core q = s.core q := rfl

/-! ### `modTim` -/

@[simp] theorem State.modTim_pending (f : TimSt → TimSt) : (s.modTim f).pending = s.pending := rfl
@[simp] theorem State.modTim_clk (f : TimSt → TimSt) : (s.modTim f).clk = s.clk := rfl
@[simp] theorem State.modTim_freeIdx (f : TimSt → TimSt) : (s.modTim f).freeIdx = s.freeIdx := rfl
@[simp] theorem State.modTim_inst (f : TimSt → TimSt) : (s.modTim f).inst = s.inst := rfl
@[simp] theorem State.modTim_resp (f : TimSt → TimSt) : (s.modTim f).resp = s.resp := rfl
@[simp] theorem State.modTim_out (f : TimSt → TimSt) : (s.modTim f).out = s.out := rfl
@[simp] theorem State.modTim_regs (f : TimSt → TimSt) : (s.modTim f).regs = s.regs := rfl
@[simp] theorem State.modTim_cores (f : TimSt → TimSt) : (s.modTim f).cores = s.cores := rfl
@[simp] theorem State.modTim_dram (f : TimSt → TimSt) : (s.modTim f).dram = s.dram := rfl
@[simp] theorem State.modTim_mram (f : TimSt → TimSt) : (s.modTim f).mram = s.mram := rfl
@[simp] theorem State.modTim_ao (f : TimSt → TimSt) : (s.modTim f).ao = s.ao := rfl
@[simp] theorem State.modTim_nor (f : TimSt → TimSt) : (s.modTim f).nor = s.nor := rfl
@[simp] theorem State.modTim_felt (f : TimSt → TimSt) : (s.modTim f).felt = s.felt := rfl
@[simp] theorem State.modTim_prs (f : TimSt → TimSt) : (s.modTim f).prs = s.prs := rfl
@[simp] theorem State.modTim_tim (f : TimSt → TimSt) : (s.modTim f).tim = f s.tim := rfl
@[simp] theorem State.modTim_tnd (f : TimSt → TimSt) : (s.modTim f).tnd = s.tnd := rfl
@[simp] theorem State.modTim_dkl (f : TimSt → TimSt) : (s.modTim f).dkl = s.dkl := rfl
@[simp] theorem State.modTim_fsn (f : TimSt → TimSt) : (s.modTim f).fsn = s.fsn := rfl
@[simp] theorem State.modTim_cal (f : TimSt → TimSt) : (s.modTim f).cal = s.cal := rfl
@[simp] theorem State.modTim_pair (f : TimSt → TimSt) : (s.modTim f).pair = s.pair := rfl
@[simp] theorem State.modTim_nbb (f : TimSt → TimSt) : (s.modTim f).nbb = s.nbb := rfl
@[simp] theorem State.modTim_hbx (f : TimSt → TimSt) : (s.modTim f).hbx = s.hbx := rfl
@[simp] theorem State.modTim_enc (f : TimSt → TimSt) : (s.modTim f).enc = s.enc := rfl
@[simp] theorem State.modTim_ply (f : TimSt → TimSt) : (s.modTim f).ply = s.ply := rfl
@[simp] theorem State.modTim_can (f : TimSt → TimSt) : (s.modTim f).can = s.can := rfl
@[simp] theorem State.modTim_lib (f : TimSt → TimSt) : (s.modTim f).lib = s.lib := rfl
@[simp] theorem State.modTim_reel (f : TimSt → TimSt) : (s.modTim f).reel = s.reel := rfl
@[simp] theorem State.modTim_upd (f : TimSt → TimSt) : (s.modTim f).upd = s.upd := rfl
@[simp] theorem State.modTim_pnl (f : TimSt → TimSt) : (s.modTim f).pnl = s.pnl := rfl
@[simp] theorem State.modTim_rd (f : TimSt → TimSt) (r0 : Nat) : (s.modTim f).rd r0 = s.rd r0 := rfl
@[simp] theorem State.modTim_rdN (f : TimSt → TimSt) (r0 : Nat) : (s.modTim f).rdN r0 = s.rdN r0 := rfl
@[simp] theorem State.modTim_bits (f : TimSt → TimSt) (r0 r1 r2 : Nat) : (s.modTim f).bits r0 r1 r2 = s.bits r0 r1 r2 := rfl
@[simp] theorem State.modTim_bit (f : TimSt → TimSt) (r0 r1 : Nat) : (s.modTim f).bit r0 r1 = s.bit r0 r1 := rfl
@[simp] theorem State.modTim_domOn (f : TimSt → TimSt) (r0 : Nat) : (s.modTim f).domOn r0 = s.domOn r0 := rfl
@[simp] theorem State.modTim_core (f : TimSt → TimSt) (q : CoreId) : (s.modTim f).core q = s.core q := rfl

/-! ### `modTnd` -/

@[simp] theorem State.modTnd_pending (f : TndSt → TndSt) : (s.modTnd f).pending = s.pending := rfl
@[simp] theorem State.modTnd_clk (f : TndSt → TndSt) : (s.modTnd f).clk = s.clk := rfl
@[simp] theorem State.modTnd_freeIdx (f : TndSt → TndSt) : (s.modTnd f).freeIdx = s.freeIdx := rfl
@[simp] theorem State.modTnd_inst (f : TndSt → TndSt) : (s.modTnd f).inst = s.inst := rfl
@[simp] theorem State.modTnd_resp (f : TndSt → TndSt) : (s.modTnd f).resp = s.resp := rfl
@[simp] theorem State.modTnd_out (f : TndSt → TndSt) : (s.modTnd f).out = s.out := rfl
@[simp] theorem State.modTnd_regs (f : TndSt → TndSt) : (s.modTnd f).regs = s.regs := rfl
@[simp] theorem State.modTnd_cores (f : TndSt → TndSt) : (s.modTnd f).cores = s.cores := rfl
@[simp] theorem State.modTnd_dram (f : TndSt → TndSt) : (s.modTnd f).dram = s.dram := rfl
@[simp] theorem State.modTnd_mram (f : TndSt → TndSt) : (s.modTnd f).mram = s.mram := rfl
@[simp] theorem State.modTnd_ao (f : TndSt → TndSt) : (s.modTnd f).ao = s.ao := rfl
@[simp] theorem State.modTnd_nor (f : TndSt → TndSt) : (s.modTnd f).nor = s.nor := rfl
@[simp] theorem State.modTnd_felt (f : TndSt → TndSt) : (s.modTnd f).felt = s.felt := rfl
@[simp] theorem State.modTnd_prs (f : TndSt → TndSt) : (s.modTnd f).prs = s.prs := rfl
@[simp] theorem State.modTnd_tim (f : TndSt → TndSt) : (s.modTnd f).tim = s.tim := rfl
@[simp] theorem State.modTnd_tnd (f : TndSt → TndSt) : (s.modTnd f).tnd = f s.tnd := rfl
@[simp] theorem State.modTnd_dkl (f : TndSt → TndSt) : (s.modTnd f).dkl = s.dkl := rfl
@[simp] theorem State.modTnd_fsn (f : TndSt → TndSt) : (s.modTnd f).fsn = s.fsn := rfl
@[simp] theorem State.modTnd_cal (f : TndSt → TndSt) : (s.modTnd f).cal = s.cal := rfl
@[simp] theorem State.modTnd_pair (f : TndSt → TndSt) : (s.modTnd f).pair = s.pair := rfl
@[simp] theorem State.modTnd_nbb (f : TndSt → TndSt) : (s.modTnd f).nbb = s.nbb := rfl
@[simp] theorem State.modTnd_hbx (f : TndSt → TndSt) : (s.modTnd f).hbx = s.hbx := rfl
@[simp] theorem State.modTnd_enc (f : TndSt → TndSt) : (s.modTnd f).enc = s.enc := rfl
@[simp] theorem State.modTnd_ply (f : TndSt → TndSt) : (s.modTnd f).ply = s.ply := rfl
@[simp] theorem State.modTnd_can (f : TndSt → TndSt) : (s.modTnd f).can = s.can := rfl
@[simp] theorem State.modTnd_lib (f : TndSt → TndSt) : (s.modTnd f).lib = s.lib := rfl
@[simp] theorem State.modTnd_reel (f : TndSt → TndSt) : (s.modTnd f).reel = s.reel := rfl
@[simp] theorem State.modTnd_upd (f : TndSt → TndSt) : (s.modTnd f).upd = s.upd := rfl
@[simp] theorem State.modTnd_pnl (f : TndSt → TndSt) : (s.modTnd f).pnl = s.pnl := rfl
@[simp] theorem State.modTnd_rd (f : TndSt → TndSt) (r0 : Nat) : (s.modTnd f).rd r0 = s.rd r0 := rfl
@[simp] theorem State.modTnd_rdN (f : TndSt → TndSt) (r0 : Nat) : (s.modTnd f).rdN r0 = s.rdN r0 := rfl
@[simp] theorem State.modTnd_bits (f : TndSt → TndSt) (r0 r1 r2 : Nat) : (s.modTnd f).bits r0 r1 r2 = s.bits r0 r1 r2 := rfl
@[simp] theorem State.modTnd_bit (f : TndSt → TndSt) (r0 r1 : Nat) : (s.modTnd f).bit r0 r1 = s.bit r0 r1 := rfl
@[simp] theorem State.modTnd_domOn (f : TndSt → TndSt) (r0 : Nat) : (s.modTnd f).domOn r0 = s.domOn r0 := rfl
@[simp] theorem State.modTnd_core (f : TndSt → TndSt) (q : CoreId) : (s.modTnd f).core q = s.core q := rfl

/-! ### `modCal` -/

@[simp] theorem State.modCal_pending (f : CalSt → CalSt) : (s.modCal f).pending = s.pending := rfl
@[simp] theorem State.modCal_clk (f : CalSt → CalSt) : (s.modCal f).clk = s.clk := rfl
@[simp] theorem State.modCal_freeIdx (f : CalSt → CalSt) : (s.modCal f).freeIdx = s.freeIdx := rfl
@[simp] theorem State.modCal_inst (f : CalSt → CalSt) : (s.modCal f).inst = s.inst := rfl
@[simp] theorem State.modCal_resp (f : CalSt → CalSt) : (s.modCal f).resp = s.resp := rfl
@[simp] theorem State.modCal_out (f : CalSt → CalSt) : (s.modCal f).out = s.out := rfl
@[simp] theorem State.modCal_regs (f : CalSt → CalSt) : (s.modCal f).regs = s.regs := rfl
@[simp] theorem State.modCal_cores (f : CalSt → CalSt) : (s.modCal f).cores = s.cores := rfl
@[simp] theorem State.modCal_dram (f : CalSt → CalSt) : (s.modCal f).dram = s.dram := rfl
@[simp] theorem State.modCal_mram (f : CalSt → CalSt) : (s.modCal f).mram = s.mram := rfl
@[simp] theorem State.modCal_ao (f : CalSt → CalSt) : (s.modCal f).ao = s.ao := rfl
@[simp] theorem State.modCal_nor (f : CalSt → CalSt) : (s.modCal f).nor = s.nor := rfl
@[simp] theorem State.modCal_felt (f : CalSt → CalSt) : (s.modCal f).felt = s.felt := rfl
@[simp] theorem State.modCal_prs (f : CalSt → CalSt) : (s.modCal f).prs = s.prs := rfl
@[simp] theorem State.modCal_tim (f : CalSt → CalSt) : (s.modCal f).tim = s.tim := rfl
@[simp] theorem State.modCal_tnd (f : CalSt → CalSt) : (s.modCal f).tnd = s.tnd := rfl
@[simp] theorem State.modCal_dkl (f : CalSt → CalSt) : (s.modCal f).dkl = s.dkl := rfl
@[simp] theorem State.modCal_fsn (f : CalSt → CalSt) : (s.modCal f).fsn = s.fsn := rfl
@[simp] theorem State.modCal_cal (f : CalSt → CalSt) : (s.modCal f).cal = f s.cal := rfl
@[simp] theorem State.modCal_pair (f : CalSt → CalSt) : (s.modCal f).pair = s.pair := rfl
@[simp] theorem State.modCal_nbb (f : CalSt → CalSt) : (s.modCal f).nbb = s.nbb := rfl
@[simp] theorem State.modCal_hbx (f : CalSt → CalSt) : (s.modCal f).hbx = s.hbx := rfl
@[simp] theorem State.modCal_enc (f : CalSt → CalSt) : (s.modCal f).enc = s.enc := rfl
@[simp] theorem State.modCal_ply (f : CalSt → CalSt) : (s.modCal f).ply = s.ply := rfl
@[simp] theorem State.modCal_can (f : CalSt → CalSt) : (s.modCal f).can = s.can := rfl
@[simp] theorem State.modCal_lib (f : CalSt → CalSt) : (s.modCal f).lib = s.lib := rfl
@[simp] theorem State.modCal_reel (f : CalSt → CalSt) : (s.modCal f).reel = s.reel := rfl
@[simp] theorem State.modCal_upd (f : CalSt → CalSt) : (s.modCal f).upd = s.upd := rfl
@[simp] theorem State.modCal_pnl (f : CalSt → CalSt) : (s.modCal f).pnl = s.pnl := rfl
@[simp] theorem State.modCal_rd (f : CalSt → CalSt) (r0 : Nat) : (s.modCal f).rd r0 = s.rd r0 := rfl
@[simp] theorem State.modCal_rdN (f : CalSt → CalSt) (r0 : Nat) : (s.modCal f).rdN r0 = s.rdN r0 := rfl
@[simp] theorem State.modCal_bits (f : CalSt → CalSt) (r0 r1 r2 : Nat) : (s.modCal f).bits r0 r1 r2 = s.bits r0 r1 r2 := rfl
@[simp] theorem State.modCal_bit (f : CalSt → CalSt) (r0 r1 : Nat) : (s.modCal f).bit r0 r1 = s.bit r0 r1 := rfl
@[simp] theorem State.modCal_domOn (f : CalSt → CalSt) (r0 : Nat) : (s.modCal f).domOn r0 = s.domOn r0 := rfl
@[simp] theorem State.modCal_core (f : CalSt → CalSt) (q : CoreId) : (s.modCal f).core q = s.core q := rfl

/-! ### `modDkl` -/

@[simp] theorem State.modDkl_pending (f : DklSt → DklSt) : (s.modDkl f).pending = s.pending := rfl
@[simp] theorem State.modDkl_clk (f : DklSt → DklSt) : (s.modDkl f).clk = s.clk := rfl
@[simp] theorem State.modDkl_freeIdx (f : DklSt → DklSt) : (s.modDkl f).freeIdx = s.freeIdx := rfl
@[simp] theorem State.modDkl_inst (f : DklSt → DklSt) : (s.modDkl f).inst = s.inst := rfl
@[simp] theorem State.modDkl_resp (f : DklSt → DklSt) : (s.modDkl f).resp = s.resp := rfl
@[simp] theorem State.modDkl_out (f : DklSt → DklSt) : (s.modDkl f).out = s.out := rfl
@[simp] theorem State.modDkl_regs (f : DklSt → DklSt) : (s.modDkl f).regs = s.regs := rfl
@[simp] theorem State.modDkl_cores (f : DklSt → DklSt) : (s.modDkl f).cores = s.cores := rfl
@[simp] theorem State.modDkl_dram (f : DklSt → DklSt) : (s.modDkl f).dram = s.dram := rfl
@[simp] theorem State.modDkl_mram (f : DklSt → DklSt) : (s.modDkl f).mram = s.mram := rfl
@[simp] theorem State.modDkl_ao (f : DklSt → DklSt) : (s.modDkl f).ao = s.ao := rfl
@[simp] theorem State.modDkl_nor (f : DklSt → DklSt) : (s.modDkl f).nor = s.nor := rfl
@[simp] theorem State.modDkl_felt (f : DklSt → DklSt) : (s.modDkl f).felt = s.felt := rfl
@[simp] theorem State.modDkl_prs (f : DklSt → DklSt) : (s.modDkl f).prs = s.prs := rfl
@[simp] theorem State.modDkl_tim (f : DklSt → DklSt) : (s.modDkl f).tim = s.tim := rfl
@[simp] theorem State.modDkl_tnd (f : DklSt → DklSt) : (s.modDkl f).tnd = s.tnd := rfl
@[simp] theorem State.modDkl_dkl (f : DklSt → DklSt) : (s.modDkl f).dkl = f s.dkl := rfl
@[simp] theorem State.modDkl_fsn (f : DklSt → DklSt) : (s.modDkl f).fsn = s.fsn := rfl
@[simp] theorem State.modDkl_cal (f : DklSt → DklSt) : (s.modDkl f).cal = s.cal := rfl
@[simp] theorem State.modDkl_pair (f : DklSt → DklSt) : (s.modDkl f).pair = s.pair := rfl
@[simp] theorem State.modDkl_nbb (f : DklSt → DklSt) : (s.modDkl f).nbb = s.nbb := rfl
@[simp] theorem State.modDkl_hbx (f : DklSt → DklSt) : (s.modDkl f).hbx = s.hbx := rfl
@[simp] theorem State.modDkl_enc (f : DklSt → DklSt) : (s.modDkl f).enc = s.enc := rfl
@[simp] theorem State.modDkl_ply (f : DklSt → DklSt) : (s.modDkl f).ply = s.ply := rfl
@[simp] theorem State.modDkl_can (f : DklSt → DklSt) : (s.modDkl f).can = s.can := rfl
@[simp] theorem State.modDkl_lib (f : DklSt → DklSt) : (s.modDkl f).lib = s.lib := rfl
@[simp] theorem State.modDkl_reel (f : DklSt → DklSt) : (s.modDkl f).reel = s.reel := rfl
@[simp] theorem State.modDkl_upd (f : DklSt → DklSt) : (s.modDkl f).upd = s.upd := rfl
@[simp] theorem State.modDkl_pnl (f : DklSt → DklSt) : (s.modDkl f).pnl = s.pnl := rfl
@[simp] theorem State.modDkl_rd (f : DklSt → DklSt) (r0 : Nat) : (s.modDkl f).rd r0 = s.rd r0 := rfl
@[simp] theorem State.modDkl_rdN (f : DklSt → DklSt) (r0 : Nat) : (s.modDkl f).rdN r0 = s.rdN r0 := rfl
@[simp] theorem State.modDkl_bits (f : DklSt → DklSt) (r0 r1 r2 : Nat) : (s.modDkl f).bits r0 r1 r2 = s.bits r0 r1 r2 := rfl
@[simp] theorem State.modDkl_bit (f : DklSt → DklSt) (r0 r1 : Nat) : (s.modDkl f).bit r0 r1 = s.bit r0 r1 := rfl
@[simp] theorem State.modDkl_domOn (f : DklSt → DklSt) (r0 : Nat) : (s.modDkl f).domOn r0 = s.domOn r0 := rfl
@[simp] theorem State.modDkl_core (f : DklSt → DklSt) (q : CoreId) : (s.modDkl f).core q = s.core q := rfl

/-! ### `modFsn` -/

@[simp] theorem State.modFsn_pending (f : FsnSt → FsnSt) : (s.modFsn f).pending = s.pending := rfl
@[simp] theorem State.modFsn_clk (f : FsnSt → FsnSt) : (s.modFsn f).clk = s.clk := rfl
@[simp] theorem State.modFsn_freeIdx (f : FsnSt → FsnSt) : (s.modFsn f).freeIdx = s.freeIdx := rfl
@[simp] theorem State.modFsn_inst (f : FsnSt → FsnSt) : (s.modFsn f).inst = s.inst := rfl
@[simp] theorem State.modFsn_resp (f : FsnSt → FsnSt) : (s.modFsn f).resp = s.resp := rfl
@[simp] theorem State.modFsn_out (f : FsnSt → FsnSt) : (s.modFsn f).out = s.out := rfl
@[simp] theorem State.modFsn_regs (f : FsnSt → FsnSt) : (s.modFsn f).regs = s.regs := rfl
@[simp] theorem State.modFsn_cores (f : FsnSt → FsnSt) : (s.modFsn f).cores = s.cores := rfl
@[simp] theorem State.modFsn_dram (f : FsnSt → FsnSt) : (s.modFsn f).dram = s.dram := rfl
@[simp] theorem State.modFsn_mram (f : FsnSt → FsnSt) : (s.modFsn f).mram = s.mram := rfl
@[simp] theorem State.modFsn_ao (f : FsnSt → FsnSt) : (s.modFsn f).ao = s.ao := rfl
@[simp] theorem State.modFsn_nor (f : FsnSt → FsnSt) : (s.modFsn f).nor = s.nor := rfl
@[simp] theorem State.modFsn_felt (f : FsnSt → FsnSt) : (s.modFsn f).felt = s.felt := rfl
@[simp] theorem State.modFsn_prs (f : FsnSt → FsnSt) : (s.modFsn f).prs = s.prs := rfl
@[simp] theorem State.modFsn_tim (f : FsnSt → FsnSt) : (s.modFsn f).tim = s.tim := rfl
@[simp] theorem State.modFsn_tnd (f : FsnSt → FsnSt) : (s.modFsn f).tnd = s.tnd := rfl
@[simp] theorem State.modFsn_dkl (f : FsnSt → FsnSt) : (s.modFsn f).dkl = s.dkl := rfl
@[simp] theorem State.modFsn_fsn (f : FsnSt → FsnSt) : (s.modFsn f).fsn = f s.fsn := rfl
@[simp] theorem State.modFsn_cal (f : FsnSt → FsnSt) : (s.modFsn f).cal = s.cal := rfl
@[simp] theorem State.modFsn_pair (f : FsnSt → FsnSt) : (s.modFsn f).pair = s.pair := rfl
@[simp] theorem State.modFsn_nbb (f : FsnSt → FsnSt) : (s.modFsn f).nbb = s.nbb := rfl
@[simp] theorem State.modFsn_hbx (f : FsnSt → FsnSt) : (s.modFsn f).hbx = s.hbx := rfl
@[simp] theorem State.modFsn_enc (f : FsnSt → FsnSt) : (s.modFsn f).enc = s.enc := rfl
@[simp] theorem State.modFsn_ply (f : FsnSt → FsnSt) : (s.modFsn f).ply = s.ply := rfl
@[simp] theorem State.modFsn_can (f : FsnSt → FsnSt) : (s.modFsn f).can = s.can := rfl
@[simp] theorem State.modFsn_lib (f : FsnSt → FsnSt) : (s.modFsn f).lib = s.lib := rfl
@[simp] theorem State.modFsn_reel (f : FsnSt → FsnSt) : (s.modFsn f).reel = s.reel := rfl
@[simp] theorem State.modFsn_upd (f : FsnSt → FsnSt) : (s.modFsn f).upd = s.upd := rfl
@[simp] theorem State.modFsn_pnl (f : FsnSt → FsnSt) : (s.modFsn f).pnl = s.pnl := rfl
@[simp] theorem State.modFsn_rd (f : FsnSt → FsnSt) (r0 : Nat) : (s.modFsn f).rd r0 = s.rd r0 := rfl
@[simp] theorem State.modFsn_rdN (f : FsnSt → FsnSt) (r0 : Nat) : (s.modFsn f).rdN r0 = s.rdN r0 := rfl
@[simp] theorem State.modFsn_bits (f : FsnSt → FsnSt) (r0 r1 r2 : Nat) : (s.modFsn f).bits r0 r1 r2 = s.bits r0 r1 r2 := rfl
@[simp] theorem State.modFsn_bit (f : FsnSt → FsnSt) (r0 r1 : Nat) : (s.modFsn f).bit r0 r1 = s.bit r0 r1 := rfl
@[simp] theorem State.modFsn_domOn (f : FsnSt → FsnSt) (r0 : Nat) : (s.modFsn f).domOn r0 = s.domOn r0 := rfl
@[simp] theorem State.modFsn_core (f : FsnSt → FsnSt) (q : CoreId) : (s.modFsn f).core q = s.core q := rfl

/-! ### `modHbx` -/

@[simp] theorem State.modHbx_pending (f : HbxSt → HbxSt) : (s.modHbx f).pending = s.pending := rfl
@[simp] theorem State.modHbx_clk (f : HbxSt → HbxSt) : (s.modHbx f).clk = s.clk := rfl
@[simp] theorem State.modHbx_freeIdx (f : HbxSt → HbxSt) : (s.modHbx f).freeIdx = s.freeIdx := rfl
@[simp] theorem State.modHbx_inst (f : HbxSt → HbxSt) : (s.modHbx f).inst = s.inst := rfl
@[simp] theorem State.modHbx_resp (f : HbxSt → HbxSt) : (s.modHbx f).resp = s.resp := rfl
@[simp] theorem State.modHbx_out (f : HbxSt → HbxSt) : (s.modHbx f).out = s.out := rfl
@[simp] theorem State.modHbx_regs (f : HbxSt → HbxSt) : (s.modHbx f).regs = s.regs := rfl
@[simp] theorem State.modHbx_cores (f : HbxSt → HbxSt) : (s.modHbx f).cores = s.cores := rfl
@[simp] theorem State.modHbx_dram (f : HbxSt → HbxSt) : (s.modHbx f).dram = s.dram := rfl
@[simp] theorem State.modHbx_mram (f : HbxSt → HbxSt) : (s.modHbx f).mram = s.mram := rfl
@[simp] theorem State.modHbx_ao (f : HbxSt → HbxSt) : (s.modHbx f).ao = s.ao := rfl
@[simp] theorem State.modHbx_nor (f : HbxSt → HbxSt) : (s.modHbx f).nor = s.nor := rfl
@[simp] theorem State.modHbx_felt (f : HbxSt → HbxSt) : (s.modHbx f).felt = s.felt := rfl
@[simp] theorem State.modHbx_prs (f : HbxSt → HbxSt) : (s.modHbx f).prs = s.prs := rfl
@[simp] theorem State.modHbx_tim (f : HbxSt → HbxSt) : (s.modHbx f).tim = s.tim := rfl
@[simp] theorem State.modHbx_tnd (f : HbxSt → HbxSt) : (s.modHbx f).tnd = s.tnd := rfl
@[simp] theorem State.modHbx_dkl (f : HbxSt → HbxSt) : (s.modHbx f).dkl = s.dkl := rfl
@[simp] theorem State.modHbx_fsn (f : HbxSt → HbxSt) : (s.modHbx f).fsn = s.fsn := rfl
@[simp] theorem State.modHbx_cal (f : HbxSt → HbxSt) : (s.modHbx f).cal = s.cal := rfl
@[simp] theorem State.modHbx_pair (f : HbxSt → HbxSt) : (s.modHbx f).pair = s.pair := rfl
@[simp] theorem State.modHbx_nbb (f : HbxSt → HbxSt) : (s.modHbx f).nbb = s.nbb := rfl
@[simp] theorem State.modHbx_hbx (f : HbxSt → HbxSt) : (s.modHbx f).hbx = f s.hbx := rfl
@[simp] theorem State.modHbx_enc (f : HbxSt → HbxSt) : (s.modHbx f).enc = s.enc := rfl
@[simp] theorem State.modHbx_ply (f : HbxSt → HbxSt) : (s.modHbx f).ply = s.ply := rfl
@[simp] theorem State.modHbx_can (f : HbxSt → HbxSt) : (s.modHbx f).can = s.can := rfl
@[simp] theorem State.modHbx_lib (f : HbxSt → HbxSt) : (s.modHbx f).lib = s.lib := rfl
@[simp] theorem State.modHbx_reel (f : HbxSt → HbxSt) : (s.modHbx f).reel = s.reel := rfl
@[simp] theorem State.modHbx_upd (f : HbxSt → HbxSt) : (s.modHbx f).upd = s.upd := rfl
@[simp] theorem State.modHbx_pnl (f : HbxSt → HbxSt) : (s.modHbx f).pnl = s.pnl := rfl
@[simp] theorem State.modHbx_rd (f : HbxSt → HbxSt) (r0 : Nat) : (s.modHbx f).rd r0 = s.rd r0 := rfl
@[simp] theorem State.modHbx_rdN (f : HbxSt → HbxSt) (r0 : Nat) : (s.modHbx f).rdN r0 = s.rdN r0 := rfl
@[simp] theorem State.modHbx_bits (f : HbxSt → HbxSt) (r0 r1 r2 : Nat) : (s.modHbx f).bits r0 r1 r2 = s.bits r0 r1 r2 := rfl
@[simp] theorem State.modHbx_bit (f : HbxSt → HbxSt) (r0 r1 : Nat) : (s.modHbx f).bit r0 r1 = s.bit r0 r1 := rfl
@[simp] theorem State.modHbx_domOn (f : HbxSt → HbxSt) (r0 : Nat) : (s.modHbx f).domOn r0 = s.domOn r0 := rfl
@[simp] theorem State.modHbx_core (f : HbxSt → HbxSt) (q : CoreId) : (s.modHbx f).core q = s.core q := rfl

/-! ### `modNbb` -/

@[simp] theorem State.modNbb_pending (f : NbbSt → NbbSt) : (s.modNbb f).pending = s.pending := rfl
@[simp] theorem State.modNbb_clk (f : NbbSt → NbbSt) : (s.modNbb f).clk = s.clk := rfl
@[simp] theorem State.modNbb_freeIdx (f : NbbSt → NbbSt) : (s.modNbb f).freeIdx = s.freeIdx := rfl
@[simp] theorem State.modNbb_inst (f : NbbSt → NbbSt) : (s.modNbb f).inst = s.inst := rfl
@[simp] theorem State.modNbb_resp (f : NbbSt → NbbSt) : (s.modNbb f).resp = s.resp := rfl
@[simp] theorem State.modNbb_out (f : NbbSt → NbbSt) : (s.modNbb f).out = s.out := rfl
@[simp] theorem State.modNbb_regs (f : NbbSt → NbbSt) : (s.modNbb f).regs = s.regs := rfl
@[simp] theorem State.modNbb_cores (f : NbbSt → NbbSt) : (s.modNbb f).cores = s.cores := rfl
@[simp] theorem State.modNbb_dram (f : NbbSt → NbbSt) : (s.modNbb f).dram = s.dram := rfl
@[simp] theorem State.modNbb_mram (f : NbbSt → NbbSt) : (s.modNbb f).mram = s.mram := rfl
@[simp] theorem State.modNbb_ao (f : NbbSt → NbbSt) : (s.modNbb f).ao = s.ao := rfl
@[simp] theorem State.modNbb_nor (f : NbbSt → NbbSt) : (s.modNbb f).nor = s.nor := rfl
@[simp] theorem State.modNbb_felt (f : NbbSt → NbbSt) : (s.modNbb f).felt = s.felt := rfl
@[simp] theorem State.modNbb_prs (f : NbbSt → NbbSt) : (s.modNbb f).prs = s.prs := rfl
@[simp] theorem State.modNbb_tim (f : NbbSt → NbbSt) : (s.modNbb f).tim = s.tim := rfl
@[simp] theorem State.modNbb_tnd (f : NbbSt → NbbSt) : (s.modNbb f).tnd = s.tnd := rfl
@[simp] theorem State.modNbb_dkl (f : NbbSt → NbbSt) : (s.modNbb f).dkl = s.dkl := rfl
@[simp] theorem State.modNbb_fsn (f : NbbSt → NbbSt) : (s.modNbb f).fsn = s.fsn := rfl
@[simp] theorem State.modNbb_cal (f : NbbSt → NbbSt) : (s.modNbb f).cal = s.cal := rfl
@[simp] theorem State.modNbb_pair (f : NbbSt → NbbSt) : (s.modNbb f).pair = s.pair := rfl
@[simp] theorem State.modNbb_nbb (f : NbbSt → NbbSt) : (s.modNbb f).nbb = f s.nbb := rfl
@[simp] theorem State.modNbb_hbx (f : NbbSt → NbbSt) : (s.modNbb f).hbx = s.hbx := rfl
@[simp] theorem State.modNbb_enc (f : NbbSt → NbbSt) : (s.modNbb f).enc = s.enc := rfl
@[simp] theorem State.modNbb_ply (f : NbbSt → NbbSt) : (s.modNbb f).ply = s.ply := rfl
@[simp] theorem State.modNbb_can (f : NbbSt → NbbSt) : (s.modNbb f).can = s.can := rfl
@[simp] theorem State.modNbb_lib (f : NbbSt → NbbSt) : (s.modNbb f).lib = s.lib := rfl
@[simp] theorem State.modNbb_reel (f : NbbSt → NbbSt) : (s.modNbb f).reel = s.reel := rfl
@[simp] theorem State.modNbb_upd (f : NbbSt → NbbSt) : (s.modNbb f).upd = s.upd := rfl
@[simp] theorem State.modNbb_pnl (f : NbbSt → NbbSt) : (s.modNbb f).pnl = s.pnl := rfl
@[simp] theorem State.modNbb_rd (f : NbbSt → NbbSt) (r0 : Nat) : (s.modNbb f).rd r0 = s.rd r0 := rfl
@[simp] theorem State.modNbb_rdN (f : NbbSt → NbbSt) (r0 : Nat) : (s.modNbb f).rdN r0 = s.rdN r0 := rfl
@[simp] theorem State.modNbb_bits (f : NbbSt → NbbSt) (r0 r1 r2 : Nat) : (s.modNbb f).bits r0 r1 r2 = s.bits r0 r1 r2 := rfl
@[simp] theorem State.modNbb_bit (f : NbbSt → NbbSt) (r0 r1 : Nat) : (s.modNbb f).bit r0 r1 = s.bit r0 r1 := rfl
@[simp] theorem State.modNbb_domOn (f : NbbSt → NbbSt) (r0 : Nat) : (s.modNbb f).domOn r0 = s.domOn r0 := rfl
@[simp] theorem State.modNbb_core (f : NbbSt → NbbSt) (q : CoreId) : (s.modNbb f).core q = s.core q := rfl

/-! ### `modPair` -/

@[simp] theorem State.modPair_pending (f : PairSt → PairSt) : (s.modPair f).pending = s.pending := rfl
@[simp] theorem State.modPair_clk (f : PairSt → PairSt) : (s.modPair f).clk = s.clk := rfl
@[simp] theorem State.modPair_freeIdx (f : PairSt → PairSt) : (s.modPair f).freeIdx = s.freeIdx := rfl
@[simp] theorem State.modPair_inst (f : PairSt → PairSt) : (s.modPair f).inst = s.inst := rfl
@[simp] theorem State.modPair_resp (f : PairSt → PairSt) : (s.modPair f).resp = s.resp := rfl
@[simp] theorem State.modPair_out (f : PairSt → PairSt) : (s.modPair f).out = s.out := rfl
@[simp] theorem State.modPair_regs (f : PairSt → PairSt) : (s.modPair f).regs = s.regs := rfl
@[simp] theorem State.modPair_cores (f : PairSt → PairSt) : (s.modPair f).cores = s.cores := rfl
@[simp] theorem State.modPair_dram (f : PairSt → PairSt) : (s.modPair f).dram = s.dram := rfl
@[simp] theorem State.modPair_mram (f : PairSt → PairSt) : (s.modPair f).mram = s.mram := rfl
@[simp] theorem State.modPair_ao (f : PairSt → PairSt) : (s.modPair f).ao = s.ao := rfl
@[simp] theorem State.modPair_nor (f : PairSt → PairSt) : (s.modPair f).nor = s.nor := rfl
@[simp] theorem State.modPair_felt (f : PairSt → PairSt) : (s.modPair f).felt = s.felt := rfl
@[simp] theorem State.modPair_prs (f : PairSt → PairSt) : (s.modPair f).prs = s.prs := rfl
@[simp] theorem State.modPair_tim (f : PairSt → PairSt) : (s.modPair f).tim = s.tim := rfl
@[simp] theorem State.modPair_tnd (f : PairSt → PairSt) : (s.modPair f).tnd = s.tnd := rfl
@[simp] theorem State.modPair_dkl (f : PairSt → PairSt) : (s.modPair f).dkl = s.dkl := rfl
@[simp] theorem State.modPair_fsn (f : PairSt → PairSt) : (s.modPair f).fsn = s.fsn := rfl
@[simp] theorem State.modPair_cal (f : PairSt → PairSt) : (s.modPair f).cal = s.cal := rfl
@[simp] theorem State.modPair_pair (f : PairSt → PairSt) : (s.modPair f).pair = f s.pair := rfl
@[simp] theorem State.modPair_nbb (f : PairSt → PairSt) : (s.modPair f).nbb = s.nbb := rfl
@[simp] theorem State.modPair_hbx (f : PairSt → PairSt) : (s.modPair f).hbx = s.hbx := rfl
@[simp] theorem State.modPair_enc (f : PairSt → PairSt) : (s.modPair f).enc = s.enc := rfl
@[simp] theorem State.modPair_ply (f : PairSt → PairSt) : (s.modPair f).ply = s.ply := rfl
@[simp] theorem State.modPair_can (f : PairSt → PairSt) : (s.modPair f).can = s.can := rfl
@[simp] theorem State.modPair_lib (f : PairSt → PairSt) : (s.modPair f).lib = s.lib := rfl
@[simp] theorem State.modPair_reel (f : PairSt → PairSt) : (s.modPair f).reel = s.reel := rfl
@[simp] theorem State.modPair_upd (f : PairSt → PairSt) : (s.modPair f).upd = s.upd := rfl
@[simp] theorem State.modPair_pnl (f : PairSt → PairSt) : (s.modPair f).pnl = s.pnl := rfl
@[simp] theorem State.modPair_rd (f : PairSt → PairSt) (r0 : Nat) : (s.modPair f).rd r0 = s.rd r0 := rfl
@[simp] theorem State.modPair_rdN (f : PairSt → PairSt) (r0 : Nat) : (s.modPair f).rdN r0 = s.rdN r0 := rfl
@[simp] theorem State.modPair_bits (f : PairSt → PairSt) (r0 r1 r2 : Nat) : (s.modPair f).bits r0 r1 r2 = s.bits r0 r1 r2 := rfl
@[simp] theorem State.modPair_bit (f : PairSt → PairSt) (r0 r1 : Nat) : (s.modPair f).bit r0 r1 = s.bit r0 r1 := rfl
@[simp] theorem State.modPair_domOn (f : PairSt → PairSt) (r0 : Nat) : (s.modPair f).domOn r0 = s.domOn r0 := rfl
@[simp] theorem State.modPair_core (f : PairSt → PairSt) (q : CoreId) : (s.modPair f).core q = s.core q := rfl

/-! ### `modPly` -/

@[simp] theorem State.modPly_pending (f : PlySt → PlySt) : (s.modPly f).pending = s.pending := rfl
@[simp] theorem State.modPly_clk (f : PlySt → PlySt) : (s.modPly f).clk = s.clk := rfl
@[simp] theorem State.modPly_freeIdx (f : PlySt → PlySt) : (s.modPly f).freeIdx = s.freeIdx := rfl
@[simp] theorem State.modPly_inst (f : PlySt → PlySt) : (s.modPly f).inst = s.inst := rfl
@[simp] theorem State.modPly_resp (f : PlySt → PlySt) : (s.modPly f).resp = s.resp := rfl
@[simp] theorem State.modPly_out (f : PlySt → PlySt) : (s.modPly f).out = s.out := rfl
@[simp] theorem State.modPly_regs (f : PlySt → PlySt) : (s.modPly f).regs = s.regs := rfl
@[simp] theorem State.modPly_cores (f : PlySt → PlySt) : (s.modPly f).cores = s.cores := rfl
@[simp] theorem State.modPly_dram (f : PlySt → PlySt) : (s.modPly f).dram = s.dram := rfl
@[simp] theorem State.modPly_mram (f : PlySt → PlySt) : (s.modPly f).mram = s.mram := rfl
@[simp] theorem State.modPly_ao (f : PlySt → PlySt) : (s.modPly f).ao = s.ao := rfl
@[simp] theorem State.modPly_nor (f : PlySt → PlySt) : (s.modPly f).nor = s.nor := rfl
@[simp] theorem State.modPly_felt (f : PlySt → PlySt) : (s.modPly f).felt = s.felt := rfl
@[simp] theorem State.modPly_prs (f : PlySt → PlySt) : (s.modPly f).prs = s.prs := rfl
@[simp] theorem State.modPly_tim (f : PlySt → PlySt) : (s.modPly f).tim = s.tim := rfl
@[simp] theorem State.modPly_tnd (f : PlySt → PlySt) : (s.modPly f).tnd = s.tnd := rfl
@[simp] theorem State.modPly_dkl (f : PlySt → PlySt) : (s.modPly f).dkl = s.dkl := rfl
@[simp] theorem State.modPly_fsn (f : PlySt → PlySt) : (s.modPly f).fsn = s.fsn := rfl
@[simp] theorem State.modPly_cal (f : PlySt → PlySt) : (s.modPly f).cal = s.cal := rfl
@[simp] theorem State.modPly_pair (f : PlySt → PlySt) : (s.modPly f).pair = s.pair := rfl
@[simp] theorem State.modPly_nbb (f : PlySt → PlySt) : (s.modPly f).nbb = s.nbb := rfl
@[simp] theorem State.modPly_hbx (f : PlySt → PlySt) : (s.modPly f).hbx = s.hbx := rfl
@[simp] theorem State.modPly_enc (f : PlySt → PlySt) : (s.modPly f).enc = s.enc := rfl
@[simp] theorem State.modPly_ply (f : PlySt → PlySt) : (s.modPly f).ply = f s.ply := rfl
@[simp] theorem State.modPly_can (f : PlySt → PlySt) : (s.modPly f).can = s.can := rfl
@[simp] theorem State.modPly_lib (f : PlySt → PlySt) : (s.modPly f).lib = s.lib := rfl
@[simp] theorem State.modPly_reel (f : PlySt → PlySt) : (s.modPly f).reel = s.reel := rfl
@[simp] theorem State.modPly_upd (f : PlySt → PlySt) : (s.modPly f).upd = s.upd := rfl
@[simp] theorem State.modPly_pnl (f : PlySt → PlySt) : (s.modPly f).pnl = s.pnl := rfl
@[simp] theorem State.modPly_rd (f : PlySt → PlySt) (r0 : Nat) : (s.modPly f).rd r0 = s.rd r0 := rfl
@[simp] theorem State.modPly_rdN (f : PlySt → PlySt) (r0 : Nat) : (s.modPly f).rdN r0 = s.rdN r0 := rfl
@[simp] theorem State.modPly_bits (f : PlySt → PlySt) (r0 r1 r2 : Nat) : (s.modPly f).bits r0 r1 r2 = s.bits r0 r1 r2 := rfl
@[simp] theorem State.modPly_bit (f : PlySt → PlySt) (r0 r1 : Nat) : (s.modPly f).bit r0 r1 = s.bit r0 r1 := rfl
@[simp] theorem State.modPly_domOn (f : PlySt → PlySt) (r0 : Nat) : (s.modPly f).domOn r0 = s.domOn r0 := rfl
@[simp] theorem State.modPly_core (f : PlySt → PlySt) (q : CoreId) : (s.modPly f).core q = s.core q := rfl

/-! ### `modPnl` -/

@[simp] theorem State.modPnl_pending (f : PnlSt → PnlSt) : (s.modPnl f).pending = s.pending := rfl
@[simp] theorem State.modPnl_clk (f : PnlSt → PnlSt) : (s.modPnl f).clk = s.clk := rfl
@[simp] theorem State.modPnl_freeIdx (f : PnlSt → PnlSt) : (s.modPnl f).freeIdx = s.freeIdx := rfl
@[simp] theorem State.modPnl_inst (f : PnlSt → PnlSt) : (s.modPnl f).inst = s.inst := rfl
@[simp] theorem State.modPnl_resp (f : PnlSt → PnlSt) : (s.modPnl f).resp = s.resp := rfl
@[simp] theorem State.modPnl_out (f : PnlSt → PnlSt) : (s.modPnl f).out = s.out := rfl
@[simp] theorem State.modPnl_regs (f : PnlSt → PnlSt) : (s.modPnl f).regs = s.regs := rfl
@[simp] theorem State.modPnl_cores (f : PnlSt → PnlSt) : (s.modPnl f).cores = s.cores := rfl
@[simp] theorem State.modPnl_dram (f : PnlSt → PnlSt) : (s.modPnl f).dram = s.dram := rfl
@[simp] theorem State.modPnl_mram (f : PnlSt → PnlSt) : (s.modPnl f).mram = s.mram := rfl
@[simp] theorem State.modPnl_ao (f : PnlSt → PnlSt) : (s.modPnl f).ao = s.ao := rfl
@[simp] theorem State.modPnl_nor (f : PnlSt → PnlSt) : (s.modPnl f).nor = s.nor := rfl
@[simp] theorem State.modPnl_felt (f : PnlSt → PnlSt) : (s.modPnl f).felt = s.felt := rfl
@[simp] theorem State.modPnl_prs (f : PnlSt → PnlSt) : (s.modPnl f).prs = s.prs := rfl
@[simp] theorem State.modPnl_tim (f : PnlSt → PnlSt) : (s.modPnl f).tim = s.tim := rfl
@[simp] theorem State.modPnl_tnd (f : PnlSt → PnlSt) : (s.modPnl f).tnd = s.tnd := rfl
@[simp] theorem State.modPnl_dkl (f : PnlSt → PnlSt) : (s.modPnl f).dkl = s.dkl := rfl
@[simp] theorem State.modPnl_fsn (f : PnlSt → PnlSt) : (s.modPnl f).fsn = s.fsn := rfl
@[simp] theorem State.modPnl_cal (f : PnlSt → PnlSt) : (s.modPnl f).cal = s.cal := rfl
@[simp] theorem State.modPnl_pair (f : PnlSt → PnlSt) : (s.modPnl f).pair = s.pair := rfl
@[simp] theorem State.modPnl_nbb (f : PnlSt → PnlSt) : (s.modPnl f).nbb = s.nbb := rfl
@[simp] theorem State.modPnl_hbx (f : PnlSt → PnlSt) : (s.modPnl f).hbx = s.hbx := rfl
@[simp] theorem State.modPnl_enc (f : PnlSt → PnlSt) : (s.modPnl f).enc = s.enc := rfl
@[simp] theorem State.modPnl_ply (f : PnlSt → PnlSt) : (s.modPnl f).ply = s.ply := rfl
@[simp] theorem State.modPnl_can (f : PnlSt → PnlSt) : (s.modPnl f).can = s.can := rfl
@[simp] theorem State.modPnl_lib (f : PnlSt → PnlSt) : (s.modPnl f).lib = s.lib := rfl
@[simp] theorem State.modPnl_reel (f : PnlSt → PnlSt) : (s.modPnl f).reel = s.reel := rfl
@[simp] theorem State.modPnl_upd (f : PnlSt → PnlSt) : (s.modPnl f).upd = s.upd := rfl
@[simp] theorem State.modPnl_pnl (f : PnlSt → PnlSt) : (s.modPnl f).pnl = f s.pnl := rfl
@[simp] theorem State.modPnl_rd (f : PnlSt → PnlSt) (r0 : Nat) : (s.modPnl f).rd r0 = s.rd r0 := rfl
@[simp] theorem State.modPnl_rdN (f : PnlSt → PnlSt) (r0 : Nat) : (s.modPnl f).rdN r0 = s.rdN r0 := rfl
@[simp] theorem State.modPnl_bits (f : PnlSt → PnlSt) (r0 r1 r2 : Nat) : (s.modPnl f).bits r0 r1 r2 = s.bits r0 r1 r2 := rfl
@[simp] theorem State.modPnl_bit (f : PnlSt → PnlSt) (r0 r1 : Nat) : (s.modPnl f).bit r0 r1 = s.bit r0 r1 := rfl
@[simp] theorem State.modPnl_domOn (f : PnlSt → PnlSt) (r0 : Nat) : (s.modPnl f).domOn r0 = s.domOn r0 := rfl
@[simp] theorem State.modPnl_core (f : PnlSt → PnlSt) (q : CoreId) : (s.modPnl f).core q = s.core q := rfl

/-! ### `modReel` -/

@[simp] theorem State.modReel_pending (f : ReelSt → ReelSt) : (s.modReel f).pending = s.pending := rfl
@[simp] theorem State.modReel_clk (f : ReelSt → ReelSt) : (s.modReel f).clk = s.clk := rfl
@[simp] theorem State.modReel_freeIdx (f : ReelSt → ReelSt) : (s.modReel f).freeIdx = s.freeIdx := rfl
@[simp] theorem State.modReel_inst (f : ReelSt → ReelSt) : (s.modReel f).inst = s.inst := rfl
@[simp] theorem State.modReel_resp (f : ReelSt → ReelSt) : (s.modReel f).resp = s.resp := rfl
@[simp] theorem State.modReel_out (f : ReelSt → ReelSt) : (s.modReel f).out = s.out := rfl
@[simp] theorem State.modReel_regs (f : ReelSt → ReelSt) : (s.modReel f).regs = s.regs := rfl
@[simp] theorem State.modReel_cores (f : ReelSt → ReelSt) : (s.modReel f).cores = s.cores := rfl
@[simp] theorem State.modReel_dram (f : ReelSt → ReelSt) : (s.modReel f).dram = s.dram := rfl
@[simp] theorem State.modReel_mram (f : ReelSt → ReelSt) : (s.modReel f).mram = s.mram := rfl
@[simp] theorem State.modReel_ao (f : ReelSt → ReelSt) : (s.modReel f).ao = s.ao := rfl
@[simp] theorem State.modReel_nor (f : ReelSt → ReelSt) : (s.modReel f).nor = s.nor := rfl
@[simp] theorem State.modReel_felt (f : ReelSt → ReelSt) : (s.modReel f).felt = s.felt := rfl
@[simp] theorem State.modReel_prs (f : ReelSt → ReelSt) : (s.modReel f).prs = s.prs := rfl
@[simp] theorem State.modReel_tim (f : ReelSt → ReelSt) : (s.modReel f).tim = s.tim := rfl
@[simp] theorem State.modReel_tnd (f : ReelSt → ReelSt) : (s.modReel f).tnd = s.tnd := rfl
@[simp] theorem State.modReel_dkl (f : ReelSt → ReelSt) : (s.modReel f).dkl = s.dkl := rfl
@[simp] theorem State.modReel_fsn (f : ReelSt → ReelSt) : (s.modReel f).fsn = s.fsn := rfl
@[simp] theorem State.modReel_cal (f : ReelSt → ReelSt) : (s.modReel f).cal = s.cal := rfl
@[simp] theorem State.modReel_pair (f : ReelSt → ReelSt) : (s.modReel f).pair = s.pair := rfl
@[simp] theorem State.modReel_nbb (f : ReelSt → ReelSt) : (s.modReel f).nbb = s.nbb := rfl
@[simp] theorem State.modReel_hbx (f : ReelSt → ReelSt) : (s.modReel f).hbx = s.hbx := rfl
@[simp] theorem State.modReel_enc (f : ReelSt → ReelSt) : (s.modReel f).enc = s.enc := rfl
@[simp] theorem State.modReel_ply (f : ReelSt → ReelSt) : (s.modReel f).ply = s.ply := rfl
@[simp] theorem State.modReel_can (f : ReelSt → ReelSt) : (s.modReel f).can = s.can := rfl
@[simp] theorem State.modReel_lib (f : ReelSt → ReelSt) : (s.modReel f).lib = s.lib := rfl
@[simp] theorem State.modReel_reel (f : ReelSt → ReelSt) : (s.modReel f).reel = f s.reel := rfl
@[simp] theorem State.modReel_upd (f : ReelSt → ReelSt) : (s.modReel f).upd = s.upd := rfl
@[simp] theorem State.modReel_pnl (f : ReelSt → ReelSt) : (s.modReel f).pnl = s.pnl := rfl
@[simp] theorem State.modReel_rd (f : ReelSt → ReelSt) (r0 : Nat) : (s.modReel f).rd r0 = s.rd r0 := rfl
@[simp] theorem State.modReel_rdN (f : ReelSt → ReelSt) (r0 : Nat) : (s.modReel f).rdN r0 = s.rdN r0 := rfl
@[simp] theorem State.modReel_bits (f : ReelSt → ReelSt) (r0 r1 r2 : Nat) : (s.modReel f).bits r0 r1 r2 = s.bits r0 r1 r2 := rfl
@[simp] theorem State.modReel_bit (f : ReelSt → ReelSt) (r0 r1 : Nat) : (s.modReel f).bit r0 r1 = s.bit r0 r1 := rfl
@[simp] theorem State.modReel_domOn (f : ReelSt → ReelSt) (r0 : Nat) : (s.modReel f).domOn r0 = s.domOn r0 := rfl
@[simp] theorem State.modReel_core (f : ReelSt → ReelSt) (q : CoreId) : (s.modReel f).core q = s.core q := rfl

/-! ### `modUpd` -/

@[simp] theorem State.modUpd_pending (f : UpdSt → UpdSt) : (s.modUpd f).pending = s.pending := rfl
@[simp] theorem State.modUpd_clk (f : UpdSt → UpdSt) : (s.modUpd f).clk = s.clk := rfl
@[simp] theorem State.modUpd_freeIdx (f : UpdSt → UpdSt) : (s.modUpd f).freeIdx = s.freeIdx := rfl
@[simp] theorem State.modUpd_inst (f : UpdSt → UpdSt) : (s.modUpd f).inst = s.inst := rfl
@[simp] theorem State.modUpd_resp (f : UpdSt → UpdSt) : (s.modUpd f).resp = s.resp := rfl
@[simp] theorem State.modUpd_out (f : UpdSt → UpdSt) : (s.modUpd f).out = s.out := rfl
@[simp] theorem State.modUpd_regs (f : UpdSt → UpdSt) : (s.modUpd f).regs = s.regs := rfl
@[simp] theorem State.modUpd_cores (f : UpdSt → UpdSt) : (s.modUpd f).cores = s.cores := rfl
@[simp] theorem State.modUpd_dram (f : UpdSt → UpdSt) : (s.modUpd f).dram = s.dram := rfl
@[simp] theorem State.modUpd_mram (f : UpdSt → UpdSt) : (s.modUpd f).mram = s.mram := rfl
@[simp] theorem State.modUpd_ao (f : UpdSt → UpdSt) : (s.modUpd f).ao = s.ao := rfl
@[simp] theorem State.modUpd_nor (f : UpdSt → UpdSt) : (s.modUpd f).nor = s.nor := rfl
@[simp] theorem State.modUpd_felt (f : UpdSt → UpdSt) : (s.modUpd f).felt = s.felt := rfl
@[simp] theorem State.modUpd_prs (f : UpdSt → UpdSt) : (s.modUpd f).prs = s.prs := rfl
@[simp] theorem State.modUpd_tim (f : UpdSt → UpdSt) : (s.modUpd f).tim = s.tim := rfl
@[simp] theorem State.modUpd_tnd (f : UpdSt → UpdSt) : (s.modUpd f).tnd = s.tnd := rfl
@[simp] theorem State.modUpd_dkl (f : UpdSt → UpdSt) : (s.modUpd f).dkl = s.dkl := rfl
@[simp] theorem State.modUpd_fsn (f : UpdSt → UpdSt) : (s.modUpd f).fsn = s.fsn := rfl
@[simp] theorem State.modUpd_cal (f : UpdSt → UpdSt) : (s.modUpd f).cal = s.cal := rfl
@[simp] theorem State.modUpd_pair (f : UpdSt → UpdSt) : (s.modUpd f).pair = s.pair := rfl
@[simp] theorem State.modUpd_nbb (f : UpdSt → UpdSt) : (s.modUpd f).nbb = s.nbb := rfl
@[simp] theorem State.modUpd_hbx (f : UpdSt → UpdSt) : (s.modUpd f).hbx = s.hbx := rfl
@[simp] theorem State.modUpd_enc (f : UpdSt → UpdSt) : (s.modUpd f).enc = s.enc := rfl
@[simp] theorem State.modUpd_ply (f : UpdSt → UpdSt) : (s.modUpd f).ply = s.ply := rfl
@[simp] theorem State.modUpd_can (f : UpdSt → UpdSt) : (s.modUpd f).can = s.can := rfl
@[simp] theorem State.modUpd_lib (f : UpdSt → UpdSt) : (s.modUpd f).lib = s.lib := rfl
@[simp] theorem State.modUpd_reel (f : UpdSt → UpdSt) : (s.modUpd f).reel = s.reel := rfl
@[simp] theorem State.modUpd_upd (f : UpdSt → UpdSt) : (s.modUpd f).upd = f s.upd := rfl
@[simp] theorem State.modUpd_pnl (f : UpdSt → UpdSt) : (s.modUpd f).pnl = s.pnl := rfl
@[simp] theorem State.modUpd_rd (f : UpdSt → UpdSt) (r0 : Nat) : (s.modUpd f).rd r0 = s.rd r0 := rfl
@[simp] theorem State.modUpd_rdN (f : UpdSt → UpdSt) (r0 : Nat) : (s.modUpd f).rdN r0 = s.rdN r0 := rfl
@[simp] theorem State.modUpd_bits (f : UpdSt → UpdSt) (r0 r1 r2 : Nat) : (s.modUpd f).bits r0 r1 r2 = s.bits r0 r1 r2 := rfl
@[simp] theorem State.modUpd_bit (f : UpdSt → UpdSt) (r0 r1 : Nat) : (s.modUpd f).bit r0 r1 = s.bit r0 r1 := rfl
@[simp] theorem State.modUpd_domOn (f : UpdSt → UpdSt) (r0 : Nat) : (s.modUpd f).domOn r0 = s.domOn r0 := rfl
@[simp] theorem State.modUpd_core (f : UpdSt → UpdSt) (q : CoreId) : (s.modUpd f).core q = s.core q := rfl

/-! ### `modLib` -/

@[simp] theorem State.modLib_pending (f : LibSt → LibSt) : (s.modLib f).pending = s.pending := rfl
@[simp] theorem State.modLib_clk (f : LibSt → LibSt) : (s.modLib f).clk = s.clk := rfl
@[simp] theorem State.modLib_freeIdx (f : LibSt → LibSt) : (s.modLib f).freeIdx = s.freeIdx := rfl
@[simp] theorem State.modLib_inst (f : LibSt → LibSt) : (s.modLib f).inst = s.inst := rfl
@[simp] theorem State.modLib_resp (f : LibSt → LibSt) : (s.modLib f).resp = s.resp := rfl
@[simp] theorem State.modLib_out (f : LibSt → LibSt) : (s.modLib f).out = s.out := rfl
@[simp] theorem State.modLib_regs (f : LibSt → LibSt) : (s.modLib f).regs = s.regs := rfl
@[simp] theorem State.modLib_cores (f : LibSt → LibSt) : (s.modLib f).cores = s.cores := rfl
@[simp] theorem State.modLib_dram (f : LibSt → LibSt) : (s.modLib f).dram = s.dram := rfl
@[simp] theorem State.modLib_mram (f : LibSt → LibSt) : (s.modLib f).mram = s.mram := rfl
@[simp] theorem State.modLib_ao (f : LibSt → LibSt) : (s.modLib f).ao = s.ao := rfl
@[simp] theorem State.modLib_nor (f : LibSt → LibSt) : (s.modLib f).nor = s.nor := rfl
@[simp] theorem State.modLib_felt (f : LibSt → LibSt) : (s.modLib f).felt = s.felt := rfl
@[simp] theorem State.modLib_prs (f : LibSt → LibSt) : (s.modLib f).prs = s.prs := rfl
@[simp] theorem State.modLib_tim (f : LibSt → LibSt) : (s.modLib f).tim = s.tim := rfl
@[simp] theorem State.modLib_tnd (f : LibSt → LibSt) : (s.modLib f).tnd = s.tnd := rfl
@[simp] theorem State.modLib_dkl (f : LibSt → LibSt) : (s.modLib f).dkl = s.dkl := rfl
@[simp] theorem State.modLib_fsn (f : LibSt → LibSt) : (s.modLib f).fsn = s.fsn := rfl
@[simp] theorem State.modLib_cal (f : LibSt → LibSt) : (s.modLib f).cal = s.cal := rfl
@[simp] theorem State.modLib_pair (f : LibSt → LibSt) : (s.modLib f).pair = s.pair := rfl
@[simp] theorem State.modLib_nbb (f : LibSt → LibSt) : (s.modLib f).nbb = s.nbb := rfl
@[simp] theorem State.modLib_hbx (f : LibSt → LibSt) : (s.modLib f).hbx = s.hbx := rfl
@[simp] theorem State.modLib_enc (f : LibSt → LibSt) : (s.modLib f).enc = s.enc := rfl
@[simp] theorem State.modLib_ply (f : LibSt → LibSt) : (s.modLib f).ply = s.ply := rfl
@[simp] theorem State.modLib_can (f : LibSt → LibSt) : (s.modLib f).can = s.can := rfl
@[simp] theorem State.modLib_lib (f : LibSt → LibSt) : (s.modLib f).lib = f s.lib := rfl
@[simp] theorem State.modLib_reel (f : LibSt → LibSt) : (s.modLib f).reel = s.reel := rfl
@[simp] theorem State.modLib_upd (f : LibSt → LibSt) : (s.modLib f).upd = s.upd := rfl
@[simp] theorem State.modLib_pnl (f : LibSt → LibSt) : (s.modLib f).pnl = s.pnl := rfl
@[simp] theorem State.modLib_rd (f : LibSt → LibSt) (r0 : Nat) : (s.modLib f).rd r0 = s.rd r0 := rfl
@[simp] theorem State.modLib_rdN (f : LibSt → LibSt) (r0 : Nat) : (s.modLib f).rdN r0 = s.rdN r0 := rfl
@[simp] theorem State.modLib_bits (f : LibSt → LibSt) (r0 r1 r2 : Nat) : (s.modLib f).bits r0 r1 r2 = s.bits r0 r1 r2 := rfl
@[simp] theorem State.modLib_bit (f : LibSt → LibSt) (r0 r1 : Nat) : (s.modLib f).bit r0 r1 = s.bit r0 r1 := rfl
@[simp] theorem State.modLib_domOn (f : LibSt → LibSt) (r0 : Nat) : (s.modLib f).domOn r0 = s.domOn r0 := rfl
@[simp] theorem State.modLib_core (f : LibSt → LibSt) (q : CoreId) : (s.modLib f).core q = s.core q := rfl

/-! ### `modFelt` -/

@[simp] theorem State.modFelt_pending (f : FeltSt → FeltSt) : (s.modFelt f).pending = s.pending := rfl
@[simp] theorem State.modFelt_clk (f : FeltSt → FeltSt) : (s.modFelt f).clk = s.clk := rfl
@[simp] theorem State.modFelt_freeIdx (f : FeltSt → FeltSt) : (s.modFelt f).freeIdx = s.freeIdx := rfl
@[simp] theorem State.modFelt_inst (f : FeltSt → FeltSt) : (s.modFelt f).inst = s.inst := rfl
@[simp] theorem State.modFelt_resp (f : FeltSt → FeltSt) : (s.modFelt f).resp = s.resp := rfl
@[simp] theorem State.modFelt_out (f : FeltSt → FeltSt) : (s.modFelt f).out = s.out := rfl
@[simp] theorem State.modFelt_regs (f : FeltSt → FeltSt) : (s.modFelt f).regs = s.regs := rfl
@[simp] theorem State.modFelt_cores (f : FeltSt → FeltSt) : (s.modFelt f).cores = s.cores := rfl
@[simp] theorem State.modFelt_dram (f : FeltSt → FeltSt) : (s.modFelt f).dram = s.dram := rfl
@[simp] theorem State.modFelt_mram (f : FeltSt → FeltSt) : (s.modFelt f).mram = s.mram := rfl
@[simp] theorem State.modFelt_ao (f : FeltSt → FeltSt) : (s.modFelt f).ao = s.ao := rfl
@[simp] theorem State.modFelt_nor (f : FeltSt → FeltSt) : (s.modFelt f).nor = s.nor := rfl
@[simp] theorem State.modFelt_felt (f : FeltSt → FeltSt) : (s.modFelt f).felt = f s.felt := rfl
@[simp] theorem State.modFelt_prs (f : FeltSt → FeltSt) : (s.modFelt f).prs = s.prs := rfl
@[simp] theorem State.modFelt_tim (f : FeltSt → FeltSt) : (s.modFelt f).tim = s.tim := rfl
@[simp] theorem State.modFelt_tnd (f : FeltSt → FeltSt) : (s.modFelt f).tnd = s.tnd := rfl
@[simp] theorem State.modFelt_dkl (f : FeltSt → FeltSt) : (s.modFelt f).dkl = s.dkl := rfl
@[simp] theorem State.modFelt_fsn (f : FeltSt → FeltSt) : (s.modFelt f).fsn = s.fsn := rfl
@[simp] theorem State.modFelt_cal (f : FeltSt → FeltSt) : (s.modFelt f).cal = s.cal := rfl
@[simp] theorem State.modFelt_pair (f : FeltSt → FeltSt) : (s.modFelt f).pair = s.pair := rfl
@[simp] theorem State.modFelt_nbb (f : FeltSt → FeltSt) : (s.modFelt f).nbb = s.nbb := rfl
@[simp] theorem State.modFelt_hbx (f : FeltSt → FeltSt) : (s.modFelt f).hbx = s.hbx := rfl
@[simp] theorem State.modFelt_enc (f : FeltSt → FeltSt) : (s.modFelt f).enc = s.enc := rfl
@[simp] theorem State.modFelt_ply (f : FeltSt → FeltSt) : (s.modFelt f).ply = s.ply := rfl
@[simp] theorem State.modFelt_can (f : FeltSt → FeltSt) : (s.modFelt f).can = s.can := rfl
@[simp] theorem State.modFelt_lib (f : FeltSt → FeltSt) : (s.modFelt f).lib = s.lib := rfl
@[simp] theorem State.modFelt_reel (f : FeltSt → FeltSt) : (s.modFelt f).reel = s.reel := rfl
@[simp] theorem State.modFelt_upd (f : FeltSt → FeltSt) : (s.modFelt f).upd = s.upd := rfl
@[simp] theorem State.modFelt_pnl (f : FeltSt → FeltSt) : (s.modFelt f).pnl = s.pnl := rfl
@[simp] theorem State.modFelt_rd (f : FeltSt → FeltSt) (r0 : Nat) : (s.modFelt f).rd r0 = s.rd r0 := rfl
@[simp] theorem State.modFelt_rdN (f : FeltSt → FeltSt) (r0 : Nat) : (s.modFelt f).rdN r0 = s.rdN r0 := rfl
@[simp] theorem State.modFelt_bits (f : FeltSt → FeltSt) (r0 r1 r2 : Nat) : (s.modFelt f).bits r0 r1 r2 = s.bits r0 r1 r2 := rfl
@[simp] theorem State.modFelt_bit (f : FeltSt → FeltSt) (r0 r1 : Nat) : (s.modFelt f).bit r0 r1 = s.bit r0 r1 := rfl
@[simp] theorem State.modFelt_domOn (f : FeltSt → FeltSt) (r0 : Nat) : (s.modFelt f).domOn r0 = s.domOn r0 := rfl
@[simp] theorem State.modFelt_core (f : FeltSt → FeltSt) (q : CoreId) : (s.modFelt f).core q = s.core q := rfl

end Sys2Proof.Machine
end

