-- ==== Sys2Proof/Laws/Ops.lean ====
section
/-! SUPPORT. Registers and their fields: what a write leaves, field by field, and what the shared operations over registers do. -/

namespace Sys2Proof.Machine

/-! ### Fields of numbers -/

theorem testBit_fget (w hi lo j : Nat) : (fget w hi lo).testBit j = (decide (j < hi + 1 - lo) && w.testBit (lo + j)) := by
  simp [fget, Nat.testBit_mod_two_pow, Nat.testBit_div_two_pow, Nat.add_comm]

theorem fset_split (w hi lo v : Nat) :
    fset w hi lo v = 2 ^ lo * (2 ^ (hi + 1 - lo) * (w / 2 ^ (lo + (hi + 1 - lo))) + v % 2 ^ (hi + 1 - lo)) + w % 2 ^ lo := by
  generalize hn : hi + 1 - lo = n
  have h1 : w = 2 ^ lo * (w / 2 ^ lo) + w % 2 ^ lo := (Nat.div_add_mod ..).symm
  have h2 : w / 2 ^ lo = 2 ^ n * (w / 2 ^ (lo + n)) + w / 2 ^ lo % 2 ^ n := by
    rw [Nat.pow_add, ← Nat.div_div_eq_div_mul]; exact (Nat.div_add_mod ..).symm
  simp only [fset, hn]
  generalize w / 2 ^ (lo + n) = h at *
  generalize w / 2 ^ lo % 2 ^ n = f at *
  generalize w % 2 ^ lo = l at *
  generalize v % 2 ^ n = x
  rw [h2] at h1
  subst h1
  simp only [Nat.mul_add, Nat.mul_comm f, Nat.mul_comm x]
  omega

theorem testBit_fset (w hi lo v j : Nat) :
    (fset w hi lo v).testBit j = if lo ≤ j ∧ j < lo + (hi + 1 - lo) then v.testBit (j - lo) else w.testBit j := by
  generalize hn : hi + 1 - lo = n
  rw [fset_split, hn, Nat.testBit_two_pow_mul_add _ (Nat.mod_lt _ (Nat.two_pow_pos _))]
  by_cases h1 : j < lo
  · rw [if_pos h1, if_neg (by omega)]
    simp [Nat.testBit_mod_two_pow, h1]
  · rw [if_neg h1, Nat.testBit_two_pow_mul_add _ (Nat.mod_lt _ (Nat.two_pow_pos _))]
    by_cases h2 : j - lo < n
    · rw [if_pos h2, if_pos (by omega)]
      simp [Nat.testBit_mod_two_pow, h2]
    · rw [if_neg h2, if_neg (by omega), Nat.testBit_div_two_pow]
      congr 1; omega

theorem fbit_eq (w i : Nat) : fbit w i = w.testBit i := by
  simp only [fbit, Nat.testBit, Nat.shiftRight_eq_div_pow, Nat.and_comm 1, Nat.and_one_is_mod]
  cases h : w / 2 ^ i % 2 with
  | zero => rfl
  | succ n => have : n = 0 := by omega
              subst this; rfl

/-- A field just written reads as the value, modulo the field's size. -/
theorem fget_fset (w hi lo v : Nat) : fget (fset w hi lo v) hi lo = v % 2 ^ (hi + 1 - lo) := by
  apply Nat.eq_of_testBit_eq
  intro j
  rw [testBit_fget, testBit_fset, Nat.testBit_mod_two_pow]
  by_cases h : j < hi + 1 - lo
  · rw [if_pos (by omega)]; simp [h]
  · simp [h]

/-- Writing a field leaves every other one alone. -/
theorem fget_fset_other {w hi lo v h l : Nat} (d : h < lo ∨ hi < l) (hl : lo ≤ hi) : fget (fset w hi lo v) h l = fget w h l := by
  apply Nat.eq_of_testBit_eq
  intro j
  rw [testBit_fget, testBit_fget, testBit_fset]
  by_cases hj : j < h + 1 - l
  · rw [if_neg (by omega)]
  · simp [hj]

theorem fset_lt {w hi lo v : Nat} (hw : w < 2 ^ 32) (hh : hi < 32) : fset w hi lo v < 2 ^ 32 := by
  apply Nat.lt_pow_two_of_testBit
  intro j hj
  rw [testBit_fset]
  by_cases h : lo ≤ j ∧ j < lo + (hi + 1 - lo)
  · omega
  · rw [if_neg h]; exact Nat.testBit_lt_two_pow (Nat.lt_of_lt_of_le hw (Nat.pow_le_pow_right (by omega) hj))

theorem wset_toNat {w : Word} {hi lo v : Nat} (hh : hi < 32) : (wset w hi lo v).toNat = fset w.toNat hi lo v := by
  simp only [wset, BitVec.toNat_ofNat]; exact Nat.mod_eq_of_lt (fset_lt w.isLt hh)

@[simp] theorem wbits_wset {w : Word} {hi lo v : Nat} (hh : hi < 32) : wbits (wset w hi lo v) hi lo = v % 2 ^ (hi + 1 - lo) := by
  rw [wbits, wset_toNat hh, fget_fset]

theorem wbits_wset_other {w : Word} {hi lo v h l : Nat} (d : h < lo ∨ hi < l) (hl : lo ≤ hi) (hh : hi < 32) :
    wbits (wset w hi lo v) h l = wbits w h l := by
  rw [wbits, wset_toNat hh, fget_fset_other d hl]; rfl

theorem wbit_eq_wbits (w : Word) (i : Nat) : wbit w i = (wbits w i i == 1) := by
  simp [wbit, fbit, wbits, fget]

/-! ### Registers -/

variable (s : State)

/-- A register reads as last written; every other one as before. -/
theorem rd_wr (a b : Nat) (v : Word) : (s.wr a v).rd b = if b = a then v else s.rd b := sget_sset

@[simp] theorem rd_wr_same (a : Nat) (v : Word) : (s.wr a v).rd a = v := by simp [rd_wr]

theorem rd_wr_other {a b : Nat} (v : Word) (h : b ≠ a) : (s.wr a v).rd b = s.rd b := by simp [rd_wr, h]

theorem rd_setBits (a b hi lo v : Nat) :
    (s.setBits a hi lo v).rd b = if b = a then wset (s.rd a) hi lo v else s.rd b := rd_wr ..

theorem rd_setBits_other {a b : Nat} (hi lo v : Nat) (h : b ≠ a) : (s.setBits a hi lo v).rd b = s.rd b := by
  simp [rd_setBits, h]

theorem rd_setBit_other {a b : Nat} (i : Nat) (x : Bool) (h : b ≠ a) : (s.setBit a i x).rd b = s.rd b :=
  rd_setBits_other s _ _ _ h

theorem rd_wrN_other {a b : Nat} (v : Nat) (h : b ≠ a) : (s.wrN a v).rd b = s.rd b := rd_wr_other s _ h

/-- A field just written reads as the value. -/
@[simp] theorem bits_setBits {a hi lo v : Nat} (hh : hi < 32) :
    (s.setBits a hi lo v).bits a hi lo = v % 2 ^ (hi + 1 - lo) := by
  simp only [State.bits, rd_setBits, if_true, wbits_wset hh]

theorem bits_setBits_other {a hi lo v h l : Nat} (d : h < lo ∨ hi < l) (hl : lo ≤ hi) (hh : hi < 32) :
    (s.setBits a hi lo v).bits a h l = s.bits a h l := by
  simp only [State.bits, rd_setBits, if_true, wbits_wset_other d hl hh]

@[simp] theorem bit_setBit {a i : Nat} (b : Bool) (hi : i < 32) : (s.setBit a i b).bit a i = b := by
  simp only [State.bit, State.setBit, rd_setBits, if_true, wbit_eq_wbits, wbits_wset hi]
  have : i + 1 - i = 1 := by omega
  cases b <;> simp [this]

theorem bit_setBit_other {a i j : Nat} (b : Bool) (h : j ≠ i) (hi : i < 32) : (s.setBit a i b).bit a j = s.bit a j := by
  simp only [State.bit, State.setBit, rd_setBits, if_true, wbit_eq_wbits]
  rw [wbits_wset_other (by omega) (by omega) hi]

theorem bits_wr_other {a b : Nat} (v : Word) (hi lo : Nat) (h : b ≠ a) : (s.wr a v).bits b hi lo = s.bits b hi lo := by
  simp [State.bits, rd_wr_other s v h]

/-! ### Cores -/

theorem CoreId.num_inj : ∀ {a b : CoreId}, a.num = b.num → a = b := by
  rintro (⟨⟨⟩⟩ | _ | _ | ⟨t, l⟩) (⟨⟨⟩⟩ | _ | _ | ⟨u, m⟩) h <;> simp only [CoreId.num] at h <;> first
    | rfl
    | omega
    | (obtain rfl : t = u := Fin.ext (by omega); obtain rfl : l = m := Fin.ext (by omega); rfl)

theorem core_setCore (a b : CoreId) (c : CoreSt) : (s.setCore a c).core b = if b = a then c else s.core b := by
  simp only [State.core, State.setCore, sget_sset]
  by_cases h : b = a
  · simp [h]
  · rw [if_neg h, if_neg fun e => h (CoreId.num_inj e)]

@[simp] theorem core_setCore_same (a : CoreId) (c : CoreSt) : (s.setCore a c).core a = c := by simp [core_setCore]

theorem core_setCore_other {a b : CoreId} (c : CoreSt) (h : b ≠ a) : (s.setCore a c).core b = s.core b := by
  simp [core_setCore, h]

/-! ### Shared operations over registers -/

/-- A W1C bit set by an event: what software clears and sees elsewhere is untouched. -/
theorem rd_again (a i q : Nat) : (s.again a i).rd q = s.rd q := rfl
theorem rd_flag_other (a i : Nat) {q : Nat} (h : q ≠ a) : (s.flag a i).rd q = s.rd q := by
  unfold State.flag; rw [rd_again, rd_setBit_other _ _ _ h]
theorem rd_cleared (a q : Nat) (m : Word) : (s.cleared a m).rd q = s.rd q := rfl
theorem rd_wrote (a q : Nat) : (s.wrote a).rd q = s.rd q := by unfold State.wrote; split <;> rfl

/-- An edge on a source either sets its pending bit or, while DC0 is not ON, is lost; no other register changes. -/
theorem raiseIrq_rd (n a : Nat) (h : a ≠ Reg.MILL_IRQ_PEND (n / 32)) : (s.raiseIrq n).rd a = s.rd a := by
  unfold State.raiseIrq; split
  · exact rd_flag_other s _ _ h
  · rfl

/-- A status bit set may raise its source; no register but the status register and the pending one changes. -/
theorem setStat_rd (st en src i a : Nat) (h : a ≠ st) (hp : a ≠ Reg.MILL_IRQ_PEND (src / 32)) :
    (s.setStat st en src i).rd a = s.rd a := by
  unfold State.setStat; split
  · rfl
  · dsimp only; split
    · rw [raiseIrq_rd _ _ _ hp, rd_flag_other _ _ _ h]
    · rw [rd_flag_other _ _ _ h]

/-- Of a state, an edge and a status bit change registers alone, and the note of this instant. -/
theorem raiseIrq_onlyRegs (n : Nat) :
    s.raiseIrq n = { s with regs := (s.raiseIrq n).regs, inst := (s.raiseIrq n).inst } := by
  unfold State.raiseIrq; split <;> rfl

theorem setStat_onlyRegs (st en src i : Nat) :
    s.setStat st en src i = { s with regs := (s.setStat st en src i).regs, inst := (s.setStat st en src i).inst } := by
  unfold State.setStat; split
  · rfl
  · dsimp only; split
    · rw [raiseIrq_onlyRegs]; rfl
    · rfl

/-- A block without power takes part in nothing. -/
theorem ifOn_on {n : Nat} {f : State → State} (h : s.domOn n = true) : s.ifOn n f = f s := by simp [State.ifOn, h]
theorem ifOn_off {n : Nat} {f : State → State} (h : s.domOn n = false) : s.ifOn n f = s := by simp [State.ifOn, h]

end Sys2Proof.Machine
end

