-- ==== Sys2Proof/Laws/Core.lean ====
section
/-! SUPPORT. Cores: general and state registers after a write, and what issuing, retiring and finishing a unit do. -/

namespace Sys2Proof.Machine

/-! ### Registers of a core -/

theorem CoreSt.g_zero (c : CoreSt) : c.g 0 = 0 := rfl

theorem CoreSt.g_setG (c : CoreSt) (w : Nat) (d r : BitVec 6) (v : DWord) :
    (c.setG w d v).g r = if r = d ∧ r ≠ 0 then BitVec.ofNat 64 (v.toNat % 2 ^ w) else c.g r := by
  unfold CoreSt.setG CoreSt.g
  by_cases hd : d = 0
  · subst hd; by_cases hr : r = 0 <;> simp [hr]
  · by_cases hr : r = 0
    · simp [hr]
    · simp only [hd, hr, if_false, sget_sset, BitVec.toNat_inj, ne_eq, not_false_eq_true, and_true]

theorem CoreSt.srN_setSr (c : CoreSt) (m n v : Nat) :
    (c.setSr m v).srN n = if n = m then v % 2 ^ 64 else c.srN n := by
  unfold CoreSt.srN CoreSt.setSr
  simp only [sget_sset]
  split <;> simp

section
variable (c : CoreSt) (n v w : Nat) (d r : BitVec 6) (x : DWord)
@[simp] theorem CoreSt.g_setSr : (c.setSr n v).g r = c.g r := rfl
@[simp] theorem CoreSt.pc_setSr : (c.setSr n v).pc = c.pc := rfl
@[simp] theorem CoreSt.pfx_setSr : (c.setSr n v).pfx = c.pfx := rfl
@[simp] theorem CoreSt.run_setSr : (c.setSr n v).run = c.run := rfl
@[simp] theorem CoreSt.resv_setSr : (c.setSr n v).resv = c.resv := rfl
@[simp] theorem CoreSt.evt_setSr : (c.setSr n v).evt = c.evt := rfl
@[simp] theorem CoreSt.sr_setG : (c.setG w d x).sr = c.sr := by unfold CoreSt.setG; split <;> rfl
@[simp] theorem CoreSt.srN_setG : (c.setG w d x).srN n = c.srN n := by simp [CoreSt.srN]
@[simp] theorem CoreSt.pc_setG : (c.setG w d x).pc = c.pc := by unfold CoreSt.setG; split <;> rfl
@[simp] theorem CoreSt.pfx_setG : (c.setG w d x).pfx = c.pfx := by unfold CoreSt.setG; split <;> rfl
@[simp] theorem CoreSt.run_setG : (c.setG w d x).run = c.run := by unfold CoreSt.setG; split <;> rfl
@[simp] theorem CoreSt.resv_setG : (c.setG w d x).resv = c.resv := by unfold CoreSt.setG; split <;> rfl
@[simp] theorem CoreSt.evt_setG : (c.setG w d x).evt = c.evt := by unfold CoreSt.setG; split <;> rfl
@[simp] theorem CoreSt.unitLen_setG : (c.setG w d x).unitLen = c.unitLen := by simp [CoreSt.unitLen]
end

/-! ### A unit -/

theorem pow_coreWidth_le (c : CoreId) : 2 ^ coreWidth c ≤ 2 ^ 64 := by cases c <;> simp [coreWidth]

/-- A ready core whose unit is legal does the unit's own effect. -/
theorem issue_ready {s : State} {c : CoreId} {i : Insn} {body : CoreSt → State} (h : Ready c s)
    (ok : i.illegal c (s.core c) = false) : s.issue c i body = body (s.core c) := by
  obtain ⟨h1, h2⟩ := h
  simp [State.issue, h1, h2, ok]

/-- A ready core whose unit is illegal takes the ILLEGAL trap, with the unit's first word as trap value. -/
theorem issue_illegal {s : State} {c : CoreId} {i : Insn} {body : CoreSt → State} (h : Ready c s)
    (bad : i.illegal c (s.core c) = true) :
    s.issue c i body = s.takeTrap c Cause.illegal ((s.core c).firstWord i.word) := by
  obtain ⟨h1, h2⟩ := h
  simp [State.issue, h1, h2, bad]

/-- What retiring leaves in the core. -/
theorem core_retireTo (s : State) (c : CoreId) (k : CoreSt) (t p next : Nat) :
    ((s.retireTo c k t p next).core c) =
      { (k.setSr 1 ((k.srN 1 + s.unitCycles c k t p) % 2 ^ coreWidth c)).setSr 2
          (((k.srN 2) + 1) % 2 ^ coreWidth c) with
        pc := BitVec.ofNat 64 (next % 2 ^ coreWidth c), pfx := none } := by
  unfold State.retireTo
  cases c <;> simp [CoreSt.srN, CoreSt.setSr]

/-- Retiring changes nothing outside its core but the address and cycle count a lane shows. -/
theorem onlyCore_retireTo (s : State) (c : CoreId) (k : CoreSt) (t p next : Nat) : OnlyCore c s (s.retireTo c k t p next) := by
  unfold State.retireTo
  cases c with
  | lane x l =>
    refine ⟨by simp [State.wrN, State.wr, State.setLane, State.setCore], fun o h => ?_, fun a h => ?_, fun j h => ?_⟩
    · simp [core_setCore_other _ _ h]
    · have : a ≠ Reg.PRS_T_L_PC x l := fun e => h (by simp [pcShown, e])
      simp [rd_wrN_other _ _ this]
    · exact sget_sset_other (h x l rfl)
  | _ =>
    refine ⟨by simp [State.setCore, State.used], fun o h => by simp [core_setCore_other _ _ h], fun a _ => rfl, fun _ _ => rfl⟩

/-- A retired unit: INSTRET has counted it, and of the state registers only CYCLE has changed besides. -/
theorem retired_retireTo {s : State} {c : CoreId} {k : CoreSt} {t p next : Nat} {q : Nat → Prop} (hrun : k.run = .running)
    (h2 : k.srN 2 = (s.core c).srN 2) (hsr : ∀ n, n ≠ 1 → n ≠ 2 → ¬q n → k.srN n = (s.core c).srN n) :
    Retired q c next s (s.retireTo c k t p next) := by
  have hw := pow_coreWidth_le c
  have hp := Nat.two_pow_pos (coreWidth c)
  unfold Retired
  rw [core_retireTo]
  refine ⟨?_, rfl, hrun, ?_, fun n n1 n2 nq => ?_⟩
  · simp only [BitVec.toNat_ofNat]
    exact Nat.mod_eq_of_lt (Nat.lt_of_lt_of_le (Nat.mod_lt _ hp) hw)
  · have : ((k.srN 2 + 1) % 2 ^ coreWidth c) % 2 ^ 64 = (k.srN 2 + 1) % 2 ^ coreWidth c :=
      Nat.mod_eq_of_lt (Nat.lt_of_lt_of_le (Nat.mod_lt _ hp) hw)
    have e : CoreSt.srN { (k.setSr 1 ((k.srN 1 + s.unitCycles c k t p) % 2 ^ coreWidth c)).setSr 2 ((k.srN 2 + 1) % 2 ^ coreWidth c) with
        pc := BitVec.ofNat 64 (next % 2 ^ coreWidth c), pfx := none } 2 =
        ((k.setSr 1 ((k.srN 1 + s.unitCycles c k t p) % 2 ^ coreWidth c)).setSr 2 ((k.srN 2 + 1) % 2 ^ coreWidth c)).srN 2 := rfl
    rw [e, CoreSt.srN_setSr, if_pos rfl, this, h2]
  · rw [← hsr n n1 n2 nq]
    have e : CoreSt.srN { (k.setSr 1 ((k.srN 1 + s.unitCycles c k t p) % 2 ^ coreWidth c)).setSr 2 ((k.srN 2 + 1) % 2 ^ coreWidth c) with
        pc := BitVec.ofNat 64 (next % 2 ^ coreWidth c), pfx := none } n =
        ((k.setSr 1 ((k.srN 1 + s.unitCycles c k t p) % 2 ^ coreWidth c)).setSr 2 ((k.srN 2 + 1) % 2 ^ coreWidth c)).srN n := rfl
    rw [e, CoreSt.srN_setSr, if_neg n2, CoreSt.srN_setSr, if_neg n1]

/-- Finishing a unit writes its destination, and nothing else. -/
theorem wrote_finish {s : State} {c : CoreId} {t p : Nat} {d : BitVec 6} {v : DWord} (hrun : (s.core c).run = .running) :
    Wrote c d v s (s.finish c (s.core c) t p d v) := by
  unfold Wrote WroteAt State.finish State.retire
  refine ⟨?_, fun r => ?_, onlyCore_retireTo .., ?_, ?_⟩
  · have := retired_retireTo (s := s) (c := c) (k := (s.core c).setG (coreWidth c) d v) (t := t) (p := p)
      (next := (s.core c).pc.toNat + (s.core c).unitLen) (q := fun _ => False) (by simpa using hrun) (by simp) (by simp)
    simpa [nextPc, CoreSt.unitLen] using this
  · rw [core_retireTo]; exact CoreSt.g_setG ..
  · rw [core_retireTo]; simp
  · rw [core_retireTo]; simp

/-- A unit that writes no register goes to its target, and nothing else changes. -/
theorem wentTo_retireTo {s : State} {c : CoreId} {t p next : Nat} (hrun : (s.core c).run = .running) :
    WentTo c next s (s.retireTo c (s.core c) t p next) := by
  refine ⟨retired_retireTo hrun rfl (fun _ _ _ _ => rfl), fun r => ?_, onlyCore_retireTo .., ?_, ?_⟩ <;> rw [core_retireTo] <;> rfl

end Sys2Proof.Machine
end

