-- ==== Sys2Proof/Tests/Slice0.lean ====
section
/-! SUPPORT. Tests: every statement's hypotheses can be met, ill-formed commands are refused, and results the spec states. -/

namespace Sys2Proof.Tests

open Sys2Proof Sys2Proof.Machine

-- One theorem after another: elaborated side by side, those that wait for the kernel hold a thread and its stack each.
set_option Elab.async false

/-! ### States the witnesses stand in -/

/-- The state after reset with domains ON. -/
def onDoms (ds : List Nat) : State := ds.foldl (fun s n => s.setBits (Reg.PWR_DC_STAT n) 3 0 3) State.reset

/-- A core at its start address, running. -/
def runAt (c : CoreId) (s : State) : State := s.setCore c { coreHeld with run := .running }

def wCore (c : CoreId) : State := runAt c State.reset

/-- The same with a general register set. -/
def withG (c : CoreId) (r : BitVec 6) (v : DWord) (s : State) : State := s.setCore c ((s.core c).setG 64 r v)

/-- The same with a state register set. -/
def withSr (c : CoreId) (n v : Nat) (s : State) : State := s.setCore c ((s.core c).setSr n v)

/-- The state a command leads to. -/
def outS (o : Out1) : State := match o with | .next t => t | _ => State.reset

/-- A general register after a command. -/
def gAfter (i : Instr) (c : CoreId) (r : BitVec 6) (s : State) : DWord := ((outS (exec i s)).core c).g r

abbrev m0 : CoreId := .mill false
abbrev ln : CoreId := .lane 1 2

/-! ### Registers, accesses, the Felt: the hypotheses can be met -/

theorem witness_wf : State.reset.wf = true ∧ (∃ t, step State.reset = .next t) := ⟨by decide, _, rfl⟩

theorem witness_regFam : (∃ f, regFam Reg.NBB_STAT = some f ∧ f.base ≠ 0x200210024 ∧ f.base ≠ 0x200210034) ∧ regFam 0x2010FFFFC = none :=
  ⟨⟨_, rfl, by decide⟩, by decide⟩

/-- The first and the last address of a hole, and the edges of the MILL window (R36, R37). -/
theorem witness_register_writes : (0x40000 ≤ 0x40000 ∧ (0x3FFFFFFF : Nat) < 0x40000000) ∧ (0x870000000 : Nat) < 2 ^ 40 ∧
    inWindows 0x201000000 = true ∧ inWindows 0x2010FFFFE = true ∧ (0x2010FFFFE : Nat) % 4 ≠ 0 ∧ (0x200000FFC : Nat) / 0x100000 = 0x2000 ∧
    (0x200F00000 : Nat) / 0x100000 = 0x200F ∧ Reg.MILL_IRQ_SWI % 4 = 0 ∧ 0x201000000 ≤ Reg.MILL_IRQ_SWI ∧ Reg.MILL_IRQ_SWI < 0x201100000 ∧
    (onDoms [0]).domOn 0 = true := by decide

theorem witness_unlisted : Unlisted 0x40000 ∧ Unlisted 0x870000000 ∧ Unlisted 0x201100000 := by unfold Unlisted; decide

/-- Windows of a domain that is OFF, contained, or with WAKE clear. -/
theorem witness_access_stall : addrDomain 0x800000000 = some 0 ∧ State.reset.domOn 0 = false ∧ State.reset.contained 0 = false ∧
    (State.reset.setBit (Reg.PWR_DC_STAT 0) 3 true).contained 0 = true ∧ (State.reset.setBit (Reg.PWR_DC_CTL 0) 2 false).bit (Reg.PWR_DC_CTL 0) 2 = false ∧
    (State.reset.setBit (Reg.PWR_DC_CTL 0) 2 true).bit (Reg.PWR_DC_CTL 0) 2 = true ∧ (0x86FFFFFFC : Nat) + 4 ≤ 0x870000000 ∧
    (∃ f, regFam Reg.MILL_FELT_STAT = some f ∧ f.wo = 0) := ⟨by decide, by decide, by decide, by decide, by decide, by decide, by decide, _, rfl, rfl⟩

/-- A register read, and a load of Mill-1, that have waited 2 ms. -/
def wStalled (op : StallOp) : State := { (runAt (.mill true) State.reset) with
  clk := 2000000, tnd := { tndReset with stalls := [⟨.mill1, 2, 0x200400000, 9, 0, op⟩] } }

theorem witness_stall_timeout : (wStalled .busRead).tnd.stalls[0]? = some ⟨.mill1, 2, 0x200400000, 9, 0, .busRead⟩ ∧
    0 + 2000000 ≤ (wStalled .busRead).clk ∧ (wStalled (.load 1 3 4 false 0x200400000)).tnd.stalls[0]? = some ⟨.mill1, 2, 0x200400000, 9, 0, .load 1 3 4 false 0x200400000⟩ ∧
    ((wStalled (.load 1 3 4 false 0x200400000)).core (.mill true)).ms 10 10 = 0 := by decide

/-- Slots as after reset (none owned); slot 0 owned by channel 5 of station 2; a reserved station in slot 1. -/
def wSlots (v : Nat) : State := ((onDoms [0, 1, 2]).wrN (Reg.MILL_FELT_SLOT 0) 0x52).wrN (Reg.MILL_FELT_SLOT 1) v

theorem witness_felt_tables : (wSlots 15).bits (Reg.MILL_FELT_SLOT 0) 3 0 = 2 ∧ (wSlots 13).bits (Reg.MILL_FELT_SLOT 1) 3 0 = 13 ∧
    ((wSlots 15).setBit Reg.MILL_FELT_CTL 1 true).bit Reg.MILL_FELT_CTL 1 = true ∧ (wSlots 15).bit Reg.MILL_FELT_CTL 1 = false ∧
    ((wSlots 15).setBit Reg.MILL_FELT_CTL 0 true).bit Reg.MILL_FELT_CTL 0 = true ∧ (wSlots 15).felt.slotEn = false ∧
    (48 < ((List.range 64).filter fun n => (wSlots 15).bits (Reg.MILL_FELT_SLOT n) 3 0 ≠ 15).length ∨ ((List.range 64).filter fun n =>
      (wSlots 15).bits (Reg.MILL_FELT_SLOT n) 3 0 ≠ 15).length ≤ 48) := by decide

/-- Channel 5 of station 2 owns a slot; a message is pending, or injected; tile 1 (station 3) binds the channel in mailbox 4. -/
def wFelt (inj : Bool) : State :=
  let s := ((onDoms [0, 1, 2]).wrN (Reg.MILL_FELT_ACT 0) 0x52).wrN (Reg.PRS_T_RX_CFG 1 4) 0x4052
  { s with felt := { feltReset with slotEn := true, ch := [(64 * 2 + 5, if inj then ⟨none, some [7]⟩ else ⟨some [7], none⟩)] } }

theorem witness_felt_messages : ((wFelt false).feltCh 2 5).pend = some [7] ∧ ((wFelt false).feltCh 2 5).inj = none ∧ ownsSlot (wFelt false) 2 5 = true ∧
    (wFelt false).felt.slotEn = true ∧ ((wFelt true).feltCh 2 5).inj = some [7] ∧ (wFelt true).domOn (stationDomain 2) = true ∧
    ownsSlot (wFelt true) 2 6 = false ∧ State.reset.domOn (stationDomain 12) = false := by decide

theorem witness_felt_one_tile : (wFelt true).domOn (1 + 1) = true ∧ prsBinds (wFelt true) 1 4 2 5 = true ∧ prsBinds (wFelt true) 1 5 2 5 = false ∧
    (List.range 13).all (fun e => addressed (wFelt true) e 2 5 == (e == 2 + 1)) = true := by decide

theorem witness_felt_none : (List.range 13).all (fun d => !addressed (onDoms [0]) d 2 5) = true := by decide

/-- A sleeping station that bound the channel when its domain went (R33). -/
theorem witness_felt_asleep : (List.range 13).all (fun e => addressed { (onDoms [0]) with felt := { feltReset with kept := [(10, [(2, 5)])] } } e 2 5 ==
    (e == 10)) = true ∧ (onDoms [0]).domOn (stationDomain 10) = false := by decide

/-- A register of the Tender's that has changed in this instant (R405). -/
theorem witness_moving : let s := State.reset.setBit Reg.TND_STAT 1 true
    s.rd Reg.TND_STAT ≠ s.atStart Reg.TND_STAT ∧ Reg.TND_STAT ∉ s.inst.sw ∧ 0x200000000 ≤ Reg.TND_STAT ∧ Reg.TND_STAT < 0x200100000 ∧
    Reg.TND_STAT ≠ Reg.TND_RTC_LO ∧ Reg.TND_STAT ≠ Reg.TND_RTC_HI ∧ ∃ f, regFam Reg.TND_STAT = some f ∧ f.wo = 0 ∧ f.rc = 0 := by
  refine ⟨?_, ?_, ?_, ?_, ?_, ?_, _, rfl, ?_, ?_⟩ <;> decide +kernel

/-- The 255th pulse of a handshake crosses, the 256th is lost with OVERFLOW (R406). -/
def wPulses (n : Nat) : State := let s := onDoms [0]; { s with inst := { s.inst with pulses := [(3, n)] } }

theorem test_pulse : ((wPulses 254).pulse 0 3 fun s => s.raiseIrq 3).bit (Reg.MILL_IRQ_PEND 0) 3 = true ∧
    ((wPulses 255).pulse 0 3 fun s => s.raiseIrq 3).bit (Reg.MILL_IRQ_PEND 0) 3 = false ∧
    ((wPulses 255).pulse 0 3 fun s => s.raiseIrq 3).bit (Reg.PWR_DC_STAT 0) 9 = true := by decide +kernel

/-! ### The station-keeping library: the hypotheses can be met -/

theorem memWords_empty (n : Nat) : ∀ a, memWords zeroByte [] a n = List.replicate n 0 := by
  induction n with
  | zero => intro a; rfl
  | succ n ih => intro a; simp [memWords, ih, memRd, sget, zeroByte, List.replicate_succ]

/-- A DRAM never written holds no input block: every field has its default (R73). -/
theorem inRaw_empty (s : State) (h : s.dram = []) (o : actsHolder s = true) (i : s.lib.input = []) : inRaw s = (List.range 128).map inDefault := by
  unfold inRaw State.dramWords
  rw [h, i, o]
  simp only [Bool.not_true, Bool.false_eq_true, if_false]
  split <;> simp [memWords_empty]

/-- A holder, and a module that holds nothing; in degradation step d; every stage is due. -/
def wLib (hold : Bool) (d : Nat) : State :=
  let s := ((onDoms [0, 1]).setBits Reg.PAIR_LEASE_STAT 1 0 (if hold then 1 else 0)).setBits Reg.FSN_DEGR_STAT 2 0 d
  { s with lib := { s.lib with due := 73 } }

theorem witness_takes_input : holder (wLib true 0) = true ∧ (wLib true 0).domOn 0 = true ∧ (1 : BitVec 40).toNat % 64 ≠ 0 ∧
    holder (wLib false 0) = false ∧ twinNow (wLib false 0) = false ∧ State.reset.domOn 0 = false ∧ (wLib true 0).lib.mode ≠ 6 ∧
    fbit (wLib true 0).lib.due 0 = true ∧ fbit (wLib true 0).lib.due 3 = true ∧ fbit (wLib true 0).lib.due 6 = true ∧ fbit libReset.due 0 = false := by decide

/-- The request in the default block is the one last taken; with another one taken last it is new; a torn block has another word 0. -/
theorem witness_requests : (wAt (inRaw (wLib true 0)) 0).toNat / 65536 = (wLib true 0).lib.reqSeq ∧
    (wAt (inRaw { wLib true 0 with lib := { libReset with reqSeq := 9 } }) 0).toNat / 65536 ≠ 9 ∧
    (0x10000 : Word).toNat / 65536 ≠ (wAt (inRaw (wLib true 0)) 0).toNat / 65536 := by
  rw [inRaw_empty _ rfl (by decide) rfl, inRaw_empty _ rfl (by decide) rfl]; decide

/-- The default block's request passes (R51: STANDBY always may). -/
theorem witness_result : (wAt (inRaw (wLib true 4)) 0).toNat % 8 ≤ 1 := by rw [inRaw_empty _ rfl (by decide) rfl]; decide

def wLaw (mode d : Nat) (engage : Option Nat) : State :=
  let s := wLib true d
  { s with lib := { s.lib with mode := mode, engage := engage } }

/-- Not overrun: the lanes stand; one trapped. An engagement in D0, a hand-over in D4 (R60). -/
theorem witness_law : (wLaw 1 0 none).domOn 0 = true ∧ (wLaw 1 0 none).domOn 1 = true ∧ (wLaw 1 0 none).lib.mode = 1 ∧
    (wLaw 4 0 none).lib.engage = none ∧ (wLaw 4 0 none).lib.mode = 4 ∧ (wLaw 0 0 none).lib.mode = 0 ∧ (onDoms [0]).domOn 1 = false ∧
    (wLaw 3 0 (some 3)).lib.engage = some 3 ∧ (wLaw 3 4 none).bits Reg.FSN_DEGR_STAT 2 0 = 4 ∧ (wLaw 3 0 none).bits Reg.FSN_DEGR_STAT 2 0 ≤ 2 ∧
    (∀ l : Fin 8, ((wLaw 1 0 none).core (.lane 0 l)).run ≠ .trapped) ∧ (wLaw 1 0 none).lib.estNew = none ∧
    (((wLaw 1 0 none).setCore (.lane 0 2) { coreHeld with run := .trapped }).core (.lane 0 2)).run = .trapped := by decide

/-- A WATCH module sends nothing; SOLO sends; past +18.0 ms and at it (R69). -/
def wPub (mode t0 now : Nat) : State :=
  let s := ((wLib false 0).setBits Reg.PAIR_CFG 2 1 mode).wrN Reg.TIM_NOW now
  { s with lib := { s.lib with t0 := t0 } }

theorem witness_publication : holder (wPub 1 0 0) = false ∧ pairMode (wPub 1 0 0) = 1 ∧ twinNow (wPub 1 0 0) = false ∧ pairMode (wPub 0 0 0) ≠ 1 ∧
    (wPub 0 0 18000001).lib.t0 + 18000000 < (wPub 0 0 18000001).ext ∧ (wPub 0 0 18000000).ext ≤ (wPub 0 0 18000000).lib.t0 + 18000000 := by decide

/-- The first cycle of the worked example's ramp moves the set-point by ½ × 0.05 × 0.02² = 10 µm; a half turn goes clockwise (R61). -/
theorem test_ramp_first_cycle : (0x3EE4F8B588000000 ≤ (profStep 0x40298F5C28F5C28F 0 0x3FE0000000000000 (fOf32 0x3D4CCCCD)).1 ∧
    (profStep 0x40298F5C28F5C28F 0 0x3FE0000000000000 (fOf32 0x3D4CCCCD)).1 ≤ 0x3EE4F8B590000000) ∧
    turnTo 0 f180 = f180 ∧ turnTo f180 0 = f180 ∧ turnTo 0x4075E00000000000 0x4024000000000000 = 0x4034000000000000 := by decide +kernel

/-- A drive-tick loop moves an rpm set-point by at most a thousandth of its limit a second; within it, it arrives (R48). -/
theorem test_approach : (approach 0 0x42C80000 0x41200000).2 = true ∧ (approach 0x42C80000 0x42C80000 0x41200000) = (0x42C80000, false) ∧
    (approach 0 0x3C23D70A 0x42C80000) = (0x3C23D70A, false) := by decide +kernel

/-- Along a table the speed is carried round a waypoint: 1.5 of a way over (1, 0) and (1, 3) ends at (1, 0.5) (R58). -/
theorem test_goAlong : goAlong (0, 0) [(0x3FF0000000000000, 0), (0x3FF0000000000000, 0x4008000000000000)] 0x3FF8000000000000 =
    ((0x3FF0000000000000, 0x3FE0000000000000), 1) := by decide +kernel

theorem witness_drive : let s := { onDoms [0, 1, 2, 3, 4] with lib := { libReset with record := [1], applied := [1] } }
    (∀ n, n < 5 → s.domOn n = true) ∧ s.lib.record ≠ [] ∧ s.lib.applied ≠ [] := by decide

/-! ### Fliqua cores: the hypotheses can be met -/

theorem witness_ready : Ready m0 (wCore m0) ∧ Ready .tender (wCore .tender) ∧ Ready .deckle (wCore .deckle) ∧ Ready ln (wCore ln) := by
  unfold Ready; decide

theorem witness_noPfx : NoPfx m0 (wCore m0) ∧ NoPfx .tender (wCore .tender) ∧ NoPfx .deckle (wCore .deckle) ∧ NoPfx ln (wCore ln) := by
  unfold NoPfx; decide

theorem witness_hasReg : HasReg m0 63 ∧ HasReg .tender 15 ∧ HasReg .deckle 15 ∧ HasReg ln 31 ∧ HasReg ln 0 := by
  unfold HasReg; decide

/-- A core behind an L prefix (R82). -/
def wPfx (c : CoreId) : State := (wCore c).setCore c { coreHeld with run := .running, pfx := some 5 }

theorem witness_prefixed : Ready m0 (wPfx m0) ∧ Ready ln (wPfx ln) ∧ ((wPfx m0).core m0).pfx ≠ none := by
  unfold Ready; decide

theorem witness_shift_and_fqm : (13 : BitVec 14).toNat < coreWidth ln ∧ coreWidth m0 = 64 ∧ coreWidth ln = 32 := by decide

/-- JR with an aligned and a misaligned target (R94). -/
theorem witness_jumps : (((wCore m0).core m0).g 0 + sImm m0 (wCore m0) 8).toNat % 2 ^ coreWidth m0 % 4 = 0 ∧
    (((wCore m0).core m0).g 0 + sImm m0 (wCore m0) 6).toNat % 2 ^ coreWidth m0 % 4 ≠ 0 := by decide

/-- Each level reaches the first and the last word of its data memory (R36, R126, R296, R382). -/
def wData (c : CoreId) (a : DWord) : State := withG c 2 a (runAt c (onDoms [0]))

theorem witness_access : (accAddr m0 (wData m0 0x86FFFFFF8) 2 0 % 8 = 0 ∧ Within m0 (accAddr m0 (wData m0 0x86FFFFFF8) 2 0) 8) ∧
    (accAddr .tender (wData .tender 0x10000) 2 0 % 4 = 0 ∧ Within .tender (accAddr .tender (wData .tender 0x10000) 2 0) 4) ∧
    (accAddr .deckle (wData .deckle 0x1000FFFE) 2 0 % 2 = 0 ∧ Within .deckle (accAddr .deckle (wData .deckle 0x1000FFFE) 2 0) 2) ∧
    (accAddr ln (wData ln 0x10010) 2 0x3FFF % 1 = 0 ∧ Within ln (accAddr ln (wData ln 0x10010) 2 0x3FFF) 1) := by
  unfold Within; decide

theorem witness_open : Open m0 .load 0x86FFFFFF8 8 (wData m0 0) ∧ Open m0 .store 0x86FFFFFF8 8 (wData m0 0) ∧ Open ln .load 0x10010 1 (wData ln 0) := by
  refine ⟨⟨by decide, by decide, by decide, fun _ w _ _ => rfl⟩, ⟨by decide, by decide, by decide, nofun⟩, trivial⟩

/-- A word of DRAM that an uncorrectable error has hit, and an uncorrectable beat under way (R32, R113). -/
theorem witness_errors :
    let bad := { wData m0 0 with dramBad := sset (fun _ => false) [] 5 true }
    let beat := { wData m0 0 with felt := { (wData m0 0).felt with hit := true } }
    sget (fun _ => false) bad.dramBad (ownAt m0 0x800000014 / 4) = true ∧ bad.felt.hit = false ∧ bad.domOn 0 = true ∧
    permitted (bad.core m0) .load 0x800000014 = true ∧ beat.felt.hit = true ∧ permitted (beat.core m0) .store 0x800000014 = true := by
  decide

theorem witness_access_traps : accAddr ln (wData ln 0x10001) 2 0 % 2 ≠ 0 ∧ accAddr ln (wData ln 0x10002) 2 0 % 4 ≠ 0 ∧
    accAddr m0 (wData m0 0x800000004) 2 0 % 8 ≠ 0 ∧ accAddr ln (wData ln 0x60004) 2 0 % 4 = 0 ∧ ((wData m0 0).core m0).level = 2 := by
  decide

theorem witness_exclusive : (0x800000040 : Nat) % 8 = 0 ∧ Within m0 0x800000040 8 ∧ permitted ((wData m0 0).core m0) .store 0x800000040 = true ∧
    ((wData m0 0).core m0).resv ≠ some (0x800000040 / 64) ∧ (0x800000044 : Nat) % 8 ≠ 0 := by
  unfold Within; decide

theorem witness_fp : m0 ≠ .tender ∧ m0 ≠ .deckle ∧ (4 : BitVec 3).toNat < 5 ∧ ln ≠ .tender ∧ ln ≠ .deckle := by decide

theorem witness_nans : isNan f32 0x7FC00001 = true ∧ isNan f64 0xFFF0000000000001 = true ∧ isNan f32 0x7F800000 = false := by decide

theorem witness_stateRegisters : srExists m0 0x2011 = true ∧ srExists ln 0 = true ∧ srExists .tender 0x2000 = true ∧ srReadOnly 1 = true ∧
    srReadOnly 0x2011 = false ∧ (((withSr m0 0x2011 0x80 (wCore m0)).core m0).srN 0x2011).testBit 7 = true ∧
    ((withSr m0 0x2000 1 (wCore m0)).core m0).level < 0x2000 / 4096 := by decide

/-- Level 1 with cause 13 delegated; MTRAP set; level 0 (R112). -/
theorem witness_traps : ((withSr m0 0x2000 1 (withSr m0 0x2008 0x2000 (wCore m0))).core m0).level < 2 ∧
    (((withSr m0 0x2008 0x2000 (wCore m0)).core m0).srN 0x2008).testBit 13 = true ∧
    ((withSr m0 0x2000 0x402 (wCore m0)).core m0).ms 10 10 = 1 ∧ ((wCore .tender).core .tender).level = 2 ∧
    ((wCore .tender).core .tender).ms 10 10 = 0 ∧ State.reset.bits Reg.DKL_STATE 1 0 ≠ 2 ∧
    ((withSr m0 0x2000 0 (wCore m0)).core m0).level = 0 := by decide

/-- A WAIT that completes at once on its event latch, one that MSTATUS.TW forbids, and one that a timeout wakes (R107, R108). -/
def wWaits : State := { (State.reset.setCore m0 { coreHeld with run := .waiting 3 0 40 }) with clk := 40 }

theorem witness_waits : (mip (wCore m0) m0 &&& ((wCore m0).core m0).srN 0x2006) = 0 ∧
    ((withSr m0 0x2000 0x801 (wCore m0)).core m0).ms 11 11 = 1 ∧ ((withSr m0 0x2000 0x801 (wCore m0)).core m0).level < 2 ∧
    (wWaits.core m0).run = .waiting 3 0 40 ∧ 40 ≤ cyclesIn m0 (wWaits.clk - 0) := by decide

/-- Source 35 pending and routed to Mill-0 at level 2, and source 3 at level 1 (R116). -/
def wIrq (lvl src : Nat) : State :=
  withSr m0 0x2006 3 (runAt m0 (((onDoms [0]).wrN (Reg.MILL_IRQ_ROUTE src) (1 + 4 * lvl)).setBit (Reg.MILL_IRQ_PEND (src / 32)) (src % 32) true))

theorem witness_irq : (onDoms [0]).domOn 0 = true ∧ State.reset.domOn 0 = false ∧
    ((withSr m0 0x2000 1 (wIrq 1 35)).core m0).level < 2 ∧ ((wIrq 1 35).core m0).srN 0x2006 = 3 ∧ (wIrq 1 35).bit (Reg.MILL_IRQ_PEND 1) 3 = true ∧
    (wIrq 1 35).fetchCause m0 0 = none := by decide

theorem witness_millLine : millLine (wIrq 1 2) false 1 = some 2 := by decide

theorem witness_millLine_one : millLine (wIrq 0 2) false 1 = none := by decide

theorem witness_millLine_level1 : millLine (wIrq 0 2) false 0 = some 2 := by decide

theorem witness_lockstep : ((wCore m0).core m0).run ≠ .held ∧ ((wCore m0).core m0).run ≠ .stopped := by decide

theorem witness_illegal : ¬HasReg ln 32 ∧ ¬HasReg .tender 16 ∧ coreWidth ln ≤ (32 : BitVec 14).toNat := by unfold HasReg; decide

/-! ### Fliqua cores: results the spec states -/

/-- R88: −1 for a zero divisor; the most negative value for its division by −1. -/
theorem test_div_zero : gAfter (.div m0 3 1 2) m0 3 (withG m0 1 7 (wCore m0)) = 0xFFFFFFFFFFFFFFFF := by decide
theorem test_div_overflow : gAfter (.div ln 3 1 2) ln 3 (withG ln 1 0x80000000 (withG ln 2 0xFFFFFFFF (wCore ln))) = 0x80000000 := by decide

/-- R87: shift counts are taken modulo W. -/
theorem test_shl_wraps : gAfter (.shl ln 3 1 2) ln 3 (withG ln 1 3 (withG ln 2 33 (wCore ln))) = 6 := by decide

/-- R90: LIH fills bits [63:24]. -/
theorem test_lih : gAfter (.lih m0 3 1 0x3FFF) m0 3 (withG m0 1 0x1234567 (wCore m0)) = 0xFFFFFFFFFF234567 := by decide

/-- R99's example: 2,147,483,647.6 in binary64 to a signed 32-bit integer, to nearest and towards zero. -/
theorem test_fcvt_nearest : fcvt 64 true 0 5 0x41DFFFFFFFE66666 = (0x7FFFFFFF, 16) := by decide
theorem test_fcvt_zero : fcvt 64 true 1 5 0x41DFFFFFFFE66666 = (0x7FFFFFFF, 1) := by decide

/-- R97: the canonical quiet NaN. -/
theorem test_nan : (fpDiv f32 0 0 0).1 = 0x7FC00000 := by decide

/-- R80: g0 discards writes. -/
theorem test_g0 : gAfter (.addi m0 0 0 5) m0 0 (wCore m0) = 0 := by decide

/-- R91: LDB sign-extends; STB then LDBU reads the byte back. -/
theorem test_store_load : gAfter (.ldb ln 3 2 0) ln 3 (outS (exec (.stb ln 1 2 0) (withG ln 2 0x10010 (withG ln 1 0x80 (wCore ln))))) =
    0xFFFFFF80 := by decide

/-- R86's opcode map: 0x3F is not listed, nor fn 0x1B of ALU; the L of R82 is opcode 0x30. -/
theorem test_unlisted : fqDecode m0 0xFC000000 = none ∧ fqDecode m0 0x0400001B = none ∧ fqDecode m0 0x00000000 = none := by decide
theorem test_decode : fqDecode ln 0x0430A31A = some (.popc ln 3 2 35) ∧ fqDecode ln 0x1030BFFF = some (.addi ln 3 2 0x3FFF) ∧
    fqDecode ln 0xC0000005 = some (.lPrefix ln 0xC0000005) ∧ fqEncode (.addi ln 3 2 0x3FFF) = some (ln, 0x1030BFFF) := by decide

/-- R112: an interrupt of level 1 with STRAP set enters level 2. -/
theorem test_strap : ((outS (exec (.interruptEntry m0) (withSr m0 0x2000 0x204 (wIrq 0 35)))).core m0).level = 2 := by decide

/-! ### Press lanes: the hypotheses can be met -/

theorem witness_press_groups : (30 : BitVec 6).toNat % 2 = 0 ∧ (28 : BitVec 6).toNat % 4 = 0 ∧ ¬((28 : BitVec 6).toNat ≤ (3 : BitVec 6).toNat ∧
    (3 : BitVec 6).toNat ≤ (28 : BitVec 6).toNat + 3) := by decide

/-- A table of two entries at the end of data memory; the same misaligned; one entry (R147). -/
def wLut (a n : DWord) : State := withG ln 31 n (withG ln 28 a (wCore ln))

theorem witness_lut : ((wLut 0x11FF8 2).core ln).g 28 = 0x11FF8 ∧ (0x11FF8 : Nat) % 4 = 0 ∧ 0x11FF8 + 4 * 2 ≤ 0x12000 ∧
    (((wLut 0x11FF8 1).core ln).g 31).toNat < 2 ∧ (((wLut 0x11FF9 2).core ln).g 28).toNat % 4 ≠ 0 := by decide

/-- A lane in a period, with and without a missed event, overran or not; transmit channel 3 owned by it. -/
def wPeriod (ovr : Bool) (ev : SMap Nat) : State :=
  ((wCore ln).setLane 1 2 ⟨true, ovr, ev, 7⟩).setBits (Reg.PRS_T_TX_CFG 1 3) 3 0 10

theorem witness_sync : Ready ln (wPeriod true [(5, 1)]) ∧ (laneOf (wPeriod true [(5, 1)]) 1 2).inPeriod = true ∧
    sget (fun _ => 0) (laneOf (wPeriod true [(5, 1)]) 1 2).events 5 ≠ 0 ∧ sget (fun _ => 0) (laneOf (wPeriod false []) 1 2).events 5 = 0 ∧
    (laneOf (wCore ln) 1 2).inPeriod = false ∧ txOwned (wPeriod false []) 1 2 3 = true := by
  unfold Ready; decide

theorem witness_staged : (prsTxOf ((wPeriod false []).setPrsTx 1 3 ⟨[], [], [], some 8, 2⟩) 1 3).len = some 8 := by decide

def wSyncWait (ev : SMap Nat) : State :=
  ((onDoms [2]).setCore ln { coreHeld with run := .syncWait 3 5 true 0 }).setLane 1 2 ⟨false, false, ev, 0⟩

theorem witness_syncWake : (wSyncWait [(5, 1)]).domOn 2 = true ∧ ((wSyncWait [(5, 1)]).core ln).run = .syncWait 3 5 true 0 ∧
    sget (fun _ => 0) (laneOf (wSyncWait [(5, 1)]) 1 2).events 5 ≠ 0 ∧ sget (fun _ => 0) (laneOf (wSyncWait []) 1 2).events 5 = 0 ∧
    (wSyncWait [(5, 1)]).domOn 10 = false := by decide

/-- R133: a PUB outlives a change of its channel's owner, until its own lane's SYNC. -/
theorem test_pub_owner :
    let s := ((wCore ln).setBits (Reg.PRS_T_TX_CFG 1 3) 3 0 9).setPrsTx 1 3 ⟨[], [], [], some 8, 2⟩
    txOwned s 1 1 3 = true ∧ pubBy s 1 1 3 = false ∧ pubBy s 1 2 3 = true := by decide

theorem witness_pub : txOwned (wPeriod false []) 1 2 3 = true ∧ txOwned (wPeriod false []) 1 2 4 = false ∧
    (((withG ln 4 512 (wPeriod false [])).core ln).g 4).toNat = 512 := by decide

theorem witness_lane_states : (onDoms [2]).bits (Reg.PRS_T_L_STAT 1 2) 1 0 = 0 ∧
    ((onDoms [2]).setBits (Reg.PRS_T_L_STAT 1 2) 1 0 2).bits (Reg.PRS_T_L_STAT 1 2) 1 0 = 2 := by decide

theorem witness_press_host : prsHostMay 1 0x3FFFC ((onDoms [2]).setBits (Reg.PRS_T_BANK 1) 31 28 8) = true ∧
    prsHostMay 1 0x20000 ((onDoms [2]).setBits (Reg.PRS_T_L_STAT 1 0) 1 0 1) = false ∧ (onDoms [2]).domOn (1 + 1) = true ∧
    (0x1401 : Nat) % 2 ^ 10 ≠ (onDoms [2]).bits (Reg.PRS_T_RX_CFG 1 4) 9 0 ∧
    ((onDoms [2]).setBit (Reg.PRS_T_STAT 1) 9 true).bit (Reg.PRS_T_STAT 1) 9 = true ∧ (onDoms [2]).bit (Reg.PRS_T_STAT 1) 9 = false := by decide

/-- R148: −1 × −1 in Q15 is limited. -/
theorem test_qmul15_limits : gAfter (.qmul15 ln 3 1 2) ln 3 (withG ln 1 0x8000 (withG ln 2 0x8000 (wCore ln))) = 0x7FFF := by decide

/-- R143: lo above hi gives 1 where both tests hold. -/
theorem test_hys_order : gAfter (.hys ln 3 1 4) ln 3 (withG ln 1 0x3F800000 (withG ln 4 0x40000000 (wCore ln))) = 1 := by decide

/-! ### The Calender: the hypotheses can be met -/

/-- A descriptor of job 7 on tile 0: one iteration, a program of one macro-instruction at 0x08_0000_1000, a status record at
0x08_0000_2000, 4 KiB of local store, a deadline of `dl` ns; `kind` 1 is ALLOC. -/
def wDesc (kind dl : Nat) : List Word :=
  [BitVec.ofNat 32 (0x70410 + kind), 1, 0x1000, 8, 1, BitVec.ofNat 32 dl, 0, 0, 0x2000, 8, 0, 0, 0, 4096, 0x12] ++ [0x10001] ++
  List.replicate 2 0 ++ [8] ++ List.replicate 13 0

/-- The descriptor at DESC 1, and its program: one handle of 1 × 1, FACT.CHOL. -/
def wCal (d : List Word) (jobs : List CalJob) : State :=
  let s := onDoms [0, 5]
  { s with dram := memPut zeroByte (memPut zeroByte [] 256 d) 0x1000 [1, 0, 0, 0, 0, 0x10001, 1, 0, 3, 0, 0, 0],
           cal := { calReset with jobs := jobs } }

def wJob (cls : Nat) (r : JobRun) (d : List Word) : CalJob := { newJob cls 0 1 0 0 0 with run := r, d := d }

theorem witness_queue : ((wCal [] []).cal.jobs.filter fun j => j.cls == 0 + 1 && j.run == .waiting).length < 16 ∧
    16 ≤ ((wCal [] (List.replicate 16 (wJob 1 .waiting []))).cal.jobs.filter fun j => j.cls == 0 + 1 && j.run == .waiting).length ∧
    (wCal [] []).domOn 5 = true := by decide

/-- A job that may start, one behind another of its class, one of another tile's domain, one that fails its checks. -/
theorem witness_start : readDesc (wCal (wDesc 0 0) [wJob 1 .waiting []]) 1 = some (wDesc 0 0) ∧
    mayStart (wCal (wDesc 0 0) [wJob 1 .waiting []]) 0 (wJob 1 .waiting []) (wDesc 0 0) = true ∧
    mayStart (wCal (wDesc 0 0) (List.replicate 2 (wJob 1 .waiting []))) 1 (wJob 1 .waiting []) (wDesc 0 0) = false ∧
    dNamed (wDesc 0 0) = [0] ∧ prepare (wCal (wDesc 0 0) []) (wJob 1 .waiting []) ((wDesc 0 0).set 1 0) = .inl 5 ∧ inDram (dD (wDesc 0 0) 0x20) 64 = true := by
  decide +kernel

theorem witness_prepare : (match prepare (wCal (wDesc 0 0) []) (wJob 1 .waiting []) (wDesc 0 0) with | .inr j => j.run == .running | .inl _ => false) = true := by
  decide +kernel

/-- Tile 2 named while its domain is OFF; the last failure code, 10: local stores that meet. -/
theorem witness_start_wakes : 2 ∈ dNamed ((wDesc 0 0).set 0 0x70040) ∧ (wCal (wDesc 0 0) []).domOn (5 + 2) = false ∧
    (wCal (wDesc 0 0) []).contained (5 + 2) = false ∧
    prepare (wCal (wDesc 0 0) [wJob 2 .suspended (wDesc 0 0)]) (wJob 1 .waiting []) (wDesc 0 0) = .inl 10 := by decide

theorem witness_preempt_resume : (wJob 1 .suspended []).run = .suspended ∧ (wJob 2 .running (wDesc 0 0)).run = .running ∧
    (wJob 2 .running (wDesc 0 0)).run ≠ .waiting := by decide

theorem witness_free : Free (wJob 1 .suspended (wDesc 0 0)) [wJob 1 .suspended (wDesc 0 0)] ∧
    ¬Free (wJob 1 .suspended (wDesc 0 0)) [wJob 0 .running (wDesc 0 0)] := by unfold Free; decide

/-- Running past its program; ALLOC running, its deadline over; JOB_ID 7. -/
theorem witness_endings : (wJob 1 .running (wDesc 0 0)).prog.length ≤ (wJob 1 .running (wDesc 0 0)).pc ∧ dIrq (wDesc 0 0) = true ∧
    ((wCal [] []).setBit Reg.CAL_IRQ_EN 0 true).bit Reg.CAL_IRQ_EN 0 = true ∧ dW (wDesc 0 8) 0x14 ≠ 0 ∧
    0 + dW (wDesc 0 8) 0x14 ≤ ({ (wCal [] []) with clk := 8 }).clk ∧ isAlloc (wDesc 1 8) = true ∧ { wJob 1 .running (wDesc 1 8) with started := true }.started = true ∧
    dId (wDesc 0 0) = 7 := by decide

/-- 148.125 °C, 146.125 °C, 144.0 °C and 143.875 °C, at states 0 and 2. -/
theorem witness_throttle : (1184 : Int) < 1185 ∧ (1168 : Int) < 1169 ∧ ¬(1152 : Int) < 1152 ∧ (1151 : Int) < 1152 ∧
    (wCal [] []).bits (Reg.CAL_T_STAT 0) 3 2 = 0 ∧ ((wCal [] []).setBits (Reg.CAL_T_STAT 0) 3 2 2).bits (Reg.CAL_T_STAT 0) 3 2 = 2 ∧
    (wCal [] []).domOn (5 + 0) = true := by decide

/-- A running job of four handles, 1 × 1 in binary32 but the last, 1 × 4, about to run `m`; the first holds 4.0. -/
def wMac (m : Macro) : State :=
  let h := fun i => (⟨64 * i, 1, if i = 3 then 4 else 1, 1, false, 0, 0⟩ : Hdl)
  let j := { wJob 1 .running (wDesc 0 0) with tiles := [0], started := true, hdls := [h 0, h 1, h 2, h 3], prog := [m] }
  let s := wCal (wDesc 0 0) [j]
  { s with cal := { s.cal with mem := wrz [] 0 4 0x40800000 } }

def wM (op flags : Nat) : Macro := ⟨op, flags, 0, 0, 1, 2, 3, 0, 1⟩

/-- Does the job about to run `m` meet the hypotheses common to all macro-instructions? -/
def macReady (m : Macro) : Bool :=
  match (wMac m).calReady 0 m.op with
  | some (j, m') => m' == m && opShapeOk j.hdls m
  | none => false

theorem witness_macros : ([wM 1 0, wM 1 1, wM 1 2, wM 2 0, wM 2 1, wM 3 0, wM 4 0, wM 5 0, wM 6 0, wM 7 0, wM 7 1, wM 8 0, wM 9 3, wM 10 1, wM 11 0,
    wM 12 0, wM 14 0, wM 15 0].all macReady) = true := by decide

theorem witness_qp : macReady ⟨13, 0, 0, 0, 1, 255, 3, 0, 0⟩ = true ∧ ((wMac (wM 3 0)).domOn 5 = true) := by decide

theorem witness_region : ∀ j ∈ (wMac (wM 3 0)).cal.jobs, InRegion j 0 ∧ InRegion j 1 ∧ InRegion j 2 := by unfold InRegion; decide

theorem witness_pivots : ¬(wM 15 0).imm < 0 ∧ ({ (wM 15 0) with imm := 1 }).imm < 2 ∧ ({ (wM 1 0) with p0 := 0x3000, p1 := 8 }).p1 = 8 ∧
    inDram (0x3000 + 2 ^ 32 * 8) 4 = true := by decide

theorem witness_apart : ∀ j ∈ (wMac (wM 5 0)).cal.jobs, InRegion j 3 ∧ (j.hdl 0).addr j.lay 0 0 + 4 ≤ (j.hdl 1).addr j.lay 0 0 ∧
    (∀ e ∈ j.facts, e.1 < 256) ∧ (j.hdl 0).rows = 1 ∧ (j.hdl 1).rows = 1 := by unfold InRegion; decide

/-- R164: a start inside its bounds is kept, one above the upper bound is not feasible for a row of bounds 0 and 0. -/
theorem witness_qp_start : (QpProblem.feasible ⟨false, [[0]], [0], [], [0], [0x40000000]⟩ 0 [0x3F800000]) = true ∧
    (QpProblem.feasible ⟨false, [[0]], [0], [[0x3F800000]], [0, 0], [0x40000000, 0]⟩ 0 [0x3F800000]) = false := by decide +kernel

/-- R183: at 2.5 the children 2 and 3 are as near, and the smaller is visited first; at -0.75 it is -1. -/
theorem test_ils_nearest : nearLow false 0x40200000 2 3 = true ∧ floorOf false 0x40200000 = some 2 ∧ floorOf false 0xBF400000 = some (-1) ∧
    nearLow false 0xBF400000 (-1) 0 = true := by decide +kernel

/-- R183: one unknown, R = 1, float value 2.5: the vector is (2), the second best (3) at the same residual, ratio 1. -/
theorem test_ils_one : (ilsSolve false [[0x3F800000]] [0x40200000] 200).1.best = some ([2], 0x3E800000) ∧
    (ilsSolve false [[0x3F800000]] [0x40200000] 200).1.ratio false = some 0x3F800000 := by decide +kernel

/-- R97: a sum of one product is that product, 2 × 3 = 6, whatever its block. -/
theorem test_one_term : calSum false 0 [(0x40000000, 0x40400000)] = 0x40C00000 := by decide +kernel

/-- R156: 192 equal columns on four tiles: 48 each, in succession; on two, 96. -/
theorem test_blocks_dealt : [0, 47, 48, 191].map (Hdl.home ⟨0, 1, 192, 1, true, 0, 0⟩ [0, 1, 2, 3]) = [0, 0, 1, 3] ∧
    [95, 96].map (Hdl.home ⟨0, 1, 192, 1, true, 0, 0⟩ [0, 2]) = [0, 2] := by decide +kernel

/-- R175: a reference at 0.9 turns lies below the sector that runs from 342 to 20 degrees. -/
theorem test_sector_side : (sectorRow 0 0 0 0x3FECCCCCCCCCCCCD 0x4075600000000000 0x4034000000000000).terms = [(2, 0x3FF0000000000000)] := by
  decide +kernel

/-! ### The Navigation baseband: the hypotheses can be met -/

def wNbb : State := onDoms [0, 9]

/-- Channel 3 in state `st` with EN; gain set 0 has a lock threshold of 0.5, a loss threshold of 30 dB-Hz and one update. -/
def wChan (st : Nat) (x : NbbCh) : State :=
  let s := ((wNbb.setBits (Reg.NBB_CH_STAT 3) 2 0 st).wrN (Reg.NBB_CH_CFG 3) 0xFF050001).wr (Reg.NBB_GAIN_W 0 7) 0x3F000000
  let s := (s.wr (Reg.NBB_GAIN_W 0 8) 0x41F00000).wr (Reg.NBB_GAIN_W 0 9) 0x3F800000
  { s with nbb := { s.nbb with ch := [(3, x)] } }

/-- GPS PRN 1 and 32 are in the table, 33 not; code 14 has none; its own number is no leader (R186, R194). -/
theorem witness_channel_config : prnOk 0 1 = true ∧ prnOk 0 32 = true ∧ prnOk 0 33 = false ∧ prnOk 14 1 = false ∧ chState wNbb 3 = 0 ∧
    chState (wChan 2 nbbChIdle) 3 = 2 ∧ wbit 0xFF050001 0 = true ∧ wbits 0xFF050001 31 24 = 255 ∧ wbits 0x03050001 31 24 = 3 ∧
    wbits 0xFF210001 23 16 = 33 ∧ wNbb.domOn 9 = true := by decide

/-- Early offset 8 with late 7; 0; 9; and early 4 not above late 4. -/
theorem witness_correlators : wbits 0x78 3 0 = 8 ∧ 8 < wbits 0x98 7 4 ∧ wbits 0x70 3 0 = 0 ∧ wbits 0x9 3 0 = 9 ∧ wbits 0x44 7 4 ≤ wbits 0x44 3 0 ∧
    wbit 0xC0000000 31 = true ∧ wbit 0x40000000 31 = false := by decide

theorem witness_loop : chState (wChan 1 nbbChIdle) 3 ≠ 0 ∧ wbit ((wChan 1 nbbChIdle).rd (Reg.NBB_CH_CFG 3)) 0 = true ∧
    wbit (wNbb.rd (Reg.NBB_CH_CFG 3)) 0 = false ∧ gainValid (wChan 1 nbbChIdle) 0 = true ∧
    gainValid ((wChan 1 nbbChIdle).wr (Reg.NBB_GAIN_W 0 0) 0x7F800000) 0 = false := by decide

/-- C/N0 of 29.9 dB-Hz is weak, 30 is not; one update is long enough; a prompt all in I locks at 0.5, one all in Q does not. -/
theorem witness_loss : fpLtB f64 (fD (fOfInt 479) (fOfInt 16)) (gainF (wChan 2 nbbChIdle) 0 8) = true ∧
    fpLtB f64 (fD (fOfInt 480) (fOfInt 16)) (gainF (wChan 2 nbbChIdle) 0 8) = false ∧
    fpLeB f64 (gainF (wChan 2 nbbChIdle) 0 9) (fOfInt (0 + 1 : Nat)) = true := by decide

theorem witness_lock : fpLeB f64 (gainF (wChan 1 nbbChIdle) 0 7) (lockInd [(100, 0)]) = true ∧
    fpLtB f64 (lockInd [(0, 100)]) (fS (gainF (wChan 2 nbbChIdle) 0 7) 0x3FD3333333333333) = true ∧
    19 ≤ { nbbChIdle with up := 19 }.up ∧ nbbChIdle.up < 19 := by decide

theorem witness_lost_channel : chState (wChan 3 nbbChIdle) 3 = 3 ∧ (wChan 3 nbbChIdle).nbb.acq.length < 32 ∧ nbbChIdle.own = false ∧
    wbit ((wChan 3 nbbChIdle).rd (Reg.NBB_CH_CFG 3)) 3 = false ∧ wbit 0xFF050009 3 = true := by decide

/-- An aid of 0 ns, at its age limit of 50 ms and 1 ns before it. -/
theorem witness_aid : ((wChan 2 { nbbChIdle with aid := some (0, 0, 0), aided := true }).nch 3).aid = some (0, 0, 0) ∧
    wNbb.bits Reg.NBB_AID_CFG 15 8 ≤ 50 ∧ 0 + 50 * 1000000 ≤ 50000000 ∧ nbbChIdle.aid = none := by decide

/-- One request (threshold as reset, GPS PRN 5, one bin, hand-off to channel 3) and a queue of 32. -/
def wAcq (n : Nat) (w0 : Word) : State :=
  { wNbb with nbb := { nbbReset with acq := List.replicate n ([w0, 0, 0, 0x11], false) } }

theorem witness_acq : (wAcq 1 0x03050000).nbb.acq.length < 32 ∧ 32 ≤ (wAcq 32 0).nbb.acq.length ∧
    (wAcq 1 0x03050000).nbb.acq = ([0x03050000, 0, 0, 0x11], false) :: [] ∧ (wAcq 1 0).nbb.res.length < 32 ∧ prnOk 0 5 = true ∧
    wbits 0x11 3 0 = 1 ∧ wbits 0x11 11 4 = 1 ∧ wbits 0x03050000 31 24 = 3 ∧ chState (wAcq 1 0) 3 = 0 ∧ chState (wChan 2 nbbChIdle) 3 ≠ 0 ∧
    wbits 0xFF050000 31 24 = 255 ∧ (0x27F : BitVec 16).toNat < 0x280 ∧ 0x280 ≤ (0x280 : BitVec 16).toNat ∧ wbits 0x1B 3 0 = 11 := by decide

theorem witness_acq_full : 32 ≤ ({ wAcq 1 0 with nbb := { (wAcq 1 0).nbb with res := List.replicate 32 [] } }).nbb.res.length ∧
    ({ wAcq 1 0 with nbb := { (wAcq 1 0).nbb with res := [[1], [2]] } }).nbb.res = [1] :: [[2]] ∧ (wAcq 1 0).nbb.res = [] := by decide

/-- An epoch with a record of channel 17; the ring enabled with 4 KiB, empty, and full but for a word. -/
def wEpoch (used : Nat) : State :=
  let s := ((wNbb.setBit Reg.NBB_RING_CFG 19 true).wrN Reg.NBB_RING_WR used)
  { s with nbb := { nbbReset with ep := some ⟨0, 1, false, [(17, [1, 2])], false, false⟩ } }

theorem witness_epoch : (wEpoch 0).nbb.ep = some ⟨0, 1, false, [(17, [1, 2])], false, false⟩ ∧ (wEpoch 0).bit Reg.NBB_RING_CFG 19 = true ∧
    (wEpoch 0).bits Reg.NBB_RING_CFG 27 24 = 0 ∧ ringUsed 0 0 4096 + 4 * (epochBlock (wEpoch 0) ⟨0, 1, false, [(17, [1, 2])], false, false⟩).length < 4096 ∧
    4096 ≤ ringUsed 4092 0 4096 + 4 * (epochBlock (wEpoch 0) ⟨0, 1, false, [(17, [1, 2])], false, false⟩).length ∧ wNbb.nbb.ep = none := by decide

theorem witness_notch : wNbb.bit (Reg.NBB_ANT_B_NOTCH 1 0 2) 2 = false ∧ (wNbb.setBit (Reg.NBB_ANT_B_NOTCH 1 0 2) 2 true).bit (Reg.NBB_ANT_B_NOTCH 1 0 2) 2 = true ∧
    (wNbb.setBits (Reg.NBB_ANT_B_NOTCH 0 0 2) 1 0 1).bits (Reg.NBB_ANT_B_NOTCH 0 0 2) 1 0 = 1 ∧ wNbb.bits (Reg.NBB_ANT_B_NOTCH 0 0 2) 1 0 = 0 ∧
    (wNbb.setBits (Reg.NBB_ANT_B_NOTCH 0 0 2) 1 0 2).bits (Reg.NBB_ANT_B_NOTCH 0 0 2) 1 0 = 2 ∧
    sget (fun _ => none) [(2, some 0)] (8 * 0 + 4 * 0 + 2) = some (0 : Nat) ∧ 0 + 100000000 ≤ 100000000 := by decide

/-- A threshold of 1 crossed from 0; none set. -/
theorem witness_jam : (wNbb.setBits (Reg.NBB_ANT_CTL 0) 6 3 1).bits (Reg.NBB_ANT_CTL 0) 6 3 = 1 ∧ (wNbb.setBits (Reg.NBB_ANT_CTL 0) 6 3 0).bits (Reg.NBB_ANT_CTL 0) 6 3 = 0 ∧
    wNbb.bits (Reg.NBB_ANT_STAT 0) 19 16 < 1 := by decide

theorem witness_antennas : wNbb.bit (Reg.NBB_ANT_CTL 0) 7 = false ∧ (wNbb.setBits (Reg.NBB_ANT_STAT 0) 1 0 1).bits (Reg.NBB_ANT_STAT 0) 1 0 = 1 ∧
    (wNbb.setBits (Reg.NBB_ANT_STAT 0) 1 0 2).bits (Reg.NBB_ANT_STAT 0) 1 0 = 2 ∧ (2 : Nat) < 3 ∧ (60 : Nat) ≤ 60 ∧ (60 : Nat) < 61 ∧
    sget (fun _ => false) [(0, true)] 0 = true ∧ (wNbb.setBits (Reg.NBB_ANT_CTL 0) 1 0 1).bits (Reg.NBB_ANT_CTL 0) 1 0 = 1 ∧
    sget (fun _ => none) [(0, some (0, 5, 5, 1)), (1, some (0, 5, 5, 1))] 1 = some ((0 : Nat), (5 : Int), (5 : Int), (1 : Nat)) ∧ 0 + 10000000000 ≤ 10000000000 := by decide

/-- The time model held, with an offset written of `ofs` ns; a step due at second 1. -/
def wTime (ofs : Word) (x : NbbTime) : State :=
  let s := (wNbb.setBits Reg.NBB_TIME_STAT 1 0 1).wr Reg.NBB_TSOL_OFS_LO ofs
  { s with clk := 2000000000, nbb := { nbbReset with time := x } }

/-- An offset of 1,999 ns slews, one of 2,000 ns steps. -/
theorem witness_commit : wNbb.bits Reg.NBB_TIME_STAT 1 0 = 0 ∧ (wTime 0 nbbTimeReset).bits Reg.NBB_TIME_STAT 1 0 ≠ 0 ∧
    ((writtenModel (wTime 1999 nbbTimeReset)).eval 0 - effNow (wTime 1999 nbbTimeReset)).natAbs < 2000 * 2 ^ 40 ∧
    2000 * 2 ^ 40 ≤ ((writtenModel (wTime 2000 nbbTimeReset)).eval 0 - effNow (wTime 2000 nbbTimeReset)).natAbs ∧
    nbbTimeReset.step = none ∧ nbbTimeReset.scale = 0 ∧ wNbb.bits Reg.NBB_TSOL_CTL 2 1 ≠ 1 := by decide

theorem witness_step : ({ nbbTimeReset with step := some (⟨0, 0, 0⟩, 5, 0) }).step = some (⟨0, 0, 0⟩, 5, 0) ∧
    0 ≤ ppsSec (wTime 0 nbbTimeReset) (effNow (wTime 0 nbbTimeReset)) ∧ ppsSec (wTime 0 nbbTimeReset) (effNow (wTime 0 nbbTimeReset)) < 1 := by decide

/-- A slew of 1 ns is over after 5 ms; holdover at its default of 2 s; a pulse of 100 ms. -/
theorem witness_slew : slewNow { nbbTimeReset with r0 := 2 ^ 40 } 5000000 = 0 ∧ slewNow { nbbTimeReset with r0 := 2 ^ 40 } 4999999 ≠ 0 ∧
    0 + holdTimeout (wTime 0 nbbTimeReset) * 1000000 ≤ (wTime 0 nbbTimeReset).clk ∧ ({ nbbTimeReset with pulse := some 0 }).pulse = some 0 ∧
    nbbTimeReset.pulse = none := by decide

theorem witness_pps : ((wTime 0 nbbTimeReset).setBit Reg.NBB_PPS_CFG 0 true).bit Reg.NBB_PPS_CFG 0 = true ∧
    nbbTimeReset.next ≤ ppsSec (wTime 0 nbbTimeReset) (effNow (wTime 0 nbbTimeReset)) ∧ wNbb.bit Reg.NBB_PPS_CFG 0 = false := by decide

/-- R197: ±5 kHz at 1 ms of GPS L1 C/A is 2,046 × 21 cells, of L5 20,460 × 21; a peak in the one bin of a search of no span. -/
theorem test_cells : codeMs 0 * halfPerMs 0 = 2046 ∧ codeMs 1 * halfPerMs 1 = 20460 ∧ 2 * dopBins [0, 0, 5000, 0x11] + 1 = 21 ∧
    inGrid [0x03050000, 0x42C80000, 0, 0x11] 0x42C80000 2045 = true ∧ inGrid [0x03050000, 0x42C80000, 0, 0x11] 0x42C80000 2046 = false := by
  decide +kernel

/-- R211, the worked example: 50 ns and 600 s without a commit give 830 ns. -/
theorem test_hold_unc : holdUnc { (wTime 0 { nbbTimeReset with u0 := 50 }) with clk := 600000000000 } = 830 := by decide +kernel

/-- R190: atan2(1, 1) is an eighth of a turn, atan2(0, -1) half of one, atan(1 / 0) a quarter. -/
theorem test_angles : atan2Turns 1 1 = 0x3FC0000000000000 ∧ atan2Turns 0 (-1) = 0x3FE0000000000000 ∧ atanTurns 1 0 = 0x3FD0000000000000 := by
  decide +kernel

/-- R200: 1 kHz over a millisecond is one cycle, 2^32. -/
theorem test_adr : overTime 0x408F400000000000 1000000 = 2 ^ 32 := by decide +kernel

/-- R204: of lines of 11.99, 12 and 15 dB the last is taken; where notch 1 holds it, the one of 12 dB. -/
theorem test_notch_line : notchLine wNbb 0 0 0 [(1, 1199), (2, 1200), (3, 1500)] = some 3 ∧
    notchLine ((wNbb.setBits (Reg.NBB_ANT_B_NOTCH 0 0 1) 1 0 2).setBits (Reg.NBB_ANT_B_NOTCH 0 0 1) 19 3 7) 0 0 0 [(1, 1199), (2, 1200), (3, 1500)] = some 2 := by
  decide +kernel

/-- R212: on the UTC scale an e of a second but 1 ns is a leap second; on GPS time it is a step. -/
theorem test_leap : leapOf 1 (999999999 * 2 ^ 40) = 1 ∧ leapOf 0 (999999999 * 2 ^ 40) = 0 ∧ leapOf 1 0 = 0 := by decide

/-! ### The Fusion unit and the serial ports: the hypotheses can be met -/

def wFsn : State := onDoms [0, 10]

theorem witness_sensor_en : wbit 1 0 ≠ wFsn.bit (Reg.FSN_SNS_CFG 63) 0 ∧ wbit 0 0 = wFsn.bit (Reg.FSN_SNS_CFG 63) 0 ∧
    snsClock wFsn 63 ≠ 1 ∧ snsClock wFsn 63 = 0 ∧ wFsn.domOn 10 = true := by decide

/-- A ring of 4 KiB with one record, whose first word is `w0`. -/
def wSubq (w0 : Word) : State :=
  { ((wFsn.setBit Reg.FSN_SUBQ_CFG 19 true).wrN Reg.FSN_SUBQ_WR 64) with dram := memPut zeroByte [] 0 [w0] }

theorem witness_subq : (wSubq 0).bit Reg.FSN_SUBQ_CFG 19 = true ∧ (wSubq 0).bits Reg.FSN_SUBQ_CFG 27 24 = 0 ∧
    (wSubq 0).rdN Reg.FSN_SUBQ_RD % 4096 ≠ (wSubq 0).rdN Reg.FSN_SUBQ_WR % 4096 ∧ wFsn.bit Reg.FSN_SUBQ_CFG 19 = false ∧
    wbits (((wSubq 0x600).dramWords 0x800000000 16).getD 0 0) 11 8 = 6 ∧ wbits (((wSubq 0x100).dramWords 0x800000000 16).getD 0 0) 11 8 = 1 ∧
    wFsn.bit (Reg.FSN_SNS_CFG 0) 0 = false := by decide

theorem witness_xf : wFsn.bit Reg.FSN_XF_CTL 2 = false ∧ (wFsn.setBit Reg.FSN_XF_CTL 2 true).bit Reg.FSN_XF_CTL 2 = true ∧
    ({ fsnReset with switch := some (0, 0) }).switch = some (0, 0) ∧ (0 : Nat) + 400000000 ≤ 400000000 ∧ fsnReset.switch = none ∧
    fsnReset.sec = false ∧ fsnReset.lastImu + 5000000 ≤ 5000000 ∧ trkState wFsn 127 = 0 ∧
    trkState (wFsn.setBits (Reg.FSN_TRK_W 127 0) 1 0 2) 127 ≠ 0 := by decide

/-- A block for tile 0 while its domain is ON, OFF, contained, or OFF with WAKE clear; aid messages due. -/
def wBlock (s : State) : State := { s with fsn := { s.fsn with block := some [1, 2], aid := true } }

theorem witness_align : (wBlock (onDoms [0, 5, 10])).fsn.block = some [1, 2] ∧ (wFsn.setBits Reg.FSN_ALIGN_CFG 21 20 0).bits Reg.FSN_ALIGN_CFG 21 20 = 0 ∧ (onDoms [0, 5, 10]).domOn (5 + 0) = true ∧
    wFsn.domOn (5 + 0) = false ∧ wFsn.contained (5 + 0) = false ∧ (wFsn.setBit (Reg.PWR_DC_STAT 5) 3 true).contained (5 + 0) = true ∧
    (wFsn.setBit (Reg.PWR_DC_CTL 5) 2 true).bit (Reg.PWR_DC_CTL 5) 2 = true ∧ (wFsn.setBit (Reg.PWR_DC_CTL 5) 2 false).bit (Reg.PWR_DC_CTL 5) 2 = false ∧
    (wBlock wFsn).fsn.aid = true ∧ wFsn.fsn.block = none ∧ wFsn.fsn.aid = false ∧ wFsn.tnd.stalls = [] := by decide

/-- Port 7 enabled, RS-485, with `x`. -/
def wSer (x : SerSt) : State :=
  let s := (wFsn.setBit (Reg.FSN_SER_CFG 7) 0 true).setBit (Reg.FSN_SER_CFG 7) 1 true
  { s with fsn := { s.fsn with ser := [(7, x)] } }

theorem witness_serial_rx : (wSer serIdle).bit (Reg.FSN_SER_CFG 7) 0 = true ∧ (wSer serIdle).bit (Reg.FSN_SER_CFG 7) 1 = true ∧
    ((wSer { serIdle with drive := true }).serH 7).drive = true ∧ wFsn.bit (Reg.FSN_SER_CFG 7) 0 = false ∧
    256 ≤ ((wSer { serIdle with rx := List.replicate 256 0 }).serH 7).rx.length ∧ ((wSer serIdle).serH 7).rx.length < 256 ∧
    ((wSer { serIdle with rx := [1] }).serH 7).rx = 1 :: [] ∧ ((wSer serIdle).serH 7).rx = [] := by decide +kernel

theorem witness_serial_tx : 256 ≤ ((wSer { serIdle with tx := List.replicate 256 0 }).serH 7).tx.length ∧
    ((wSer { serIdle with shift := some 5, tx := [6] }).serH 7).shift = some 5 ∧ ((wSer { serIdle with shift := some 5, tx := [6] }).serH 7).tx = 6 :: [] ∧
    ((wSer serIdle).serH 7).shift = none ∧ ((wSer serIdle).serH 7).tx = [] ∧ ((wSer { serIdle with drive := true }).serH 7).drive = true ∧
    1000000000 ≤ (1000000 - serIdle.ended) * serBaud (wSer serIdle) 7 ∧ ¬1000000000 ≤ (0 - serIdle.ended) * serBaud (wSer serIdle) 7 := by decide +kernel

/-- A telegram 25,000 ns late counts; one at 25,001 ns shows a bad port; one with a gap does not count (R242). -/
theorem witness_serial_calibration : ([((25000 : Int) + delimBits wFsn 7 - charTime wFsn 7, 0, 0)].filterMap (serLatency wFsn 7) : List Int) = [25000] ∧
    ([((25001 : Int) + delimBits wFsn 7 - charTime wFsn 7, 0, 0)].filterMap (serLatency wFsn 7) : List Int) = [25001] ∧
    ([(0, 1000000, 0)].filterMap (serLatency wFsn 7) : List Int) = [] := by decide

/-- Port 7 borrowed, its delimiter seen and its capture channel on the port's line. -/
def wLine : State :=
  let s := (wSer { serIdle with armed := true }).setBit (Reg.FSN_SER_CFG 7) 24 true
  { s.setBits (Reg.TIM_CAP_CFG 7) 1 0 2 with clk := 120000000000 }

theorem witness_serial_borrow : serLine wLine 7 = true ∧ wLine.bits (Reg.TIM_CAP_CFG 7) 1 0 = 2 ∧ wLine.bit (Reg.FSN_SER_CFG 7) 24 = true ∧
    serEnough wLine 7 [(0, 0, 0)] = true ∧ (wFsn.bit (Reg.FSN_SER_CFG 7) 24 = false) ∧ wFsn.felt.hit = false ∧
    (0x12C01 : DWord).getLsbD 0 = true ∧ (0x12C01 : DWord).toNat % 2 ^ 24 ≠ wFsn.bits (Reg.FSN_SER_CFG 7) 23 0 ∧
    wFsn.bits (Reg.ENC_IN_CFG 3) 10 8 = (0 : Fin 8) ∧ sget (fun _ => false) wLine.tim.frozen 7 = false := by decide

/-- The first start bit after a delimiter is captured 9.5 bit times before the character ends (R240): of the next one nothing comes. -/
theorem test_capture_line : (serRxEvent 7 0x41 false false wLine).rdN (Reg.TIM_CAP_CNT 7) = 1 ∧
    (serRxEvent 7 0x41 false false (serRxEvent 7 0x41 false false wLine)).rdN (Reg.TIM_CAP_CNT 7) = 1 := by decide +kernel

/-! ### The Fusion unit: samples and rows -/

/-- Forward water speed of a log whose axes stand 90° to starboard is speed to starboard (R218); a bearing of 10° there is one of 100°. -/
theorem test_rotation : rotateVals 4 [0, 0, 0x42B40000] [0x3F800000, 0, 0, 0, 0, 0] = [0, 0x3F800000, 0, 0, 0, 0] := by decide +kernel

/-- Sensor 9 of the worked example: EN, VALID, an entry that is VALID, LATENCY 40 ms. -/
def wSensor (st : Nat) : State :=
  let s := ((wFsn.setBit (Reg.FSN_SNS_CFG 9) 0 true).setBits (Reg.FSN_SNS_STAT 9) 1 0 st).wrN (Reg.FSN_XF_W 9 6) 40000000
  { s.setBit (Reg.FSN_XF_W 9 7) 0 true with clk := 100000000 }

def wPosSmp : FsnSmp := ⟨9, 1, 0, 0, [0, 0, 0, 0, 0, 0], [0, 0, 0], 255, 0, false, 0, false⟩

/-- A sample's epoch is its stamp less LATENCY (R222); the same record again is a duplicate and not used, in ACQUIRE too (R225). -/
theorem test_sample : (((wSensor 2).fsnSample wPosSmp 43000000 none).fsn.buf.map (·.epoch) = [3000000]) ∧
    ((((wSensor 2).fsnSample wPosSmp 43000000 none).fsnSample wPosSmp 43000500 none).bits (Reg.FSN_SNS_CNT 9) 23 16 = 1) ∧
    ((((wSensor 1).fsnSample wPosSmp 43000000 none).fsnSample wPosSmp 43000500 none).bits (Reg.FSN_SNS_CNT 9) 23 16 = 1) ∧
    ((wSensor 1).fsnSample wPosSmp 43000000 none).fsn.buf = [] := by decide +kernel

/-- A row is 64 bytes, a late one naming its step (R229); a level 2 detection makes none (R217). -/
theorem test_rows : (rowWords wFsn wPosSmp 0 (some 6)).length = 16 ∧ (rowWords wFsn wPosSmp 0 (some 6)).headD 0 = 0x00061109 ∧
    makesRow (wFsn.setBits (Reg.FSN_SNS_CFG 9) 6 5 2) { wPosSmp with kind := 7 } = false ∧
    makesRow (wFsn.setBits (Reg.FSN_SNS_CFG 9) 6 5 1) { wPosSmp with kind := 7 } = true := by decide

/-- Service without 5 ms of silence covers a window (R230). -/
theorem test_covers : covers 10000000 [5000000, 9000000] = true ∧ covers 10000000 [5000001] = false := by decide

/-- A late sample keeps the bank that was in force at its epoch; one on time has the bank in force (R219, R220). -/
theorem test_bank : let s := (wFsn.setBit Reg.FSN_XF_CTL 0 true).modFsn fun f => { f with switch := some (0, 500) }
    xfBank s true 499 = 0 ∧ xfBank s true 500 = 1 ∧ xfBank s false 499 = 1 := by decide

/-- Ply stamps (R221). -/
theorem test_ply_stamp : plyIngress true 1000 = 816 ∧ plyIngress false 1000 = 624 := by decide

/-! ### The Headbox: the hypotheses can be met -/

/-- Channel `c` enabled with preset 0 and a decimation of `dec`. -/
def wChain (c dec : Nat) : State := ((onDoms [0, 10]).setBit (Reg.HBX_CH_CFG c) 0 true).setBits (Reg.HBX_CH_CHAIN c) 8 0 dec

theorem witness_chain : (wChain 24 8).bit (Reg.HBX_CH_CFG 24) 0 = true ∧ (wChain 24 8).bit (Reg.HBX_CH_STAT 24) 6 = false ∧ (chainCfg (wChain 24 8) 24).dec = 8 ∧
    (chainCfg (wChain 24 256) 24).dec = 256 ∧ (chainCfg (wChain 24 7) 24).dec < 8 ∧ 256 < (chainCfg (wChain 24 257) 24).dec ∧
    wFsn.bit (Reg.HBX_CH_CFG 24) 0 = false := by decide

theorem witness_chain_restart : (0x1FF : Word) &&& 0x3FFFFFFF ≠ wFsn.rd (Reg.HBX_CH_CHAIN 0) ∧ wbits (0x3 &&& 0x1FFF) 5 0 ≠ wbits (wFsn.rd (Reg.HBX_CH_CFG 0)) 5 0 ∧
    (chainCfg (wChain 0 8) 0).ok = true ∧ (chainCfg (wChain 0 7) 0).ok = false := by decide

theorem witness_clock_lost : ((wChain 17 8).setBit (Reg.HBX_CH_STAT (16 + 1)) 6 true).bit (Reg.HBX_CH_STAT (16 + 1)) 6 = true ∧
    (wChain 17 8).bit (Reg.HBX_CH_STAT (16 + 1)) 6 = false ∧ (wChain 17 8).bit (Reg.HBX_CH_CFG (16 + 1)) 0 = true ∧ finite32 0x7F800000 = false ∧
    finite32 0x7F7FFFFF = true := by decide

/-- Valve 3 may switch, with a band, ON or OFF; its current reads 0. -/
def wValve (on : Bool) (x : HbxValve) : State :=
  let s := (((onDoms [0, 10]).setBit (Reg.HBX_VLV_CFG 3) 0 true).setBit Reg.PAIR_LEASE_STAT 8 true).setBit (Reg.HBX_VLV_STAT 3) 0 on
  { s with clk := 10000000, hbx := { s.hbx with valve := [(3, x)] } }

def wBand (t0 oc : Nat) : HbxValve := ⟨some (0x3F800000, 0x3F000000, t0), 0, oc, false, 0⟩

theorem witness_valve : ((wValve true (wBand 9000000 0)).valve 3).band = some (0x3F800000, 0x3F000000, 9000000) ∧
    (wValve true (wBand 9000000 0)).bit Reg.PAIR_LEASE_STAT 8 = true ∧ (wValve true (wBand 9000000 0)).bit (Reg.HBX_VLV_CFG 3) 0 = true ∧
    (wValve true (wBand 9000000 0)).bit (Reg.HBX_VLV_STAT 3) 3 = false ∧ (wValve true (wBand 9000000 0)).bit (Reg.HBX_VLV_STAT 3) 1 = false ∧
    9000000 + bandTmo (wValve true (wBand 9000000 0)) 3 > 10000000 ∧ (wValve true (wBand 9000000 0)).bit (Reg.HBX_VLV_STAT 3) 0 = true ∧
    (wValve false (wBand 9000000 0)).bit (Reg.HBX_VLV_STAT 3) 0 = false ∧ 0 + bandTmo (wValve true (wBand 0 0)) 3 ≤ 10000000 ∧ hbxValveIdle.band = none ∧
    wFsn.bit Reg.PAIR_LEASE_STAT 8 = false := by decide

/-- 3.5 A is no overcurrent, the next value above it is one; three in a row count. -/
theorem witness_overcurrent : g32Lt 0x40600000 0x40600001 = true ∧ g32Lt 0x40600000 0x40600000 = false ∧ 3 ≤ (wBand 0 3).oc := by decide

theorem witness_undervoltage : (11999 : Nat) < 12000 ∧ (12000 : Nat) ≤ 12000 ∧ (14000 : Nat) ≤ 14000 ∧ ({ hbxReset with uv := true }).uv = true ∧
    hbxReset.uv = false := by decide

theorem witness_publications : wbits 0x3FF 9 0 ≠ wFsn.bits (Reg.HBX_BMB_CFG 7) 9 0 ∧ wbits (wFsn.rd (Reg.HBX_BMB_CFG 7)) 9 0 = wFsn.bits (Reg.HBX_BMB_CFG 7) 9 0 ∧
    sget (fun _ => none) [(5, some [1])] 5 = some ([1] : Msg) ∧ wFsn.bits (Reg.HBX_VLV_CFG 15) 3 1 = 0 ∧
    (wFsn.setBit Reg.HBX_IMU_CTL 0 true).bit Reg.HBX_IMU_CTL 0 = true ∧ hbxReset.imuAt + 500000 ≤ 500000 := by decide

/-- A FIR response has as many taps as R248 gives it; a clock lost on a channel that is off is flagged (R244); DEC 0 with EN clear is
CFG_ERR (R247). -/
theorem test_chain_points : (firRom 31).length = 47 ∧ (firRom 0).length = 15 ∧ (clkErr 0 wFsn).bit (Reg.HBX_CH_STAT 16) 6 = true ∧
    (chainWrite 0 true 0 wFsn).bit (Reg.HBX_CH_STAT 0) 1 = true ∧ (chainWrite 0 true 8 wFsn).bit (Reg.HBX_CH_STAT 0) 1 = false := by decide +kernel

/-! ### Encoder inputs: the hypotheses can be met -/

/-- Input `n` enabled with 4,096 counts per turn; further bits of its configuration, its status and what it holds. -/
def wEnc (n : Nat) (cfg st : Nat) (x : EncIn) : State :=
  let s := (((onDoms [0, 10]).wrN (Reg.ENC_IN_CPR n) 4096).wrN (Reg.ENC_IN_CFG n) (1 + cfg)).wrN (Reg.ENC_IN_STAT n) st
  { s with enc := [(n, x)] }

theorem witness_edges : (wEnc 11 0 0 encIdle).bit (Reg.ENC_IN_CFG 11) 0 = true ∧ encCfgOk (wEnc 11 0 0 encIdle) 11 = true ∧
    abBad (wEnc 11 0 0 encIdle) 11 = false ∧ (1 : BitVec 2).toNat ≠ ((wEnc 11 0 0 encIdle).encH 11).ab ∧
    (quadPos 3 + 4 - quadPos encIdle.ab) % 4 = 2 ∧ (quadPos 1 + 4 - quadPos encIdle.ab) % 4 ≠ 2 ∧ (0 : BitVec 2).toNat = encIdle.ab ∧
    encShaft (wEnc 11 0 0 encIdle) 11 = false := by decide

theorem witness_shaft : encShaft (wEnc 11 2 0 encIdle) 11 = true ∨ encShaft (wEnc 11 4 0 encIdle) 11 = true := by decide

theorem witness_wires : (wEnc 11 0 32 encIdle).bit (Reg.ENC_IN_STAT 11) (5 + 0) = true ∧ (wEnc 11 0 0 encIdle).bit (Reg.ENC_IN_STAT 11) (5 + 2) = false ∧
    (wEnc 11 0 32 encIdle).bit (Reg.ENC_IN_STAT 11) (6 - 0) = false ∧ ¬((15 : Nat) < 12 ∨ (1 : Nat) = 0) ∧ (11 : Nat) < 12 ∧ (15 : Fin 16).val = 15 := by decide

/-- An index input enabled at phase 0, with no broken wire; homed or not; armed or not; its last index. -/
theorem witness_index : wbit ((wEnc 11 8 0 encIdle).rd (Reg.ENC_IN_CFG 11)) 3 = true ∧ encWire (wEnc 11 8 0 encIdle) 11 = 0 ∧
    encIdle.ab = wbits ((wEnc 11 8 0 encIdle).rd (Reg.ENC_IN_CFG 11)) 5 4 ∧ (wEnc 11 8 0 encIdle).bit (Reg.ENC_IN_STAT 11) 1 = false ∧
    (wEnc 11 8 2 encIdle).bit (Reg.ENC_IN_STAT 11) 1 = true ∧ (wEnc 11 8 0 encIdle).bit (Reg.ENC_IN_CTL 11) 0 = false ∧
    ((wEnc 11 8 0 encIdle).setBit (Reg.ENC_IN_CTL 11) 0 true).bit (Reg.ENC_IN_CTL 11) 0 = true ∧ encIdle.index = none ∧
    ({ encIdle with index := some (5, true) }).index = some (5, true) ∧ encIdle.revIdx = false ∧ sget (fun _ => false) encIdle.frozen 0 = false ∧
    sget (fun _ => false) [(0, true)] 0 = true ∧ wbit ((wEnc 11 0 0 encIdle).rd (Reg.ENC_IN_CFG 11)) 3 = false := by decide

theorem witness_observer : encValid (wEnc 0 0 1 encIdle) 0 = true ∧ encValid (onDoms [10]) 0 = false ∧ (wEnc 0 0 5 encIdle).bit (Reg.ENC_IN_STAT 0) 2 = true ∧
    (wEnc 0 0 1 encIdle).bit (Reg.ENC_IN_STAT 0) 2 = false ∧ encIdle.seed = none ∧ ({ encIdle with seed := some (true, 8) }).seed = some (true, 8) ∧
    encIdle.still + stillTmo (wEnc 0 0 1 encIdle) 0 * 1000000 ≤ 1000000000000 ∧ ¬encIdle.still + stillTmo (wEnc 0 0 1 encIdle) 0 * 1000000 ≤ 0 ∧
    (onDoms [10]).bit (Reg.ENC_IN_CFG 0) 0 = false := by decide

/-- An absolute input of 12 bits, SSI and BiSS; 80,000 ns is in time; the tenth rejection in a row. -/
def wAbs (biss : Nat) (x : EncIn) : State := (wEnc 15 0 0 x).wrN (Reg.ENC_IN_ABS 15) (biss + 2 * 12 + 256 * 13)

theorem witness_absolute : (wAbs 0 encIdle).bit (Reg.ENC_IN_CFG (12 + 3)) 0 = true ∧ encCfgOk (wAbs 0 encIdle) (12 + 3) = true ∧
    (wAbs 1 encIdle).bit (Reg.ENC_IN_ABS 15) 0 = true ∧ (wAbs 0 encIdle).bit (Reg.ENC_IN_ABS 15) 0 = false ∧ ¬(80000 : Nat) < 80000 ∧ (80000 : Nat) < 80001 ∧
    9 ≤ ({ encIdle with rej := 9 }).rej ∧ (wAbs 0 encIdle).bit (Reg.ENC_IN_STAT 15) 5 = false ∧ encIdle.absOk = false ∧
    ({ encIdle with absOk := true }).absOk = true ∧ encShaft (wAbs 0 encIdle) 15 = false ∧ (onDoms [10]).bit (Reg.ENC_IN_CFG 15) 0 = false := by decide

theorem witness_encoder_restart : (0x1FFFFFF : Word) &&& 0x1FFFFFF ≠ (wEnc 0 0 0 encIdle).rd (Reg.ENC_IN_CPR 0) ∧
    (4096 : Word) &&& 0x1FFFFFF = (wEnc 0 0 0 encIdle).rd (Reg.ENC_IN_CPR 0) ∧
    wbits ((3 : Word) &&& 0x3FFFFFF) 2 0 ≠ wbits ((wEnc 0 0 0 encIdle).rd (Reg.ENC_IN_CFG 0)) 2 0 ∧
    sget (fun _ => none) [(2, some ((5 : Int), (6 : Nat)))] 2 = some (5, 6) ∧ sget (fun _ => none) encIdle.held 2 = none := by decide

/-- WFILT of 0 is 1 µs: same states for 1,001 ns are a disagreement, for 1,000 ns none; 10 ms of agreement end it (R265). -/
theorem test_wire : let at_ := fun (s : State) t => { s with clk := t }
    let s0 := wireBad 11 0 (at_ (wEnc 11 0 0 encIdle) 0)
    (wireBad 11 0 (at_ s0 1000)).bit (Reg.ENC_IN_STAT 11) 5 = false ∧ (wireBad 11 0 (at_ s0 1001)).bit (Reg.ENC_IN_STAT 11) 5 = true ∧
    (let s1 := wireGood 11 0 (at_ (wireBad 11 0 (at_ s0 1001)) 2000)
     (wireGood 11 0 (at_ s1 10001999)).bit (Reg.ENC_IN_STAT 11) 5 = true ∧ (wireGood 11 0 (at_ s1 10002000)).bit (Reg.ENC_IN_STAT 11) 5 = false) := by
  decide +kernel

/-- EFILT 2 keeps out a pulse of 15 ns and lets one of 16 ns count, stamped on its tick (R263). -/
theorem test_edge_filter : let s := { wEnc 11 65536 0 encIdle with clk := 100 }
    encCount (countedEdge 11 2 15 s) 11 = 0 ∧ encCount (countedEdge 11 2 23 s) 11 = 1 ∧
    ((countedEdge 11 2 23 s).encH 11).last = some (s.ext - 16, true) := by decide +kernel

/-- Steps lie 12,500 clock cycles apart (R268). -/
theorem test_step_period : stepDue { wEnc 0 0 1 { encIdle with stepAt := some 0 } with clk := 99999 } 0 = false ∧
    stepDue { wEnc 0 0 1 { encIdle with stepAt := some 0 } with clk := 100000 } 0 = true ∧ stepDue (wEnc 0 0 1 encIdle) 0 = true := by decide

/-! ### The time base: the hypotheses can be met -/

def wTim : State := onDoms [0, 10]

theorem witness_time_runs : timeRuns wTim = true ∧ timeRuns { State.reset with tnd := { State.reset.tnd with supply := .off false } } = false ∧ wTim.pending = [] ∧ timPending wTim = false ∧ wrapsNext wTim = false ∧
    timPending { wTim with tim := { wTim.tim with pOfs := some 5 } } = true ∧ wrapsNext (wTim.wrN Reg.TIM_NOW 0xFFFFFFFF) = true := by decide

/-- The limits of TIM_INC and TIM_OFFSET; an offset pending; one that would take time below 0. -/
theorem witness_corrections : 0x07F00000 ≤ (0x07F00000 : Word).toNat ∧ (0x08100000 : Word).toNat ≤ 0x08100000 ∧ ¬(0x08100001 : Word).toNat ≤ 0x08100000 ∧
    (1000000000 : Word).toInt.natAbs ≤ 1000000000 ∧ ¬(1000000001 : Word).toInt.natAbs ≤ 1000000000 ∧ wTim.bit Reg.TIM_STAT 5 = false ∧
    (wTim.setBit Reg.TIM_STAT 5 true).bit Reg.TIM_STAT 5 = true ∧ ¬0 ≤ (wTim.ext : Int) + (0xFFFFFFFF : Word).toInt := by decide

/-- Channel 15 due at local time 8, once or with a period of 1 µs, the least. -/
def wCmp (p now : Nat) : State :=
  ((((onDoms [0, 10]).setBit (Reg.TIM_CMP_CFG 15) 0 true).wrN (Reg.TIM_CMP_PERIOD 15) p).wrN (Reg.TIM_CMP_TGT_LO 15) 8).wrN Reg.TIM_NOW now

theorem witness_compare : cmpDue (wCmp 0 8) 15 = true ∧ cmpDue (wCmp 0 7) 15 = false ∧ cmpPeriod (wCmp 4 1008) 15 = 1000 ∧ cmpTgt (wCmp 4 1008) 15 + 1000 ≤ (wCmp 4 1008).ext ∧
    cmpPeriod (wCmp 0 8) 15 = 0 ∧ (wCmp 0 8).tim.armed = true ∧ ({ timReset with armed := false }).armed = false ∧ (14 : Nat) ≤ (15 : Fin 16).val ∧
    ((wCmp 0 8).setBit (Reg.TIM_TM_CFG (15 - 14)) 0 true).bit (Reg.TIM_TM_CFG (15 - 14)) 0 = true ∧ (wCmp 0 8).domOn 9 = false ∧
    ((wCmp 0 8).setBit (Reg.PWR_DC_CTL 9) (16 + 15) true).bit (Reg.PWR_DC_CTL 9) (16 + 15) = true := by decide

theorem witness_tm_pulse : sget (fun _ => none) [(1, some 0)] 1 = some (0 : Nat) ∧
    ((wTim.setBits (Reg.TIM_TM_CFG 1) 31 2 8).bits (Reg.TIM_TM_CFG 1) 31 2 + 7) / 8 * 8 ≤ 8 - 0 ∧
    (7 : Nat) - 0 < ((wTim.setBits (Reg.TIM_TM_CFG 1) 31 2 8).bits (Reg.TIM_TM_CFG 1) 31 2 + 7) / 8 * 8 := by decide

theorem witness_captures : wTim.bits (Reg.TIM_CAP_CFG 7) 1 0 = 0 ∧ (wTim.setBits (Reg.TIM_CAP_CFG 7) 1 0 1).bits (Reg.TIM_CAP_CFG 7) 1 0 ≠ 0 ∧
    sget (fun _ => false) wTim.tim.frozen 7 = false ∧ sget (fun _ => none) [(7, some (9 : DWord))] 7 = some 9 ∧ sget (fun _ => none) wTim.tim.held 7 = none := by
  decide

/-- A first PPS_IN edge, one 499,999,999 ns after the last, and one at 500,000,000 ns. -/
theorem witness_pps_in : (wTim.setBit Reg.TIM_PPSIN_CFG 0 true).bit Reg.TIM_PPSIN_CFG 0 = true ∧ wTim.bit Reg.TIM_PPSIN_CFG 0 = false ∧
    wTim.tim.ppsLast = none ∧ 499999999 - 0 - 0 < 500000000 ∧ ¬500000000 - 0 - 0 < 500000000 := by decide

theorem witness_servo : (wTim.setBits Reg.NBB_TIME_STAT 1 0 1).bits Reg.NBB_TIME_STAT 1 0 = 1 ∧ wTim.bits Reg.NBB_TIME_STAT 1 0 ≠ 1 ∧
    0x07F00000 + 13421 ≤ (0x08000000 : Word).toNat ∧ (0x08000000 : Word).toNat + 13421 ≤ 0x08100000 ∧ (49999 : Int).natAbs < 50000 ∧
    50000 ≤ (50000 : Int).natAbs ∧ (999999999 : Int).natAbs < 1000000000 ∧ 1000000000 ≤ (1000000000 : Int).natAbs ∧ 0 ≤ (wTim.ext : Int) + 50000 ∧
    ({ libReset with gm := true }).gm = true := by decide

/-- LAG at 255 (R277): a further wrap is kept, and a fold of 2 brings it into U. -/
theorem test_excess_wrap : let s := ((wTim.setBits Reg.TIM_EXT_STAT 15 8 255).wrapFwd)
    let t := (timFold 2 s).applyFold
    (s.lag, s.tim.excess, t.lag, t.tim.excess, t.rdN Reg.TIM_EXT_BASE) = (255, 1, 254, 0, 2) ∧ wTim.lag < 255 ∧ wTim.tim.excess = 0 ∧
    wTim.tim.pFold = 0 ∧ min (timFold 2 s).tim.pFold 255 = 2 ∧ Reg.TIM_CMP_CFG 15 ∉ wTim.inst.sw := by decide

/-! ### The Deckle: the hypotheses can be met -/

/-- A configuration: input 0 is an ESTOP of thruster 0 tested by TP 1, input 1 a plain one; pair 0; thruster 0 enabled by output 2; output 3
is the position alarm; receive connection 0 asks for a stop, connection 1 carries feedback. -/
def wScr : ScrCfg :=
  { ins := [⟨.estop 1, some 1⟩, ⟨.estop 2, none⟩], pairs := [0], inFilt := 8, discT := 100, alarmOut := some 3, opWidth := 300, opPeriod := 10,
    thr := [{ (default : ThrCfg) with enable := some 2 }], rx := [⟨9, 5, 4, 7, 100, true, 10, false, 1⟩, ⟨10, 6, 4, 7, 100, false, 10, true, 1⟩], tx := [],
    posTmo := 100 }

/-- The Deckle in a state (0 START, 1 RUN, 2 SAFE_FAULT), at 3,600 s, with what it holds. -/
def wDkl (st : Nat) (d : DklSt) : State :=
  { ((onDoms [0, 13]).setBits Reg.DKL_STATE 1 0 st) with clk := 3600000000000, dkl := { d with scr := some wScr } }

theorem witness_deckle_cycle : dklState (wDkl 1 dklReset) = 1 ∧ dklState (wDkl 0 dklReset) ≠ 1 ∧ (wDkl 1 dklReset).domOn 13 = true ∧
    (wDkl 1 dklReset).domOn 10 = false ∧ dklReset.resetCmd = false ∧ ({ dklReset with resetCmd := true }).resetCmd = true ∧
    (wDkl 1 dklReset).scr.alarmOut = some 3 ∧ (wDkl 1 dklReset).scr.alarmOut ≠ some 2 ∧ 0 < (wDkl 1 dklReset).scr.posTmo ∧
    (∃ x, (wDkl 1 dklReset).scr.thr[0]? = some x ∧ x.enable = some 2) ∧ ((wDkl 1 dklReset).setBit Reg.DKL_IO_STAT (16 + 2) true).bit Reg.DKL_IO_STAT (16 + 2) = true ∧
    ((onDoms [10, 13]).setBits Reg.FSN_DEGR_STAT 2 0 1).bits Reg.FSN_DEGR_STAT 2 0 ≠ 4 :=
  ⟨by decide, by decide, by decide, by decide, by decide, by decide, by decide, by decide, by decide, ⟨_, rfl, rfl⟩, by decide, by decide⟩

/-- A software stop, an ESTOP input at 0, a connection timed out, and one that asks. -/
theorem witness_demands : Demanded (wDkl 1 { dklReset with sw := 1 }) 0 ∧ Demanded (wDkl 1 dklReset) 0 ∧ fbit (1 : BitVec 24).toNat 0 = true :=
  ⟨.inl (by decide), .inr (.inl ⟨0, 1, some 1, by decide, rfl, by decide, .inl (by decide)⟩), by decide⟩

theorem witness_no_demand : ¬Demanded { (onDoms [13]) with dkl := dklReset } 5 := by
  rintro (h | ⟨n, m, tp, _, h, _⟩ | ⟨c, r, _, h, _⟩)
  · exact absurd h (by decide)
  · exact absurd h (by simp [State.scr, dklReset])
  · exact absurd h (by simp [State.scr, dklReset])

/-- Served at 250 and at 950 µs; 951 µs and none at all are faults. -/
theorem witness_deckle_watchdog : 250 ≤ (⟨250, 0⟩ : WdgService).at_ ∧ (⟨950, 0⟩ : WdgService).at_ ≤ 950 ∧ ¬(⟨951, 0⟩ : WdgService).at_ ≤ 950 ∧
    (none : Option WdgService) ≠ some ⟨250, 0⟩ := by decide

/-- TP 1 tests at sample 21; three samples in a row high; the pair differs. -/
theorem witness_inputs : ((wDkl 1 dklReset).scr.ins[0]?).bind (·.tp) = some 1 ∧ ((wDkl 1 dklReset).scr.ins[1]?).bind (·.tp) = none ∧
    ({ dklReset with sample := 21 }).sample = 20 * (1 : Fin 4).val + 1 ∧ dklReset.sample ≠ 20 * (1 : Fin 4).val + 1 ∧ (42 : Nat) % 20 = 2 ∧
    42 ≠ 20 * (1 : Fin 4).val + 2 ∧ fbit 4 2 = true ∧ 4 % 4 ≠ 3 ∧ (0 : Fin 8) ∈ (wDkl 1 dklReset).scr.pairs ∧
    sget (fun _ => none) [(0, some (0 : Nat))] 0 = some 0 ∧ ms (wDkl 1 dklReset).scr.discT < 3600000000000 - 0 := by decide

theorem witness_outputs : 5000 ≤ [5000].getD 0 0 ∧ [18000].getD 0 0 ≤ 18000 ∧ dklState (wDkl 0 dklReset) = 0 ∧ (wDkl 1 dklReset).bit Reg.DKL_IO_STAT (16 + 2) = false ∧
    (∀ m, m < 8 → m / 4 = 0 → (wDkl 1 dklReset).bit Reg.DKL_IO_STAT (16 + m) = false) ∧ ms 3600000 ≤ (wDkl 1 dklReset).clk - 0 ∧
    ms 50 ≤ (wDkl 1 dklReset).clk - sget (fun _ => 0) dklReset.offFrom 0 ∧ ms (720 * 3600000) ≤ 720 * 3600000000000 - 0 := by decide

theorem witness_unit_fault : (wDkl 1 dklReset).bits Reg.DKL_STATE 1 0 ≠ 2 ∧ (wDkl 2 dklReset).bits Reg.DKL_STATE 1 0 = 2 ∧ dklReset.slot = none ∧
    ({ dklReset with slot := some 1 }).slot = some 1 := by decide

/-- A module after reset finds no record in either slot (commit word 0). -/
theorem witness_no_record : (scrWords (onDoms [13]) 0).getD 1023 0 ≠ 0xDC135C01 ∧ (scrWords (onDoms [13]) 1).getD 1023 0 ≠ 0xDC135C01 ∧
    (onDoms [13]).dkl.scr = none := by
  refine ⟨?_, ?_, by decide⟩ <;> (unfold scrWords; rw [show (onDoms [13]).mram = [] from rfl, memWords_empty]; decide +kernel)

/-- A PDU of connection 9, its CRC right. -/
def wPdu (seq : Word) (pay : List Word) : SafePdu :=
  let p : SafePdu := ⟨1, 9, BitVec.ofNat 16 (4 * pay.length), seq, 5, pay, 0⟩
  { p with crc := pduCrc 7 p }

theorem witness_valid_copy : ValidCopy ⟨9, 5, 4, 7, 100, true, 10, false, 1⟩ (wPdu 3 [1]) ∧
    ¬ValidCopy ⟨9, 5, 4, 7, 100, true, 10, false, 1⟩ { wPdu 3 [1] with crc := 0 } ∧ (wPdu 3 []).payload = [] ∧ (wPdu 3 [1]).conn ≠ 10 := by
  unfold ValidCopy; decide +kernel

/-- Sequence numbers one on, two on, one behind, and the same with its other copy waiting. -/
theorem witness_sequence : ((3 : Word) - 2).toNat = 1 ∧ 1 < ((3 : Word) - 1).toNat ∧ ((3 : Word) - 1).toNat < 2 ^ 31 ∧ 2 ^ 31 ≤ ((3 : Word) - 4).toNat ∧
    ((3 : Word) - 3).toNat = 0 ∧ ({ dklConnIdle with wait := [(3, true, 0, wPdu 3 [1])] }).wait = (3, !false, 0, wPdu 3 [1]) :: [] ∧
    ({ dklConnIdle with wait := [(3, false, 0, wPdu 3 [1])] }).wait = (3, false, 0, wPdu 3 [1]) :: [] ∧ wPdu 3 [1] ≠ wPdu 3 [0] ∧
    ({ dklConnIdle with lastSeq := some 3 }).lastSeq ≠ none ∧ (some [1] : Option (List Word)) ≠ none ∧ (1 : Nat) ≠ 3 ∧
    dklConnIdle.lastSeq = none ∧ dklConnIdle.wait = [] ∧ (wDkl 1 dklReset).scr.rx[0]? = some ⟨9, 5, 4, 7, 100, true, 10, false, 1⟩ ∧
    (wDkl 1 dklReset).scr.rx[2]? = none ∧ ms 10 ≤ 10000000 - 0 ∧ ¬ms 10 ≤ 9999999 - 0 ∧ dklConnIdle.timeout = false ∧ ms 100 ≤ 100000000 - dklConnIdle.lastRx := by
  decide +kernel

/-- Slot 1 in force, with its commit word and without (R11). -/
def wInForce (m : SMap Byte) : State := { (onDoms [13]) with mram := m, dkl := { dklReset with slot := some 1 } }

theorem witness_record_in_force : (scrWords (wInForce (wrz [] 0x3FFC 4 0xDC135C01)) 1).getD 1023 0 = 0xDC135C01 ∧
    (scrWords (wInForce []) 1).getD 1023 0 ≠ 0xDC135C01 ∧ (wInForce []).dkl.slot = some 1 := by decide +kernel

/-! ### Ply: the hypotheses can be met -/

/-- Ply's node alive, every port enabled with its link, at 400 s. -/
def wPly : State :=
  let s := (onDoms [0, 11]).setBit Reg.PLY_NODE 14 true
  let s := [0, 1, 2, 3].foldl (fun s p => (s.setBit (Reg.PLY_PORT_CFG p) 0 true).setBit (Reg.PLY_PORT_STAT p) 0 true) s
  { s with clk := 400000000000 }

theorem witness_links : wPly.bit (Reg.PLY_PORT_CFG 3) 0 = true ∧ wPly.bits Reg.TND_PSTATE 6 4 ≠ 1 ∧ (onDoms [11]).bit (Reg.PLY_PORT_CFG 3) 0 = false ∧
    (onDoms [11]).bit (Reg.PLY_PORT_STAT 3) 0 = false := by decide

theorem witness_supervision : wPly.domOn 11 = true ∧ wPly.bit Reg.PLY_NODE 14 = true ∧ wPly.ply.supAt + 2000000000 ≤ wPly.clk ∧
    (∀ a ∈ wPly.ply.addrs, a.mac ≠ beAt (supFrame wPly.ply.node wPly.ply.supSeq) 0 6) ∧ portUp wPly 3 = true ∧ portUp (onDoms [11]) 3 = false ∧
    queueFits wPly 0 0 (supFrame 0 0 ++ plyTrailer (supFrame 0 0) 0 0) = true ∧ (onDoms [11]).bit Reg.PLY_NODE 14 = false := by decide

/-- A queue 4 bytes short of its 64 KiB has no room for a supervision frame with its trailer and FCS. -/
theorem witness_queue_full : queueFits { wPly with ply := { plyReset with q := [(0, List.replicate 43 ⟨List.replicate 1520 0, none, 0⟩)] } } 0 0
    (supFrame 0 0 ++ plyTrailer (supFrame 0 0) 0 0) = false := by decide +kernel

/-- A descriptor at the head of ring 0: a frame of `len` bytes at 0x08_0000_1000, `w2` besides, launch time `late`. -/
def wTx (len w2 late : Nat) : State :=
  let s := (wPly.setBit (Reg.PLY_TXR_CFG 0) 19 true).wrN (Reg.PLY_TXR_WR 0) 1
  { s with dram := memPut zeroByte [] 0 [0x1000, 8, BitVec.ofNat 32 (len + w2 + 2 ^ 31), 0, BitVec.ofNat 32 late] }

def wTxF (s : State) (i : Nat) : Nat := rdz s.dram (txDesc s 0 (txTake s 0) - dramBase + 4 * i) 4

theorem witness_tx : txReady (wTx 60 0 0) 0 = true ∧ txReady wPly 0 = false ∧ txReady wPly 1 = false ∧ inDram (wTxF (wTx 60 0 0) 0 + 2 ^ 32 * wTxF (wTx 60 0 0) 1) 60 = true ∧
    (wTx 60 0 0).ply.flight = [] ∧ fget (wTxF (wTx 60 0 0) 2) 10 0 = 60 ∧ fget (wTxF (wTx 59 0 0) 2) 10 0 < 60 ∧ 1516 < fget (wTxF (wTx 1517 0 0) 2) 10 0 ∧
    fget (wTxF (wTx 60 0x1800 0) 2) 12 11 = 3 ∧ fget (wTxF (wTx 60 0x800 0) 2) 12 11 = 0 / 2 + 1 ∧ fget (wTxF (wTx 60 0 0) 2) 30 17 = 0 ∧
    fget (wTxF (wTx 60 0 0) 3) 31 15 = 0 := by decide +kernel

theorem witness_tx_frame : plyEtherType (memBytes zeroByte (wTx 60 0 0).dram 0x1000 60) ≠ 0x88B5 ∧ pubLate (wTx 60 0 0) (memBytes zeroByte (wTx 60 0 0).dram 0x1000 60) = false ∧
    (List.range 16).all (fun i => i < 12 || wTxF (wTx 60 0 0) i == 0) = true ∧ 3 ∈ plyPorts (wTx 60 0 0) (3 / 2) 0 none ∧
    queueFits (wTx 60 0 0) 3 0 (List.replicate 66 0) = true := by decide +kernel

/-- A launch time of 5 ns, when local time is past it. -/
theorem witness_tx_missed : wTxF (wTx 60 0 5) 4 + 2 ^ 32 * wTxF (wTx 60 0 5) 5 = 5 ∧ 5 < ((wTx 60 0 5).wrN Reg.TIM_NOW 6).ext := by decide +kernel

def wFlight (left st : Nat) : PlyFlight := ⟨1, 0, 0x800000000, left, st, true, false, 9, 0, true⟩

theorem witness_tx_complete : ([wFlight 0 0].filter (·.ring == (0 : Fin 2).val)) = wFlight 0 0 :: [] ∧ (wFlight 1 0).left ≠ 0 ∧ (wFlight 0 0).left = 0 ∧
    (wFlight 0 3).st < 4 ∧ (∀ e ∈ [wFlight 0 0], e.id = (wFlight 0 0).id → e = wFlight 0 0) ∧ wPly.domOn 0 = true ∧
    wPly.ply.flight.filter (·.ring == (1 : Fin 2).val) = [] := by decide

/-- Frames to a group: IPv4, a pause frame, and a Ply frame of type 4 from node 5 to group 1, with and without its trailer. -/
def wIp : List Byte := beBytes 0xFFFFFFFFFFFF 6 ++ beBytes 0x020000000005 6 ++ beBytes 0x0800 2 ++ zeros 46
def wPause : List Byte := beBytes 0x0180C2000001 6 ++ beBytes 0x020000000005 6 ++ beBytes 0x8808 2 ++ zeros 46
/-- A data frame (type 4) from node 5 to group 1, with the trailer of its third frame on Ply-A. -/
def wFrame4 : List Byte :=
  let f := plyFrame 5 2 4 true 1 0 false false (zeros 32)
  f ++ plyTrailer f 3 0

/-- Group 1 joined, a receive ring with a free descriptor; `seen` holds the values of the frame's source. -/
def wRx (seen : List (Nat × Nat)) : State :=
  let s := (wPly.setBit Reg.PLY_RXR_CFG 19 true).setBit Reg.PLY_GROUPS 1 true
  { s with dram := memPut zeroByte [] 0 [0x1000, 8, 0x80000000], ply := { s.ply with wins := [⟨srcMac wFrame4, seen⟩] } }

theorem witness_rx : portUp (wRx []) 3 = true ∧ plyEtherType wFrame4 = 0x88B5 ∧ plyEtherType wIp = 0x800 ∧ plyEtherType wPause = 0x8808 ∧
    toMac (wRx []) 1 wFrame4 = true ∧ plyHeaderOk (wRx []) wFrame4 = true ∧ plyHeaderOk wPly wFrame4 = false ∧ byteAt wFrame4 (plyBodyAt wFrame4) / 16 = 4 ∧
    leAt wFrame4 (plyBodyAt wFrame4 + 6) 2 ≠ 0 ∧ hasTrailer wFrame4 = true ∧ hasTrailer wIp = false := by decide +kernel

theorem witness_rx_dup : (wRx [(3, 300000000000)]).ply.wins.find? (·.src == srcMac wFrame4) = some ⟨srcMac wFrame4, [(3, 300000000000)]⟩ ∧
    beAt wFrame4 (wFrame4.length - 6) 2 = 3 ∧ 3 ∉ winLive (wRx []) ⟨0, [(3, 400000000000 - 400000000)]⟩ ∧
    3 ∈ winLive (wRx []) ⟨0, [(3, 400000000001 - 400000000)]⟩ := by decide +kernel

theorem witness_rx_room : (wRx []).bit Reg.PLY_RXR_CFG 19 = true ∧ (wRx []).domOn 0 = true ∧ inDram (rxDesc (wRx [])) 32 = true ∧
    fbit (rdz (wRx []).dram (rxDesc (wRx []) - dramBase + 8) 4) 31 = true ∧ wPly.bit Reg.PLY_RXR_CFG 19 = false ∧
    inDram (rdz (wRx []).dram (rxDesc (wRx []) - dramBase) 8) 92 = true ∧ rxDesc (wRx []) + 32 ≤ rdz (wRx []).dram (rxDesc (wRx []) - dramBase) 8 ∧
    toMac (onDoms [0, 11]) 1 wIp = false := by decide +kernel

/-- A PTP frame, a safe frame, a source not in the table, and a frame for an address not learnt. -/
def wPtp : List Byte := beBytes 0x011B19000000 6 ++ beBytes 0x020000000005 6 ++ beBytes 0x88F7 2 ++ zeros 46
def wSafe : List Byte := plyFrame 5 7 2 true 1 0 false false (zeros 16) ++ zeros 10

theorem witness_rx_kinds : plyEtherType wPtp = 0x88F7 ∧ plyEtherType wSafe = 0x88B5 ∧ plyHeaderOk (wRx []) wSafe = true ∧
    byteAt wSafe (plyBodyAt wSafe) / 16 = 2 ∧ toMac (wRx []) 1 wSafe = true ∧ wPly.ply.wins = [] ∧ wPly.ply.addrs = [] ∧
    beAt wIp 0 6 ≠ srcMac wIp ∧ beAt wIp 0 6 ≠ nodeMac wPly.ply.node ∧ portUp wPly (3 / 2 * 2 + (1 - 3 % 2)) = true ∧
    queueFits wPly 2 (plyQueue wIp) wIp = true := by decide +kernel

/-- A safe copy goes to no ring, and a flooded frame to the network's other port. -/
theorem test_rx_kinds : (plyRx 3 wSafe true (wRx [])).rdN Reg.PLY_RXR_WR = 0 ∧ plyQ (plyRx 3 wIp true (wRx [])) 2 0 = [⟨wIp, none, 1⟩] ∧
    plyQ (plyRx 3 wPtp true (wRx [])) 2 0 = [] := by decide +kernel

/-! ### The CAN FD controllers: the hypotheses can be met -/

/-- Controller 5 in state `st` (0 INIT, 1 and 2 on the bus, 3 bus-off, 4 recovering), INIT clear, with `x`. -/
def wCan (st : Nat) (x : CanSt) : State :=
  (((onDoms [0, 11]).setBit (Reg.CAN_MODE 5) 0 false).setBits (Reg.CAN_STATE 5) 26 24 st).setCan 5 x

/-- The same with INIT set. -/
def wCanInit (st : Nat) : State := (wCan st canIdle).setBit (Reg.CAN_MODE 5) 0 true

theorem witness_can_init : (wCan 1 canIdle).domOn 11 = true ∧ (canOf (wCan 1 canIdle) 5).active = none ∧
    (canOf (wCan 1 { canIdle with active := some (63, 9) }) 5).active = some (63, 9) ∧ (wCan 1 canIdle).bit (Reg.CAN_MODE 5) 0 = false ∧
    (wCanInit 0).bit (Reg.CAN_MODE 5) 0 = true ∧ canState (wCanInit 3) 5 = 3 ∧ canState (wCanInit 0) 5 = 0 ∧ canState (wCan 4 canIdle) 5 = 4 ∧
    canState (wCan 2 canIdle) 5 = 2 ∧ (127 : Nat) < 128 ∧ (wCan 1 { canIdle with cancel := true }).domOn 11 = true := by decide

/-- 500 kbit/s and 2 Mbit/s on 80 MHz are in the ranges; a nominal TSEG1 of 1 is not (R343). -/
theorem witness_can_timing : canTimingOk (1 + 62 * 32 + 15 * 8192 + 15 * 1048576) (1 + 13 * 32 + 4 * 1024 + 4 * 16384) = true ∧
    canTimingOk 0 0 = false := by decide

/-- Buffer 63 receives identifier 0x123 under a full mask, buffer 62 transmits with status `st`; the FIFO is enabled. -/
def wCanBuf (st : Nat) (x : CanSt) : State :=
  let s := (wCan 1 x).wrN (Reg.CAN_BUF_CFG 5 63) (2 ^ 31 + 0x123)
  let s := (s.wrN (Reg.CAN_BUF_MASK 5 63) 0x3FFFFFFF).wrN (Reg.CAN_BUF_CFG 5 62) (3 * 2 ^ 30)
  (s.setBits (Reg.CAN_BUF_CTL 5 62) 7 4 st).setBit (Reg.CAN_FIFO_ID 5) 31 true

/-- A frame with the identifier 0x123 meets buffer 63 (and the FIFO under its empty mask); 0x124 meets the FIFO alone. -/
theorem witness_can_rx : (wCanBuf 0 canIdle).bit (Reg.CAN_BUF_CFG 5 63) 31 = true ∧ (wCanBuf 0 canIdle).bit (Reg.CAN_BUF_CFG 5 63) 30 = false ∧
    canMatch 0x123 ((wCanBuf 0 canIdle).rdN (Reg.CAN_BUF_CFG 5 63)) ((wCanBuf 0 canIdle).rdN (Reg.CAN_BUF_MASK 5 63)) = true ∧
    canMatch 0x124 ((wCanBuf 0 canIdle).rdN (Reg.CAN_BUF_CFG 5 63)) ((wCanBuf 0 canIdle).rdN (Reg.CAN_BUF_MASK 5 63)) = false ∧
    canMatch 0x124 ((wCanBuf 0 canIdle).rdN (Reg.CAN_FIFO_ID 5)) ((wCanBuf 0 canIdle).rdN (Reg.CAN_FIFO_MASK 5)) = true ∧
    ((List.range 63).all fun b => !(wCanBuf 0 canIdle).bit (Reg.CAN_BUF_CFG 5 b) 31 || (wCanBuf 0 canIdle).bit (Reg.CAN_BUF_CFG 5 b) 30) = true ∧
    (wCan 1 canIdle).bit (Reg.CAN_FIFO_ID 5) 31 = false := by decide +kernel

theorem witness_can_rx_full : (canOf (wCan 1 { canIdle with fifo := List.replicate 31 [] }) 5).fifo.length < 32 ∧
    32 ≤ (canOf (wCan 1 { canIdle with fifo := List.replicate 32 [] }) 5).fifo.length ∧
    (canOf (wCan 1 { canIdle with lock := some 63, held := some [] }) 5).lock = some 63 := by decide

/-- REC at 0, 127 and 128 on reception; TEC at 255 and 128 on an error. -/
theorem witness_can_counters : ((wCan 1 canIdle).setBits (Reg.CAN_STATE 5) 23 16 127).bits (Reg.CAN_STATE 5) 23 16 ≤ 127 ∧
    127 < ((wCan 2 canIdle).setBits (Reg.CAN_STATE 5) 23 16 128).bits (Reg.CAN_STATE 5) 23 16 ∧ (wCan 1 canIdle).bits (Reg.CAN_STATE 5) 23 16 = 0 ∧
    ((wCan 2 canIdle).setBits (Reg.CAN_STATE 5) 8 0 255).bits (Reg.CAN_STATE 5) 8 0 ≤ 255 ∧
    ((wCan 1 canIdle).setBit (Reg.CAN_MODE 5) 1 true).bit (Reg.CAN_MODE 5) 1 = true ∧ (wCan 1 canIdle).bit (Reg.CAN_MODE 5) 1 = false ∧
    ((wCan 1 canIdle).setBit (Reg.CAN_MODE 5) 3 true).bit (Reg.CAN_MODE 5) 3 = true ∧ (wCan 1 canIdle).bit (Reg.CAN_MODE 5) 3 = false := by decide

/-- Buffer 62 may be sent from status 0, waits at 1, is sent at 2; a remote frame with FDF set is refused. -/
theorem witness_can_tx : canStatus (wCanBuf 0 canIdle) 5 62 = 0 ∧ canStatus (wCanBuf 1 canIdle) 5 62 = 1 ∧ canStatus (wCanBuf 2 canIdle) 5 62 = 2 ∧
    (wCanBuf 0 canIdle).bit (Reg.CAN_BUF_CFG 5 62) 30 = true ∧ (wCanBuf 1 canIdle).rdN (Reg.CAN_BUF_CFG 5 62) / 2 ^ 30 = 3 ∧
    ((List.range 64).all fun b => b == 62 || (wCanBuf 1 canIdle).rdN (Reg.CAN_BUF_CFG 5 b) / 2 ^ 30 != 3) = true ∧
    (fbit (2 ^ 30) 30 = true ∧ fbit 16 4 = true) ∧ (fbit 32 5 = true ∧ fbit 32 4 = false) ∧ (127 : Nat) < 128 := by decide +kernel

/-- The window: nothing locked, another buffer locked, the FIFO locked with an entry. -/
theorem witness_can_window : (canOf (wCanBuf 0 canIdle) 5).lock = none ∧ (canOf (wCanBuf 0 canIdle) 5).fifo = [] ∧
    (canOf (wCanBuf 0 { canIdle with lock := some 64, fifo := [[1]] }) 5).lock = some 64 ∧ (64 : Nat) ≠ 63 ∧
    (canOf (wCanBuf 0 { canIdle with fifo := [[1]] }) 5).fifo ≠ [] ∧
    (canOf (wCanBuf 0 { canIdle with lock := some 63, held := some [7] }) 5).held = some [7] := by decide

/-! ### The pair: the hypotheses can be met -/

/-- The pair enabled with both lanes up, a holder or not, in a MODE (1 WATCH, 2 TWIN), at 10 s, with what it holds. -/
def wPair (h : Bool) (mode : Nat) (x : PairSt) : State :=
  let s := (onDoms [0, 10, 11, 12]).wrN Reg.PAIR_CFG (1 + 2 * mode)
  let s := (s.wrN Reg.PAIR_LINK_STAT 7).setBits Reg.PAIR_LEASE_STAT 1 0 (if h then 1 else 0)
  { s with clk := 10000000000, pair := x }

theorem witness_link_up : LinkUp (wPair true 2 pairReset) ∧ (onDoms [11]).bit Reg.PAIR_CFG 0 = false ∧ holder (wPair true 2 pairReset) = true ∧
    holder (wPair false 2 pairReset) = false ∧ twinNow (wPair false 2 pairReset) = true ∧ twinNow (wPair false 1 pairReset) = false ∧
    (wPair true 2 pairReset).pair.seq < 2 ^ 32 := by
  unfold LinkUp; decide

/-- Packets: a HELLO, an ACK of SEQ 7, a snapshot, a HASH; one whose CRC is wrong, one of a type that does not exist. -/
theorem witness_packets : (∀ p ∈ [mirWords 7 0 1 0 0 [], mirWords 5 0 2 0 0 [7], mirWords 1 0 3 9 0 [4], mirWords 3 0 4 9 0 [1, 2, 0]],
      5 ≤ p.length ∧ p.getLast? = some (BitVec.ofNat 32 (crc32c 0xFFFFFFFF true (wordBytes p.dropLast))) ∧ 1 ≤ (p.getD 0 0).toNat % 256 ∧
        (p.getD 0 0).toNat % 256 ≤ 7 ∧ (p.getD 0 0).toNat / 65536 % 4 = 0 ∧ (p.getD 0 0).toNat / 65536 ≤ 4096 ∧
        p.length = 5 + (p.getD 0 0).toNat / 65536 / 4) ∧
    [8, 0, 0, 0, 0].getLast? ≠ some (BitVec.ofNat 32 (crc32c 0xFFFFFFFF true (wordBytes [8, 0, 0, 0]))) ∧
    ¬((mirWords 8 0 0 0 0 []).getD 0 0).toNat % 256 ≤ 7 := by decide +kernel

theorem witness_packet_state : (3 : Nat) ∉ pairReset.seen ∧ 3 ∈ ({ pairReset with seen := [3] }).seen ∧
    inDram (mstBase ((wPair false 2 pairReset).wrN Reg.PAIR_MST_BASE_HI 8) + 4096 * 16383) 4096 = true ∧ (List.replicate 1024 (0 : Word)).length = 1024 ∧
    (wPair false 2 pairReset).domOn 0 = true := by decide +kernel

/-- SEQ 7 unacknowledged, last sent 50 µs ago or 1 ns less, once or twice. -/
def wSent (ago n : Nat) : State := wPair true 2 { pairReset with sent := [⟨7, [], 10000000000 - ago, n, (1, 2)⟩] }

theorem witness_retransmit : (wSent 50000 1).pair.sent.find? (·.seq == 7) = some ⟨7, [], 9999950000, 1, (1, 2)⟩ ∧
    (wSent 50000 1).pair.sent.find? (·.seq == 8) = none ∧ 9999950000 + 50000 ≤ (wSent 50000 1).clk ∧ (wSent 49999 1).clk < 9999950001 + 50000 ∧
    (2 : Nat) ≠ 1 := by decide

theorem witness_link_sync : (wPair true 2 pairReset).pair.helloTx + 1000000 ≤ (wPair true 2 pairReset).clk ∧
    inSync ((wPair true 2 pairReset).setBit Reg.PAIR_LINK_STAT 2 false) = false ∧ laneUp (wPair true 2 pairReset) 0 = true ∧
    (wPair true 2 { pairReset with helloRx := some 9995000000 }).clk ≤ 9995000000 + 5000000 ∧ pairReset.lostAt + 500000000 < (wPair true 2 pairReset).clk ∧
    ¬(wPair true 2 { pairReset with helloRx := some 9994999999 }).clk ≤ 9994999999 + 5000000 := by decide

/-- Part 1 has one segment of 64 bytes at its destination 0x8_0000_0000, its packet received or not, due at 5 ns. -/
def wSnap (h got : Bool) : State :=
  let s := wPair h 2 { pairReset with snapDone := false, snap := if got then [(1, 0, 0, List.replicate 16 5)] else [] }
  let s := ((s.wrN (Reg.PAIR_SNAP_LEN 4) 64).wrN (Reg.PAIR_SNAP_DST 4) 0x8000000).wrN Reg.PAIR_SNAP_DL_LO 5
  { s with fsn := { s.fsn with steps := 1 } }

theorem witness_snap : snapSegs (wSnap false true) 1 = [4 * 1] ∧ segGot (wSnap false true) (4 * 1) = some (List.replicate 16 5) ∧
    segGot (wSnap false false) (4 * 1) = none ∧ inDram (snapDst (wSnap false true) (4 * 1)) (4 * 16) = true ∧ (wSnap false true).fsn.block = none ∧
    (wSnap false true).pair.snapStep < (wSnap false true).fsn.steps ∧ (wSnap false true).ext < snapDl (wSnap false true) ∧
    snapDl (wPair false 2 pairReset) ≤ (wPair false 2 pairReset).ext ∧ (wSnap false true).pair.snapDone = false ∧
    ((snapSegs (wSnap true true) 1).map (snapLen (wSnap true true))).sum ≤ 32768 := by decide +kernel

theorem witness_mirror_frame : pairMode (wPair true 1 pairReset) ≠ 0 ∧ pairMode (wPair true 0 pairReset) = 0 ∧ (wPair true 1 pairReset).domOn 0 = true ∧
    pairReset.asm = [] ∧ ({ pairReset with asm := [(0, [])] }).asm ≠ [] ∧ ({ pairReset with pass := some 16384 }).pass = some 16384 ∧
    (pairReset.dirty.any fun e => decide (64 ≤ e.1)) = false ∧ (([(64, true)] : SMap Bool).any fun e => decide (64 ≤ e.1)) = true ∧
    (wPair false 2 { pairReset with pResync := true, hashRx := some ⟨0, 0, 0, false⟩ }).pair.hashRx = some ⟨0, 0, 0, false⟩ ∧
    (wPair false 2 pairReset).bit Reg.PAIR_CFG 0 = true := by decide

/-- The last page of the mirror store, clean and dirty; page 64 waits for the Tender. -/
theorem witness_pages : mstBase ((wPair true 2 pairReset).wrN Reg.PAIR_MST_BASE_HI 8) + 0x3FFF000 = 0x803FFF000 ∧
    pageDirty (wPair true 2 pairReset) 16383 = false ∧ pageDirty (wPair true 2 { pairReset with dirty := [(16383, true)] }) 16383 = true ∧
    ({ pairReset with pass := some 16383 }).pass = some (16383 : Fin 16384).val ∧
    inDram (mstBase ((wPair true 2 pairReset).wrN Reg.PAIR_MST_BASE_HI 8) + 4096 * 16383) 4096 = true ∧ inSync (wPair true 2 pairReset) = true := by
  decide

theorem witness_slot_store : ((wPair false 1 pairReset).setBits Reg.TND_PSTATE 6 4 1).bits Reg.TND_PSTATE 6 4 = 1 ∧ (wPair false 1 pairReset).domOn 12 = true ∧
    ({ pairReset with frame := some (3, [1], 2, 4), stored := false }).frame = some (3, [1], 2, 4) ∧ [(1 : Word)].length ≤ 81920 ∧
    pairReset.frame = none ∧ pairReset.pages = [] ∧ (64 : Nat) ≤ 64 ∧ (8191 : Nat) < 8192 ∧ (wPair false 1 pairReset).bits Reg.TND_PSTATE 6 4 ≠ 1 := by
  decide

theorem witness_lease_send : (wPair true 2 pairReset).pair.sendAt + min 20 (leaseL (wPair true 2 pairReset) / 3) * 1000000 ≤ (wPair true 2 pairReset).clk ∧
    ({ pairReset with relLeft := 2 }).relLeft ≠ 0 ∧ pairReset.relLeft = 0 ∧ pathUp (wPair true 2 pairReset) = true ∧
    (wPair true 2 { pairReset with sendAt := 10000000000 }).clk < 10000000000 + 1 * 1000000 := by decide

/-- Words of a LEASE: HOLDER with the version `v` and flags; epochs one ahead, equal, behind. -/
theorem witness_lease_rx : (wPair false 2 pairReset).bit Reg.PAIR_CFG 0 = true ∧ [(0x1 : Word), 0, 0, 50, 0, 0, 1].length = 7 ∧ (1 : Nat) % 256 = 1 ∧
    fbit 0x201 9 = true ∧ fbit 0x201 12 = false ∧ fbit 1 0 = true ∧ newer 1 0 = true ∧ newer 0 0 = false ∧ newer 0 1 = false ∧ newer 0 0xFFFFFFFF = true ∧
    newer 0x80000000 0 = false ∧ roleB ((wPair true 2 pairReset).setBit Reg.PAIR_CFG 3 true) = true ∧ (wPair false 2 pairReset).bits Reg.PAIR_CFG 2 1 = 2 ∧
    roleB (wPair true 2 pairReset) = false ∧ (0 : Nat) = (wPair false 2 pairReset).rdN Reg.UPD_VERSION ∧ (9 : Nat) ≠ (wPair false 2 pairReset).rdN Reg.UPD_VERSION := by
  decide

/-- A free lease: nothing heard for long, a foreign frame seen on Ply-A within the window; a lease still held off; a lapsed one. -/
theorem witness_lease_eval :
    let s := wPair false 2 { pairReset with visA := some 9900000000 }
    s.pair.start + (leaseL s + 20 + if roleB s then 100 else 0) * 1000000 ≤ s.clk ∧ s.pair.heard = none ∧ s.clk ≤ 9900000000 + visWin s ∧
    ¬s.clk ≤ 9899999999 + visWin s ∧ s.bit Reg.PAIR_CFG 4 = false ∧
    ¬10000000000 + (max (leaseL s) 0 + 20) * 1000000 ≤ s.clk ∧
    (wPair true 2 { pairReset with renewAt := 9000000000 }).pair.renewAt + leaseL s * 1000000 < s.clk ∧
    ¬(wPair true 2 { pairReset with renewAt := 10000000000 }).pair.renewAt + leaseL s * 1000000 < s.clk ∧
    ((s.setBit Reg.PAIR_CFG 4 true).setBit Reg.PAIR_LEASE_STAT 7 true).bit Reg.PAIR_LEASE_STAT 7 = true ∧ s.pair.visB = none := by decide

/-- The partner 4 cycles behind, and 1 behind after 49 such cycles. -/
def wLag (pK : Nat) : State :=
  let s := (wPair true 2 { pairReset with pK := pK, okRun := 49, okK := 9, renewAt := 10000000000 })
  let s := (s.setBit Reg.PAIR_LEASE_STAT 4 true).setBit Reg.PAIR_LEASE_STAT 5 true
  { s with lib := { s.lib with k := 10 } }

theorem witness_lag : partnerLag (wLag 6) = 4 ∧ partnerLag (wLag 7) = 3 ∧ partnerLag (wLag 9) = 1 ∧ (wLag 9).pair.okK ≠ (wLag 9).lib.k ∧ 49 ≤ (wLag 9).pair.okRun ∧
    (wLag 9).bit Reg.PAIR_LEASE_STAT 5 = true ∧ (wLag 9).bit Reg.PAIR_LEASE_STAT 4 = true ∧ pairMode (wLag 9) ≠ 0 := by decide

/-- A proof run due every hour, the partner's lease heard or not; a run of 2 s that began 2 s ago. -/
def wProof (heard : Bool) : State :=
  let s := (wPair true 1 { pairReset with proofAt := some 3598000000000 }).wrN Reg.PAIR_PROOF_CFG 0x201
  { s.setBit Reg.PAIR_LEASE_STAT 4 heard with clk := 3600000000000 }

theorem witness_proof : (wProof true).pair.lastEnd + (wProof true).bits Reg.PAIR_PROOF_CFG 7 0 * 3600000000000 ≤ (wProof true).clk ∧
    (wProof true).bits Reg.PAIR_PROOF_CFG 7 0 * 3600000000000 ≠ 0 ∧ (wProof true).pair.proof = none ∧ (wProof true).pair.refused = none ∧
    (wProof true).bits Reg.PAIR_CFG 2 1 = 1 ∧ (wProof true).bit Reg.PAIR_LEASE_STAT 4 = true ∧ inSync (wProof true) = true ∧
    (wProof false).bit Reg.PAIR_LEASE_STAT 4 = false ∧ (wProof true).bit Reg.PAIR_LEASE_STAT 6 = false ∧
    3598000000000 + (wProof true).bits Reg.PAIR_PROOF_CFG 17 8 * 1000000000 ≤ (wProof true).clk ∧ pairReset.proofAt = none ∧
    (wProof true).bits Reg.PAIR_PROOF_STAT 15 0 = 0 ∧ 9 * (0 - (wProof true).pair.firstK) ≤ 10 * (wProof true).pair.compared := by decide

/-- A cycle slot with its commit word; an entry of the page table that is not 0. -/
theorem witness_watch : newestSlot { (wPair true 1 pairReset) with mram := wrz [] (cycleSlot 1 + 0x50FFC) 4 0x3C1A0001 } = some 1 ∧
    rdz (wrz [] (0x1B0000 + 8 * 8127) 8 3) (0x1B0000 + 8 * 8127) 8 ≠ 0 ∧
    inDram (mstBase ((wPair true 1 pairReset).wrN Reg.PAIR_MST_BASE_HI 8)) (mirLen (wPair true 1 pairReset)) = true ∧
    inDram (mstBase ((wPair true 1 pairReset).wrN Reg.PAIR_MST_BASE_HI 8) + 4096 * (8127 + 64)) 4096 = true ∧
    (wPair true 1 pairReset).bits Reg.PAIR_CFG 2 1 = 1 := by decide +kernel

theorem witness_watch_region : (wPair true 1 pairReset).domOn 5 = false ∧ newestSlot (wPair true 1 pairReset) = none ∧
    snapSegs (wPair true 1 pairReset) 0 ++ snapSegs (wPair true 1 pairReset) 1 = [] := by decide +kernel

/-- A plan of cycle 98 (RUNS 7, PLAN_RUN 5, k 100): on a module whose RUNS is 30, whose first solve is in cycle 107, s is 9 (R366). -/
def wPlan (runs k : Nat) : State :=
  let s := State.reset.setBits (Reg.CAL_ARM_CNT 2) 15 0 runs
  { s with lib := { s.lib with k := k } }

theorem test_plan_run : (planRun ((wPlan 7 100).planShared 2 [0, 0, 0, 0, 5, 9]) = 98) ∧
    (wPlan 30 0).planOwn 2 107 ((wPlan 7 100).planShared 2 [0, 0, 0, 0, 5, 9]) = [0, 0, 0, 0, 22, 9] := by decide +kernel

theorem witness_plan_run : 4 < [(0 : Word), 0, 0, 0, 5, 9].length ∧ (wPlan 7 100).lib.k + 7 < 2 ^ 32 ∧
    ((wPlan 7 100).bits (Reg.CAL_ARM_CNT 2) 15 0 + 65536 - planRun [0, 0, 0, 0, 5, 9] % 65536) % 65536 = 2 := by decide +kernel

theorem test_lists : splitLists 3 (joinLists [[1, 2], [], [3]]) = [[1, 2], [], [3]] ∧ wordsDword (dwordWords [5, 0x700000000]) = [5, 0x700000000] := by
  decide +kernel

/-! ### The Tender: the hypotheses can be met -/

/-- The module in power state `cur` (0 RUN, 1 WATCH, 2 DOZE, 3 HOLD, 4 ENTERING, 5 WAKING), at 3,600 s, with the always-on state `x`. -/
def wTnd (cur : Nat) (x : TndSt) : State :=
  { (onDoms [0, 9, 10, 11, 12, 13]).setBits Reg.TND_PSTATE 6 4 cur with clk := 3600000000000, tnd := x }

def x0 : TndSt := State.reset.tnd

theorem witness_domain_life : curState (wTnd 0 x0) = 0 ∧ (wTnd 0 x0).contained 12 = false ∧ (wTnd 0 x0).bits (Reg.PWR_DC_STAT 12) 1 0 = 3 ∧
    (wTnd 0 x0).bits (Reg.PWR_DC_STAT 5) 1 0 < 2 ∧ ((wTnd 0 x0).setBit (Reg.PWR_DC_STAT 12) 3 true).contained 12 = true ∧ (1 : BitVec 2).toNat < 2 ∧
    2 ≤ (2 : BitVec 2).toNat ∧ (12 : Fin 14).val ≠ 0 ∧ (12 : Fin 14).val ≠ 13 ∧ ¬(0 : Fin 14).val ≠ 0 ∧ ¬(13 : Fin 14).val ≠ 13 ∧
    (1 : BitVec 4) ≠ 0 ∧ (8 : BitVec 4).getLsbD 3 = true ∧ (wTnd 0 x0).contained (5 + 3) = false ∧ curState (wTnd 5 x0) ≠ 0 := by decide

/-- A domain that wakes while one read of the Mill waits for it. -/
theorem witness_domain_contained_under_access :
    let s := (wTnd 0 { x0 with stalls := [⟨.mill0, 2, 0x1000, (5 : Fin 14), 0, .busRead⟩] }).setBits (Reg.PWR_DC_STAT 5) 3 0 2
    2 ≤ s.bits (Reg.PWR_DC_STAT 5) 1 0 ∧ s.contained 5 = false ∧ (5 : Fin 14) ≠ 0 ∧ Requester.mill0.num < 3 ∧
    s.tnd.stalls = [⟨.mill0, 2, 0x1000, (5 : Fin 14), 0, .busRead⟩] := by decide

/-- A resume record for a Mill that starts at 0x1234 (R390, R438). -/
def wResume : SMap Byte :=
  let m := wrz (wrz [] 0x1000 8 0x1234) 0x1038 4 0xA0E50001
  wrz m 0x1008 4 (crc32c 0xFFFFFFFF true (memBytes zeroByte m 0x1000 8 ++ memBytes zeroByte m 0x1010 40))

theorem witness_domain_on : ((wTnd 5 x0).setBits (Reg.PWR_DC_STAT 8) 3 0 2).contained 8 = false ∧ ((wTnd 5 x0).setBits (Reg.PWR_DC_STAT 8) 3 0 2).bits (Reg.PWR_DC_STAT 8) 1 0 = 2 ∧
    x0.stalls = [] ∧ ({ x0 with wakeFrom := some 1 }).wakeFrom.isSome = true ∧ x0.recovery = false ∧
    resumeOk { (wTnd 5 x0) with ao := wResume } = true := by decide +kernel

theorem witness_pstate : holder (wTnd 0 x0) = false ∧ (wTnd 0 x0).bit Reg.UPD_ACT_CTL 0 = false ∧ ((wTnd 0 x0).setBit Reg.UPD_ACT_CTL 0 true).bit Reg.UPD_ACT_CTL 0 = true ∧
    ((wTnd 0 x0).setBits Reg.PAIR_CFG 2 1 1).bits Reg.PAIR_CFG 2 1 = 1 ∧ (2 : BitVec 2) ≠ 0 ∧ ({ x0 with entry := some (3, 13) }).entry = some (3, 13) ∧
    x0.entry = none ∧ (3 : Nat) < 4 ∧ (13 : Nat) < 14 ∧
    (∀ n, n = 0 ∨ (9 ≤ n ∧ n ≤ 13) → (wTnd 5 x0).domOn n = true ∨ (wTnd 5 x0).contained n = true) := by
  refine ⟨by decide, by decide, by decide, by decide, by decide, by decide, by decide, by decide, by decide, fun n h => .inl ?_⟩
  rcases h with rfl | ⟨h1, h2⟩
  · decide
  · obtain rfl | rfl | rfl | rfl | rfl : n = 9 ∨ n = 10 ∨ n = 11 ∨ n = 12 ∨ n = 13 := by omega
    all_goals decide

/-- The alarm at RTC second 5 when the clock reads 5 s and 4 s; every wake source enabled and none. -/
def wAlarm (rtc : Nat) : State :=
  (((wTnd 2 { x0 with bootDue := false }).wrN Reg.TND_ALARM_LO 5).wrN Reg.TND_RTC_LO rtc).setBits Reg.TND_WAKE 3 0 15

theorem witness_wake : curState (wAlarm 5) = 2 ∧ (wAlarm 5).bit Reg.TND_WAKE 0 = true ∧ (wAlarm 5).bit Reg.TND_WAKE 1 = true ∧ (wAlarm 5).bit Reg.TND_WAKE 2 = true ∧
    (wAlarm 5).rd64 Reg.TND_ALARM_LO Reg.TND_ALARM_HI ≠ 0 ∧
    (wAlarm 5).rd64 Reg.TND_ALARM_LO Reg.TND_ALARM_HI ≤ (wAlarm 5).rd64 Reg.TND_RTC_LO Reg.TND_RTC_HI ∧
    (wAlarm 4).rd64 Reg.TND_RTC_LO Reg.TND_RTC_HI < (wAlarm 4).rd64 Reg.TND_ALARM_LO Reg.TND_ALARM_HI ∧ x0.supply = .good ∧
    ((wTnd 1 x0).setBit Reg.TND_WAKE 3 true).bit Reg.TND_WAKE 3 = true ∧ curState (wTnd 1 x0) = 1 ∧ curState (wTnd 3 x0) = 3 ∧
    ((wTnd 0 x0).setBit Reg.TND_WAKE 0 false).bit Reg.TND_WAKE 0 = false ∧ ((wTnd 1 x0).setBit Reg.TND_WAKE 3 false).bit Reg.TND_WAKE 3 = false := by decide

/-- A module that is up and sleeps in WATCH, or is on its way there, with every wake source enabled. -/
def wUp (cur : Nat) : State := (wTnd cur { x0 with bootDue := false, entry := some (1, 3) }).setBits Reg.TND_WAKE 3 0 15

theorem witness_alarm_up : Up (wAlarm 5) := ⟨by decide, by decide, by decide, fun pf => by cases pf <;> decide⟩

theorem witness_up : Up (wUp 1) ∧ Up (wUp 4) ∧ curState (wUp 1) = 1 ∧ curState (wUp 4) = 4 ∧ (wUp 4).tnd.entry = some (1, 3) ∧
    (wUp 1).bit Reg.TND_WAKE 0 = true ∧ (wUp 1).bit Reg.TND_WAKE 1 = true ∧ (wUp 1).bit Reg.TND_WAKE 2 = true ∧ (wUp 1).bit Reg.TND_WAKE 3 = true ∧
    curState (wUp 3) = 3 ∧ Up (wUp 3) ∧ curState (wUp 1) < (2 : BitVec 2).toNat ∧ curState (wUp 2) = (2 : BitVec 2).toNat := by
  refine ⟨⟨rfl, rfl, by decide, fun pf => ?_⟩, ⟨rfl, rfl, by decide, fun pf => ?_⟩, by decide, by decide, rfl, by decide, by decide, by decide,
    by decide, by decide, ⟨rfl, rfl, by decide, fun pf => ?_⟩, by decide, by decide⟩ <;> cases pf <;> decide

/-- In WATCH a wake frame wakes, on the way to DOZE it does not. -/
theorem test_ply_wake : (match execPlyWakeFrame (wUp 4) with | .next t => curState t | _ => 9) = 5 ∧
    (match execPlyWakeFrame { wUp 4 with tnd := { (wUp 4).tnd with entry := some (2, 3) } } with | .next t => curState t | _ => 9) = 4 := by decide +kernel

theorem witness_return_to_sleep : pairMode ((wTnd 0 x0).setBits Reg.PAIR_CFG 2 1 1) = 1 ∧ holder (wTnd 0 x0) = false ∧
    twinNow ((wTnd 0 x0).setBits Reg.PAIR_CFG 2 1 1) = false ∧ (wTnd 0 x0).lib.pubAt + 100000000 ≤ (wTnd 0 x0).clk ∧ (wTnd 0 x0).domOn 11 = true ∧
    twinNow ((wTnd 0 x0).setBits Reg.PAIR_CFG 2 1 2) = true := by decide

theorem witness_watchdogs : ({ x0 with twdgLast := some 3590000000000 }).twdgLast = some 3590000000000 ∧ 3590000000000 + 10000000 ≤ (wTnd 0 x0).clk ∧
    (wTnd 0 x0).clk < 3599995000000 + 10000000 ∧ (x0.twdgLast.getD x0.twdgFrom) + 1000000000 ≤ (wTnd 0 x0).clk ∧
    (wTnd 0 x0).clk < 3599500000000 + 1000000000 ∧ Requester.mill0 ≠ Requester.tender ∧ x0.supply ≠ .shed ∧ ({ x0 with supply := .shed }).supply = .shed := by decide

/-- The Mill watchdog on (1 s), its count begun 1 s ago, the Mill running. -/
def wMwdg (rst : Bool) (x : TndSt) : State :=
  ((runAt m0 (wTnd 0 x)).setBit Reg.TND_MWDG 15 true).setBit Reg.TND_MWDG 14 rst

theorem witness_mill_watchdog : (wMwdg false { x0 with mwdgFrom := 3599000000000 }).bit Reg.TND_MWDG 15 = true ∧ (wMwdg false x0).domOn 0 = true ∧
    ((wMwdg false x0).core (.mill false)).run ≠ .held ∧ x0.mwdgHalf = false ∧ x0.mwdgExp = none ∧ (wMwdg true x0).bit Reg.TND_MWDG 14 = true ∧
    (wMwdg false x0).bit Reg.TND_MWDG 14 = false ∧
    3599000000000 + (let ms := (wMwdg false x0).bits Reg.TND_MWDG 13 0; (if ms = 0 then 1000 else min ms 10000) * 1000000) ≤ (wMwdg false x0).clk ∧
    (wTnd 0 x0).bit Reg.TND_MWDG 15 = false ∧ ({ x0 with mwdgHalf := true }).mwdgHalf = true ∧ (wMwdg false x0).clk ≤ 3590000000000 + 10000000000 ∧
    (wMwdg false x0).clk < 3599999000000 + 500000000 := by decide

/-- A valid epoch record for a power-on reset. -/
theorem witness_epoch_record : rdz (wrz (wrz [] 0x1000 4 7) 0x1FFC 4 0xE90C0001) 0x1FFC 4 = 0xE90C0001 := by decide +kernel

theorem witness_power_failure : x0.supply = .good ∧ x0.charged = false ∧ ({ x0 with charged := true }).charged = true ∧ ({ x0 with supply := .warned 3599985000000 }).supply = .warned 3599985000000 ∧
    3599985000000 + 1000000 ≤ (wTnd 0 x0).clk ∧
    (wTnd 0 x0).clk ≤ 3599985000000 + min (((wTnd 0 x0).setBits Reg.TND_PFAIL_CFG 4 0 20).bits Reg.TND_PFAIL_CFG 4 0) 20 * 1000000 ∧
    3599980000000 + min (((wTnd 0 x0).setBits Reg.TND_PFAIL_CFG 4 0 31).bits Reg.TND_PFAIL_CFG 4 0) 20 * 1000000 ≤ (wTnd 0 x0).clk ∧
    ({ x0 with supply := .shed }).supply = .shed ∧ ({ x0 with supply := .off true }).supply = .off true ∧ ({ x0 with supply := .off false }).supply = .off false := by
  decide

/-- Limits −5 and 5 of sensor 0, readings −6, −5, 5 and 6. -/
theorem witness_sensors : (BitVec.ofNat 16 0x0005FFFB).toInt = -5 ∧ (BitVec.ofNat 16 (0x0005FFFB / 65536)).toInt = 5 ∧ [(-6 : Int)].getD 0 0 < -5 ∧
    ¬[(-5 : Int)].getD 0 0 < -5 ∧ (5 : Int) < [(6 : Int)].getD 0 0 ∧ sget (fun _ => false) x0.sensOut 15 = false := by decide

/-- Flush lengths that sum to 7 MiB; one word more. -/
theorem witness_flush : ((List.range 16).map fun k => if k = (15 : Fin 16).val then (0x700000 : Word).toNat else (wTnd 0 x0).rdN (Reg.TND_FLUSH k 2)).sum ≤ 0x700000 ∧
    0x700000 < ((List.range 16).map fun k => if k = (15 : Fin 16).val then (0x700040 : Word).toNat else (wTnd 0 x0).rdN (Reg.TND_FLUSH k 2)).sum := by decide

theorem witness_services : (wTnd 0 x0).domOn 12 = true ∧ (wTnd 0 x0).domOn 5 = false ∧ State.reset.domOn 12 = false := by decide

/-- A log record with its commit word and one without (R11). -/
theorem test_log_committed : let s := State.reset.logRec 0 1 3 0 0 0
    unwritten s = [0] ∧ logCommitted s 0 = true ∧ logCommitted { s with ao := wrz s.ao 0x201C 4 0 } 0 = false := by decide +kernel

/-! ### The Reel: the hypotheses can be met -/

/-- The Reel at 100 h, with what it holds. -/
def wReel (x : ReelSt) : State := { (onDoms [0, 10, 12]) with clk := 360000000000000, reel := x }

/-- The same with a post's argument: its kind and its number. -/
def wPost (kind i : Nat) : State := (wReel reelReset).wrN (Reg.REEL_POST_ARG 2) (kind + 4 * i)

theorem witness_posts : (wPost 3 0).rdN (Reg.REEL_POST_ARG 2) % 4 = 3 ∧ ((wPost 0 255).rdN (Reg.REEL_POST_ARG 2) % 4 = 0 ∧
    (wPost 0 255).rdN (Reg.REEL_POST_ARG 2) / 4 % 1024 < 256) ∧ 256 ≤ (wPost 0 256).rdN (Reg.REEL_POST_ARG 2) / 4 % 1024 ∧
    ((wPost 1 511).rdN (Reg.REEL_POST_ARG 2) % 4 = 1 ∧ (wPost 1 511).rdN (Reg.REEL_POST_ARG 2) / 4 % 1024 < 512) ∧
    512 ≤ (wPost 1 512).rdN (Reg.REEL_POST_ARG 2) / 4 % 1024 ∧ (wPost 2 0).rdN (Reg.REEL_POST_ARG 2) % 4 = 2 ∧
    (wPost 0 255).bits (Reg.REEL_HIST_CFG 255) 2 1 = 0 ∧ ((wPost 0 255).setBits (Reg.REEL_HIST_CFG 255) 2 1 1).bits (Reg.REEL_HIST_CFG 255) 2 1 ≠ 0 ∧
    (wPost 1 511).bits (Reg.REEL_XTR_CFG 511) 2 1 = 0 ∧ (List.replicate 255 ReelEnt.flush).length < 256 ∧ 256 ≤ (List.replicate 256 ReelEnt.flush).length := by
  decide +kernel

/-- Histogram 255 enabled with a width of 1; extreme 511 enabled, with a value 1.0 held. -/
def wHist (w : Nat) : State := ((wReel { reelReset with queue := [.sample true 255 0x3F800000] }).setBit (Reg.REEL_HIST_CFG 255) 0 true).wrN (Reg.REEL_HIST_WIDTH 255) w
def wExt (held : Bool) : State :=
  let m := if held then memPut zeroByte [] (0x12000 + 32 * 511) [0x3F800000, 0x3F800000, 0, 0, 0, 0, 1, 1] else []
  (wReel { reelReset with queue := [.sample false 511 0x40000000], buf := m }).setBit (Reg.REEL_XTR_CFG 511) 0 true

theorem witness_samples : (wHist 0x3F800000).reel.queue = .sample true 255 0x3F800000 :: [] ∧ (wHist 0x3F800000).bit (Reg.REEL_HIST_CFG 255) 0 = true ∧
    (0 < (wHist 0x3F800000).rdN (Reg.REEL_HIST_WIDTH 255) ∧ (wHist 0x3F800000).rdN (Reg.REEL_HIST_WIDTH 255) < 0x7F800000) ∧
    ¬(wHist 0x7F800000).rdN (Reg.REEL_HIST_WIDTH 255) < 0x7F800000 ∧ isNan f32 0x3F800000 = false ∧ isNan f32 0x7FC00000 = true ∧
    (wExt true).reel.queue = .sample false 511 0x40000000 :: [] ∧ (wExt true).bit (Reg.REEL_XTR_CFG 511) 0 = true ∧
    rdz (wExt true).reel.buf (0x12000 + 32 * 511 + 28) 4 % 2 = 1 ∧ rdz (wExt false).reel.buf (0x12000 + 32 * 511 + 28) 4 % 2 = 0 ∧
    fpLtB f32 (rdz (wExt true).reel.buf (0x12000 + 32 * 511 + 4) 4) 0x40000000 = true ∧
    fpLtB f32 0x40000000 (rdz (wExt true).reel.buf (0x12000 + 32 * 511) 4) = false ∧
    fpLtB f32 0x3F000000 (rdz (wExt true).reel.buf (0x12000 + 32 * 511) 4) = true ∧ reelReset.queue = [] := by decide +kernel

/-- One alarm in the ring, archived or not, and entries at the queue's front. -/
def wAlm (arch : Bool) (e : ReelEnt) : State := wReel { reelReset with alarms := [⟨1, 5 + 65536 * 7, 9, 1, 0xFFFF, arch, 3⟩], queue := [e] }

theorem witness_alarms : (wAlm false (.alarm 5 0 7 1)).reel.queue = .alarm 5 0 7 1 :: [] ∧
    (wAlm false (.alarm 5 0 7 1)).reel.alarms = [] ++ [⟨1, 5 + 256 * 0 + 65536 * 7, 9, 1, 0xFFFF, false, 3⟩] ∧
    (wAlm true .flush).reel.alarms.getLast? = some ⟨1, 5 + 65536 * 7, 9, 1, 0xFFFF, true, 3⟩ ∧ (wAlm true .flush).reel.alarms.length < 29952 ∧
    (wAlm true .flush).reel.queue = .flush :: [] ∧ (wAlm true (.capture 2 true)).reel.queue = .capture 2 true :: [] ∧
    (wAlm true (.clear 0 255)).reel.queue = .clear 0 255 :: [] ∧ (255 : Nat) < 256 ∧ (wAlm true (.clear 2 511)).reel.queue = .clear 2 511 :: [] ∧
    (511 : Nat) < 512 ∧ (wAlm true (.mark [] true)).reel.queue = .mark [] true :: [] := by decide

/-- A ring of 29,952 records that have not been archived. -/
theorem witness_ring_full : 29952 ≤ ((List.replicate 29952 (⟨0, 0, 0, 0, 0, false, 0⟩ : ReelAlarm)).filter fun a => !a.arch).length := by
  rw [List.filter_eq_self.mpr (fun a ha => by rw [List.eq_of_mem_replicate ha]; rfl), List.length_replicate]

theorem witness_flush_due : reelReset.flushAt + 10 * 60000000000 ≤ (wReel reelReset).clk ∧ ¬360000000000000 + 10 * 60000000000 ≤ (wReel reelReset).clk ∧
    reelReset.fault = false ∧ ({ reelReset with fault := true }).fault = true ∧ ({ reelReset with queue := [.flush] }).queue.head? = some .flush ∧
    ReelEnt.flush ∉ reelReset.queue ∧ (wReel reelReset).bit Reg.REEL_CTL 0 = false ∧ (wReel reelReset).bit Reg.REEL_CTL 1 = false ∧
    (3 : Word).toNat % 2 = 1 ∧ (3 : Word).toNat / 2 % 2 = 1 := by decide

theorem witness_migration : reelReset.caps = [] ∧ reelReset.migAt + 24 * 3600000000000 ≤ (wReel reelReset).clk ∧
    ¬360000000000000 + 24 * 3600000000000 ≤ (wReel reelReset).clk ∧ ({ reelReset with caps := [⟨0, 0, 2, [], [], false⟩] }).caps = ⟨0, 0, 2, [], [], false⟩ :: [] := by decide

theorem witness_cursor : (wReel reelReset).bits Reg.REEL_CUR_CTL 2 0 = 0 ∧ 6 ≤ ((wReel reelReset).setBits Reg.REEL_CUR_CTL 2 0 6).bits Reg.REEL_CUR_CTL 2 0 ∧
    (255 : Word).toNat < 256 ∧ reelReset.cur = none ∧ ({ reelReset with cur := some [] }).cur = some [] ∧ (0 : Nat) < (1 : Fin 3).val := by decide

/-- Counters: polled and merged long ago, or just now; thruster 23 runs; valve 15's baseline is 9. -/
theorem witness_counters : reelReset.pollAt + 100000000 ≤ (wReel reelReset).clk ∧ (wReel reelReset).clk < 360000000000000 + 100000000 ∧
    ((wReel reelReset).setBit Reg.REEL_THR_RUN 23 true).bit Reg.REEL_THR_RUN 23 = true ∧ ({ reelReset with stale := false }).stale = false ∧
    sget (fun _ => none) ({ reelReset with swBase := [(15, some 9)] }).swBase 15 = some 9 ∧ (wReel reelReset).domOn 10 = true ∧
    reelReset.thrAt + 1000000000 ≤ (wReel reelReset).clk ∧ reelReset.mergeAt + 3600000000000 ≤ (wReel reelReset).clk ∧
    ¬360000000000000 + 10000000000 ≤ (wReel reelReset).clk ∧ (wReel reelReset).bits Reg.TND_PSTATE 6 4 ≠ 2 := by decide

/-- A calendar with one entry: 37 from TAI second 100. -/
def wLeap (t : Nat) : State :=
  let m := wrz (wrz (wrz [] 0x2A004 4 1) 0x2AFFC 4 1) 0x2AFF8 4 0xCA1E0001
  let m := wrz (wrz (wrz m 0x2A010 4 1) 0x2A020 8 100) 0x2A028 4 37
  (({ wReel reelReset with mram := m } : State).wrN Reg.REEL_LEAP_T_LO t).wrN Reg.REEL_LEAP_T_HI 0

theorem witness_leap : calendarW (wLeap 101) 0x10 4 = 1 ∧ calendarW (wLeap 101) 0x20 8 = 100 ∧ calendarW (wLeap 101) 0x28 4 = 37 ∧
    (wLeap 100).rd64 Reg.REEL_LEAP_T_LO Reg.REEL_LEAP_T_HI = 100 ∧ calendarW (wLeap 101) 0x20 8 < (wLeap 101).rd64 Reg.REEL_LEAP_T_LO Reg.REEL_LEAP_T_HI ∧
    (38 : Word) = BitVec.ofNat 32 (calendarW (wLeap 101) 0x28 4) + 1 ∧ (39 : Word) ≠ BitVec.ofNat 32 (calendarW (wLeap 101) 0x28 4) + 1 ∧
    calendarW (wReel reelReset) 0x10 4 = 0 := by decide +kernel

/-- At 85 °C a sensor ages by 0.1 s in 0.1 s; at 140 °C by 0.1 × e^3.01930... = 2.04769760 s (R423, calculated apart). -/
theorem test_thermal_age : thermalAge 680 = 1677722 ∧ thermalAge 1120 = 34354665 := by decide +kernel

/-- A record into which an alarm has merged since its capture is not marked (R422), but by a clear of the ring (R420). -/
theorem test_marks : let a : ReelAlarm := ⟨1, 5, 9, 1, 3, false, 8204⟩
    marks [a] false { a with rep := 4, last := 2 } = false ∧ marks [a] false a = true ∧ marks [a] true { a with rep := 4, last := 2 } = true := by decide

/-! ### Field update: the hypotheses can be met -/

/-- A header: images 1, 2 and 3 of 64 bytes each, a body of 192 bytes, VERSION 5, any board code, key 0. -/
def wHdr : List Word :=
  [0x574D4B31, 1, 0x2D46524D, 0x00383447, 0xFFFF0000, 5, 0, 0, 0, 0, 3, 192, 0, 0, 0, 0, 1, 0, 64, 0, 2, 64, 64, 0, 3, 128, 64, 0] ++
  List.replicate 100 0

/-- The update engine at stage `st` (0 IDLE, 1 LOADING, 2 DOWNLOADED, 3 VERIFIED, 4 STAGED), with its record. -/
def wUpd (st : Nat) (x : UpdSt) : State := { (onDoms [0, 12]).setBits Reg.UPD_STATE 2 0 st with upd := x }

theorem witness_header : wHdr.length = 128 ∧ tableBad wHdr = false ∧ selFloor (wUpd 0 updReset) ≤ hdrVersion wHdr ∧
    norRd (wUpd 0 updReset) 0x10 2 ≤ fget (hw wHdr 4) 31 16 ∧ fget (hw wHdr 4) 15 0 ≤ norRd (wUpd 0 updReset) 0x10 2 ∧ tableBad (wHdr.set 10 9) = true := by
  decide +kernel

/-- Its check passes when the key stands in the boot ROM and the signature is right (both open); with another magic it fails. -/
theorem witness_header_check (hk : Config.romKey 0 = true)
    (hs : Config.ecdsaOk 0 (wordBytes (wHdr.take 104)) (wordBytes ((wHdr.drop 104).take 24)) = true) :
    hdrCheck (wUpd 0 updReset) wHdr = 0 ∧ hdrCheck (wUpd 0 updReset) [] = 1 := by
  refine ⟨?_, by decide⟩
  have hf : fget (hw wHdr 7) 7 0 = 0 := by decide +kernel
  have h0 : ¬(hw wHdr 0 ≠ 0x574D4B31 ∨ hw wHdr 1 ≠ 1) := by decide +kernel
  have h1 : ¬(hw wHdr 2 ≠ 0x2D46524D ∨ hw wHdr 3 ≠ 0x00383447) := by decide +kernel
  have h2 : ¬(norRd (wUpd 0 updReset) 0x10 2 < fget (hw wHdr 4) 15 0 ∨ fget (hw wHdr 4) 31 16 < norRd (wUpd 0 updReset) 0x10 2) := by decide +kernel
  have h3 : ¬hdrVersion wHdr < selFloor (wUpd 0 updReset) := by decide +kernel
  have h4 : ¬3 < 0 := by decide
  unfold hdrCheck
  simp only [h0, h1, h2, h3, hf, hk, hs, witness_header.2.1, if_false, Bool.not_true, Bool.false_eq_true, or_false, Nat.not_lt_zero]

def wRecord (st : Nat) : State := wUpd st { updReset with hdr := some wHdr, commit := 0xD0A10001 }

theorem witness_download : (wRecord 1).upd.hdr = some wHdr ∧ (wRecord 1).bits Reg.UPD_STATE 2 0 = 1 ∧ 0 < ((wHdr.getD 11 0).toNat + 65535) / 65536 ∧
    ((wHdr.getD 11 0).toNat + 65535) / 65536 ≤ (1 : Word).toNat % 512 ∧ updReset.hdr = none ∧ (wRecord 2).bits Reg.UPD_STATE 2 0 ≠ 1 ∧
    ({ updReset with block := some (0, 0x86FFFFF40) }).block = some (0, 0x86FFFFF40) ∧ 0x86FFFFF40 + min 65536 ((wHdr.getD 11 0).toNat - 65536 * 0) ≤ 0x870000000 ∧
    (wRecord 1).domOn 0 = true ∧ (onDoms [12]).domOn 0 = false ∧ updReset.block = none ∧ (wRecord 0).bits Reg.UPD_STATE 2 0 = 0 ∧
    (wRecord 0).upd.commit = 0xD0A10001 ∧ updReset.commit ≠ 0xD0A10001 ∧ (wRecord 3).bits Reg.UPD_STATE 2 0 ≤ 3 ∧ 4 ≤ (wRecord 4).bits Reg.UPD_STATE 2 0 := by decide +kernel

theorem witness_install : ((wRecord 2).setBit Reg.UPD_CTL 1 true).bit Reg.UPD_CTL 1 = true ∧ ((wRecord 3).setBit Reg.UPD_CTL 2 true).bit Reg.UPD_CTL 2 = true ∧
    (wRecord 2).bit Reg.UPD_CTL 1 = false ∧ (wRecord 2).bit Reg.UPD_CTL 2 = false ∧ (wHdr.getD 11 0).toNat ≤ 0x1F80000 - 512 ∧
    selTrial (wRecord 3) = false ∧ (wRecord 3).bits Reg.UPD_STATE 2 0 = 3 := by decide +kernel

/-- A selector in force: slot B in TRIAL from second 100 for 600 s, with `boots` boots, at second `now`. -/
def wTrial (boots now : Nat) : State :=
  let s := (wUpd 0 updReset).selCommit (3 + 8 * boots) 7 6 5 100 600
  { (s.wrN Reg.TND_RTC_LO (now % 2 ^ 32)).wrN Reg.TND_RTC_HI (now / 2 ^ 32) with tnd := { s.tnd with bootDue := true, supply := .good } }

theorem witness_trial : selTrial (wTrial 2 0) = true ∧ selActive (wTrial 2 0) = 1 ∧ selBoots (wTrial 2 0) = 2 ∧ selBoots (wTrial 3 0) = 3 ∧
    (selCopy (wTrial 2 0)).isSome = true ∧ ((wTrial 2 0).setBit Reg.TND_RESET_CAUSE 0 false).bit Reg.TND_RESET_CAUSE 0 = false ∧ selW (wTrial 2 0) 24 + selW (wTrial 2 0) 28 = 700 ∧
    (wTrial 2 0).rtcSec < 700 ∧ (0xC0F17E11 : Word) ≠ 0 := by decide +kernel

/-- RTC seconds past the trial's end. -/
theorem witness_trial_end : selW (wTrial 2 (2 ^ 42)) 24 + selW (wTrial 2 (2 ^ 42)) 28 < (wTrial 2 (2 ^ 42)).rtcSec := by decide +kernel

/-- A selector in force with no trial, and a slot whose header is erased: RECOVERY. -/
theorem witness_recovery :
    let s := (wUpd 0 updReset).selCommit 0 7 6 5 0 0
    (selCopy s).isSome = true ∧ selTrial s = false ∧ hw (slotHdr s (selActive s)) 0 ≠ 0x574D4B31 ∧ State.reset.tnd.bootDue = true ∧
    State.reset.tnd.supply = .good ∧ ({ State.reset.tnd with recovery := true }).recovery = true ∧ State.reset.tnd.recovery = false ∧
    ({ State.reset.tnd with bootDue := false }).bootDue = false := by decide +kernel

theorem witness_slot_invalid : slotValid ((wUpd 0 updReset).selCommit 0 7 6 5 0 0) 0 = false := by
  have h : hw (slotHdr ((wUpd 0 updReset).selCommit 0 7 6 5 0 0) 0) 0 ≠ 0x574D4B31 := by decide +kernel
  unfold slotValid; simp [hdrCheck, h]

theorem witness_activation : ((wRecord 4).setBit Reg.UPD_ACT_CTL 0 true).bit Reg.UPD_ACT_CTL 0 = true ∧
    (wRecord 4).rd64 Reg.UPD_ACT_LO Reg.UPD_ACT_HI ≤ (wRecord 4).ext ∧ ((wRecord 4).setBit Reg.UPD_ACT_CTL 1 true).bit Reg.UPD_ACT_CTL 1 = true ∧
    (wRecord 4).bit Reg.UPD_ACT_CTL 1 = false ∧ (wRecord 4).bit Reg.UPD_ACT_CTL 0 = false ∧ ({ updReset with sched := true }).sched = true := by decide +kernel

/-! ### The panel: the hypotheses can be met -/

/-- The panel with a request for a rectangle, at a temperature in 1/8 °C. -/
def wPnl (rect : Nat) (temp : Int) (x : PnlSt) : State :=
  { (((onDoms [12]).wrN Reg.PNL_RECT rect).wr (Reg.TND_SENS 5) (BitVec.ofInt 32 temp)) with pnl := x }

/-- The whole panel, and one column too many. -/
def wAll : Nat := 127 * 2 ^ 25 + 295 * 2 ^ 16

theorem witness_panel_request : (wPnl wAll 200 pnlReset).bits Reg.PNL_RECT 24 16 = 295 ∧ (wPnl wAll 200 pnlReset).bits Reg.PNL_RECT 31 25 = 127 ∧
    296 ≤ (wPnl (wAll + 2 ^ 16) 200 pnlReset).bits Reg.PNL_RECT 24 16 ∧ pnlReset.upd = none ∧ pnlReset.req = none ∧ pnlReset.unknown = none ∧
    ({ pnlReset with req := some (0, 0, 7, 7) }).req.isSome = true ∧ ({ pnlReset with unknown := some (0, 0, 7, 7) }).unknown.isSome = true := by decide

theorem witness_panel_temp : (-160 ≤ ((wPnl wAll (-160) pnlReset).rd (Reg.TND_SENS 5)).toInt ∧ ((wPnl wAll 480 pnlReset).rd (Reg.TND_SENS 5)).toInt ≤ 480) ∧
    ((wPnl wAll (-161) pnlReset).rd (Reg.TND_SENS 5)).toInt < -160 ∧ 480 < ((wPnl wAll 481 pnlReset).rd (Reg.TND_SENS 5)).toInt := by decide

/-- A band 7 whose waveforms last 20 frames. -/
def wBand7 : SMap Byte :=
  let m := wrz [] 0x1E00 1 0
  let m := (List.range 17).foldl (fun m i => memPutBytes erasedByte m (0x1000 + 0x200 * 7 + 0x10 + 16 * i) [20]) m
  memPut erasedByte m (0x1000 + 0x200 * 7) [20, 0x100000]

theorem witness_band : bandUsable { (wPnl wAll 480 { pnlReset with req := some (0, 0, 7, 7) }) with nor := wBand7 } 7 = true ∧ bandUsable (wPnl wAll 480 pnlReset) 7 = false ∧
    ((wPnl wAll 480 pnlReset).setBit Reg.TND_STAT 7 true).bit Reg.TND_STAT 7 = true := by decide +kernel

/-- An update of one pixel, at its frame `f` of 20, not clearing. -/
def wUpdate (f : Nat) : PnlUpd := ⟨(295, 127, 295, 127), 7, false, [(295, 127, 0, 3)], [], 20, 20, f⟩

theorem witness_frame : (wPnl wAll 480 { pnlReset with upd := some (wUpdate 18) }).pnl.upd = some (wUpdate 18) ∧ (wUpdate 18).frame + 1 < (wUpdate 18).total ∧
    (wUpdate 19).total ≤ (wUpdate 19).frame + 1 ∧ (∀ p ∈ (wUpdate 19).px, p.1 < 296 ∧ p.2.1 < 128 ∧ p.2.2.2 < 4) ∧
    (∀ p ∈ (wUpdate 19).px, ∀ q ∈ (wUpdate 19).px, p.1 = q.1 → p.2.1 = q.2.1 → p = q) ∧ (wUpdate 19).clear = false ∧
    ({ wUpdate 19 with clear := true }).clear = true ∧ State.reset.tnd.supply ≠ .shed ∧ ({ State.reset.tnd with supply := .shed }).supply = .shed ∧
    waveLen { (wPnl wAll 480 pnlReset) with nor := wBand7 } 7 false 0 3 ≤ (wUpdate 19).len := by decide +kernel

/-- DC12 waking with a journal of the update that a power failure stopped, its stress copies blank. -/
def wJournal : State :=
  { (wPnl wAll 481 pnlReset).setBits (Reg.PWR_DC_STAT 12) 1 0 2 with ao := memPut zeroByte (memPut zeroByte [] 0xF00 [0x0A070000, 4, 0]) 0xF3C [0x7A1E0001] }

theorem witness_panel_up : wJournal.contained 12 = false ∧ wJournal.bits (Reg.PWR_DC_STAT 12) 1 0 = 2 ∧ (∀ x ∈ wJournal.tnd.stalls, x.dom ≠ 12) ∧
    rdz wJournal.ao 0xF3C 4 = 0x7A1E0001 ∧ rdz wJournal.ao 0xF08 4 = stressSeq wJournal ∧ rdz wJournal.ao 0xA500 4 ≠ 0x1A6E0001 ∧
    ({ pnlReset with temp := some 200 }).temp.isSome = true := by decide +kernel

/-- A request at 60 °C keeps its rectangle and its reading; one at 60.125 °C waits for a reading. -/
theorem test_panel_go : (pnlGo (wPnl wAll 480 pnlReset)).pnl.req = some (0, 0, 295, 127) ∧ (pnlGo (wPnl wAll 480 pnlReset)).pnl.temp = some 480 ∧
    (pnlGo (wPnl wAll 481 pnlReset)).pnl.temp = none ∧ (pnlGo (wPnl wAll 481 pnlReset)).bit Reg.PNL_STATE 2 = true := by decide +kernel

/-! ### Ill-formed commands are refused -/

theorem test_wf_size : Instr.wf (.registerWrite .mill0 2 0x200000000 3 0) = false ∧ Instr.wf (.registerWrite .mill0 2 0x200000000 8 0) = true := by decide

theorem test_wf_message : Instr.wf (.slottedPublish 2 5 []) = false ∧ Instr.wf (.slottedPublish 2 5 [1]) = true := by decide

theorem test_wf_dumps : Instr.wf (.loopUpdate 0 (List.replicate 8 (0, 0)) 0 none) = false ∧ Instr.wf (.loopUpdate 0 (List.replicate 7 (0, 0)) 0 none) = true := by
  decide

theorem test_wf_telegrams : Instr.wf (.serCalibration 0 []) = false ∧ Instr.wf (.serCalibration 0 [(0, 0, 0)]) = true := by decide

theorem test_wf_imu : Instr.wf (.imuSample [0, 0, 0, 0, 0] false false false false) = false ∧
    Instr.wf (.imuSample [0, 0, 0, 0, 0, 0] false false false false) = true := by decide

theorem test_wf_readback : Instr.wf (.safetyCycle []) = false ∧ Instr.wf (.safetyCycle [0, 0, 0, 0, 0, 0, 0, 0]) = true := by decide

theorem test_wf_frame : Instr.wf (.plyFrameRx 0 (zeros 13) true) = false ∧ Instr.wf (.plyFrameRx 0 (zeros 14) true) = true ∧
    Instr.wf (.plyFrameRx 0 (zeros 1519) true) = false := by decide +kernel

theorem test_wf_can : Instr.wf (.canRecovered 0 129) = false ∧ Instr.wf (.canRecovered 0 128) = true ∧ Instr.wf (.canFrameRx 0 0 0 [] 0) = false ∧
    Instr.wf (.canFrameRx 0 0 0 (List.replicate 16 0) 0) = true := by decide

theorem test_wf_packets : Instr.wf (.mirrorPacketRx [0, 0, 0, 0]) = false ∧ Instr.wf (.mirrorPacketRx [0, 0, 0, 0, 0]) = true ∧
    Instr.wf (.leaseFrameRx 0 false []) = false ∧ Instr.wf (.leaseFrameRx 0 false (List.replicate 7 0)) = true := by decide

theorem test_wf_tender : Instr.wf (.sensorSample []) = false ∧ Instr.wf (.sensorSample (List.replicate 16 0)) = true ∧ Instr.wf (.stateEntryDone 15) = false ∧
    Instr.wf (.stateEntryDone 14) = true ∧ Instr.wf (.recoveryFurnish [] []) = false ∧ Instr.wf (.recoveryFurnish (List.replicate 128 0) []) = true := by
  decide +kernel

/-! ### Words and the queue -/

/-- The table gives no row any bits: a word spells no command, and none is put into the queue. -/
theorem test_words (n w : Nat) (s : State) : decodeTableWord n w = none ∧ s.withFetchWord n w = s := ⟨rfl, rfl⟩

/-- The queue is first in, first out: the command behind the front one is left waiting. -/
theorem test_queue : ∃ t, step { State.reset with pending := [.softRst, .sysRst 0] } = .next t ∧ t.pending = [.sysRst 0] := ⟨_, rfl, rfl⟩

/-! ### A few results the spec states -/

/-- Serial comparison (R333): an epoch is newer up to 2^31 - 1 ahead, across the wrap too. -/
theorem test_newer : newer 0x7FFFFFFF 0 = true ∧ newer 0x80000000 0 = false ∧ newer 2 0xFFFFFFFE = true ∧ newer 5 5 = false := by decide

/-- CRC-32C of "123456789" (the published check value of the polynomial the spec names). -/
theorem test_crc32c : crc32c 0xFFFFFFFF true [0x31, 0x32, 0x33, 0x34, 0x35, 0x36, 0x37, 0x38, 0x39] = 0xE3069283 := by decide +kernel

/-- DLC 9 to 15 of a CAN FD frame stand for 12, 16, 20, 24, 32, 48 and 64 bytes; a remote frame has none (R342). -/
theorem test_dlc : [9, 10, 11, 12, 13, 14, 15].map (canBytes 0 <| 16 + ·) = [12, 16, 20, 24, 32, 48, 64] ∧ canBytes 0 15 = 8 ∧ canBytes (2 ^ 30) 8 = 0 := by
  decide

/-- A CAN error counter of 128 makes the controller error passive, 256 bus-off (R347). -/
theorem test_can_states : canErrState 127 127 = 1 ∧ canErrState 128 0 = 2 ∧ canErrState 0 128 = 2 ∧ canErrState 255 0 = 2 ∧ canErrState 256 0 = 3 := by decide

/-- The corner pixels' blocks of the panel: 37 columns of blocks, 16 rows (R449). -/
theorem test_blocks : rectBlocks (0, 0, 7, 7) = [0] ∧ rectBlocks (295, 127, 295, 127) = [591] ∧ (rectBlocks (0, 0, 295, 127)).length = 592 := by decide +kernel

end Sys2Proof.Tests
end

namespace Sys2Proof.Machine

/-! # The block's scope: its queue, its reset, register writes and accesses that wait

Lemmas come before the obligation they serve. Those about words, memories, the map, the checks of an access and the logs speak
of the model's shared operations and serve other families too. -/

/-! ## The queue and the reset (R5, R10) -/

/-- Settles O1: `step` is defined by the queue's front. -/
theorem stepRunsFront : Obligations.StepRunsFront := fun _ _ _ => rfl

/-- Refutes O2: the statement asks every register for its family's Reset column, and PWR_DC0_CTL resets to 6 where its family's
column says 0xFFFF0006, since TRIG reads 0 but in DC1 to DC10. -/
theorem not_resetState : ¬ Obligations.ResetState := by
  unfold Obligations.ResetState
  rintro ⟨⟨-, hregs, -⟩, -⟩
  have hfam : regFam 0x200f00000 = some ⟨0x200f00000, [(14, 0x8)], 0xffff0007, 0x0, 0x18, 0x0, 0x0, 0xffff0006, 'A'⟩ := by decide
  have hreset : (State.reset.rd 0x200f00000).toNat = 6 := by decide
  have hcolumn := hregs _ _ hfam (by decide) (by decide)
  rw [hreset] at hcolumn
  exact absurd hcolumn (by decide)

/-! ## Nothing but registers -/

theorem OnlyRegs.trans {s t u : State} (h : OnlyRegs s t) (h' : OnlyRegs t u) : OnlyRegs s u :=
  Eq.trans h' (congrArg (fun x : State => { x with regs := u.regs, inst := u.inst }) h)

section
variable {s t : State} (h : OnlyRegs s t)
include h
theorem OnlyRegs.ao : t.ao = s.ao := by unfold OnlyRegs at h; rw [h]
theorem OnlyRegs.tnd : t.tnd = s.tnd := by unfold OnlyRegs at h; rw [h]
theorem OnlyRegs.clk : t.clk = s.clk := by unfold OnlyRegs at h; rw [h]
theorem OnlyRegs.sameMem : SameMem s t := by
  unfold OnlyRegs at h; rw [h]; exact ⟨fun _ => rfl, fun _ => rfl, fun _ => rfl, fun _ => rfl⟩
theorem OnlyRegs.resp : t.resp = s.resp := by unfold OnlyRegs at h; rw [h]
theorem OnlyRegs.cores : t.cores = s.cores := by unfold OnlyRegs at h; rw [h]
end

theorem wr_onlyRegs (s : State) (a : Nat) (v : Word) : OnlyRegs s (s.wr a v) := rfl

theorem wrN_onlyRegs (s : State) (a v : Nat) : OnlyRegs s (s.wrN a v) := rfl

theorem setBits_onlyRegs (s : State) (a hi lo v : Nat) : OnlyRegs s (s.setBits a hi lo v) := rfl

theorem flag_onlyRegs (s : State) (a i : Nat) : OnlyRegs s (s.flag a i) := rfl

/-! ## Words, bit by bit -/

theorem wbit_eq_getLsbD (w : Word) (i : Nat) : wbit w i = w.getLsbD i := fbit_eq ..

theorem getLsbD_ofNat_mask (f : Nat) {i : Nat} (hi : i < 32) : (BitVec.ofNat 32 f).getLsbD i = fbit f i := by
  rw [BitVec.getLsbD_ofNat, fbit_eq, decide_eq_true hi, Bool.true_and]

/-- The low word of a 64-bit value has its low bits. -/
theorem getLsbD_lowWord (v : DWord) {i : Nat} (hi : i < 32) : (BitVec.ofNat 32 v.toNat).getLsbD i = v.getLsbD i := by
  rw [BitVec.getLsbD_ofNat, decide_eq_true hi, Bool.true_and]; rfl

/-- What a write stores, bit by bit: W1S bits written 1 set; W1C bits written 1 clear, but for those an event set in this
instant; RW bits take the value; the rest stays (R5, R6). -/
theorem wbit_stored (f : RegFam) (old start v : Word) {i : Nat} (hi : i < 32) :
    wbit (f.stored old start v) i =
      if fbit f.w1s i && v.getLsbD i then true
      else if fbit f.w1c i && v.getLsbD i then wbit old i && !wbit start i
      else if fbit f.rw i then v.getLsbD i else wbit old i := by
  simp only [RegFam.stored, wbit_eq_getLsbD, BitVec.getLsbD_or, BitVec.getLsbD_and, BitVec.getLsbD_not,
    getLsbD_ofNat_mask _ hi, hi, decide_true, Bool.true_and]
  -- the truth table of the three access types and the bit written
  cases fbit f.w1s i <;> cases fbit f.w1c i <;> cases fbit f.rw i <;> cases v.getLsbD i <;> simp

/-! ## The write with no behaviour of its own -/

section
variable (s : State) (a : Nat) (v : Word)

theorem cleared_onlyRegs (m : Word) : OnlyRegs s (s.cleared a m) := rfl

theorem wrote_onlyRegs : OnlyRegs s (s.wrote a) := by unfold OnlyRegs State.wrote; split <;> rfl

theorem regGen_reserved (h : regFam a = none) : s.regGen a v = s := by simp [State.regGen, h]

theorem regGen_onlyRegs : OnlyRegs s (s.regGen a v) := by
  unfold State.regGen
  split
  · rfl
  · dsimp only
    split
    · exact (wr_onlyRegs ..).trans (cleared_onlyRegs ..)
    · exact ((wr_onlyRegs ..).trans (cleared_onlyRegs ..)).trans (wrote_onlyRegs ..)

theorem rd_regGen {f : RegFam} (h : regFam a = some f) (q : Nat) :
    (s.regGen a v).rd q = if q = a then f.stored (s.rd a) (s.atStart a) v else s.rd q := by
  simp only [State.regGen, h]
  split
  · rw [rd_cleared, rd_wr]
  · rw [rd_wrote, rd_cleared, rd_wr]

theorem rd_regGen_other {q : Nat} (h : q ≠ a) : (s.regGen a v).rd q = s.rd q := by
  cases hf : regFam a with
  | none => rw [regGen_reserved s a v hf]
  | some f => rw [rd_regGen s a v hf, if_neg h]

end

/-! ## An edge on an interrupt source -/

theorem bit_again (s : State) (a i q j : Nat) : (s.again a i).bit q j = s.bit q j := rfl

theorem bit_flag (s : State) {a i j : Nat} (hi : i < 32) : (s.flag a i).bit a j = (decide (j = i) || s.bit a j) := by
  unfold State.flag
  rw [bit_again]
  by_cases h : j = i
  · subst h; simp [bit_setBit _ _ hi]
  · simp [bit_setBit_other _ _ h hi, h]

/-- With DC0 ON an edge sets its pending bit and no other one. -/
theorem bit_raiseIrq {s : State} {n : Nat} (hon : s.domOn 0 = true) (j : Nat) :
    (s.raiseIrq n).bit (Reg.MILL_IRQ_PEND (n / 32)) j = (decide (j = n % 32) || s.bit (Reg.MILL_IRQ_PEND (n / 32)) j) := by
  unfold State.raiseIrq
  rw [if_pos hon, bit_flag s (Nat.mod_lt _ (by decide))]

theorem bits_eq_of_rd {s t : State} {a : Nat} (h : t.rd a = s.rd a) (hi lo : Nat) : t.bits a hi lo = s.bits a hi lo := by
  simp [State.bits, h]

theorem domOn_raiseIrq (s : State) (n : Nat) {d : Nat} (h : Reg.PWR_DC_STAT d ≠ Reg.MILL_IRQ_PEND (n / 32)) :
    (s.raiseIrq n).domOn d = s.domOn d := by
  simp [State.domOn, bits_eq_of_rd (raiseIrq_rd s n _ h)]

theorem swi_onlyRegs (s : State) (v : Nat) : OnlyRegs s (s.swi v) := by
  unfold OnlyRegs State.swi
  dsimp only
  split <;> split
  · rw [raiseIrq_onlyRegs _ 127, raiseIrq_onlyRegs s 126]
  · exact raiseIrq_onlyRegs ..
  · exact raiseIrq_onlyRegs ..
  · rfl

theorem rd_swi_other (s : State) (v : Nat) {q : Nat} (h : q ≠ Reg.MILL_IRQ_PEND 3) : (s.swi v).rd q = s.rd q := by
  unfold State.swi
  dsimp only
  split <;> split <;> simp only [raiseIrq_rd _ 126 q h, raiseIrq_rd _ 127 q h]

/-- A software request raises sources 126 and 127: bits 30 and 31 of the last pending register (R116). -/
theorem bit_swi {s : State} (hon : s.domOn 0 = true) (v : Nat) {i : Nat} (hi : i < 32) :
    (s.swi v).bit (Reg.MILL_IRQ_PEND 3) i = (s.bit (Reg.MILL_IRQ_PEND 3) i || (decide (30 ≤ i) && fbit v (i - 30))) := by
  have h126 := bit_raiseIrq (n := 126) hon i
  have h127 := bit_raiseIrq (n := 127) hon i
  have hon' : (s.raiseIrq 126).domOn 0 = true := by rw [domOn_raiseIrq s 126 (by decide)]; exact hon
  have hboth := bit_raiseIrq (n := 127) hon' i
  simp only [Nat.reduceDiv, Nat.reduceMod] at h126 h127 hboth
  unfold State.swi
  dsimp only
  rcases (by omega : i < 30 ∨ i = 30 ∨ i = 31) with h | rfl | rfl
  · have h30 : ¬30 ≤ i := by omega
    have e30 : i ≠ 30 := by omega
    have e31 : i ≠ 31 := by omega
    split <;> split <;> simp [h126, h127, hboth, h30, e30, e31]
  · split <;> split <;> simp_all
  · split <;> split <;> simp_all

/-! ## The map (R36, R37) -/

theorem not_inWindows_of_unlisted {a : Nat} (h : Unlisted a) : inWindows a = false := by
  unfold Unlisted at h
  simp only [inWindows, Bool.or_eq_false_iff, Bool.and_eq_false_iff, decide_eq_false_iff_not]
  omega

theorem addrDomain_unlisted {a : Nat} (h : Unlisted a) : addrDomain a = none := by
  have hw := not_inWindows_of_unlisted h
  unfold Unlisted at h
  unfold addrDomain
  rw [if_neg (by omega), if_neg (by omega), if_neg (by omega), if_neg (by omega), if_neg (by simp [hw]), if_neg (by omega),
    if_neg (by omega)]

/-- A block window's addresses belong to the domain of its registers. -/
theorem addrDomain_window {a : Nat} (h : inWindows a = true) : addrDomain a = some (regDomain a) := by
  have hr : 0x200000000 ≤ a := by
    simp only [inWindows, Bool.or_eq_true, Bool.and_eq_true, decide_eq_true_eq] at h; omega
  unfold addrDomain
  rw [if_neg (by omega), if_neg (by omega), if_neg (by omega), if_neg (by omega), if_pos h]

theorem not_inWindows_dram {a : Nat} (h : 0x800000000 ≤ a) : inWindows a = false := by
  simp only [inWindows, Bool.or_eq_false_iff, Bool.and_eq_false_iff, decide_eq_false_iff_not]
  omega

theorem addrDomain_dram {a : Nat} (h : 0x800000000 ≤ a) (h' : a < 0x870000000) : addrDomain a = some 0 := by
  unfold addrDomain
  rw [if_neg (by omega), if_neg (by omega), if_neg (by omega), if_neg (by omega), if_neg (by simp [not_inWindows_dram h]),
    if_neg (by omega), if_pos (by omega)]

theorem regDomain_le (a : Nat) : regDomain a ≤ 14 := by
  unfold regDomain
  repeat' split
  all_goals omega

theorem addrDomain_le {a d : Nat} (h : addrDomain a = some d) : d ≤ 14 := by
  have := regDomain_le a
  unfold addrDomain at h
  repeat' split at h
  all_goals cases h
  all_goals omega

/-- Every address of the MILL window is one of DC0's. -/
theorem addrDomain_mill {a : Nat} (h : 0x201000000 ≤ a) (h' : a < 0x201100000) : addrDomain a = some 0 := by
  have hq : a / 0x100000 = 0x2010 := by omega
  rw [addrDomain_window (by simp [inWindows]; omega)]
  simp [regDomain, hq]

/-! ## The checks of an access (R9, R16, R22, R32, R109, R404) -/

section
variable {s : State} {rq : Requester} {lvl a n : Nat} {w : Bool} {go : State → Acc × State}

theorem access_unlisted (h : addrDomain a = none) : s.access rq lvl a n w go = (.err, s) := by simp [State.access, h]

/-- A wrong size or alignment, or too low a level, is refused before the domain is looked at. -/
theorem access_refused (h : sizeOk a n = false ∨ levelOk rq lvl a w = false) : s.access rq lvl a n w go = (.err, s) := by
  unfold State.access
  split
  · rfl
  · rw [if_pos (by rcases h with h | h <;> simp [h])]

variable (hsize : sizeOk a n = true) (hlvl : levelOk rq lvl a w = true) {d : Nat} (hd : addrDomain a = some d)
include hsize hlvl hd

theorem access_go (hon : d = 14 ∨ s.domOn d = true) (hhit : s.felt.hit = false ∨ viaFelt rq a = false) :
    s.access rq lvl a n w go = go s := by
  have hbeat : (s.felt.hit && viaFelt rq a) = false := by rcases hhit with h | h <;> simp [h]
  simp [State.access, hd, hsize, hlvl, hon, hbeat]

theorem access_contained (h14 : d ≠ 14) (hoff : s.domOn d = false) (hc : s.contained d = true) :
    s.access rq lvl a n w go = (.err, s.stallLog rq 2 d a) := by
  simp [State.access, hd, hsize, hlvl, h14, hoff, hc]

theorem access_noWake (h14 : d ≠ 14) (hoff : s.domOn d = false) (hc : s.contained d = false)
    (hw : s.bit (Reg.PWR_DC_CTL d) 2 = false) : s.access rq lvl a n w go = (.err, s.stallLog rq 3 d a) := by
  simp [State.access, hd, hsize, hlvl, h14, hoff, hc, hw]

theorem access_wakes (h14 : d ≠ 14) (hoff : s.domOn d = false) (hc : s.contained d = false)
    (hw : s.bit (Reg.PWR_DC_CTL d) 2 = true) : s.access rq lvl a n w go = (.wait d, s.wake d) := by
  simp [State.access, hd, hsize, hlvl, h14, hoff, hc, hw]

end

theorem sizeOk_window {a n : Nat} (h : inWindows a = true) : sizeOk a n = true ↔ n = 4 ∧ a % 4 = 0 := by
  simp [sizeOk, h]

/-- An aligned word is an access of the right size everywhere. -/
theorem sizeOk_word {a : Nat} (h : a % 4 = 0) : sizeOk a 4 = true := by simp [sizeOk, h]

/-- Level 2 may read and write everything. -/
theorem levelOk_two (rq : Requester) (a : Nat) (w : Bool) : levelOk rq 2 a w = true := by cases w <;> simp [levelOk]

/-- Level 2 is needed to write the TND and PWR registers from the Mill. -/
theorem levelOk_guarded_write {rq : Requester} {lvl a : Nat} (hrq : rq = .mill0 ∨ rq = .mill1)
    (ha : a / 0x100000 = 0x2000 ∨ a / 0x100000 = 0x200f) (hl : lvl < 2) : levelOk rq lvl a true = false := by
  rcases hrq with rfl | rfl <;> rcases ha with ha | ha <;> simp [levelOk, ha, hl]

theorem levelOk_unguarded {a : Nat} (h : a / 0x100000 ≠ 0x2000) (h' : a / 0x100000 ≠ 0x200f) (rq : Requester) (lvl : Nat)
    (w : Bool) : levelOk rq lvl a w = true := by simp [levelOk, h, h']

/-! ## Writes over the bus -/

theorem regWriteCmd_err {s t : State} {rq : Requester} {lvl a n v : Nat} (h : s.busWrite rq lvl a n v = (.err, t)) :
    regWriteCmd rq lvl a n v s = { t with resp := .busError } := by simp [regWriteCmd, h]

theorem regWriteCmd_ok {s t : State} {rq : Requester} {lvl a n v x : Nat} (h : s.busWrite rq lvl a n v = (.ok x, t)) :
    regWriteCmd rq lvl a n v s = { t with resp := .done } := by simp [regWriteCmd, h]

theorem busWrite_mill {s : State} {rq : Requester} {lvl a v : Nat} (hal : a % 4 = 0) (hlo : 0x201000000 ≤ a)
    (hhi : a < 0x201100000) (hon : s.domOn 0 = true) :
    s.busWrite rq lvl a 4 v = (.ok 0, millWrite (a % 0x100000) (BitVec.ofNat 32 v) s) := by
  have hq : a / 0x100000 = 0x2010 := by omega
  have hwin : inWindows a = true := by simp [inWindows]; omega
  have hfelt : viaFelt rq a = false := by simp [viaFelt]; omega
  rw [State.busWrite, access_go (sizeOk_word hal) (levelOk_unguarded (by omega) (by omega) ..) (addrDomain_mill hlo hhi)
    (.inr hon) (.inr hfelt)]
  simp [hwin, regWrite, hq]

/-- A MILL register but SWI takes the generic write; SWI raises its sources and stores nothing. -/
theorem millWrite_generic {a : Nat} (hlo : 0x201000000 ≤ a) (hhi : a < 0x201100000) (h : a ≠ Reg.MILL_IRQ_SWI) (v : Word)
    (s : State) : millWrite (a % 0x100000) v s = s.regGen a v := by
  have : a % 0x100000 ≠ 0x90300 := by have : a ≠ 0x201090300 := h; omega
  have ha : 0x201000000 + a % 0x100000 = a := by omega
  rw [millWrite, if_neg this, ha]

theorem millWrite_swi (v : Word) (s : State) : millWrite (Reg.MILL_IRQ_SWI % 0x100000) v s = s.swi v.toNat := rfl

/-- What a register write command leads to, from what it leads to on the bus. -/
theorem after_registerWrite {rq : Requester} {lvl : Fin 3} {a : BitVec 40} {size : Nat} {v : DWord} {s : State}
    {P : State → Prop} (h : P (regWriteCmd rq lvl.val a.toNat size v.toNat s)) : After (.registerWrite rq lvl a size v) s P :=
  ⟨_, rfl, h⟩

theorem OnlyRegs.withResp {s t : State} (h : OnlyRegs s t) (x : Resp) :
    { t with resp := x } = { s with resp := x, regs := t.regs, inst := t.inst } := by
  unfold OnlyRegs at h
  rw [h]

/-- Settles O4: a refused access leaves the state alone; in the MILL window every register but SWI takes the generic write. -/
theorem registerWrites : Obligations.RegisterWrites := by
  unfold Obligations.RegisterWrites
  intro rq lvl a size v s p cmd refused
  have refusal (h : s.busWrite rq lvl.val p size v.toNat = (.err, s)) : After cmd s refused :=
    after_registerWrite (regWriteCmd_err h)
  refine ⟨fun hun => refusal (access_unlisted (addrDomain_unlisted hun)), fun hwin hbad => refusal (access_refused (.inl ?_)),
    fun hrq hguard hlow => refusal (access_refused (.inr (levelOk_guarded_write hrq hguard hlow))), ?_⟩
  · rw [← Bool.not_eq_true, sizeOk_window hwin]
    omega
  · rintro rfl hal hlo hhi hon
    have hbus := regWriteCmd_ok (busWrite_mill (rq := rq) (lvl := lvl.val) (v := v.toNat) hal hlo hhi hon)
    refine ⟨fun hswi => after_registerWrite ?_, fun hswi => after_registerWrite ?_⟩
    · rw [hbus, millWrite_generic hlo hhi hswi]
      refine ⟨(regGen_onlyRegs ..).withResp _, fun q hq => rd_regGen_other s p _ hq, fun hres => ?_, fun f hf i hi => ?_⟩
      · rw [regGen_reserved s p _ hres]; rfl
      · have hrd := rd_regGen s p (BitVec.ofNat 32 v.toNat) hf p
        rw [if_pos rfl] at hrd
        have hbit := wbit_stored f (s.rd p) (s.atStart p) (BitVec.ofNat 32 v.toNat) hi
        rw [← hrd, getLsbD_lowWord v hi] at hbit
        exact hbit
    · have hcmd := hbus
      rw [hswi, millWrite_swi] at hcmd
      rw [← hswi] at hcmd
      rw [hcmd]
      refine ⟨(swi_onlyRegs ..).withResp _, fun q hq => rd_swi_other s _ hq, fun i hi => ?_⟩
      have hbit := bit_swi hon (BitVec.ofNat 32 v.toNat).toNat hi
      rw [fbit_eq] at hbit
      rw [← getLsbD_lowWord v (by omega : i - 30 < 32)]
      exact hbit

/-! ## Byte memories: what a read gives after a write -/

section
variable {d : Nat → Byte} {m m' : SMap Byte} {a n : Nat}

theorem memRd_eq_leVal (a n : Nat) : memRd d m a n = leVal (sget d m) a n := by
  induction n generalizing a with
  | zero => rfl
  | succ n ih => simp only [memRd, leVal, ih]

/-- A read depends on the bytes it covers alone. -/
theorem memRd_congr (h : ∀ j, a ≤ j → j < a + n → sget d m j = sget d m' j) : memRd d m a n = memRd d m' a n := by
  induction n generalizing a with
  | zero => rfl
  | succ n ih =>
    simp only [memRd]
    rw [h a (by omega) (by omega), ih fun j hj hj' => h j (by omega) (by omega)]

/-- A longer read is two shorter ones. -/
theorem memRd_add (k : Nat) : memRd d m a (n + k) = memRd d m a n + 256 ^ n * memRd d m (a + n) k := by
  induction n generalizing a with
  | zero => simp [memRd]
  | succ n ih =>
    rw [Nat.add_right_comm, memRd, memRd, ih, Nat.add_assoc a 1 n, Nat.add_comm 1 n, Nat.pow_succ]
    ring

/-- What was stored is read back. -/
theorem memRd_memWr (v : Nat) : memRd d (memWr d m a n v) a n = v % 256 ^ n := by
  induction n generalizing a m v with
  | zero => simp [memRd, Nat.mod_one]
  | succ n ih =>
    have hfirst : (sget d (memWr d (sset d m a (BitVec.ofNat 8 v)) (a + 1) n (v / 256)) a).toNat = v % 256 := by
      rw [sget_memWr, if_neg (by omega), sget_sset_same]; simp
    rw [memRd, memWr, hfirst, ih, Nat.pow_succ', Nat.mod_mul]

/-- Each of the words stored is read back. -/
theorem memRd_memPut {ws : List Word} {i : Nat} {w : Word} (h : ws[i]? = some w) :
    memRd d (memPut d m a ws) (a + 4 * i) 4 = w.toNat := by
  induction ws generalizing a m i with
  | nil => simp at h
  | cons x ws ih =>
    cases i with
    | zero =>
      obtain rfl : x = w := by simpa using h
      have hkept : memRd d (memPut d (memWr d m a 4 x.toNat) (a + 4) ws) a 4 = memRd d (memWr d m a 4 x.toNat) a 4 :=
        memRd_congr fun j _ hj => sget_memPut_out (.inl hj)
      exact hkept.trans ((memRd_memWr _).trans (Nat.mod_eq_of_lt x.isLt))
    | succ i =>
      have := ih (a := a + 4) (m := memWr d m a 4 x.toNat) (i := i) (by simpa using h)
      rwa [memPut, Nat.mul_add, Nat.mul_one, Nat.add_comm (4 * i), ← Nat.add_assoc]

end

/-! ## Status bits -/

theorem bit_eq_of_rd {s t : State} {a : Nat} (h : t.rd a = s.rd a) (i : Nat) : t.bit a i = s.bit a i := by
  simp [State.bit, h]

/-- A status bit stays set once an event has set it. -/
theorem bit_setStat {s : State} {st en src i : Nat} (hi : i < 32) (h : st ≠ Reg.MILL_IRQ_PEND (src / 32)) :
    (s.setStat st en src i).bit st i = true := by
  have hflag : (s.flag st i).bit st i = true := by simp [bit_flag s hi]
  unfold State.setStat
  split
  · assumption
  · dsimp only; split
    · rw [bit_eq_of_rd (raiseIrq_rd _ _ _ h), hflag]
    · exact hflag

/-! ## The management log (R386, R469) -/

section
variable (s : State) (src sev code d0 d1 d2 : Nat)

theorem rd_logRec_other {q : Nat} (h : q ≠ Reg.TND_LOG_WR) : (s.logRec src sev code d0 d1 d2).rd q = s.rd q :=
  rd_setBits_other _ _ _ _ h

@[simp] theorem logRec_tnd : (s.logRec src sev code d0 d1 d2).tnd = { s.tnd with seq := s.tnd.seq + 1 } := rfl

/-- A record stands at the write index, which moves on; no other byte changes. -/
theorem logged_logRec : Logged src sev code d0 d1 d2 s (s.logRec src sev code d0 d1 d2) := by
  have word {i : Nat} {w : Word} (h : [s.rd Reg.TND_RTC_LO, s.rd Reg.TND_RTC_HI,
      BitVec.ofNat 32 (src + 256 * sev + 65536 * (code % 65536)), BitVec.ofNat 32 d0, BitVec.ofNat 32 d1, BitVec.ofNat 32 d2,
      BitVec.ofNat 32 s.tnd.seq, 0x106C0001][i]? = some w) :
      rdz (s.logRec src sev code d0 d1 d2).ao (0x2000 + 32 * s.bits Reg.TND_LOG_WR 8 0 + 4 * i) 4 = w.toNat := memRd_memPut h
  refine ⟨word (i := 2) rfl, word (i := 3) rfl, word (i := 4) rfl, word (i := 5) rfl, ?_, word (i := 6) rfl, word (i := 7) rfl,
    bits_setBits _ (by decide), fun b hb => sget_memPut_out ?_⟩
  · have hlo := word (i := 0) rfl
    have hhi := word (i := 1) rfl
    simp only [rdz] at hlo hhi ⊢
    rw [memRd_add (n := 4) 4, ← Nat.mul_one 4, hhi]
    simp only [Nat.mul_zero, Nat.add_zero] at hlo
    rw [Nat.mul_one, hlo]
    rfl
  · simpa using hb

variable {src sev code d0 d1 d2} {s}

/-- A record speaks of the log of the state it is written to. -/
theorem Logged.of_sameLog {u t : State} (h : Logged src sev code d0 d1 d2 u t) (hwr : u.rd Reg.TND_LOG_WR = s.rd Reg.TND_LOG_WR)
    (hlo : u.rd Reg.TND_RTC_LO = s.rd Reg.TND_RTC_LO) (hhi : u.rd Reg.TND_RTC_HI = s.rd Reg.TND_RTC_HI)
    (hseq : u.tnd.seq = s.tnd.seq) (hao : u.ao = s.ao) : Logged src sev code d0 d1 d2 s t := by
  simpa only [Logged, State.bits, State.rd64, State.rdN, hwr, hlo, hhi, hseq, hao] using h

end

/-- A rate-limited record touches no register but the log's write index. -/
theorem rd_logLimited_other (s : State) (src sev code d0 d1 d2 : Nat) {q : Nat} (h : q ≠ Reg.TND_LOG_WR) :
    (s.logLimited src sev code d0 d1 d2).rd q = s.rd q := by
  unfold State.logLimited
  dsimp only
  split
  · rfl
  · exact rd_logRec_other _ _ _ _ _ _ _ h

theorem rd_dcReportLimited_other (s : State) (n sev code d0 d1 d2 : Nat) {q : Nat} (h : q ≠ Reg.TND_LOG_WR)
    (h' : q ≠ Reg.TND_TPEND) : (s.dcReportLimited n sev code d0 d1 d2).rd q = s.rd q := by
  unfold State.dcReportLimited State.tpend
  rw [rd_flag_other _ _ _ h', rd_logLimited_other _ _ _ _ _ _ _ h]

/-! ## The stall log (R404) -/

section
variable (s : State) (rq : Requester) (cause dom p : Nat)

/-- The entry of the stall log, without the write index. -/
def State.stallEntry : State :=
  let k := s.bits Reg.TND_STALL_WR 3 0
  (((s.wrN (Reg.TND_STALL_LOG k 0) (rq.num + 16 * cause + 256 * dom)).wrN (Reg.TND_STALL_LOG k 1) p).wrN (Reg.TND_STALL_LOG k 2)
    (p / 2 ^ 32)).wrN (Reg.TND_STALL_LOG k 3) s.rtcSec

/-- The entry with the index moved on and the Tender's status and event set: what `stallLog` does before its log record. -/
def State.stallNoted : State :=
  (((s.stallEntry rq cause dom p).setBits Reg.TND_STALL_WR 3 0 (s.bits Reg.TND_STALL_WR 3 0 + 1)).tndStat 1).tpend 5

theorem stallLog_eq : s.stallLog rq cause dom p = (s.stallNoted rq cause dom p).logRec 0 1 1
    (rq.num + 16 * cause + 256 * dom) (p % 2 ^ 32) (p / 2 ^ 32) := rfl

theorem stallEntry_onlyRegs : OnlyRegs s (s.stallEntry rq cause dom p) :=
  (((wrN_onlyRegs ..).trans (wrN_onlyRegs ..)).trans (wrN_onlyRegs ..)).trans (wrN_onlyRegs ..)

theorem stallNoted_onlyRegs : OnlyRegs s (s.stallNoted rq cause dom p) :=
  (((stallEntry_onlyRegs s rq cause dom p).trans (setBits_onlyRegs ..)).trans (setStat_onlyRegs ..)).trans (flag_onlyRegs ..)

/-- A note of a stall writes its entry, the write index, the Tender's status and events, and the status' interrupt source. -/
theorem rd_stallNoted_other {q : Nat} (he : ∀ w, w < 4 → q ≠ Reg.TND_STALL_LOG (s.bits Reg.TND_STALL_WR 3 0) w)
    (hw : q ≠ Reg.TND_STALL_WR) (hs : q ≠ Reg.TND_STAT) (hp : q ≠ Reg.TND_TPEND) (hi : q ≠ Reg.MILL_IRQ_PEND 1) :
    (s.stallNoted rq cause dom p).rd q = s.rd q := by
  unfold State.stallNoted State.tndStat State.tpend State.stallEntry
  rw [rd_flag_other _ _ _ hp, setStat_rd _ _ _ _ _ _ hs hi, rd_setBits_other _ _ _ _ hw, rd_wrN_other _ _ (he 3 (by omega)),
    rd_wrN_other _ _ (he 2 (by omega)), rd_wrN_other _ _ (he 1 (by omega)), rd_wrN_other _ _ (he 0 (by omega))]

/-- The registers of the log's ring lie apart from those named one by one. -/
theorem stallLog_ring_ne {k w : Nat} (hk : k < 16) (hw : w < 4) {q : Nat} (h : q < 0x200000200 ∨ 0x200000300 ≤ q) :
    q ≠ Reg.TND_STALL_LOG k w := by
  show q ≠ 0x200000200 + 0x10 * k + 0x4 * w
  omega

theorem stallIndex_lt : s.bits Reg.TND_STALL_WR 3 0 < 16 := Nat.mod_lt _ (by decide)

/-- A register outside the Tender's window that is not the interrupt source of the report is left alone. -/
theorem rd_stallLog_other {q : Nat} (h : 0x200100000 ≤ q) (hi : q ≠ Reg.MILL_IRQ_PEND 1) :
    (s.stallLog rq cause dom p).rd q = s.rd q := by
  rw [stallLog_eq, rd_logRec_other _ _ _ _ _ _ _ (ne_of_gt (lt_of_lt_of_le (by decide) h)), rd_stallNoted_other]
  · exact fun w hw => stallLog_ring_ne (stallIndex_lt s) hw (.inr (le_trans (by decide) h))
  · exact ne_of_gt (lt_of_lt_of_le (by decide) h)
  · exact ne_of_gt (lt_of_lt_of_le (by decide) h)
  · exact ne_of_gt (lt_of_lt_of_le (by decide) h)
  · exact hi

end

/-- A log record holds its second data word's low 32 bits. -/
theorem Logged.of_mod {s t : State} {src sev code d0 d1 d2 : Nat} (h : Logged src sev code d0 (d1 % 2 ^ 32) d2 s t) :
    Logged src sev code d0 d1 d2 s t := by
  simpa only [Logged, Nat.mod_mod] using h

section
variable (s : State) (rq : Requester) (cause dom p : Nat)

/-- The entry's words: what the ring's registers hold once it is written. -/
theorem rd_stallEntry (k : Nat) (hk : k = s.bits Reg.TND_STALL_WR 3 0) (w : Fin 4) :
    (s.stallEntry rq cause dom p).rd (Reg.TND_STALL_LOG k w) = BitVec.ofNat 32
      (match w with | 0 => rq.num + 16 * cause + 256 * dom | 1 => p | 2 => p / 2 ^ 32 | 3 => s.rtcSec) := by
  subst hk
  fin_cases w <;> simp [State.stallEntry, State.wrN, rd_wr]

/-- What comes after the entry leaves it as written. -/
theorem rd_stallLog_entry {k w : Nat} (hk : k < 16) (hw : w < 4) :
    (s.stallLog rq cause dom p).rd (Reg.TND_STALL_LOG k w) = (s.stallEntry rq cause dom p).rd (Reg.TND_STALL_LOG k w) := by
  have apart (q : Nat) (h : q < 0x200000200 ∨ 0x200000300 ≤ q) : Reg.TND_STALL_LOG k w ≠ q := (stallLog_ring_ne hk hw h).symm
  unfold State.stallLog
  dsimp only
  unfold State.tndStat State.tpend
  rw [rd_logRec_other _ _ _ _ _ _ _ (apart _ (by decide)), rd_flag_other _ _ _ (apart _ (by decide)),
    setStat_rd _ _ _ _ _ _ (apart _ (by decide)) (apart _ (by decide)), rd_setBits_other _ _ _ _ (apart _ (by decide))]
  rfl

/-- The write index has moved on, modulo 16. -/
theorem bits_stallLog_index : (s.stallLog rq cause dom p).bits Reg.TND_STALL_WR 3 0 = (s.bits Reg.TND_STALL_WR 3 0 + 1) % 16 := by
  rw [stallLog_eq, bits_eq_of_rd (rd_logRec_other _ _ _ _ _ _ _ (by decide))]
  unfold State.stallNoted State.tndStat State.tpend
  rw [bits_eq_of_rd (rd_flag_other _ _ _ (by decide)), bits_eq_of_rd (setStat_rd _ _ _ _ _ _ (by decide) (by decide)),
    bits_setBits _ (by decide)]
  rfl

theorem bit_stallLog_stat : (s.stallLog rq cause dom p).bit Reg.TND_STAT 1 = true := by
  rw [stallLog_eq, bit_eq_of_rd (rd_logRec_other _ _ _ _ _ _ _ (by decide))]
  unfold State.stallNoted State.tpend
  rw [bit_eq_of_rd (rd_flag_other _ _ _ (by decide))]
  exact bit_setStat (by decide) (by decide)

theorem bit_stallLog_tpend : (s.stallLog rq cause dom p).bit Reg.TND_TPEND 5 = true := by
  rw [stallLog_eq, bit_eq_of_rd (rd_logRec_other _ _ _ _ _ _ _ (by decide))]
  unfold State.stallNoted State.tpend
  rw [bit_flag _ (by decide)]
  rfl

theorem logged_stallLog :
    Logged 0 1 1 (rq.num + 16 * cause + 256 * dom) p (p / 2 ^ 32) s (s.stallLog rq cause dom p) := by
  have same {q : Nat} (h : q < 0x200000200 ∨ 0x200000300 ≤ q) (h' : q ≠ Reg.TND_STALL_WR ∧ q ≠ Reg.TND_STAT ∧ q ≠ Reg.TND_TPEND ∧
      q ≠ Reg.MILL_IRQ_PEND 1) : (s.stallNoted rq cause dom p).rd q = s.rd q := by
    obtain ⟨hindex, hstat, hpend, hsrc⟩ := h'
    exact rd_stallNoted_other s rq cause dom p (fun w hw => stallLog_ring_ne (stallIndex_lt s) hw h) hindex hstat hpend hsrc
  have honly := stallNoted_onlyRegs s rq cause dom p
  rw [stallLog_eq]
  exact (logged_logRec ..).of_mod.of_sameLog (same (by decide) (by decide)) (same (by decide) (by decide))
    (same (by decide) (by decide)) (congrArg TndSt.seq honly.tnd) honly.ao

/-- A bus error's log entry is the one the stall log is to hold. -/
theorem stallLogged_stallLog : StallLogged rq cause dom p s (s.stallLog rq cause dom p) := by
  have hk := stallIndex_lt s
  have entry (w : Fin 4) := congrArg BitVec.toNat
    ((rd_stallLog_entry s rq cause dom p hk w.isLt).trans (rd_stallEntry s rq cause dom p _ rfl w))
  refine ⟨(entry 0).trans (BitVec.toNat_ofNat ..), (entry 1).trans (BitVec.toNat_ofNat ..),
    (entry 2).trans (BitVec.toNat_ofNat ..), bits_stallLog_index .., bit_stallLog_stat .., bit_stallLog_tpend .., logged_stallLog ..⟩

/-- A domain's status is not the log's to write. -/
theorem rd_stallLog_domain {n : Nat} (hn : n < 14) :
    (s.stallLog rq cause dom p).rd (Reg.PWR_DC_STAT n) = s.rd (Reg.PWR_DC_STAT n) := by
  have hlo : 0x200100000 ≤ 0x200f00004 + 8 * n := by omega
  have hsrc : 0x200f00004 + 8 * n ≠ 0x201090204 := by omega
  exact rd_stallLog_other s rq cause dom p hlo hsrc

theorem stallLog_cores : (s.stallLog rq cause dom p).cores = s.cores :=
  (stallNoted_onlyRegs s rq cause dom p).cores

theorem stallLog_resp : (s.stallLog rq cause dom p).resp = s.resp :=
  (stallNoted_onlyRegs s rq cause dom p).resp

theorem stallLog_stalls : (s.stallLog rq cause dom p).tnd.stalls = s.tnd.stalls := by
  rw [stallLog_eq, logRec_tnd, (stallNoted_onlyRegs s rq cause dom p).tnd]

variable {s} {rq} {cause dom p}

/-- A stall log entry speaks of the logs of the state it is written to. -/
theorem stallLogged_of_sameLog {u t : State} (h : StallLogged rq cause dom p u t) (hregs : u.regs = s.regs)
    (hseq : u.tnd.seq = s.tnd.seq) (hao : u.ao = s.ao) : StallLogged rq cause dom p s t := by
  simpa only [StallLogged, Logged, State.bits, State.rd64, State.rdN, State.rd, hregs, hseq, hao] using h

end

/-- What a bus error at once leaves: the entry of the stall log, and the domain's state as it was. -/
theorem stallLog_refusal {s : State} {rq : Requester} {cause d p : Nat} (hd : d < 14) :
    let t := { s.stallLog rq cause d p with resp := .busError }
    t.resp = .busError ∧ StallLogged rq cause d p s t ∧
      t.bits (Reg.PWR_DC_STAT d) 1 0 = s.bits (Reg.PWR_DC_STAT d) 1 0 :=
  ⟨rfl, stallLogged_stallLog s rq cause d p, bits_eq_of_rd (rd_stallLog_domain s rq cause d p hd) 1 0⟩

/-! ## Reads over the bus (R5, R6, R405) -/

section
variable (s : State) (a : Nat)

theorem and_not_ofNat_zero (x : Word) : x &&& ~~~(BitVec.ofNat 32 0) = x := by
  rw [show ~~~(BitVec.ofNat 32 0) = BitVec.allOnes 32 from rfl, BitVec.and_allOnes]

/-- A readable register that no read clears: its value, and nothing changes. -/
theorem regTake_plain {f : RegFam} (hf : regFam a = some f) (hwo : f.wo = 0) (hrc : f.rc = 0) : s.regTake a = (s.rdN a, s) := by
  simp only [State.regTake, hf, hwo, hrc, if_true, and_not_ofNat_zero]
  rfl

/-- Of a 32-bit RC field that counts, a read leaves what this instant's events brought. -/
theorem rcLeft_count (old start : Word) : rcLeft (32, false) old start = BitVec.ofNat 32 (old.toNat - start.toNat) := by
  have whole (w : Word) : wbits w 31 0 = w.toNat := by simp [wbits, fget, Nat.mod_eq_of_lt w.isLt]
  simp [rcLeft, whole]

/-- The value read from a readable register whose fields a read clears, and the register it leaves, where all its 32 bits are one
counting RC field. -/
theorem regTake_counter {f : RegFam} (hf : regFam a = some f) (hwo : f.wo = 0) (hrc : f.rc = 0xffffffff)
    (hshape : rcShape a = (32, false)) :
    s.regTake a = (s.rdN a,
      (s.wr a (BitVec.ofNat 32 (s.rdN a - (s.atStart a).toNat))).cleared a (BitVec.ofNat 32 0xffffffff)) := by
  have hkept : (s.rd a &&& ~~~(BitVec.ofNat 32 0xffffffff)) ||| (BitVec.ofNat 32 (s.rdN a - (s.atStart a).toNat) &&&
      BitVec.ofNat 32 0xffffffff) = BitVec.ofNat 32 (s.rdN a - (s.atStart a).toNat) := by
    rw [show ~~~(BitVec.ofNat 32 0xffffffff) = 0#32 from rfl, show BitVec.ofNat 32 0xffffffff = BitVec.allOnes 32 from rfl,
      BitVec.and_zero, BitVec.and_allOnes, BitVec.zero_or]
  simp only [State.regTake, hf, hwo, hrc, and_not_ofNat_zero, hshape, rcLeft_count]
  rw [if_neg (by decide)]
  exact Prod.ext rfl (congrArg (fun x => (s.wr a x).cleared a _) hkept)

end

/-- The MILL registers that a read clears are 32-bit counters. -/
theorem rc_mill {a : Nat} {f : RegFam} (hq : a / 0x100000 = 0x2010) (hf : regFam a = some f) : f.rc = 0 ∨ f.rc = 0xffffffff := by
  have hmem : f ∈ regsMill := by
    simp only [regFam, regsAt, hq] at hf
    exact List.mem_of_find?_eq_some hf
  have hall : ∀ g ∈ regsMill, g.rc = 0 ∨ g.rc = 0xffffffff := by decide
  exact hall f hmem

/-- What a read of a MILL register with no write-only bit does: the value, and RC fields clear but for what this instant's events
brought. -/
theorem regTake_mill {s : State} {a : Nat} {f : RegFam} (hq : a / 0x100000 = 0x2010) (hf : regFam a = some f) (hwo : f.wo = 0) :
    (s.regTake a).1 = s.rdN a ∧ RegEffect (· = a) s (s.regTake a).2 ∧
      (s.regTake a).2.rdN a = if f.rc = 0 then s.rdN a else s.rdN a - (s.atStart a).toNat := by
  rcases rc_mill hq hf with hrc | hrc
  · rw [regTake_plain s a hf hwo hrc, if_pos hrc]
    exact ⟨rfl, ⟨rfl, fun _ _ => rfl⟩, rfl⟩
  · rw [regTake_counter s a hf hwo hrc (by simp [rcShape, hq]), if_neg (by omega)]
    refine ⟨rfl, ⟨rfl, fun q hq => ?_⟩, ?_⟩
    · rw [rd_cleared, rd_wr_other _ _ hq]
    · have hlt : s.rdN a - (s.atStart a).toNat < 2 ^ 32 := lt_of_le_of_lt (Nat.sub_le ..) (s.rd a).isLt
      rw [State.rdN, rd_cleared, rd_wr_same, BitVec.toNat_ofNat, Nat.mod_eq_of_lt hlt]

theorem crossRead_still {rq : Requester} {a : Nat} {s : State} (h : moving rq a s = false) : crossRead rq a s = regRead a s := by
  simp [crossRead, h]

/-- A register that moves, read from another domain: a free value tells whether the samples disagree (R405). -/
theorem crossRead_moving {rq : Requester} {a : Nat} {s : State} {f : RegFam} (h : moving rq a s = true) (hf : regFam a = some f)
    (hwo : f.wo = 0) : crossRead rq a s =
      if (Config.freeWord s.freeIdx).getLsbD 0 then ((s.atStart a).toNat, (regRead a s.used).2.unsettled (rqDomain rq))
      else regRead a s.used := by
  simp only [crossRead, h, if_true, State.free, hf, Option.map_some, Option.getD_some, hwo, and_not_ofNat_zero]
  rfl

/-- UNSETTLED is set from now on. -/
theorem bit_unsettled (s : State) {d : Nat} (hd : d < 14) : (s.unsettled d).bit (Reg.PWR_DC_STAT d) 8 = true := by
  have hlog : Reg.PWR_DC_STAT d ≠ Reg.TND_LOG_WR := by show 0x200f00004 + 8 * d ≠ 0x200000420; omega
  have hpend : Reg.PWR_DC_STAT d ≠ Reg.TND_TPEND := by show 0x200f00004 + 8 * d ≠ 0x200000030; omega
  unfold State.unsettled
  rw [if_neg (by omega)]
  split
  · assumption
  · rw [bit_eq_of_rd (rd_dcReportLimited_other _ _ _ _ _ _ _ hlog hpend), bit_flag _ (by decide)]
    rfl

section
variable {s : State} {rq : Requester} {a : Nat} (hal : a % 4 = 0)
include hal

/-- A word read at level 2 whose domain takes accesses, in a window. -/
theorem busRead_window {d : Nat} (hd : addrDomain a = some d) (hon : d = 14 ∨ s.domOn d = true)
    (hhit : s.felt.hit = false) (hwin : inWindows a = true) :
    s.busRead rq 2 a 4 = (.ok (crossRead rq a s).1, (crossRead rq a s).2) := by
  rw [State.busRead, access_go (sizeOk_word hal) (levelOk_two ..) hd hon (.inl hhit), if_pos hwin]

/-- A word of DRAM, least significant byte first. -/
theorem busRead_dram (hlo : 0x800000000 ≤ a) (hhi : a + 4 ≤ 0x870000000) (hon : s.domOn 0 = true)
    (hhit : s.felt.hit = false) :
    s.busRead rq 2 a 4 = (.ok (leVal (sget zeroByte s.dram) (a - 0x800000000) 4), s) := by
  have hdram : physRead a 4 s = memRd zeroByte s.dram (a - 0x800000000) 4 := by
    unfold physRead
    rw [if_neg (by omega), if_neg (by omega), if_neg (by omega), if_neg (by omega), if_neg (by omega)]
    rfl
  rw [State.busRead, access_go (sizeOk_word hal) (levelOk_two ..) (addrDomain_dram hlo (by omega)) (.inr hon) (.inl hhit),
    if_neg (by simp [not_inWindows_dram hlo]), hdram, memRd_eq_leVal]

end

/-! ## The command that reads -/

section
variable {s t : State} {rq : Requester} {a : Nat}

theorem accessStall_ok {v : Nat} (h : s.busRead rq 2 a 4 = (.ok v, t)) :
    accessStall rq a s = { t with resp := .data (BitVec.ofNat 64 v) } := by simp [accessStall, h]

theorem accessStall_err (h : s.busRead rq 2 a 4 = (.err, t)) : accessStall rq a s = { t with resp := .busError } := by
  simp [accessStall, h]

theorem accessStall_wait {d : Nat} (h : s.busRead rq 2 a 4 = (.wait d, t)) :
    accessStall rq a s = { t.stall ⟨rq, 2, a, d, t.clk, .busRead⟩ with resp := .stalled } := by simp [accessStall, h]

theorem after_accessStall {a : BitVec 40} {P : State → Prop} (h : P (accessStall rq a.toNat s)) : After (.accessStall rq a) s P :=
  ⟨_, rfl, h⟩

end

/-! ## Waking a domain -/

theorem wake_onlyRegs (s : State) (d : Nat) : OnlyRegs s (s.wake d) := by unfold OnlyRegs State.wake; split <;> [rfl; split <;> rfl]

theorem rd_wake_other (s : State) {d q : Nat} (h : q ≠ Reg.PWR_DC_STAT d) : (s.wake d).rd q = s.rd q := by
  unfold State.wake
  split
  · rfl
  · split
    · exact rd_setBits_other _ _ _ _ h
    · rfl

/-- A wake request takes a domain that sleeps to WAKING. -/
theorem bits_wake {s : State} {d : Nat} (hc : s.contained d = false) :
    (s.wake d).bits (Reg.PWR_DC_STAT d) 1 0 = max 2 (s.bits (Reg.PWR_DC_STAT d) 1 0) := by
  unfold State.wake
  rw [if_neg (by simp [hc])]
  split
  · rw [bits_setBits _ (by decide)]; omega
  · omega

/-! ## What the read command does, case by case -/

section
variable {s : State} {rq : Requester} {a : BitVec 40} (hal : a.toNat % 4 = 0) (hhit : s.felt.hit = false)
include hal

include hhit in
theorem read_dram (hlo : 0x800000000 ≤ a.toNat) (hhi : a.toNat + 4 ≤ 0x870000000) (hon : s.domOn 0 = true) :
    After (.accessStall rq a) s fun t =>
      t = { s with resp := .data (BitVec.ofNat 64 (leVal (sget zeroByte s.dram) (a.toNat - 0x800000000) 4)) } :=
  after_accessStall (accessStall_ok (busRead_dram hal hlo hhi hon hhit))

include hhit in
/-- A TND register whose value moves, read by Mill core 0 over the crossing (R405). -/
theorem read_moving_tender (hlo : 0x200000000 ≤ a.toNat) (hhi : a.toNat < 0x200100000) (hl : a.toNat ≠ Reg.TND_RTC_LO)
    (hh : a.toNat ≠ Reg.TND_RTC_HI) (hsw : a.toNat ∉ s.inst.sw) (hne : s.rd a.toNat ≠ s.atStart a.toNat) {f : RegFam}
    (hf : regFam a.toNat = some f) (hwo : f.wo = 0) (hrc : f.rc = 0) :
    After (.accessStall .mill0 a) s fun t =>
      let disagree := (Config.freeWord s.freeIdx).getLsbD 0
      t.resp = .data (BitVec.ofNat 64 (if disagree then s.atStart a.toNat else s.rd a.toNat).toNat) ∧
      (disagree = true → t.bit (Reg.PWR_DC_STAT 0) 8 = true) := by
  have hq : a.toNat / 0x100000 = 0x2000 := by omega
  have hwin : inWindows a.toNat = true := by simp [inWindows]; omega
  have hdom : regDomain a.toNat = 14 := by simp [regDomain, hq]
  have henc : ¬0x200701000 ≤ a.toNat := by omega
  have hmoving : moving .mill0 a.toNat s = true := by
    simp [moving, rqDomain, hdom, crossesGray, hq, hl, hh, henc, hf, hsw, hne]
  have hread : regRead a.toNat s.used = (s.rdN a.toNat, s.used) := by
    simp only [regRead, hq]
    exact regTake_plain s.used _ hf hwo hrc
  have hbus := busRead_window (rq := .mill0) hal (addrDomain_window hwin) (.inl hdom) hhit hwin
  rw [crossRead_moving hmoving hf hwo, hread] at hbus
  refine after_accessStall ?_
  rw [accessStall_ok hbus]
  cases (Config.freeWord s.freeIdx).getLsbD 0
  · exact ⟨rfl, by simp⟩
  · exact ⟨rfl, fun _ => bit_unsettled s.used (d := 0) (by decide)⟩

include hhit in
/-- A MILL register read by the Mill itself, or while it does not move. -/
theorem read_mill (hlo : 0x201000000 ≤ a.toNat) (hhi : a.toNat < 0x201100000) (hon : s.domOn 0 = true)
    (hown : rq = .mill0 ∨ rq = .mill1 ∨ s.rd a.toNat = s.atStart a.toNat) {f : RegFam} (hf : regFam a.toNat = some f)
    (hwo : f.wo = 0) :
    After (.accessStall rq a) s fun t =>
      t = { s with resp := .data (BitVec.ofNat 64 (s.rdN a.toNat)), regs := t.regs, inst := t.inst } ∧
      RegsBut (· = a.toNat) s t ∧
      t.rdN a.toNat = if f.rc = 0 then s.rdN a.toNat else s.rdN a.toNat - (s.atStart a.toNat).toNat := by
  have hq : a.toNat / 0x100000 = 0x2010 := by omega
  have hwin : inWindows a.toNat = true := by simp [inWindows]; omega
  have hdom : regDomain a.toNat = 0 := by simp [regDomain, hq]
  have hstill : moving rq a.toNat s = false := by
    rcases hown with rfl | rfl | h
    · simp [moving, rqDomain, hdom]
    · simp [moving, rqDomain, hdom]
    · simp [moving, h]
  have hread : regRead a.toNat s = s.regTake a.toNat := by simp only [regRead, hq]
  have hbus := busRead_window (rq := rq) hal (addrDomain_mill hlo hhi) (.inr hon) hhit hwin
  rw [crossRead_still hstill, hread] at hbus
  obtain ⟨hval, ⟨honly, hbut⟩, hleft⟩ := regTake_mill hq hf hwo (s := s)
  rw [hval] at hbus
  refine after_accessStall ?_
  rw [accessStall_ok hbus]
  exact ⟨honly.withResp _, hbut, hleft⟩

variable {d : Nat} (hd : addrDomain a.toNat = some d) (h14 : d ≠ 14) (hoff : s.domOn d = false)

include hd h14 hoff

theorem read_contained (hc : s.contained d = true) :
    After (.accessStall rq a) s fun t => t.resp = .busError ∧ StallLogged rq 2 d a.toNat s t ∧
      t.bits (Reg.PWR_DC_STAT d) 1 0 = s.bits (Reg.PWR_DC_STAT d) 1 0 := by
  have := addrDomain_le hd
  refine after_accessStall ?_
  rw [accessStall_err (access_contained (sizeOk_word hal) (levelOk_two ..) hd h14 hoff hc)]
  exact stallLog_refusal (by omega)

theorem read_noWake (hc : s.contained d = false) (hw : s.bit (Reg.PWR_DC_CTL d) 2 = false) :
    After (.accessStall rq a) s fun t => t.resp = .busError ∧ StallLogged rq 3 d a.toNat s t ∧
      t.bits (Reg.PWR_DC_STAT d) 1 0 = s.bits (Reg.PWR_DC_STAT d) 1 0 := by
  have := addrDomain_le hd
  refine after_accessStall ?_
  rw [accessStall_err (access_noWake (sizeOk_word hal) (levelOk_two ..) hd h14 hoff hc hw)]
  exact stallLog_refusal (by omega)

theorem read_wakes (hc : s.contained d = false) (hw : s.bit (Reg.PWR_DC_CTL d) 2 = true) :
    After (.accessStall rq a) s fun t => t.resp = .stalled ∧
      t.tnd.stalls = s.tnd.stalls ++ [⟨rq, 2, a.toNat, d, s.clk, .busRead⟩] ∧
      t.bits (Reg.PWR_DC_STAT d) 1 0 = max 2 (s.bits (Reg.PWR_DC_STAT d) 1 0) ∧ RegsBut (· = Reg.PWR_DC_STAT d) s t ∧
      SameMem s t := by
  have honly := wake_onlyRegs s d
  refine after_accessStall ?_
  rw [accessStall_wait (access_wakes (sizeOk_word hal) (levelOk_two ..) hd h14 hoff hc hw), honly.clk]
  refine ⟨rfl, congrArg (· ++ _) (congrArg TndSt.stalls honly.tnd), bits_wake hc, fun q hq => rd_wake_other s hq, ?_⟩
  exact honly.sameMem

end

/-! ## An access that has waited for 2 ms (R404) -/

/-- A trap of a Mill core that is not in a trap to level 2 enters the handler; nothing but the core changes (R111, R112). -/
theorem takeTrap_mill {s : State} {b : Bool} (h : (s.core (.mill b)).ms 10 10 = 0) (cause tval : Nat) :
    s.takeTrap (.mill b) cause tval = s.setCore (.mill b) ((s.core (.mill b)).enter (.mill b)
      ((s.core (.mill b)).trapLevel (.mill b) cause) (s.core (.mill b)).pc.toNat cause tval) := by
  simp [State.takeTrap, h]

theorem coreOf_mill (b : Bool) : coreOf (if b then 1 else 0) = some (.mill b) := by cases b <;> rfl

section
variable {s : State} {i : Nat} {x : Stall} (hx : s.tnd.stalls[i]? = some x)
include hx

theorem stallTimeout_early (h : s.clk < x.since + 2000000) : stallTimeout i s = s := by simp [stallTimeout, hx, h]

theorem stallTimeout_late (h : x.since + 2000000 ≤ s.clk) : stallTimeout i s =
    ((s.modTnd fun t => { t with stalls := t.stalls.eraseIdx i }).stallFail x).stallLog x.rq 1 x.dom x.addr := by
  simp [stallTimeout, hx, Nat.not_lt.2 h]

theorem timeout_busRead (h : x.since + 2000000 ≤ s.clk) (hop : x.op = .busRead) :
    After (.stallTimeout i) s fun t => t.resp = .busError ∧ t.tnd.stalls = s.tnd.stalls.eraseIdx i ∧
      StallLogged x.rq 1 x.dom x.addr s t ∧ ∀ n, n < 14 → t.rd (Reg.PWR_DC_STAT n) = s.rd (Reg.PWR_DC_STAT n) := by
  refine ⟨_, rfl, ?_⟩
  rw [stallTimeout_late hx h, State.stallFail, hop]
  refine ⟨stallLog_resp .., stallLog_stalls .., stallLogged_of_sameLog (stallLogged_stallLog ..) rfl rfl rfl,
    fun n hn => rd_stallLog_domain _ _ _ _ _ hn⟩

/-- A Mill core's load that has waited too long: the core runs on into its LBUS trap. -/
theorem timeout_load (h : x.since + 2000000 ≤ s.clk) {c1 : Bool} {d : BitVec 6} {n : Nat} {sx : Bool} {va : Nat}
    (hop : x.op = .load (if c1 then 1 else 0) d n sx va) (hms : (s.core (.mill c1)).ms 10 10 = 0) :
    After (.stallTimeout i) s fun t => t.tnd.stalls = s.tnd.stalls.eraseIdx i ∧ StallLogged x.rq 1 x.dom x.addr s t ∧
      let k := { s.core (.mill c1) with run := .running }
      t.core (.mill c1) = ((s.setCore (.mill c1) k).takeTrap (.mill c1) Cause.lbus va).core (.mill c1) := by
  have entered (u : State) (hu : u.core (.mill c1) = s.core (.mill c1)) :
      ((u.setCore (.mill c1) { u.core (.mill c1) with run := .running }).core (.mill c1)).ms 10 10 = 0 := by
    rw [core_setCore_same, hu]
    exact hms
  refine ⟨_, rfl, ?_⟩
  rw [stallTimeout_late hx h, State.stallFail, hop]
  simp only [State.stallTrap, coreOf_mill]
  rw [takeTrap_mill (entered (s.modTnd _) rfl), takeTrap_mill (entered s rfl)]
  refine ⟨stallLog_stalls .., stallLogged_of_sameLog (stallLogged_stallLog ..) rfl rfl rfl, ?_⟩
  rw [State.core_eq, stallLog_cores, ← State.core_eq]
  simp

end

/-- Settles O5: each read and each waiting access is one of the cases above. That a free value decides whether samples disagree is
the model's choice. -/
theorem accessesThatWait : Obligations.AccessesThatWait := by
  unfold Obligations.AccessesThatWait
  constructor
  · intro rq a s p cmd hal hhit
    refine ⟨read_dram hal hhit, ?_, ?_, fun d hd h14 hoff => ⟨read_contained hal hd h14 hoff, read_noWake hal hd h14 hoff,
      read_wakes hal hd h14 hoff⟩⟩
    · rintro hlo hhi rfl hl hh hsw hne f hf hwo hrc
      exact read_moving_tender hal hhit hlo hhi hl hh hsw hne hf hwo hrc
    · intro hlo hhi hon hown f hf hwo
      exact read_mill hal hhit hlo hhi hon hown hf hwo
  · intro i x s hx
    exact ⟨fun h => congrArg Host.Outcome.next (stallTimeout_early hx h), timeout_busRead hx,
      fun h c1 d n sx va => timeout_load hx h⟩

end Sys2Proof.Machine

namespace Sys2Proof.Machine

/-! # The positioning cycle: the input block at t0, the control law, the commands published, the drive ticks -/

/-! ## Folds -/

/-- A relation that holds along every step of a fold, and composes, holds from its start to its end. -/
theorem foldl_rel {α σ : Type} {R : σ → σ → Prop} (refl : ∀ s, R s s) (trans : ∀ {s t u}, R s t → R t u → R s u)
    {f : σ → α → σ} (step : ∀ s x, R s (f s x)) (xs : List α) (s : σ) : R s (xs.foldl f s) := by
  induction xs generalizing s with
  | nil => exact refl s
  | cons x xs ih => exact trans (step s x) (ih (f s x))

theorem RegsBut.trans {p : Nat → Prop} {s t u : State} (h : RegsBut p s t) (h' : RegsBut p t u) : RegsBut p s u :=
  fun a ha => (h' a ha).trans (h a ha)

theorem domOn_eq_of_rd {s t : State} {n : Nat} (h : t.rd (Reg.PWR_DC_STAT n) = s.rd (Reg.PWR_DC_STAT n)) :
    t.domOn n = s.domOn n := by simp [State.domOn, State.bits, h]

/-! ## Writes of DRAM -/

/-- Nothing changes but bytes of DRAM and what a write of them touches: errors mended, reservations cleared, pages marked dirty and
counted (R101, R113, R367). -/
def DramEffect (s t : State) : Prop :=
  t = { s with dram := t.dram, dramBad := t.dramBad, cores := t.cores, regs := t.regs, pair := { s.pair with dirty := t.pair.dirty } } ∧
  RegsBut (· = Reg.PAIR_MST_DIRTY) s t

theorem DramEffect.refl (s : State) : DramEffect s s := ⟨rfl, fun _ _ => rfl⟩

theorem DramEffect.trans {s t u : State} (h : DramEffect s t) (h' : DramEffect t u) : DramEffect s u := by
  refine ⟨h'.1.trans ?_, h.2.trans h'.2⟩
  rw [h.1]

section
variable {s t : State} (h : DramEffect s t)
include h
theorem DramEffect.lib : t.lib = s.lib := by rw [h.1]
theorem DramEffect.mram : t.mram = s.mram := by rw [h.1]
theorem DramEffect.nor : t.nor = s.nor := by rw [h.1]
theorem DramEffect.ao : t.ao = s.ao := by rw [h.1]
theorem DramEffect.out : t.out = s.out := by rw [h.1]
theorem DramEffect.ply : t.ply = s.ply := by rw [h.1]
theorem DramEffect.bodies : t.pair.bodies = s.pair.bodies := by rw [h.1]
theorem DramEffect.rd {a : Nat} (ha : a ≠ Reg.PAIR_MST_DIRTY) : t.rd a = s.rd a := h.2 a ha
theorem DramEffect.domOn (n : Nat) : t.domOn n = s.domOn n :=
  domOn_eq_of_rd (h.rd (by show 0x200f00004 + 8 * n ≠ 0x200a000ec; omega))
end

theorem clearResv_dramEffect (s : State) (c : CoreId) (a : Nat) : DramEffect s (s.clearResv c a) := by
  unfold State.clearResv
  dsimp only
  split
  · exact ⟨rfl, fun _ _ => rfl⟩
  · exact .refl s

theorem resvWrite_dramEffect (s : State) (agent : Option CoreId) (a : Nat) : DramEffect s (s.resvWrite agent a) := by
  unfold State.resvWrite
  dsimp only
  have first : DramEffect s (if agent = some (.mill false) then s else s.clearResv (.mill false) a) := by
    split
    · exact .refl s
    · exact clearResv_dramEffect ..
  split
  · exact first
  · exact first.trans (clearResv_dramEffect ..)

theorem markDirty_dramEffect (s : State) (a : Nat) : DramEffect s (s.markDirty a) := by
  unfold State.markDirty
  dsimp only
  split
  · exact .refl s
  · split
    · exact .refl s
    · exact ⟨rfl, fun q hq => rd_setBits_other _ _ _ _ hq⟩

theorem dramTouch_dramEffect (s : State) (agent : Option CoreId) (o n : Nat) : DramEffect s (s.dramTouch agent o n) := by
  unfold State.dramTouch
  exact foldl_rel .refl .trans (fun u i => (resvWrite_dramEffect u agent _).trans (markDirty_dramEffect _ _)) _ s

theorem resvWrite_dram (s : State) (agent : Option CoreId) (a : Nat) : (s.resvWrite agent a).dram = s.dram := by
  have clear (u : State) (c : CoreId) : (u.clearResv c a).dram = u.dram := by unfold State.clearResv; dsimp only; split <;> rfl
  unfold State.resvWrite
  dsimp only
  split <;> split <;> simp only [clear]

theorem markDirty_dram (s : State) (a : Nat) : (s.markDirty a).dram = s.dram := by
  unfold State.markDirty
  dsimp only
  split
  · rfl
  · split <;> rfl

theorem dramTouch_dram (s : State) (agent : Option CoreId) (o n : Nat) : (s.dramTouch agent o n).dram = s.dram :=
  foldl_rel (R := fun s t : State => t.dram = s.dram) (fun _ => rfl) (fun h h' => h'.trans h)
    (fun _ _ => (markDirty_dram ..).trans (resvWrite_dram ..)) ..

theorem dramPut_dramEffect (s : State) (agent : Option CoreId) (o : Nat) (ws : List Word) : DramEffect s (s.dramPut agent o ws) :=
  DramEffect.trans (t := { s with dram := memPut zeroByte s.dram o ws }.mend o (4 * ws.length)) ⟨rfl, fun _ _ => rfl⟩
    (dramTouch_dramEffect ..)

theorem dmaPut_dramEffect (s : State) (a : Nat) (ws : List Word) : DramEffect s (s.dmaPut a ws) := by
  unfold State.dmaPut
  split
  · exact dramPut_dramEffect ..
  · exact .refl s

theorem dmaPut_dram (s : State) (a : Nat) (ws : List Word) : (s.dmaPut a ws).dram =
    if inDram a (4 * ws.length) ∧ s.domOn 0 then memPut zeroByte s.dram (a - dramBase) ws else s.dram := by
  unfold State.dmaPut
  split
  · exact dramTouch_dram ..
  · rfl

/-- Bytes beside those written read as before. -/
theorem sget_dmaPut_out {s : State} {a j : Nat} {ws : List Word} (h : j + dramBase < a ∨ a + 4 * ws.length ≤ j + dramBase) :
    sget zeroByte (s.dmaPut a ws).dram j = sget zeroByte s.dram j := by
  rw [dmaPut_dram]
  split
  next hin =>
    have : dramBase ≤ a := by simp only [inDram, Bool.and_eq_true, decide_eq_true_eq] at hin; omega
    exact sget_memPut_out (by omega)
  · rfl

/-! ## The allocation problem (R174, R175): which rows there are -/

/-- The linearisations of a job's problem: for each thruster of the structure table, one for each step. -/
def allocLins (s : State) (j : CalJob) : List (List ThrLin) :=
  let held := fun id q => recast false true ((s.lib.applied[3 * id + q]?).getD 0).toNat
  (structIds s j.d).map fun id => (List.range (dNStep j.d)).map fun k =>
    thrLin s id (planNum j.warm id k 0) (planNum j.warm id k 1) ((refAzs s j.warm id (dNStep j.d) (held id 2)).getD k 0)

def allocLin (s : State) (j : CalJob) (e k : Nat) : ThrLin := (((allocLins s j)[e]?).getD [])[k]?.getD default

/-- The rows of one thruster, entry `e` of the structure table, at one step. -/
def allocStepRows (s : State) (j : CalJob) (id e k : Nat) : List QpRow :=
  let v := 3 * (dNStep j.d * e + k)
  boxRows s j.d id e k v ++
    ((List.range 3).flatMap fun q => rateRows s id e k v q (recast false true ((s.lib.applied[3 * id + q]?).getD 0).toNat)) ++
    sectorRows s id e k v ((allocLin s j e k).ref.getD 2 0) ++ [powerRow s id e k v (allocLin s j e k)]

/-- The thrusters of a problem with their entries and their linearisations at a step. -/
def allocStepLins (s : State) (j : CalJob) (k : Nat) : List (Nat × Nat × ThrLin) :=
  (structIds s j.d).zipIdx.map fun x => (x.1, x.2, allocLin s j x.2 k)

section
variable {s : State} {j : CalJob} {id e k g : Nat} {r : QpRow}

theorem allocQp_rows : (allocQp s j).rows =
    ((structIds s j.d).zipIdx.flatMap fun x => (List.range (dNStep j.d)).flatMap fun k => allocStepRows s j x.1 x.2 k) ++
      (List.range (dNStep j.d)).flatMap fun k => (List.range 8).filterMap fun g => groupRow s (dNStep j.d) g k (allocStepLins s j k) := rfl

theorem mem_allocQp_rows : r ∈ (allocQp s j).rows ↔
    (∃ e id k, (structIds s j.d)[e]? = some id ∧ k < dNStep j.d ∧ r ∈ allocStepRows s j id e k) ∨
    ∃ g k, g < 8 ∧ k < dNStep j.d ∧ groupRow s (dNStep j.d) g k (allocStepLins s j k) = some r := by
  simp only [allocQp_rows, List.mem_append, List.mem_flatMap, List.mem_filterMap, List.mem_range, Prod.exists,
    List.mem_zipIdx_iff_getElem?]
  refine or_congr ⟨?_, ?_⟩ ⟨?_, ?_⟩
  · rintro ⟨id, e, he, k, hk, hr⟩; exact ⟨e, id, k, he, hk, hr⟩
  · rintro ⟨e, id, k, he, hk, hr⟩; exact ⟨id, e, he, k, hk, hr⟩
  · rintro ⟨k, hk, g, hg, hr⟩; exact ⟨g, k, hg, hk, hr⟩
  · rintro ⟨g, k, hg, hk, hr⟩; exact ⟨k, hk, g, hg, hr⟩

theorem mem_rows_of_step (he : (structIds s j.d)[e]? = some id) (hk : k < dNStep j.d) (hr : r ∈ allocStepRows s j id e k) :
    r ∈ (allocQp s j).rows := mem_allocQp_rows.2 (.inl ⟨e, id, k, he, hk, hr⟩)

theorem sectorRow_shape (v az start stop : Nat) : let r := sectorRow e k v az start stop
    r.kind = .sector ∧ r.entry = e ∧ r.step = k ∧ r.soft = false :=
  iteInduction (motive := fun r : QpRow => r.kind = .sector ∧ r.entry = e ∧ r.step = k ∧ r.soft = false)
    (fun _ => ⟨rfl, rfl, rfl, rfl⟩) (fun _ => ⟨rfl, rfl, rfl, rfl⟩)

theorem sectorRows_shape {v az : Nat} (hr : r ∈ sectorRows s id e k v az) : r.kind = .sector ∧ r.soft = false := by
  obtain ⟨i, -, hi⟩ := List.mem_filterMap.1 hr
  split at hi
  · cases hi
  · cases hi
    obtain ⟨hkind, -, -, hsoft⟩ := sectorRow_shape (e := e) (k := k) v az (thrNum s id i) (thrNum s id (i + 1))
    exact ⟨hkind, hsoft⟩

/-- A thruster's rows at a step are of no power group, and soft where they limit the rate from the set-point in force. -/
theorem allocStepRows_shape (hr : r ∈ allocStepRows s j id e k) : r.kind ≠ .group ∧ (r.soft = true ↔ r.kind = .rate ∧ r.step = 0) := by
  simp only [allocStepRows, List.mem_append, List.mem_flatMap, List.mem_singleton] at hr
  rcases hr with ((hbox | ⟨q, -, hrate⟩) | hsector) | rfl
  · simp only [boxRows, List.mem_append] at hbox
    rcases hbox with (hbox | hbox) | hbox
    · simp only [List.mem_cons, List.not_mem_nil, or_false] at hbox
      rcases hbox with rfl | rfl <;> simp
    · simp only [List.mem_cons, List.not_mem_nil, or_false] at hbox
      rcases hbox with rfl | rfl <;> simp
    · split at hbox
      · simp at hbox
      · simp only [List.mem_cons, List.not_mem_nil, or_false] at hbox
        rcases hbox with rfl | rfl <;> simp
  · unfold rateRows at hrate
    split at hrate
    · simp at hrate
    · dsimp only at hrate
      split at hrate
      next h0 =>
        simp only [List.mem_cons, List.not_mem_nil, or_false] at hrate
        rcases hrate with rfl | rfl <;> simp [h0]
      next h0 =>
        simp only [List.mem_cons, List.not_mem_nil, or_false] at hrate
        rcases hrate with rfl | rfl <;> simp [h0]
  · obtain ⟨hkind, hsoft⟩ := sectorRows_shape hsector
    simp [hkind, hsoft]
  · simp [powerRow]

/-- A power group has its row exactly where its limit is not 0 and one of the thrusters belongs to it. -/
theorem groupRow_isSome_iff (steps : Nat) (xs : List (Nat × Nat × ThrLin)) : (groupRow s steps g k xs).isSome ↔
    cAbs true (recast false true ((s.lib.record[6 + g]?).getD 0).toNat) ≠ 0 ∧ ∃ x ∈ xs, (thrWord s x.1 13).toNat = g := by
  unfold groupRow
  dsimp only
  split
  next h =>
    simp only [List.filter_eq_nil_iff, decide_eq_true_eq] at h
    simp only [Option.isSome_none, Bool.false_eq_true, false_iff, not_and, not_exists]
    exact fun h0 x hx => h.resolve_left h0 x hx
  next h =>
    simp only [List.filter_eq_nil_iff, decide_eq_true_eq, not_or, not_forall, not_not] at h
    obtain ⟨h0, x, hx, hg⟩ := h
    simp only [Option.isSome_some, true_iff]
    exact ⟨h0, x, hx, hg⟩

theorem groupRow_shape {steps : Nat} {xs : List (Nat × Nat × ThrLin)} (h : groupRow s steps g k xs = some r) :
    r.kind = .group ∧ r.entry = g ∧ r.step = k ∧ r.soft = false := by
  unfold groupRow at h
  dsimp only at h
  split at h
  · cases h
  · cases h; exact ⟨rfl, rfl, rfl, rfl⟩

/-- The thrusters of a step are those of the structure table. -/
theorem exists_mem_allocStepLins {p : Nat → Prop} : (∃ x ∈ allocStepLins s j k, p x.1) ↔ ∃ id ∈ structIds s j.d, p id := by
  constructor
  · rintro ⟨x, hx, hp⟩
    obtain ⟨y, hy, rfl⟩ := List.mem_map.1 hx
    exact ⟨y.1, List.mem_of_getElem? (List.mem_zipIdx_iff_getElem?.1 hy), hp⟩
  · rintro ⟨id, hid, hp⟩
    obtain ⟨e, he⟩ := List.mem_iff_getElem?.1 hid
    exact ⟨_, List.mem_map_of_mem (List.mem_zipIdx_iff_getElem?.2 he : (id, e) ∈ _), hp⟩

theorem mem_allocStepRows_box (h : r ∈ boxRows s j.d id e k (3 * (dNStep j.d * e + k))) : r ∈ allocStepRows s j id e k := by
  simp only [allocStepRows, List.mem_append]; exact .inl (.inl (.inl h))

/-- The rate limits of a thruster's rpm are among its rows. -/
theorem mem_allocStepRows_rate (h : r ∈ rateRows s id e k (3 * (dNStep j.d * e + k)) 0
    (recast false true ((s.lib.applied[3 * id]?).getD 0).toNat)) : r ∈ allocStepRows s j id e k := by
  simp only [allocStepRows, List.mem_append, List.mem_flatMap, List.mem_range]
  exact .inl (.inl (.inr ⟨0, by omega, h⟩))

theorem rateRows_rpm_first (v held : Nat) : rateRows s id e 0 v 0 held =
    let lim := cMul true (thrNum s id 5) 0x3F947AE147AE147B
    [⟨.rate, e, 0, [(v, cOne true)], cAdd true held lim, true⟩,
      ⟨.rate, e, 0, [(v, cNeg true (cOne true))], cSub true lim held, true⟩] := rfl

theorem rateRows_rpm_later (hk : 0 < k) (v held : Nat) : rateRows s id e k v 0 held =
    let lim := cMul true (thrNum s id 5) 0x3F947AE147AE147B
    [⟨.rate, e, k, [(v, cOne true), (v - 3, cNeg true (cOne true))], lim, false⟩,
      ⟨.rate, e, k, [(v, cNeg true (cOne true)), (v - 3, cOne true)], lim, false⟩] :=
  if_neg (Nat.ne_of_gt hk)

/-- A sector in force has its half-plane at every step. -/
theorem exists_sectorRow {i : Nat} (hi : i ∈ [8, 10]) (h : thrWord s id i ≠ thrWord s id (i + 1)) :
    ∃ r ∈ allocStepRows s j id e k, r.kind = .sector ∧ r.entry = e ∧ r.step = k := by
  refine ⟨sectorRow e k (3 * (dNStep j.d * e + k)) ((allocLin s j e k).ref.getD 2 0) (thrNum s id i) (thrNum s id (i + 1)), ?_, ?_⟩
  · simp only [allocStepRows, List.mem_append, sectorRows, List.mem_filterMap]
    exact .inl (.inr ⟨i, hi, if_neg h⟩)
  · obtain ⟨hkind, hentry, hstep, -⟩ := sectorRow_shape (e := e) (k := k) (3 * (dNStep j.d * e + k))
      ((allocLin s j e k).ref.getD 2 0) (thrNum s id i) (thrNum s id (i + 1))
    exact ⟨hkind, hentry, hstep⟩

theorem exists_powerRow : ∃ r ∈ allocStepRows s j id e k, r.kind = .power ∧ r.entry = e ∧ r.step = k ∧ r.soft = false :=
  ⟨powerRow s id e k (3 * (dNStep j.d * e + k)) (allocLin s j e k), by simp [allocStepRows], rfl, rfl, rfl, rfl⟩

/-- A power group has its row at a step exactly where it is in use. -/
theorem exists_group_row (hg : g < 8) (hk : k < dNStep j.d) :
    (∃ r ∈ (allocQp s j).rows, r.kind = .group ∧ r.entry = g ∧ r.step = k) ↔
      cAbs true (recast false true ((s.lib.record[6 + g]?).getD 0).toNat) ≠ 0 ∧ ∃ id ∈ structIds s j.d, (thrWord s id 13).toNat = g := by
  rw [← exists_mem_allocStepLins (s := s) (j := j) (k := k) (p := fun id => (thrWord s id 13).toNat = g),
    ← groupRow_isSome_iff (k := k) (dNStep j.d), Option.isSome_iff_exists]
  constructor
  · rintro ⟨r, hr, hkind, hentry, hstep⟩
    rcases mem_allocQp_rows.1 hr with ⟨e, id, k', -, -, hrow⟩ | ⟨g', k', -, -, hrow⟩
    · exact absurd hkind (allocStepRows_shape hrow).1
    · obtain ⟨-, rfl, rfl, -⟩ := groupRow_shape hrow
      rw [← hentry, ← hstep]
      exact ⟨r, hrow⟩
  · rintro ⟨r, hr⟩
    obtain ⟨hkind, hentry, hstep, -⟩ := groupRow_shape hr
    exact ⟨r, mem_allocQp_rows.2 (.inr ⟨g, k, hg, hk, hr⟩), hkind, hentry, hstep⟩

theorem allocQp_ref_length : (allocQp s j).ref.length = 3 * dNStep j.d * (structIds s j.d).length := by
  have : (allocQp s j).ref = (allocLins s j).flatMap fun l => l.flatMap (·.ref) := rfl
  rw [this]
  simp [allocLins, List.flatMap_map, thrLin, List.length_flatMap]
  ring

theorem allocQp_force_length : (allocQp s j).force.length = 3 * dNStep j.d * (structIds s j.d).length := by
  have : (allocQp s j).force = (allocLins s j).flatMap fun l => l.flatMap (·.slopes) := rfl
  rw [this]
  simp [allocLins, List.flatMap_map, thrLin, List.length_flatMap]
  ring

end

/-- The problem the library builds is the one R175 states. -/
theorem allocProblem_allocQp (s : State) (j : CalJob) : AllocProblem s j (allocQp s j) := by
  refine ⟨rfl, rfl, allocQp_ref_length, allocQp_force_length, fun r hr => ?_, rfl, fun e id k he hk => ?_,
    fun g k hg hk => exists_group_row hg hk⟩
  · rcases mem_allocQp_rows.1 hr with ⟨e, id, k, -, -, hstep⟩ | ⟨g, k, -, -, hgroup⟩
    · exact (allocStepRows_shape hstep).2
    · obtain ⟨hkind, -, -, hsoft⟩ := groupRow_shape hgroup
      simp [hkind, hsoft]
  · have inBox {r : QpRow} (h : r ∈ boxRows s j.d id e k (3 * (dNStep j.d * e + k))) : r ∈ (allocQp s j).rows :=
      mem_rows_of_step he hk (mem_allocStepRows_box h)
    have inRate {r : QpRow} (h : r ∈ rateRows s id e k (3 * (dNStep j.d * e + k)) 0
        (recast false true ((s.lib.applied[3 * id]?).getD 0).toNat)) : r ∈ (allocQp s j).rows :=
      mem_rows_of_step he hk (mem_allocStepRows_rate h)
    refine ⟨inBox ?_, inBox ?_, inBox ?_, inBox ?_, fun h0 => ⟨inRate ?_, inRate ?_⟩, fun h0 => ⟨inRate ?_, inRate ?_⟩,
      fun i hi hne => ?_, ?_⟩
    · simp [boxRows]
    · simp [boxRows]
    · simp [boxRows]
    · simp [boxRows]
    · rw [rateRows_rpm_later h0]; exact List.mem_cons_self
    · rw [rateRows_rpm_later h0]; exact List.mem_cons_of_mem _ List.mem_cons_self
    · subst h0; rw [rateRows_rpm_first]; exact List.mem_cons_self
    · subst h0; rw [rateRows_rpm_first]; exact List.mem_cons_of_mem _ List.mem_cons_self
    · obtain ⟨r, hr, h⟩ := exists_sectorRow (s := s) (j := j) (id := id) (e := e) (k := k) hi hne
      exact ⟨r, mem_rows_of_step he hk hr, h⟩
    · obtain ⟨r, hr, h⟩ := exists_powerRow (s := s) (j := j) (id := id) (e := e) (k := k)
      exact ⟨r, mem_rows_of_step he hk hr, h⟩

/-! ## The input block at t0, stage by stage (R40, R73, R74) -/

/-- Nothing changes but the library's words, DRAM, the marks and reservations that its writes touch, the snapshot part held, and the
registers that `p` names. -/
def SampleEffect (p : Nat → Prop) (s t : State) : Prop :=
  t = { s with lib := t.lib, dram := t.dram, dramBad := t.dramBad, cores := t.cores, regs := t.regs,
               pair := { s.pair with dirty := t.pair.dirty, inBlk := t.pair.inBlk } } ∧ RegsBut p s t

/-- The registers that the stages after the block write: the count of dirty pages and the arm slots' configuration. -/
def SampleReg (a : Nat) : Prop := a = Reg.PAIR_MST_DIRTY ∨ ∃ k, a = Reg.CAL_ARM_CFG k

section
variable {p q : Nat → Prop} {s t u : State}

theorem SampleEffect.refl (s : State) : SampleEffect p s s := ⟨rfl, fun _ _ => rfl⟩

theorem SampleEffect.trans (h : SampleEffect p s t) (h' : SampleEffect p t u) : SampleEffect p s u := by
  refine ⟨h'.1.trans ?_, h.2.trans h'.2⟩
  rw [h.1]

theorem SampleEffect.mono (h : SampleEffect p s t) (hpq : ∀ a, p a → q a) : SampleEffect q s t :=
  ⟨h.1, fun a ha => h.2 a (ha ∘ hpq a)⟩

theorem DramEffect.sample (h : DramEffect s t) : SampleEffect (· = Reg.PAIR_MST_DIRTY) s t := ⟨by rw [h.1], h.2⟩

theorem modLib_sampleEffect (s : State) (f : LibSt → LibSt) : SampleEffect p s (s.modLib f) := ⟨rfl, fun _ _ => rfl⟩

end

section
variable (s : State) (rec reports k : Nat)

/-! ### The configuration record (R173) -/

theorem dropPlan_sampleEffect : SampleEffect (· = Reg.PAIR_MST_DIRTY) s s.dropPlan ∧ ∃ f, s.dropPlan.lib = { s.lib with fresh := f } := by
  have writes (ds : List (Nat × List Word)) : DramEffect s (ds.foldl (fun s x => s.dmaPut ((dwAt x.2 6).toNat + 0x18) [0]) s) :=
    foldl_rel .refl .trans (fun u x => dmaPut_dramEffect u _ _) ds s
  unfold State.dropPlan
  split
  · exact ⟨modLib_sampleEffect .., true, rfl⟩
  · exact ⟨(writes _).sample.trans (modLib_sampleEffect ..), false,
      congrArg (fun l : LibSt => { l with fresh := false }) (writes _).lib⟩

/-- A record given at an address that is no multiple of 64 is not taken (R173): at most the stored plan is dropped. -/
theorem takeRecord_unaligned (h : rec % 64 ≠ 0) : s.takeRecord rec = if s.lib.fresh then s.dropPlan else s := by
  unfold State.takeRecord
  simp [h, recordOk]

theorem takeRecord_sampleEffect (h : rec % 64 ≠ 0) :
    SampleEffect (· = Reg.PAIR_MST_DIRTY) s (s.takeRecord rec) ∧ ∃ f, (s.takeRecord rec).lib = { s.lib with fresh := f } := by
  rw [takeRecord_unaligned s rec h]
  split
  · exact dropPlan_sampleEffect s
  · exact ⟨.refl s, s.lib.fresh, rfl⟩

/-! ### The library's jobs (R41, R42, R72, R173, R175) -/

theorem placeJobs_dramEffect : DramEffect s s.placeJobs := by
  unfold State.placeJobs
  split
  · exact .refl s
  · refine foldl_rel .refl .trans (fun u _ => ?_) _ s
    split
    · split
      · exact (dmaPut_dramEffect ..).trans (dmaPut_dramEffect ..)
      · exact .refl u
    · exact .refl u

theorem setBit_sampleEffect (b : Bool) : SampleEffect SampleReg s (s.setBit (Reg.CAL_ARM_CFG k) 0 b) :=
  ⟨rfl, fun _ ha => rd_setBit_other _ _ _ fun e => ha (.inr ⟨k, e⟩)⟩

theorem buildQp_sampleEffect : SampleEffect SampleReg s (s.buildQp k) ∧ ∃ x, (s.buildQp k).lib = { s.lib with qp := x } := by
  unfold State.buildQp
  split
  · exact ⟨.refl s, s.lib.qp, rfl⟩
  · exact ⟨modLib_sampleEffect .., _, rfl⟩

/-- The job's inputs are written, then its problem is built: the arm slot is on again. -/
theorem armed_sampleEffect {u : State}
    (h : DramEffect ((s.setBit (Reg.CAL_ARM_CFG k) 0 true).modLib fun l => { l with unarmed := none }) u) :
    SampleEffect SampleReg s (u.buildQp k) ∧ ∃ x n, (u.buildQp k).lib = { s.lib with qp := x, unarmed := n } := by
  obtain ⟨heff, x, hlib⟩ := buildQp_sampleEffect u k
  refine ⟨(((setBit_sampleEffect s k true).trans (modLib_sampleEffect ..)).trans (h.sample.mono fun _ => .inl)).trans heff, x, none, ?_⟩
  exact hlib.trans (congrArg (fun l : LibSt => { l with qp := x }) h.lib)

theorem buildAlloc_sampleEffect :
    SampleEffect SampleReg s s.buildAlloc ∧ ∃ x n, s.buildAlloc.lib = { s.lib with qp := x, unarmed := n } := by
  unfold State.buildAlloc
  split
  · exact ⟨modLib_sampleEffect .., none, s.lib.unarmed, rfl⟩
  next k d _ =>
    split
    · exact ⟨(setBit_sampleEffect ..).trans (modLib_sampleEffect ..), none, some k, rfl⟩
    · refine armed_sampleEffect s k ?_
      have writes {v : State} (a₁ a₂ a₃ : Nat) (ws₁ ws₂ ws₃ : List Word) :
          DramEffect v (((v.dmaPut a₁ ws₁).dmaPut a₂ ws₂).dmaPut a₃ ws₃) :=
        ((dmaPut_dramEffect ..).trans (dmaPut_dramEffect ..)).trans (dmaPut_dramEffect ..)
      split
      · exact writes ..
      · exact (writes ..).trans (dmaPut_dramEffect ..)


/-! ### The set of thrusters and the target (R59, R71, R72) -/

/-- The set that fixSet leaves, as a mask. -/
def fixedThr : Nat := (((fittedIds s.lib.record).filter fun id => wbit (inW s 20) id && fbit reports id).map (2 ^ ·)).sum

theorem fixSet_eq : s.fixSet reports = s.modLib fun l => { l with
    prevThr := l.thr, thr := fixedThr s reports, remap := decide (fixedThr s reports ≠ l.thr), emptySet := decide (fixedThr s reports = 0) } :=
  rfl

/-- A thruster is in the set where it is fitted, allowed by THR_AVAIL and reported by its drive node. -/
theorem fbit_fixedThr (id : Nat) :
    fbit (fixedThr s reports) id = true ↔ id ∈ fittedIds s.lib.record ∧ wbit (inW s 20) id = true ∧ fbit reports id = true := by
  have sorted : ((fittedIds s.lib.record).filter fun id => wbit (inW s 20) id && fbit reports id).SortedLT :=
    (List.pairwise_lt_range.filter _ |>.filter _).sortedLT
  rw [fbit_eq, ← Nat.mem_bitIndices, fixedThr, Nat.bitIndices_sum_map_two_pow sorted, List.mem_filter, Bool.and_eq_true]

/-- The mode that a track no longer confirmed leaves (R59). -/
def heldMode : Nat := if s.lib.mode = 6 ∧ trkState s ((inW s 26).toNat % 128) ≠ 2 then 3 else s.lib.mode

theorem targetLost_eq : ∃ b, s.targetLost = s.modLib fun l => { l with mode := heldMode s, lost := b } := by
  unfold State.targetLost heldMode
  split
  · exact ⟨true, rfl⟩
  · exact ⟨s.lib.lost, rfl⟩

/-! ### The stages after the block -/

/-- The library holds TRACK_PTR as sampled at t0 (R57). -/
def State.sampleTrack : State := s.modLib fun l => { l with trackPtr := (inD s 24).toNat }

/-- What follows the block: the record, TRACK_PTR, the target, the set of thrusters and the jobs. -/
def State.sampleRest : State :=
  ((((((s.modPair fun p => { p with inBlk := none }).takeRecord rec).sampleTrack).targetLost).fixSet reports).placeJobs).buildAlloc

theorem inW_congr {t : State} (h : t.lib.input = s.lib.input) (i : Nat) : inW t i = inW s i := by simp only [inW, h]

theorem inD_congr {t : State} (h : t.lib.input = s.lib.input) (i : Nat) : inD t i = inD s i := by simp only [inD, inW_congr s h]

theorem trkState_congr {t : State} {n : Nat} (h : t.rd (Reg.FSN_TRK_W n 0) = s.rd (Reg.FSN_TRK_W n 0)) :
    trkState t n = trkState s n := bits_eq_of_rd h 1 0

/-- The library's words after those stages: the block as it stood, TRACK_PTR, the mode a lost target leaves, and the set of thrusters. -/
theorem lib_sampleRest (h : rec % 64 ≠ 0) : ∃ f b x n, (s.sampleRest rec reports).lib = { s.lib with
    fresh := f, trackPtr := (inD s 24).toNat, mode := heldMode s, lost := b, prevThr := s.lib.thr, thr := fixedThr s reports,
    remap := decide (fixedThr s reports ≠ s.lib.thr), emptySet := decide (fixedThr s reports = 0), qp := x, unarmed := n } := by
  obtain ⟨⟨-, hregs⟩, f, hrec⟩ := takeRecord_sampleEffect (s.modPair fun p => { p with inBlk := none }) rec h
  unfold State.sampleRest
  generalize (s.modPair fun p => { p with inBlk := none }).takeRecord rec = u at hregs hrec
  have hinput : u.lib.input = s.lib.input := by rw [hrec]; rfl
  have htrack : u.sampleTrack.lib = { s.lib with fresh := f, trackPtr := (inD s 24).toNat } := by
    rw [State.sampleTrack, inD_congr s hinput, State.modLib_lib, hrec]; rfl
  have hmode : heldMode u.sampleTrack = heldMode s := by
    have htrk (n : Nat) : trkState u.sampleTrack n = trkState s n := by
      refine trkState_congr s (hregs _ fun e => ?_)
      have : 0x200603000 + 0x40 * n + 0x4 * 0 = 0x200a000ec := e
      omega
    simp only [heldMode, htrk, htrack, inW_congr s (t := u.sampleTrack) hinput]
  obtain ⟨b, hlost⟩ := targetLost_eq u.sampleTrack
  rw [hmode] at hlost
  have hheld : u.sampleTrack.targetLost.lib =
      { s.lib with fresh := f, trackPtr := (inD s 24).toNat, mode := heldMode s, lost := b } := by
    rw [hlost, State.modLib_lib, htrack]
  have hthr : fixedThr u.sampleTrack.targetLost reports = fixedThr s reports := by
    simp only [fixedThr, inW_congr s (t := u.sampleTrack.targetLost) (by rw [hheld]), hheld]
  obtain ⟨-, x, n, halloc⟩ := buildAlloc_sampleEffect ((u.sampleTrack.targetLost.fixSet reports).placeJobs)
  refine ⟨f, b, x, n, ?_⟩
  rw [halloc, (placeJobs_dramEffect _).lib, fixSet_eq, State.modLib_lib, hthr, hheld]

theorem sampleRest_sampleEffect (h : rec % 64 ≠ 0) : SampleEffect SampleReg s (s.sampleRest rec reports) := by
  unfold State.sampleRest
  have hrec := (takeRecord_sampleEffect (s.modPair fun p => { p with inBlk := none }) rec h).1
  have htarget (u : State) : SampleEffect SampleReg u u.targetLost := by
    obtain ⟨b, hb⟩ := targetLost_eq u
    rw [hb]
    exact modLib_sampleEffect ..
  have hpart : SampleEffect SampleReg s (s.modPair fun p => { p with inBlk := none }) := ⟨rfl, fun _ _ => rfl⟩
  refine hpart.trans ((hrec.mono fun _ => .inl).trans ?_)
  generalize (s.modPair fun p => { p with inBlk := none }).takeRecord rec = u
  exact ((((modLib_sampleEffect ..).trans (htarget _)).trans (modLib_sampleEffect ..)).trans
    ((placeJobs_dramEffect _).sample.mono fun _ => .inl)).trans (buildAlloc_sampleEffect _).1

/-! ### The stage done (R40) -/

/-- A stage that was due is not due any more. -/
theorem stageDone_due (h : stageDue s k = true) : (s.stageDone k).lib.due = s.lib.due - 2 ^ k := by
  simp only [stageDue] at h
  simp [State.stageDone, h]

theorem fbit_sub_pow {n : Nat} (h : fbit n k = true) : fbit (n - 2 ^ k) k = false := by
  simp only [fbit, beq_iff_eq, beq_eq_false_iff_ne] at h ⊢
  have hquot : (n - 2 ^ k) / 2 ^ k = n / 2 ^ k - 1 := by simpa using Nat.sub_mul_div n (2 ^ k) 1
  omega

/-! ### The block itself (R51, R53, R56, R73) -/

theorem wAt_map_range (f : Nat → Word) {n i : Nat} (h : i < n) : wAt ((List.range n).map f) i = f i := by
  simp [wAt, h]

/-- The stage has begun: it is not due any more, and last cycle's flags are clear. -/
def State.sampleStart : State :=
  (s.stageDone 0).modLib fun l => { l with badParam := false, pubLate := false, lawOvr := false }

/-- The block is copied; what MODE_REQ asks for is not yet judged. -/
def State.blockCopied : State :=
  s.modLib fun l => { l with badParam := inBad s (inRaw s), input := inMerge s (inRaw s),
                             lost := l.lost && !decide ([2, 3, 4, 5, 6, 7].map (wAt (inRaw s)) ≠ [2, 3, 4, 5, 6, 7].map (inW s)) }

/-- Is there a new request, both of whose reads have the same sequence number (R51)? -/
def newRequest (first : Option Word) : Prop :=
  (∀ w, first = some w → w.toNat / 65536 = (wAt (inRaw s) 0).toNat / 65536) ∧ (wAt (inRaw s) 0).toNat / 65536 ≠ s.lib.reqSeq

theorem takeBlock_new {first : Option Word} (h : newRequest s first) : s.takeBlock first = s.blockCopied.modeRequest (inRaw s) := by
  obtain ⟨hfirst, hseq⟩ := h
  unfold State.takeBlock
  dsimp only
  rw [if_pos]
  · rfl
  · cases first with
    | none => simpa using hseq
    | some w => simpa [hfirst w rfl] using hseq

theorem takeBlock_old {first : Option Word} (h : ¬newRequest s first) : s.takeBlock first = s.blockCopied := by
  unfold State.takeBlock
  dsimp only
  rw [if_neg]
  · rfl
  · intro hnew
    rw [Bool.and_eq_true] at hnew
    obtain ⟨hfirst, hseq⟩ := hnew
    refine h ⟨fun w hw => ?_, by simpa using hseq⟩
    subst hw
    simpa using hfirst

/-- Nothing changes but what a request decides: its answer, the mode and its marks, and ARM. -/
def RequestEffect (s t : State) : Prop :=
  t = { s with regs := t.regs, lib := { s.lib with
    lost := t.lib.lost, reqSeq := t.lib.reqSeq, result := t.lib.result, mode := t.lib.mode, engage := t.lib.engage,
    trackEnd := t.lib.trackEnd, handover := t.lib.handover } } ∧
  RegsBut (· = Reg.UPD_ACT_CTL) s t

theorem RequestEffect.trans {s t u : State} (h : RequestEffect s t) (h' : RequestEffect t u) : RequestEffect s u := by
  refine ⟨h'.1.trans ?_, h.2.trans h'.2⟩
  rw [h.1]

theorem disarm_requestEffect (m : Nat) : RequestEffect s (s.disarm m) := by
  unfold State.disarm State.ifOn
  split
  · exact ⟨rfl, fun _ _ => rfl⟩
  · split
    · exact ⟨rfl, fun _ ha => rd_setBit_other _ _ _ ha⟩
    · exact ⟨rfl, fun _ _ => rfl⟩

@[simp] theorem disarm_lib (m : Nat) : (s.disarm m).lib = s.lib := by
  unfold State.disarm State.ifOn
  split
  · rfl
  · split <;> rfl

/-- An engagement clears ARM (R438). -/
theorem bit_disarm {m : Nat} (hm : m ≠ 0) (hon : s.domOn 12 = true) : (s.disarm m).bit Reg.UPD_ACT_CTL 1 = false := by
  rw [State.disarm, if_neg hm, ifOn_on _ hon]
  exact bit_setBit _ _ (by decide)

section
variable (raw : List Word)

/-- The request is noted with its answer. -/
def State.requestNoted : State :=
  s.modLib fun l => { l with reqSeq := (wAt raw 0).toNat / 65536, result := reqResult s raw ((wAt raw 0).toNat % 8) }

theorem modeRequest_rejected (h : reqResult s raw ((wAt raw 0).toNat % 8) ≠ 0) : s.modeRequest raw = s.requestNoted raw :=
  if_pos h

theorem modeRequest_accepted (h : reqResult s raw ((wAt raw 0).toNat % 8) = 0) :
    let m := (wAt raw 0).toNat % 8
    s.modeRequest raw = ((s.requestNoted raw).disarm m).modLib fun l =>
      { l with mode := m, engage := some m, lost := false, trackEnd := false, handover := if m ≤ 1 then false else l.handover } :=
  if_neg (not_not.2 h)

theorem modeRequest_accepted_words (h : reqResult s raw ((wAt raw 0).toNat % 8) = 0) :
    let m := (wAt raw 0).toNat % 8
    let t := s.modeRequest raw
    t.lib.reqSeq = (wAt raw 0).toNat / 65536 ∧ t.lib.result = 0 ∧ t.lib.mode = m ∧ t.lib.engage = some m ∧
    (m ≠ 0 → s.domOn 12 = true → t.bit Reg.UPD_ACT_CTL 1 = false) := by
  dsimp only
  rw [modeRequest_accepted s raw h]
  have hnoted := disarm_lib (s.requestNoted raw) ((wAt raw 0).toNat % 8)
  exact ⟨congrArg LibSt.reqSeq hnoted, (congrArg LibSt.result hnoted).trans h, rfl, rfl, fun hm hon => bit_disarm _ hm hon⟩

theorem modeRequest_requestEffect : RequestEffect s (s.modeRequest raw) := by
  have noted : RequestEffect s (s.requestNoted raw) := ⟨rfl, fun _ _ => rfl⟩
  by_cases h : reqResult s raw ((wAt raw 0).toNat % 8) = 0
  · rw [modeRequest_accepted s raw h]
    exact (noted.trans (disarm_requestEffect ..)).trans ⟨rfl, fun _ _ => rfl⟩
  · rw [modeRequest_rejected s raw h]
    exact noted

/-- TARGET is accepted while its track is confirmed (R51). -/
theorem reqResult_target (h : reqResult s raw 6 = 0) : trkState s ((wAt raw 26).toNat % 128) = 2 := by
  by_contra hne
  by_cases hd : 2 < libDegr s
  · simp [reqResult, hd] at h
  · by_cases hr : rampOk raw = true <;> simp [reqResult, hd, hr, hne] at h

end

/-- The block's values are in force, where the module takes a block. -/
def State.sampleCopied : State := if takesInput s then s.sampleStart.blockCopied else s.sampleStart

/-- The state after the block and its request. -/
def State.sampleBlock (first : Option Word) : State :=
  if takesInput s then s.sampleStart.takeBlock first else s.sampleStart

theorem libSample_due (first : Option Word) (h : stageDue s 0 = true) :
    libSample rec reports first s = (s.sampleBlock first).sampleRest rec reports := by
  unfold libSample
  rw [if_neg (by simp [h])]
  rfl

theorem sampleBlock_requestEffect (first : Option Word) : RequestEffect s.sampleCopied (s.sampleBlock first) := by
  unfold State.sampleBlock State.sampleCopied
  split
  · by_cases h : newRequest s.sampleStart first
    · rw [takeBlock_new _ h]
      exact modeRequest_requestEffect ..
    · rw [takeBlock_old _ h]
      exact ⟨rfl, fun _ _ => rfl⟩
  · exact ⟨rfl, fun _ _ => rfl⟩

theorem sampleBlock_sampleEffect (first : Option Word) : SampleEffect (· = Reg.UPD_ACT_CTL) s (s.sampleBlock first) := by
  have hstart : SampleEffect (· = Reg.UPD_ACT_CTL) s s.sampleStart := (modLib_sampleEffect ..).trans (modLib_sampleEffect ..)
  have hcopied : SampleEffect (· = Reg.UPD_ACT_CTL) s s.sampleCopied := by
    unfold State.sampleCopied
    split
    · exact hstart.trans (modLib_sampleEffect ..)
    · exact hstart
  obtain ⟨heq, hregs⟩ := sampleBlock_requestEffect s first
  exact hcopied.trans ⟨by rw [heq], hregs⟩

theorem inRaw_sampleStart : inRaw s.sampleStart = inRaw s := rfl

theorem inMerge_sampleStart (raw : List Word) : inMerge s.sampleStart raw = inMerge s raw := rfl

theorem sampleBlock_dram (first : Option Word) : (s.sampleBlock first).dram = s.dram := by
  rw [(sampleBlock_requestEffect s first).1]
  unfold State.sampleCopied
  split <;> simp only [State.blockCopied, State.sampleStart, State.stageDone, State.modLib_dram]

/-- What the block leaves alone, and the inputs in force after it. -/
theorem sampleBlock_words (first : Option Word) : let l := (s.sampleBlock first).lib
    l.due = (s.stageDone 0).lib.due ∧ l.record = s.lib.record ∧ l.thr = s.lib.thr ∧ l.fresh = s.lib.fresh ∧
    l.unarmed = s.lib.unarmed ∧ l.input = if takesInput s then inMerge s (inRaw s) else s.lib.input := by
  dsimp only
  rw [(sampleBlock_requestEffect s first).1]
  unfold State.sampleCopied
  split
  · refine ⟨rfl, rfl, rfl, rfl, rfl, ?_⟩
    rw [← inMerge_sampleStart, ← inRaw_sampleStart]
    rfl
  · exact ⟨rfl, rfl, rfl, rfl, rfl, rfl⟩

end

/-! ### The job's arm slot while the library names tiles (R41, R166) -/

section
variable (s : State)

/-- KIND of the descriptor at `x` × 256: the low bits of its first byte (R165). -/
def descKind (x : Nat) : Nat := (sget zeroByte s.dram (256 * x)).toNat % 8

theorem memRd_word_mod_eight (m : SMap Byte) (o : Nat) : memRd zeroByte m o 4 % 8 = (sget zeroByte m o).toNat % 8 := by
  rw [memRd]; omega

theorem readDesc_kind {x : Nat} {d : List Word} (h : readDesc s x = some d) : (d.getD 0 0).toNat % 8 = descKind s x := by
  unfold readDesc at h
  split at h
  · cases h
    have hfirst : ((s.dramWords (dramBase + x * 256) 32).getD 0 0).toNat = memRd zeroByte s.dram (dramBase + x * 256 - dramBase) 4 % 2 ^ 32 :=
      BitVec.toNat_ofNat ..
    have hkind := memRd_word_mod_eight s.dram (256 * x)
    rw [hfirst, Nat.add_sub_cancel_left, Nat.mul_comm x, descKind, ← hkind]
    omega
  · cases h

theorem readDesc_isSome {x : Nat} : (readDesc s x).isSome = inDram (dramBase + x * 256) 128 := by
  cases h : inDram (dramBase + x * 256) 128 <;> simp [readDesc, h]

/-- Arm slot `k` names an allocation job on channel 4. -/
def isAllocSlot (k : Nat) : Bool :=
  let x := s.bits (Reg.CAL_ARM_DESC k) 22 0
  s.bits (Reg.CAL_ARM_CFG k) 7 4 == 4 && (inDram (dramBase + x * 256) 128 && descKind s x == 1)

theorem allocSlots_fst (hon : s.domOn 5 = true) : (allocSlots s).map Prod.fst = (List.range 8).filter (isAllocSlot s) := by
  unfold allocSlots
  rw [if_neg (by simp [hon]), List.map_filterMap, ← List.filterMap_eq_filter]
  congr 1
  funext k
  have hin := readDesc_isSome s (x := s.bits (Reg.CAL_ARM_DESC k) 22 0)
  simp only [Option.guard, isAllocSlot]
  by_cases hcfg : s.bits (Reg.CAL_ARM_CFG k) 7 4 = 4
  · cases hd : readDesc s (s.bits (Reg.CAL_ARM_DESC k) 22 0) with
    | none => simp [hcfg, ← hin, hd]
    | some d =>
      have hkind := readDesc_kind s hd
      simp only [hcfg, if_true, hkind]
      by_cases h1 : descKind s (s.bits (Reg.CAL_ARM_DESC k) 22 0) = 1 <;> simp [h1, ← hin, hd]
  · simp [hcfg]

theorem allocSlot_fst (hon : s.domOn 5 = true) : (allocSlot s).map Prod.fst =
    ((List.range 8).filter (isAllocSlot s)).find? fun k => s.bit (Reg.CAL_ARM_CFG k) 0 || s.lib.unarmed == some k := by
  rw [← allocSlots_fst s hon, List.find?_map]
  rfl

variable {s} in
/-- The slot depends on the arm registers, on the kinds of the descriptors and on the slot disarmed. -/
theorem allocSlot_fst_congr {t : State} (hon : s.domOn 5 = true) (hon' : t.domOn 5 = true)
    (hcfg : ∀ k, t.rd (Reg.CAL_ARM_CFG k) = s.rd (Reg.CAL_ARM_CFG k))
    (hdesc : ∀ k, t.rd (Reg.CAL_ARM_DESC k) = s.rd (Reg.CAL_ARM_DESC k)) (hkind : ∀ x, descKind t x = descKind s x)
    (hunarmed : t.lib.unarmed = s.lib.unarmed) : (allocSlot t).map Prod.fst = (allocSlot s).map Prod.fst := by
  have hslot : isAllocSlot t = isAllocSlot s := by
    funext k
    simp only [isAllocSlot, hkind, bits_eq_of_rd (hcfg k), bits_eq_of_rd (hdesc k)]
  rw [allocSlot_fst s hon, allocSlot_fst t hon', hslot, hunarmed]
  simp only [bit_eq_of_rd (hcfg _)]

/-! Naming a job's tiles writes bits 7:4 of its descriptor's first word, and its region words. -/

theorem descKind_region (a x b n : Nat) :
    descKind (s.dmaPut (dramBase + a * 256 + 0x30) [BitVec.ofNat 32 b, BitVec.ofNat 32 n]) x = descKind s x := by
  simp only [descKind]
  rw [sget_dmaPut_out]
  simp only [List.length_cons, List.length_nil]
  omega

theorem descKind_tiles {a : Nat} {d : List Word} (h : readDesc s a = some d) (v x : Nat) :
    descKind (s.dmaPut (dramBase + a * 256) [wset (wAt d 0) 7 4 v]) x = descKind s x := by
  simp only [descKind]
  by_cases hx : x = a
  · subst hx
    have hkind : (wset (wAt d 0) 7 4 v).toNat % 8 = descKind s x := by
      have hfield := wbits_wset_other (w := wAt d 0) (v := v) (h := 2) (l := 0) (.inl (by decide)) (by decide : 4 ≤ 7) (by decide)
      simp only [wbits, fget, Nat.pow_zero, Nat.div_one] at hfield
      have hold := readDesc_kind s h
      exact hfield.trans hold
    rw [dmaPut_dram]
    split
    · simp only [memPut, Nat.add_sub_cancel_left, Nat.mul_comm x]
      rw [sget_memWr, if_pos (by omega)]
      simp only [Nat.sub_self, Nat.pow_zero, Nat.div_one, BitVec.toNat_ofNat]
      rw [← descKind, ← hkind]
      omega
    · rfl
  · rw [sget_dmaPut_out]
    simp only [List.length_cons, List.length_nil]
    omega

theorem placeJobs_descKind (x : Nat) : descKind s.placeJobs x = descKind s x := by
  unfold State.placeJobs
  split
  · rfl
  · refine foldl_rel (R := fun u v => descKind v x = descKind u x) (fun _ => rfl) (fun h h' => h'.trans h) (fun u a => ?_) _ s
    split
    next d hd =>
      split
      next t _ => exact (descKind_region ..).trans (descKind_tiles u hd _ x)
      · rfl
    · rfl

end

/-! ### What the stage leads to -/

section
variable {s : State} {rec reports : Nat} {first : Option Word}

theorem takesInput_iff : takesInput s = true ↔
    (holder s = true ∧ s.pair.cont = none) ∨ (twinNow s = true ∧ s.pair.inBlk ≠ none) := by
  simp [takesInput, actsHolder, Option.isSome_iff_ne_none]

/-- In a module that does not hold the lease the block read is the partner's, unless it is all zero (R53, R73). -/
theorem wAt_inRaw_partner (hholder : holder s = false) {b : List Word} (hb : s.pair.inBlk = some b) (hlen : b.length = 128)
    (hx : ∃ x ∈ b, x ≠ 0) (i : Nat) : wAt (inRaw s) i = wAt b i := by
  have hcopy : (List.range 128).map (wAt b) = b := by
    refine List.ext_getElem (by simp [hlen]) fun j hj hj' => ?_
    simp [wAt, hj']
  have hnonzero : b.all (· == 0) = false := by
    obtain ⟨x, hx, h0⟩ := hx
    rw [List.all_eq_false]
    exact ⟨x, hx, by simpa using h0⟩
  unfold inRaw
  simp only [actsHolder, hholder, hb, Option.getD_some, hcopy, hnonzero, Bool.false_and, Bool.not_false, if_true,
    Bool.and_false, Bool.false_eq_true, if_false]

/-! The inputs in force. -/

theorem wAt_inMerge (raw : List Word) {i : Nat} (hi : i < 128) : wAt (inMerge s raw) i =
    if 12 ≤ i ∧ i ≤ 16 then (if bandsOk raw then wAt raw i else inW s i)
    else if 17 ≤ i ∧ i ≤ 19 then joyOf (wAt raw i)
    else if inRange i (wAt raw i) then wAt raw i else inW s i := wAt_map_range _ hi

/-- A word that has no range is in force as it stands in the block. -/
theorem inW_free {t : State} {raw : List Word} (h : t.lib.input = inMerge s raw) {i : Nat} (hi : i ∈ [24, 25, 26]) :
    inW t i = wAt raw i := by
  have hne : t.lib.input ≠ [] := by rw [h]; exact List.ne_nil_of_length_pos (by simp [inMerge])
  simp only [List.mem_cons, List.not_mem_nil, or_false] at hi
  rw [inW, if_neg hne, h]
  rcases hi with rfl | rfl | rfl <;> exact wAt_inMerge raw (by decide)

/-! The request: judged on the state at t0, then by the mode that a lost target leaves. -/

/-- A request is judged on registers, DRAM and the cycles run on an extrapolated estimate. -/
theorem reqResult_modLib {f : LibSt → LibSt} (h : (f s.lib).staleRun = s.lib.staleRun) (raw : List Word) (m : Nat) :
    reqResult (s.modLib f) raw m = reqResult s raw m := by
  have hdegr : libDegr (s.modLib f) = libDegr s := by simp [libDegr, h]
  have htable : trackWords (s.modLib f) = trackWords s := rfl
  have htrk : trkState (s.modLib f) = trkState s := rfl
  simp only [reqResult, hdegr, htable, htrk]

theorem reqResult_judged (raw : List Word) (m : Nat) : reqResult s.sampleStart.blockCopied raw m = reqResult s raw m :=
  ((reqResult_modLib rfl raw m).trans (reqResult_modLib rfl raw m)).trans (reqResult_modLib rfl raw m)

theorem newRequest_sampleStart : newRequest s.sampleStart first ↔ newRequest s first := Iff.rfl

theorem sampleBlock_new (htakes : takesInput s = true) (hnew : newRequest s first) :
    s.sampleBlock first = s.sampleStart.blockCopied.modeRequest (inRaw s) :=
  (if_pos htakes).trans (takeBlock_new _ (newRequest_sampleStart.2 hnew))

theorem heldMode_of_ne (h : s.lib.mode ≠ 6) : heldMode s = s.lib.mode := if_neg fun e => h e.1

theorem sampleBlock_rejected (htakes : takesInput s = true) (hnew : newRequest s first)
    (hres : reqResult s (inRaw s) ((wAt (inRaw s) 0).toNat % 8) ≠ 0) : let l := (s.sampleBlock first).lib
    l.reqSeq = (wAt (inRaw s) 0).toNat / 65536 ∧ l.result = reqResult s (inRaw s) ((wAt (inRaw s) 0).toNat % 8) ∧
    l.mode = s.lib.mode := by
  have hres' := hres
  rw [← reqResult_judged] at hres'
  dsimp only
  rw [sampleBlock_new htakes hnew, modeRequest_rejected _ _ hres']
  exact ⟨rfl, reqResult_judged .., rfl⟩

theorem sampleBlock_accepted (htakes : takesInput s = true) (hnew : newRequest s first)
    (hres : reqResult s (inRaw s) ((wAt (inRaw s) 0).toNat % 8) = 0) : let b := s.sampleBlock first
    let m := (wAt (inRaw s) 0).toNat % 8
    b.lib.reqSeq = (wAt (inRaw s) 0).toNat / 65536 ∧ b.lib.result = 0 ∧ b.lib.mode = m ∧ b.lib.engage = some m ∧
    (m ≠ 0 → s.domOn 12 = true → b.bit Reg.UPD_ACT_CTL 1 = false) := by
  have hres' := hres
  rw [← reqResult_judged] at hres'
  dsimp only
  have hdom : s.sampleStart.blockCopied.domOn 12 = s.domOn 12 := by
    simp only [State.blockCopied, State.sampleStart, State.stageDone, State.modLib_domOn]
  rw [sampleBlock_new htakes hnew, ← hdom]
  exact modeRequest_accepted_words _ _ hres'

/-- TARGET engages: the track was confirmed when the request was judged, and still is. -/
theorem heldMode_accepted (htakes : takesInput s = true) (hnew : newRequest s first)
    (hres : reqResult s (inRaw s) ((wAt (inRaw s) 0).toNat % 8) = 0) :
    heldMode (s.sampleBlock first) = (wAt (inRaw s) 0).toNat % 8 := by
  obtain ⟨-, -, hmode, -, -⟩ := sampleBlock_accepted htakes hnew hres
  by_cases h6 : (wAt (inRaw s) 0).toNat % 8 = 6
  · have hinput : (s.sampleBlock first).lib.input = inMerge s (inRaw s) := by
      obtain ⟨-, -, -, -, -, h⟩ := sampleBlock_words s first
      rw [h, if_pos htakes]
    have htrk : trkState (s.sampleBlock first) ((wAt (inRaw s) 26).toNat % 128) = 2 := by
      rw [h6] at hres
      rw [← reqResult_target s _ hres]
      refine trkState_congr s ((sampleBlock_sampleEffect s first).2 _ fun e => ?_)
      have : 0x200603000 + 0x40 * ((wAt (inRaw s) 26).toNat % 128) + 0x4 * 0 = 0x200d00038 := e
      omega
    rw [heldMode, inW_free hinput (by decide), htrk, if_neg (by simp), hmode]
  · rw [heldMode_of_ne (by rw [hmode]; exact h6), hmode]

/-! With no record in force nothing is armed (R173). -/

theorem buildAlloc_noRecord {u : State} (h : u.lib.record = []) : u.buildAlloc.lib.qp = none ∧
    ∀ k, (allocSlot u).map Prod.fst = some k → u.buildAlloc.bit (Reg.CAL_ARM_CFG k) 0 = false ∧ u.buildAlloc.lib.unarmed = some k := by
  unfold State.buildAlloc
  split
  next hslot => exact ⟨rfl, fun k hk => by simp [hslot] at hk⟩
  next k d hslot =>
    rw [if_pos h]
    refine ⟨rfl, fun k' hk => ?_⟩
    obtain rfl : k = k' := by simpa [hslot] using hk
    exact ⟨bit_setBit u _ (by decide), rfl⟩

/-- Without a record to take or a plan to drop, what comes before the jobs changes the library's words alone. -/
theorem sampleRest_idle {b : State} (hrec : rec % 64 ≠ 0) (hfresh : b.lib.fresh = false) : ∃ u : State,
    b.sampleRest rec reports = u.placeJobs.buildAlloc ∧ u.dram = b.dram ∧ u.regs = b.regs ∧ u.lib.record = b.lib.record ∧
    u.lib.unarmed = b.lib.unarmed := by
  refine ⟨_, rfl, ?_⟩
  rw [takeRecord_unaligned _ _ hrec, if_neg (by simp [hfresh, State.modPair])]
  generalize hu : (b.modPair fun p => { p with inBlk := none }).sampleTrack = u
  obtain ⟨x, hx⟩ := targetLost_eq u
  rw [hx, fixSet_eq]
  simp only [State.modLib_dram, State.modLib_regs, State.modLib_lib]
  subst hu
  exact ⟨rfl, rfl, rfl, rfl⟩

theorem sample_noRecord (hrec : rec % 64 ≠ 0) (h5 : s.domOn 5 = true) (hrecord : s.lib.record = []) (hfresh : s.lib.fresh = false) :
    let t := (s.sampleBlock first).sampleRest rec reports
    t.lib.qp = none ∧ ∀ k d, allocSlot s = some (k, d) → t.bit (Reg.CAL_ARM_CFG k) 0 = false ∧ t.lib.unarmed = some k := by
  obtain ⟨-, hrecord', -, hfresh', hunarmed', -⟩ := sampleBlock_words s first
  obtain ⟨u, hu, hdram, hregs, hrecord'', hunarmed''⟩ :=
    sampleRest_idle (b := s.sampleBlock first) (reports := reports) hrec (hfresh'.trans hfresh)
  have hjobs := placeJobs_dramEffect u
  have hrd {a : Nat} (hd : a ≠ Reg.PAIR_MST_DIRTY) (hu : a ≠ Reg.UPD_ACT_CTL) : u.placeJobs.rd a = s.rd a := by
    rw [hjobs.rd hd, State.rd_eq, hregs, ← State.rd_eq]
    exact (sampleBlock_sampleEffect s first).2 a hu
  have hslot : (allocSlot u.placeJobs).map Prod.fst = (allocSlot s).map Prod.fst := by
    refine allocSlot_fst_congr h5 ?_ (fun k => hrd ?_ ?_) (fun k => hrd ?_ ?_) (fun x => ?_) ?_
    · rw [domOn_eq_of_rd (hrd (by decide) (by decide)), h5]
    · show 0x200400100 + 0x10 * k ≠ 0x200a000ec; omega
    · show 0x200400100 + 0x10 * k ≠ 0x200d00038; omega
    · show 0x200400104 + 0x10 * k ≠ 0x200a000ec; omega
    · show 0x200400104 + 0x10 * k ≠ 0x200d00038; omega
    · rw [placeJobs_descKind, descKind, hdram]
      rw [sampleBlock_dram, ← descKind]
    · rw [hjobs.lib, hunarmed'', hunarmed']
  dsimp only
  rw [hu]
  obtain ⟨hqp, harm⟩ := buildAlloc_noRecord (u := u.placeJobs) (by rw [hjobs.lib, hrecord'', hrecord', hrecord])
  exact ⟨hqp, fun k d hkd => harm k (by rw [hslot, hkd]; rfl)⟩

end

section
variable {s : State} {rec reports : Nat} {first : Option Word}

/-- What the whole stage leaves alone, the inputs in force and TRACK_PTR as sampled. -/
theorem sample_words (hrec : rec % 64 ≠ 0) (hdue : stageDue s 0 = true) : let t := (s.sampleBlock first).sampleRest rec reports
    t.mram = s.mram ∧ t.nor = s.nor ∧ t.ao = s.ao ∧ t.lib.record = s.lib.record ∧ fbit t.lib.due 0 = false ∧
    t.lib.input = (if takesInput s then inMerge s (inRaw s) else s.lib.input) ∧
    t.lib.trackPtr = if takesInput s then (wAt (inRaw s) 24).toNat + 2 ^ 32 * (wAt (inRaw s) 25).toNat else (inD s 24).toNat := by
  obtain ⟨f, b, x, n, hlib⟩ := lib_sampleRest (s.sampleBlock first) rec reports hrec
  obtain ⟨hdue', hrecord, -, -, -, hinput⟩ := sampleBlock_words s first
  have heff := (sampleBlock_sampleEffect s first).mono (q := fun a => SampleReg a ∨ a = Reg.UPD_ACT_CTL) fun _ => .inr
  have heff' := heff.trans ((sampleRest_sampleEffect (s.sampleBlock first) rec reports hrec).mono fun _ => .inl)
  refine ⟨by rw [heff'.1], by rw [heff'.1], by rw [heff'.1], ?_, ?_, ?_, ?_⟩
  · rw [hlib, ← hrecord]
  · rw [hlib]
    simp only
    rw [hdue', stageDone_due s 0 hdue]
    exact fbit_sub_pow 0 hdue
  · rw [hlib, ← hinput]
  · rw [hlib]
    simp only
    split
    next htakes =>
      rw [if_pos htakes] at hinput
      rw [inD, inW_free hinput (by decide), inW_free hinput (by decide), BitVec.toNat_ofNat]
      have hlo := (wAt (inRaw s) 24).isLt
      have hhi := (wAt (inRaw s) (24 + 1)).isLt
      exact Nat.mod_eq_of_lt (by omega)
    next hidle =>
      rw [if_neg hidle] at hinput
      rw [inD_congr s hinput]

/-- The set of thrusters fixed at t0. -/
theorem sample_set (hrec : rec % 64 ≠ 0) : let t := (s.sampleBlock first).sampleRest rec reports
    (∀ id, id < 24 → (fbit t.lib.thr id ↔ id ∈ fittedIds s.lib.record ∧ wbit (inW t 20) id = true ∧ fbit reports id = true)) ∧
    (t.lib.emptySet = true ↔ t.lib.thr = 0) ∧ (t.lib.remap = true ↔ t.lib.thr ≠ s.lib.thr) := by
  obtain ⟨f, b, x, n, hlib⟩ := lib_sampleRest (s.sampleBlock first) rec reports hrec
  obtain ⟨-, hrecord, hthr, -, -, -⟩ := sampleBlock_words s first
  dsimp only
  rw [hlib, inW_congr (s.sampleBlock first) (by rw [hlib]), ← hrecord, ← hthr]
  exact ⟨fun id _ => fbit_fixedThr (s.sampleBlock first) reports id, decide_eq_true_iff, decide_eq_true_iff⟩

/-- The answer to a new request, and the mode that it or the block before leaves in force. -/
theorem sample_request (hrec : rec % 64 ≠ 0) (htakes : takesInput s = true) (hnew : newRequest s first) :
    let t := (s.sampleBlock first).sampleRest rec reports
    let q := (wAt (inRaw s) 0).toNat
    let r := reqResult s (inRaw s) (q % 8)
    t.lib.reqSeq = q / 65536 ∧ t.lib.result = r ∧
    (r = 0 → t.lib.mode = q % 8 ∧ t.lib.engage = some (q % 8) ∧
      (q % 8 ≠ 0 → s.domOn 12 = true → t.bit Reg.UPD_ACT_CTL 1 = false)) ∧
    (r ≠ 0 → s.lib.mode ≠ 6 → t.lib.mode = s.lib.mode) := by
  obtain ⟨f, b, x, n, hlib⟩ := lib_sampleRest (s.sampleBlock first) rec reports hrec
  have hctl : ((s.sampleBlock first).sampleRest rec reports).rd Reg.UPD_ACT_CTL = (s.sampleBlock first).rd Reg.UPD_ACT_CTL := by
    refine (sampleRest_sampleEffect (s.sampleBlock first) rec reports hrec).2 _ ?_
    rintro (e | ⟨k, e⟩)
    · exact absurd e (by decide)
    · have : 0x200d00038 = 0x200400100 + 0x10 * k := e
      omega
  dsimp only
  rw [bit_eq_of_rd hctl, hlib]
  by_cases hres : reqResult s (inRaw s) ((wAt (inRaw s) 0).toNat % 8) = 0
  · obtain ⟨hseq, hresult, -, hengage, hbit⟩ := sampleBlock_accepted htakes hnew hres
    exact ⟨hseq, hresult.trans hres.symm, fun _ => ⟨heldMode_accepted htakes hnew hres, hengage, hbit⟩, fun h => absurd hres h⟩
  · obtain ⟨hseq, hresult, hmode⟩ := sampleBlock_rejected htakes hnew hres
    refine ⟨hseq, hresult, fun h => absurd h hres, fun _ h6 => ?_⟩
    rw [heldMode_of_ne (by rw [hmode]; exact h6), hmode]

/-- With no new request its number, its answer and the mode stay. -/
theorem sample_noRequest (hrec : rec % 64 ≠ 0) (hold : ¬(takesInput s = true ∧ newRequest s first)) :
    let t := (s.sampleBlock first).sampleRest rec reports
    t.lib.reqSeq = s.lib.reqSeq ∧ t.lib.result = s.lib.result ∧ (s.lib.mode ≠ 6 → t.lib.mode = s.lib.mode) := by
  obtain ⟨f, b, x, n, hlib⟩ := lib_sampleRest (s.sampleBlock first) rec reports hrec
  have hblock : s.sampleBlock first = s.sampleCopied := by
    unfold State.sampleBlock State.sampleCopied
    split
    next htakes => exact takeBlock_old _ fun h => hold ⟨htakes, newRequest_sampleStart.1 h⟩
    · rfl
  have hcopied : s.sampleCopied.lib.reqSeq = s.lib.reqSeq ∧ s.sampleCopied.lib.result = s.lib.result ∧
      s.sampleCopied.lib.mode = s.lib.mode := by
    unfold State.sampleCopied
    split <;> exact ⟨rfl, rfl, rfl⟩
  obtain ⟨hseq, hresult, hmode⟩ := hcopied
  rw [hblock] at hlib ⊢
  dsimp only
  rw [hlib]
  refine ⟨hseq, hresult, fun h6 => ?_⟩
  rw [heldMode_of_ne (by rw [hmode]; exact h6), hmode]

end

/-- Settles O7: the block as merged, the request judged on the state at t0, the set of thrusters, and the rows of the problem built.
When inputs are taken, what a request is judged on, when the stage is due and the problem's form are the model's choice (log
entries 27, 74, 76 and 81). -/
theorem inputBlockAndModes : Obligations.InputBlockAndModes := by
  unfold Obligations.InputBlockAndModes
  refine ⟨fun rec reports first s => ?_, allocProblem_allocQp⟩
  intro raw q m d ramps result takes untorn go
  have htakes : takesInput s = true ↔ takes := takesInput_iff
  have hresult : reqResult s raw m = result := by
    simp only [reqResult, rampOk, libDegr, Bool.not_eq_true', result, ramps, d]
    rfl
  refine ⟨?_, fun hon hdue hrec => ?_, fun hon hdue hrec => ?_⟩
  · rintro (h | h)
    · exact congrArg Host.Outcome.next (ifOn_off s h)
    · have hidle : libSample rec.toNat reports.toNat first s = s := if_pos (by simpa [stageDue] using h)
      refine congrArg Host.Outcome.next ?_
      unfold State.ifOn
      split
      · exact hidle
      · rfl
  · have hgo {P : State → Prop} (h : P ((s.sampleBlock first).sampleRest rec.toNat reports.toNat)) : After go s P :=
      ⟨_, congrArg Host.Outcome.next ((ifOn_on s hon).trans (libSample_due s rec.toNat reports.toNat first hdue)), h⟩
    obtain ⟨hmram, hnor, hao, hrecord, hdone, hinput, htrack⟩ := sample_words (first := first) (reports := reports.toNat) hrec hdue
    refine ⟨hgo hdone, fun ht => hgo fun i hi => ?_, fun ht hun hne => hgo ?_, fun ht hold => hgo ?_, fun ht => hgo ?_,
      fun hh b i hb _ hx hlen => wAt_inRaw_partner hh hb hlen hx i, hgo ⟨hmram, hnor, hao, hrecord, ?_⟩⟩
    · rw [hinput, if_pos (htakes.2 ht)]
      exact wAt_inMerge raw hi
    · rw [← hresult]
      exact sample_request hrec (htakes.2 ht) ⟨hun, hne⟩
    · refine sample_noRequest hrec ?_
      rintro ⟨-, hun, hne⟩
      exact hold.elim (fun h => h hun) hne
    · rw [← htakes] at ht
      refine ⟨by rw [hinput, if_neg ht], (sample_noRequest hrec fun h => ht h.1).1⟩
    · rw [htrack]
      simp only [htakes]
      rfl
  · refine ⟨_, congrArg Host.Outcome.next ((ifOn_on s hon).trans (libSample_due s rec.toNat reports.toNat first hdue)), ?_⟩
    obtain ⟨hset, hempty, hremap⟩ := sample_set (s := s) (first := first) (reports := reports.toNat) hrec
    exact ⟨hset, hempty, hremap, sample_noRecord hrec⟩

/-! ## The drive ticks (R40, R47, R48, R67) -/

/-- Two folds agree along an invariant under which their steps do. -/
theorem foldl_congr_inv {α σ : Type} {I : σ → Prop} {f g : σ → α → σ} (h : ∀ u x, I u → f u x = g u x ∧ I (g u x)) {s : σ} (hs : I s)
    (xs : List α) : xs.foldl f s = xs.foldl g s := by
  induction xs generalizing s with
  | nil => rfl
  | cons x xs ih =>
    obtain ⟨hstep, hinv⟩ := h s x hs
    rw [List.foldl_cons, List.foldl_cons, hstep, ih hinv]

section
variable (s : State) (id : Nat)

/-- The state of a thruster's loop. -/
def State.driveOf : DriveSt := sget (fun _ => driveIdle) s.lib.drive id

/-- A thruster's loop advances by one drive tick. -/
def State.driveAdvance : State :=
  s.modLib fun l => { l with drive := sset (fun _ => driveIdle) l.drive id (driveStep s id) }

/-- Nothing changes but loops, and of those none that `ids` does not name. -/
def DriveEffect (ids : List Nat) (s t : State) : Prop :=
  t = { s with lib := { s.lib with drive := t.lib.drive } } ∧ ∀ j, j ∉ ids → t.driveOf j = s.driveOf j

/-- A loop's step depends on its own state, the record and the set-points that apply. -/
theorem driveStep_congr {ids : List Nat} {t : State} (h : DriveEffect ids s t) (hid : id ∉ ids) : driveStep t id = driveStep s id := by
  have hown := h.2 id hid
  rw [h.1] at hown ⊢
  simp only [State.driveOf] at hown
  simp only [driveStep, hown]
  rfl

/-- The loop of a thruster on one of the module's own tiles advances; others are not its own. -/
def State.driveOwn : State := if (Config.driveTile id).isSome then s.driveAdvance id else s

theorem driveOwn_effect : DriveEffect [id] s (s.driveOwn id) := by
  unfold State.driveOwn
  split
  · exact ⟨rfl, fun j hj => sget_sset_other (by simpa using hj)⟩
  · exact ⟨rfl, fun _ _ => rfl⟩

theorem driveOf_driveOwn : (s.driveOwn id).driveOf id = if (Config.driveTile id).isSome then driveStep s id else s.driveOf id := by
  unfold State.driveOwn
  split
  · exact sget_sset_same
  · rfl

theorem DriveEffect.trans {is js : List Nat} {s t u : State} (h : DriveEffect is s t) (h' : DriveEffect js t u) :
    DriveEffect (is ++ js) s u := by
  refine ⟨h'.1.trans ?_, fun j hj => ?_⟩
  · rw [h.1]
  · rw [List.mem_append, not_or] at hj
    rw [h'.2 j hj.2, h.2 j hj.1]

theorem foldl_driveOwn_effect (ids : List Nat) : DriveEffect ids s (ids.foldl State.driveOwn s) := by
  induction ids generalizing s with
  | nil => exact ⟨rfl, fun _ _ => rfl⟩
  | cons i ids ih => exact (driveOwn_effect s i).trans (ih _)

/-- Of loops advanced one after another, each once, each makes its own step. -/
theorem driveOf_foldl {ids : List Nat} (hids : ids.Nodup) (hid : id ∈ ids) : (ids.foldl State.driveOwn s).driveOf id =
    if (Config.driveTile id).isSome then driveStep s id else s.driveOf id := by
  induction ids generalizing s with
  | nil => simp at hid
  | cons i ids ih =>
    obtain ⟨hi, hids⟩ := List.nodup_cons.1 hids
    rw [List.foldl_cons]
    by_cases h : id = i
    · subst h
      rw [(foldl_driveOwn_effect (s.driveOwn id) ids).2 id hi, driveOf_driveOwn]
    · have hfirst := driveOwn_effect s i
      have hother : id ∉ [i] := by simpa using h
      rw [ih (s.driveOwn i) hids (List.mem_of_ne_of_mem h hid), driveStep_congr s id hfirst hother, hfirst.2 id hother]

/-- With the Mill and the tiles ON, and set-points and a record in force, the drive tick advances every own loop. -/
theorem driveTick_eq (hon : ∀ n, n < 5 → s.domOn n = true) (hrec : s.lib.record ≠ []) (happ : s.lib.applied ≠ []) :
    s.driveTick = (List.range 24).foldl State.driveOwn s := by
  unfold State.driveTick
  rw [if_neg (by simp [hon 0 (by decide), hrec, happ])]
  refine foldl_congr_inv (I := fun u => ∀ n, n < 5 → u.domOn n = true) (fun u i hu => ?_) hon _
  unfold State.driveOwn
  split
  next tile htile => exact ⟨(ifOn_on u (hu _ (by omega))).trans (if_pos (by rw [htile]; rfl)).symm, fun n hn => by rw [htile]; exact hu n hn⟩
  next htile => exact ⟨(if_neg (by simp [htile])).symm, fun n hn => by rw [htile]; exact hu n hn⟩

/-- Is the band that a thruster's loop puts out at the valve current limit (R67)? -/
def atValveLimit : Bool := match Config.driveValve id with | some v => bandAtLimit s v.val | none => false

theorem driveStep_frozen : (driveStep s id).frozen = ((driveStep s id).slow || atValveLimit s id) := rfl

/-- A frozen loop holds its integrator. -/
theorem driveStep_integ (h : (driveStep s id).frozen = true) : (driveStep s id).integ = (s.driveOf id).integ := if_pos h

theorem driveStep_rpm : (driveStep s id).rpm =
    (approach (s.driveOf id).rpm (wAt s.lib.applied (3 * id)) (wAt s.lib.record (16 + 16 * id + 5))).1 := rfl

theorem driveStep_pitch : (driveStep s id).pitch =
    (approach (s.driveOf id).pitch (wAt s.lib.applied (3 * id + 1)) (wAt s.lib.record (16 + 16 * id + 6))).1 := rfl

end

/-! ## The control law (R44, R45, R54, R55, R60, R64, R65) -/

section
variable (s : State)

/-! ### The estimate (R44) -/

/-- The estimate that this cycle's law runs on: the one that came in time, else the last one extrapolated. -/
def nextEst : List DWord := match s.lib.estNew with | some m => Config.estimate m | none => extrapolate s.lib.est

/-- The cycles in a row on an extrapolated estimate. -/
def nextStale : Nat := if s.lib.estNew == none then s.lib.staleRun + 1 else 0

theorem takeEst_eq : s.takeEst = s.modLib fun l =>
    { l with est := nextEst s, estStale := s.lib.estNew == none, staleRun := nextStale s, estNew := none } := by
  unfold State.takeEst nextEst nextStale
  cases h : s.lib.estNew with
  | none => simp [State.modLib, h]
  | some m => rfl

/-! ### Hand-over (R60) -/

theorem handoverEval_eq : ∃ b, s.handoverEval = s.modLib fun l => { l with handover := b } := by
  unfold State.handoverEval
  dsimp only
  split
  · exact ⟨false, rfl⟩
  · split
    · exact ⟨true, rfl⟩
    · split
      · exact ⟨false, rfl⟩
      · exact ⟨s.lib.handover, rfl⟩

theorem handover_manual (h : s.lib.mode ≤ 1) : s.handoverEval.lib.handover = false := by
  rw [State.handoverEval, if_pos h]; rfl

theorem handover_at_D4 (h : 2 ≤ s.lib.mode) (hd : libDegr s = 4) : s.handoverEval.lib.handover = true := by
  rw [State.handoverEval, if_neg (by omega), if_pos hd]; rfl

theorem handover_ends (h : 2 ≤ s.lib.mode) (hd : libDegr s ≤ 2) : s.handoverEval.lib.handover = false := by
  simp only [State.handoverEval, if_neg (show ¬s.lib.mode ≤ 1 by omega), if_neg (show ¬libDegr s = 4 by omega), if_pos hd]
  rfl

/-! ### Set-points and DEADBAND (R54, R57, R61) -/

/-- Nothing changes but the set-points and what their motion carries. -/
def MoveEffect (s t : State) : Prop :=
  t = { s with lib := { s.lib with
    sp := t.lib.sp, ramp := t.lib.ramp, ramping := t.lib.ramping, leg := t.lib.leg, table := t.lib.table, trackEnd := t.lib.trackEnd } }

variable {s} in
theorem MoveEffect.trans {t u : State} (h : MoveEffect s t) (h' : MoveEffect t u) : MoveEffect s u := by
  unfold MoveEffect at h
  refine Eq.trans h' ?_
  rw [h]

theorem takeTrack_eq : ∃ ws n b, s.takeTrack = s.modLib fun l => { l with table := ws, leg := n, trackEnd := b } := by
  unfold State.takeTrack
  dsimp only
  split
  · exact ⟨_, _, _, rfl⟩
  · exact ⟨s.lib.table, s.lib.leg, s.lib.trackEnd, rfl⟩

theorem moveSetPts_effect (engaging : Bool) : MoveEffect s (s.moveSetPts engaging) := by
  obtain ⟨ws, n, b, htrack⟩ := takeTrack_eq s
  have htaken : MoveEffect s s.takeTrack := by rw [htrack]; rfl
  unfold State.moveSetPts
  dsimp only
  generalize s.takeTrack = u at htaken
  split
  · rfl
  · split
    · generalize trackStep _ _ _ _ _ _ _ = x
      cases engaging <;> exact htaken.trans rfl
    · split <;> cases engaging <;> rfl

/-- In the cycle of an engagement the set-points keep the measured values (R61). -/
theorem moveSetPts_engaging : (s.moveSetPts true).lib.sp = s.lib.sp := by
  obtain ⟨ws, n, b, htrack⟩ := takeTrack_eq s
  have htaken : s.takeTrack.lib.sp = s.lib.sp := by rw [htrack]; rfl
  unfold State.moveSetPts
  dsimp only
  generalize s.takeTrack = u at htaken
  split
  · rfl
  · split
    · exact htaken
    · split <;> rfl

/-- DEADBAND's ends, at the estimate and the set-points in force: within both inner bands after the dwell, beyond an outer one (R54). -/
def dbEnds : Bool :=
  let dev := deviation s.lib.est s.lib.sp
  g32Lt dev.1 (inW s 13) && g32Lt dev.2 (inW s 15) && decide (s.lib.dbSince + dwellNs s ≤ s.clk)

def dbBegins : Bool :=
  let dev := deviation s.lib.est s.lib.sp
  g32Lt (inW s 12) dev.1 || g32Lt (inW s 14) dev.2

/-- Is control active after this cycle's judgement? -/
def dbNext : Bool := if s.lib.dbActive then !dbEnds s else dbBegins s

theorem deadband_cases : s.deadband =
    if s.lib.mode ≠ 4 then s
    else if s.lib.dbActive then (if dbEnds s then s.modLib fun l => { l with dbActive := false, dbSince := s.clk } else s)
    else if dbBegins s then s.modLib fun l => { l with dbActive := true, dbSince := s.clk } else s := rfl

theorem deadband_eq : ∃ n, s.deadband =
    s.modLib fun l => { l with dbActive := if s.lib.mode = 4 then dbNext s else s.lib.dbActive, dbSince := n } := by
  have keep {b : Bool} (hb : s.lib.dbActive = b) : ∃ n, s = s.modLib fun l => { l with dbActive := b, dbSince := n } := by
    subst hb
    exact ⟨s.lib.dbSince, rfl⟩
  rw [deadband_cases]
  by_cases h4 : s.lib.mode = 4
  · simp only [h4, dbNext, ne_eq, not_true_eq_false, if_false, if_true]
    cases hact : s.lib.dbActive
    · cases hbegins : dbBegins s
      · exact keep hact
      · exact ⟨s.clk, rfl⟩
    · cases hends : dbEnds s
      · exact keep hact
      · exact ⟨s.clk, rfl⟩
  · simp only [h4, ne_eq, not_false_eq_true, if_true, if_false]
    exact keep rfl

theorem engageNow_idle (h : s.lib.engage = none) : s.engageNow = s := by simp only [State.engageNow, h]

/-- An engagement: set-points start at the measured values, and nothing else but their motion and DEADBAND starts afresh (R54, R61). -/
theorem engageNow_eq {m : Nat} (h : s.lib.engage = some m) : ∃ b, s.engageNow = s.modLib fun l =>
    { l with sp := l.est.take 3, ramp := [], ramping := false, engage := none, leg := 0, dbActive := b, dbSince := s.clk } := by
  simp only [State.engageNow, h]
  exact ⟨_, rfl⟩

/-- Nothing changes but what the law's judgements before the outer loop decide. -/
def SetPtsEffect (s t : State) : Prop :=
  t = { s with lib := { s.lib with
    sp := t.lib.sp, ramp := t.lib.ramp, ramping := t.lib.ramping, leg := t.lib.leg, table := t.lib.table, trackEnd := t.lib.trackEnd,
    engage := t.lib.engage, dbActive := t.lib.dbActive, dbSince := t.lib.dbSince } }

variable {s} in
theorem SetPtsEffect.trans {t u : State} (h : SetPtsEffect s t) (h' : SetPtsEffect t u) : SetPtsEffect s u := by
  unfold SetPtsEffect at h
  refine Eq.trans h' ?_
  rw [h]

variable {s} in
theorem MoveEffect.setPts {t : State} (h : MoveEffect s t) : SetPtsEffect s t := by
  unfold MoveEffect at h
  unfold SetPtsEffect
  rw [h]

theorem engageNow_effect : SetPtsEffect s s.engageNow := by
  cases h : s.lib.engage with
  | none => rw [engageNow_idle s h]; rfl
  | some m =>
    obtain ⟨b, hb⟩ := engageNow_eq s h
    rw [hb]
    rfl

theorem deadband_effect : SetPtsEffect s s.deadband := by
  obtain ⟨n, hn⟩ := deadband_eq s
  rw [hn]
  rfl

/-! ### The outer loop (R55, R60, R64, R65) -/

/-- The demand of an automatic axis with no first demand: the loop's own, or in DEADBAND's pause ramped towards zero. -/
def autoDemand (i : Nat) : Word :=
  if s.lib.mode == 4 && !s.lib.dbActive then rampZero (inW s 22) (Config.capacity i s.lib.thr s.lib.record) (wAt s.lib.demand i)
  else wAt (Config.outerLoop s.lib.est s.lib.sp s.lib.integ (frzMask s) s.lib.demand).1 i

/-- An axis's demand, by hand-over, the mode and the first demand. -/
def axisDemand (first : Option (List Word)) (i : Nat) : Word :=
  if s.lib.handover then wAt s.lib.demand i
  else if axisKind s.lib.mode i = 0 then rampZero (inW s 22) (Config.capacity i s.lib.thr s.lib.record) (wAt s.lib.demand i)
  else if axisKind s.lib.mode i = 1 then g32M (inW s (17 + i)) (Config.capacity i s.lib.thr s.lib.record)
  else (first.map fun x => wAt x i).getD (autoDemand s i)

/-- Nothing changes but the demand, the integrators and their marks. -/
def OuterEffect (s t : State) : Prop :=
  t = { s with lib := { s.lib with demand := t.lib.demand, integ := t.lib.integ, frz := t.lib.frz, clamp := t.lib.clamp } }

theorem outer_effect (first : Option (List Word)) : OuterEffect s (s.outer first) := by cases first <;> rfl

section
variable {s} {first : Option (List Word)} {i : Nat}

theorem wAt_outer (hi : i < 3) : wAt (s.outer first).lib.demand i = axisDemand s first i := by
  unfold axisDemand
  obtain rfl | rfl | rfl : i = 0 ∨ i = 1 ∨ i = 2 := by omega
  all_goals cases first
  all_goals
    dsimp only [State.outer, State.modLib_lib, wAt, List.getElem?_cons_zero, List.getElem?_cons_succ, Option.getD_some]
    generalize axisKind s.lib.mode _ = kind
    rcases kind with _ | _ | kind <;> rfl

theorem axisDemand_held (h : s.lib.handover = true) : axisDemand s first i = wAt s.lib.demand i := if_pos h

variable (h : s.lib.handover = false)
include h

theorem axisDemand_standby (hm : s.lib.mode = 0) : axisDemand s first i =
    rampZero (inW s 22) (Config.capacity i s.lib.thr s.lib.record) (wAt s.lib.demand i) := by
  rw [axisDemand, if_neg (by simp [h]), if_pos (by simp [axisKind, hm])]

theorem axisDemand_joystick (hm : s.lib.mode = 1) : axisDemand s first i =
    g32M (inW s (17 + i)) (Config.capacity i s.lib.thr s.lib.record) := by
  rw [axisDemand, if_neg (by simp [h]), if_neg (by simp [axisKind, hm]), if_pos (by simp [axisKind, hm])]

theorem axisDemand_first {x : List Word} (hm : 3 ≤ s.lib.mode) : axisDemand s (some x) i = wAt x i := by
  have hkind : axisKind s.lib.mode i = 2 := by
    rw [axisKind, if_neg (by omega), if_neg (by omega), if_neg (by omega)]
  rw [axisDemand, if_neg (by simp [h]), if_neg (by omega), if_neg (by omega)]
  rfl

end

/-! ### The law -/

/-- The stage has begun and the estimate is taken. -/
def State.lawEst : State := (s.stageDone 3).takeEst

/-- Set-points and DEADBAND are in force for this cycle, after hand-over has been judged. -/
def State.lawMoved : State := ((s.lawEst.handoverEval.engageNow).moveSetPts s.lawEst.lib.engage.isSome).deadband

theorem lawMoved_effect : SetPtsEffect s.lawEst.handoverEval s.lawMoved :=
  ((engageNow_effect _).trans (moveSetPts_effect ..).setPts).trans (deadband_effect _)

theorem lawEst_eq (hdue : stageDue s 3 = true) : s.lawEst = s.modLib fun l =>
    { l with due := l.due - 8, est := nextEst s, estStale := s.lib.estNew == none, staleRun := nextStale s, estNew := none } := by
  have hdone : s.stageDone 3 = s.modLib fun l => { l with due := l.due - 8 } := by
    have hbit : fbit s.lib.due 3 = true := hdue
    simp only [State.stageDone, State.modLib, hbit, if_true]
    rfl
  rw [State.lawEst, takeEst_eq, hdone]
  rfl

theorem lawTrapped_modLib (f : LibSt → LibSt) : lawTrapped (s.modLib f) = lawTrapped s := rfl

theorem lawTrapped_iff : lawTrapped s = true ↔ ∃ l : Fin 8, l.val < 4 ∧ (s.core (.lane 0 l)).run = .trapped := by
  simp only [lawTrapped, List.any_eq_true, beq_iff_eq, List.mem_finRange, true_and]
  constructor
  · rintro ⟨l, hl⟩; exact ⟨⟨l.val, by omega⟩, l.isLt, hl⟩
  · rintro ⟨l, hlt, hl⟩; exact ⟨⟨l.val, hlt⟩, hl⟩

variable {s} {late : Bool} (hdue : stageDue s 3 = true)
include hdue

/-- On time, the law ends with the outer loop; an engagement gives it the demand to start from. -/
theorem controlLaw_runs (hlate : ¬(late = true ∨ lawTrapped s = true)) :
    ∃ resumed, controlLaw late s = s.lawMoved.outer (firstDemand s.lawEst.lib.engage resumed s.lawEst.lib) := by
  unfold controlLaw
  rw [if_neg (by simp [hdue])]
  dsimp only
  rw [if_neg]
  · exact ⟨_, rfl⟩
  · rw [← State.lawEst, lawEst_eq s hdue, lawTrapped_modLib]
    simpa using hlate

/-- Overrun: the outputs are withheld and the integrators frozen (R45, R131). -/
theorem controlLaw_overruns (hovr : late = true ∨ lawTrapped s = true) :
    controlLaw late s = s.lawEst.modLib fun l => { l with lawOvr := true, frz := 7 } := by
  unfold controlLaw
  rw [if_neg (by simp [hdue])]
  dsimp only
  rw [if_pos]
  · rfl
  · rw [← State.lawEst, lawEst_eq s hdue, lawTrapped_modLib]
    simpa using hovr

omit hdue in
/-- The words of the law's start that nothing after it changes, and those that only its last stages do. -/
theorem libDegr_lawEst (hdue : stageDue s 3 = true) : libDegr s.lawEst =
    if 10 < nextStale s then 4 else s.bits Reg.FSN_DEGR_STAT 2 0 := by
  rw [lawEst_eq s hdue]
  rfl

end

/-! ### What the law leads to -/

theorem firstDemand_engaged {m : Nat} (hm : m ≠ 0) (resumed : Bool) (l : LibSt) :
    firstDemand (some m) resumed l = some (if l.zeroPub then [0, 0, 0] else l.achieved) := if_neg hm

section
variable {s : State} {late : Bool} (hdue : stageDue s 3 = true)
include hdue

/-- What stands when the outer loop begins: this cycle's estimate, and the mode, the inputs, the set of thrusters and the demand as they
were. -/
theorem lawMoved_words : let l := s.lawMoved.lib
    l.mode = s.lib.mode ∧ l.input = s.lib.input ∧ l.thr = s.lib.thr ∧ l.record = s.lib.record ∧ l.demand = s.lib.demand ∧
    l.handover = s.lawEst.handoverEval.lib.handover := by
  obtain ⟨b, hb⟩ := handoverEval_eq s.lawEst
  have hmoved := lawMoved_effect s
  unfold SetPtsEffect at hmoved
  dsimp only
  rw [hmoved, hb, lawEst_eq s hdue]
  exact ⟨rfl, rfl, rfl, rfl, rfl, rfl⟩

theorem lawEst_mode : s.lawEst.lib.mode = s.lib.mode := by rw [lawEst_eq s hdue]; rfl

/-- Only the library's words change, and of those neither mode nor inputs. -/
theorem controlLaw_keeps : let t := controlLaw late s
    t = { s with lib := t.lib } ∧ t.lib.est = nextEst s ∧ t.lib.estStale = (s.lib.estNew == none) ∧ t.lib.staleRun = nextStale s ∧
    t.lib.mode = s.lib.mode ∧ t.lib.input = s.lib.input ∧ t.lib.due = s.lib.due - 8 ∧ t.lib.estNew = none := by
  by_cases hovr : late = true ∨ lawTrapped s = true
  · rw [controlLaw_overruns hdue hovr, lawEst_eq s hdue]
    exact ⟨rfl, rfl, rfl, rfl, rfl, rfl, rfl, rfl⟩
  · obtain ⟨resumed, h⟩ := controlLaw_runs hdue hovr
    obtain ⟨b, hb⟩ := handoverEval_eq s.lawEst
    have hmoved := lawMoved_effect s
    unfold SetPtsEffect at hmoved
    have houter := outer_effect s.lawMoved (firstDemand s.lawEst.lib.engage resumed s.lawEst.lib)
    unfold OuterEffect at houter
    rw [h, houter, hmoved, hb, lawEst_eq s hdue]
    exact ⟨rfl, rfl, rfl, rfl, rfl, rfl, rfl, rfl⟩

variable (hrun : ¬(late = true ∨ lawTrapped s = true))
include hrun

theorem controlLaw_joystick (hm : s.lib.mode = 1) {i : Nat} (hi : i < 3) : wAt (controlLaw late s).lib.demand i =
    g32M (inW s (17 + i)) (Config.capacity i s.lib.thr s.lib.record) := by
  obtain ⟨resumed, h⟩ := controlLaw_runs hdue hrun
  obtain ⟨hmode, hinput, hthr, hrecord, -, hover⟩ := lawMoved_words hdue
  have hmanual := handover_manual s.lawEst (by rw [lawEst_mode hdue]; omega)
  rw [h, wAt_outer hi, axisDemand_joystick (hover.trans hmanual) (hmode.trans hm), inW_congr s hinput, hthr, hrecord]

theorem controlLaw_standby (hm : s.lib.mode = 0) {i : Nat} (hi : i < 3) : wAt (controlLaw late s).lib.demand i =
    rampZero (inW s 22) (Config.capacity i s.lib.thr s.lib.record) (wAt s.lib.demand i) := by
  obtain ⟨resumed, h⟩ := controlLaw_runs hdue hrun
  obtain ⟨hmode, hinput, hthr, hrecord, hdemand, hover⟩ := lawMoved_words hdue
  have hmanual := handover_manual s.lawEst (by rw [lawEst_mode hdue]; omega)
  rw [h, wAt_outer hi, axisDemand_standby (hover.trans hmanual) (hmode.trans hm), inW_congr s hinput, hthr, hrecord, hdemand]

/-- In hand-over every axis holds its demand (R60). -/
theorem controlLaw_handover (hm : 2 ≤ s.lib.mode) (hd : libDegr s.lawEst = 4) : (controlLaw late s).lib.handover = true ∧
    ∀ i, i < 3 → wAt (controlLaw late s).lib.demand i = wAt s.lib.demand i := by
  obtain ⟨resumed, h⟩ := controlLaw_runs hdue hrun
  obtain ⟨-, -, -, -, hdemand, hover⟩ := lawMoved_words hdue
  have hheld := handover_at_D4 s.lawEst (by rw [lawEst_mode hdue]; exact hm) hd
  rw [h]
  constructor
  · have houter := outer_effect s.lawMoved (firstDemand s.lawEst.lib.engage resumed s.lawEst.lib)
    unfold OuterEffect at houter
    rw [houter]
    exact hover.trans hheld
  · intro i hi
    rw [wAt_outer hi, axisDemand_held (hover.trans hheld), hdemand]

omit hrun in
theorem handoverEval_lawEst_words : let l := s.lawEst.handoverEval.lib
    l.engage = s.lib.engage ∧ l.est = nextEst s ∧ l.mode = s.lib.mode ∧ l.input = s.lib.input ∧ l.dbActive = s.lib.dbActive ∧
    l.dbSince = s.lib.dbSince ∧ s.lawEst.handoverEval.clk = s.clk := by
  obtain ⟨b, hb⟩ := handoverEval_eq s.lawEst
  rw [hb, lawEst_eq s hdue]
  exact ⟨rfl, rfl, rfl, rfl, rfl, rfl, rfl⟩

omit hrun in
theorem lawMoved_engaged {m : Nat} (hengage : s.lib.engage = some m) :
    s.lawMoved.lib.engage = none ∧ s.lawMoved.lib.sp = (nextEst s).take 3 := by
  obtain ⟨hengage', hest, -⟩ := handoverEval_lawEst_words hdue
  have hsome : s.lawEst.lib.engage.isSome = true := by
    rw [lawEst_eq s hdue, State.modLib_lib, hengage]
    rfl
  obtain ⟨b, hb⟩ := engageNow_eq s.lawEst.handoverEval (hengage'.trans hengage)
  unfold State.lawMoved
  rw [hsome]
  have hsp := moveSetPts_engaging s.lawEst.handoverEval.engageNow
  have hmove := moveSetPts_effect s.lawEst.handoverEval.engageNow true
  unfold MoveEffect at hmove
  generalize s.lawEst.handoverEval.engageNow.moveSetPts true = u at hsp hmove
  obtain ⟨n, hn⟩ := deadband_eq u
  rw [hn]
  constructor
  · show u.lib.engage = none
    rw [hmove, hb]
    rfl
  · show u.lib.sp = _
    rw [hsp, hb, ← hest]
    rfl

/-- An engagement: set-points start at the measured values, and the demand at the achieved force of the set-points in force (R61, R64). -/
theorem controlLaw_engages (hm : 3 ≤ s.lib.mode) (hd : libDegr s.lawEst ≤ 2) (hengage : s.lib.engage = some s.lib.mode) :
    let t := controlLaw late s
    t.lib.engage = none ∧ t.lib.sp = (nextEst s).take 3 ∧
    ∀ i, i < 3 → wAt t.lib.demand i = if s.lib.zeroPub then 0 else wAt s.lib.achieved i := by
  obtain ⟨resumed, h⟩ := controlLaw_runs hdue hrun
  obtain ⟨hmode, -, -, -, -, hover⟩ := lawMoved_words hdue
  obtain ⟨hengaged, hsp⟩ := lawMoved_engaged hdue hengage
  have hends := handover_ends s.lawEst (by rw [lawEst_mode hdue]; omega) hd
  have hfirst : firstDemand s.lawEst.lib.engage resumed s.lawEst.lib =
      some (if s.lib.zeroPub then [0, 0, 0] else s.lib.achieved) := by
    rw [lawEst_eq s hdue, State.modLib_lib, hengage]
    exact firstDemand_engaged (by omega) resumed _
  have houter := outer_effect s.lawMoved (firstDemand s.lawEst.lib.engage resumed s.lawEst.lib)
  unfold OuterEffect at houter
  dsimp only
  rw [h]
  refine ⟨by rw [houter]; exact hengaged, by rw [houter]; exact hsp, fun i hi => ?_⟩
  rw [wAt_outer hi, hfirst, axisDemand_first (hover.trans hends) (by rw [hmode]; exact hm)]
  split
  · obtain rfl | rfl | rfl : i = 0 ∨ i = 1 ∨ i = 2 := by omega
    all_goals rfl
  · rfl

/-- DEADBAND is judged on this cycle's estimate and set-points (R54). -/
theorem controlLaw_deadband (hm : s.lib.mode = 4) (hengage : s.lib.engage = none) : let t := controlLaw late s
    let dev := deviation t.lib.est t.lib.sp
    t.lib.dbActive = if s.lib.dbActive then !(g32Lt dev.1 (inW s 13) && g32Lt dev.2 (inW s 15) && decide (s.lib.dbSince + dwellNs s ≤ s.clk))
      else g32Lt (inW s 12) dev.1 || g32Lt (inW s 14) dev.2 := by
  obtain ⟨resumed, h⟩ := controlLaw_runs hdue hrun
  obtain ⟨hengage', -, hmode, hinput, hact, hsince, hclk⟩ := handoverEval_lawEst_words hdue
  have houter := outer_effect s.lawMoved (firstDemand s.lawEst.lib.engage resumed s.lawEst.lib)
  unfold OuterEffect at houter
  have hmove := moveSetPts_effect s.lawEst.handoverEval s.lawEst.lib.engage.isSome
  have hmoved : s.lawMoved = (s.lawEst.handoverEval.moveSetPts s.lawEst.lib.engage.isSome).deadband := by
    rw [State.lawMoved, engageNow_idle _ (hengage'.trans hengage)]
  unfold MoveEffect at hmove
  dsimp only
  rw [h, houter, hmoved]
  generalize s.lawEst.handoverEval.moveSetPts s.lawEst.lib.engage.isSome = u at hmove
  have hinput' : u.lib.input = s.lib.input := by rw [hmove]; exact hinput
  have hin := inW_congr s hinput'
  have hmode' : u.lib.mode = 4 := by rw [hmove]; exact hmode.trans hm
  have hact' : u.lib.dbActive = s.lib.dbActive := by rw [hmove]; exact hact
  have hsince' : u.lib.dbSince = s.lib.dbSince := by rw [hmove]; exact hsince
  have hclk' : u.clk = s.clk := by rw [hmove]; exact hclk
  have hdwell : dwellNs u = dwellNs s := by simp only [dwellNs, hin]
  obtain ⟨n, hn⟩ := deadband_eq u
  rw [hn]
  simp only [State.modLib_lib, hmode', if_true, dbNext, dbEnds, dbBegins, hin, hact', hsince', hclk', hdwell]

end

/-! ## The commands and the output block (R47, R68, R69, R75) -/

/-! ### A command frame on its way: Ply's queues and the Deckle's tap (R296, R324, R328) -/

/-- What Ply reports of a frame that does not fit its queue. -/
def PlyReport (a : Nat) : Prop := a = Reg.PLY_STAT ∨ a = Reg.MILL_IRQ_PEND 1 ∨ ∃ p, a = Reg.PLY_PORT_DROP p

/-- Nothing changes but Ply's and the Deckle's own state, and Ply's reports. -/
def PlyEffect (s t : State) : Prop :=
  t = { s with regs := t.regs, inst := t.inst, ply := t.ply, dkl := t.dkl } ∧ RegsBut PlyReport s t

theorem PlyEffect.refl (s : State) : PlyEffect s s := ⟨rfl, fun _ _ => rfl⟩

theorem PlyEffect.trans {s t u : State} (h : PlyEffect s t) (h' : PlyEffect t u) : PlyEffect s u := by
  refine ⟨h'.1.trans ?_, h.2.trans h'.2⟩
  rw [h.1]

/-- Local time stands still while registers other than its own change. -/
theorem ext_eq_of_rd {s t : State} (hbase : t.rd Reg.TIM_EXT_BASE = s.rd Reg.TIM_EXT_BASE)
    (hstat : t.rd Reg.TIM_EXT_STAT = s.rd Reg.TIM_EXT_STAT) (hnow : t.rd Reg.TIM_NOW = s.rd Reg.TIM_NOW) : t.ext = s.ext := by
  simp only [State.ext, State.extU, State.rdN, State.bits, hbase, hstat, hnow]

/-- Registers below Ply's window are none of its reports. -/
theorem not_plyReport_below {a : Nat} (h : a < 0x200900000) : ¬PlyReport a := by
  rintro (e | e | ⟨p, e⟩)
  · exact absurd (e ▸ h) (by decide)
  · exact absurd (e ▸ h) (by decide)
  · have : a = 0x200900108 + 0x40 * p := e
    omega

/-- Nor is the state of the Mill's domain. -/
theorem not_plyReport_domain : ¬PlyReport (Reg.PWR_DC_STAT 0) := by
  rintro (e | e | ⟨p, e⟩)
  · exact absurd e (by decide)
  · exact absurd e (by decide)
  · have : 0x200f00004 + 8 * 0 = 0x200900108 + 0x40 * p := e
    omega

theorem plyStat_plyEffect (s : State) (i : Nat) : PlyEffect s (s.plyStat i) := by
  unfold State.plyStat
  have hsrc : (if i = 1 ∨ i = 2 then 40 else if i = 3 ∨ i = 5 then 41 else 42) / 32 = 1 := by split_ifs <;> rfl
  refine ⟨by rw [setStat_onlyRegs], fun a ha => setStat_rd _ _ _ _ _ _ (fun e => ha (.inl e)) fun e => ha (.inr (.inl ?_))⟩
  rw [e, hsrc]

theorem plyEnq_plyEffect (s : State) (p q : Nat) (x : PlyOut) : PlyEffect s (s.plyEnq p q x) := by
  unfold State.plyEnq
  split
  · exact ⟨rfl, fun _ _ => rfl⟩
  · refine PlyEffect.trans (t := s.addSat (Reg.PLY_PORT_DROP p) (8 * q + 7) (8 * q) 1) ⟨rfl, fun a ha => ?_⟩ (plyStat_plyEffect ..)
    exact rd_setBits_other _ _ _ _ fun e => ha (.inr (.inr ⟨p, e⟩))

theorem plyOnNet_plyEffect (s : State) (net q : Nat) (f : List Byte) (id : Option Nat) : PlyEffect s (s.plyOnNet net q f id) := by
  unfold State.plyOnNet
  exact foldl_rel .refl .trans (fun u p => plyEnq_plyEffect u p q _) _ s

theorem plySend_plyEffect (s : State) (ty dest : Nat) (group : Bool) (payload : List Byte) (pcp epoch : Nat) (holder : Bool) :
    PlyEffect s (s.plySend ty dest group payload pcp epoch holder) := by
  unfold State.plySend
  split
  · exact .refl s
  · refine PlyEffect.trans (t := s.plySeqNext dest group) ⟨rfl, fun _ _ => rfl⟩ ?_
    exact (plyOnNet_plyEffect ..).trans (plyOnNet_plyEffect ..)

theorem tapTake_plyEffect (s : State) (body : List Byte) : PlyEffect s (s.tapTake body) := by
  unfold State.tapTake State.ifOn
  split
  · refine foldl_rel .refl .trans (fun u i => ?_) _ s
    unfold State.tapEntry
    dsimp only
    split
    · exact .refl u
    · exact ⟨rfl, fun _ _ => rfl⟩
  · exact .refl s

/-! ### Publication, on time and late (R68, R69) -/

/-- Nothing changes but what a command sent on time does: Ply, the tap, the bodies for the mirror, and when the last one went. -/
def OnTimeEffect (at_ : Nat) (s t : State) : Prop :=
  t = { s with regs := t.regs, inst := t.inst, ply := t.ply, dkl := t.dkl, pair := { s.pair with bodies := t.pair.bodies },
               lib := { s.lib with pubAt := at_ } } ∧ RegsBut PlyReport s t

theorem OnTimeEffect.ext {at_ : Nat} {s t : State} (h : OnTimeEffect at_ s t) : t.ext = s.ext :=
  ext_eq_of_rd (h.2 _ (not_plyReport_below (by decide))) (h.2 _ (not_plyReport_below (by decide)))
    (h.2 _ (not_plyReport_below (by decide)))

theorem OnTimeEffect.trans {a b : Nat} {s t u : State} (h : OnTimeEffect a s t) (h' : OnTimeEffect b t u) : OnTimeEffect b s u := by
  refine ⟨h'.1.trans ?_, h.2.trans h'.2⟩
  rw [h.1]

theorem publish_onTime {s : State} (x : Nat × Nat) (h : s.ext ≤ s.lib.t0 + 18000000) : OnTimeEffect s.clk s (s.publish x) := by
  unfold State.publish
  rw [if_neg (by omega)]
  dsimp only
  generalize wordBytes (cmdBody s x.2) = b
  have hsent := plySend_plyEffect s 1 x.1 false b 6 (cmdEpoch s) (actsHolder s)
  generalize s.plySend 1 x.1 false b 6 (cmdEpoch s) (actsHolder s) = u at hsent
  have htap := tapTake_plyEffect { u with pair := { u.pair with bodies := u.pair.bodies ++ b } } b
  generalize State.tapTake { u with pair := { u.pair with bodies := u.pair.bodies ++ b } } b = v at htap
  refine ⟨?_, hsent.2.trans htap.2⟩
  rw [htap.1, hsent.1]
  rfl

theorem foldl_publish_onTime (xs : List (Nat × Nat)) {s : State} (h : s.ext ≤ s.lib.t0 + 18000000) :
    OnTimeEffect (if xs.isEmpty then s.lib.pubAt else s.clk) s (xs.foldl State.publish s) := by
  induction xs generalizing s with
  | nil => exact ⟨rfl, fun _ _ => rfl⟩
  | cons x xs ih =>
    have hfirst := publish_onTime x h
    have hclk : (s.publish x).clk = s.clk := by rw [hfirst.1]
    have hat : (s.publish x).lib.pubAt = s.clk := by rw [hfirst.1]
    have ht0 : (s.publish x).lib.t0 = s.lib.t0 := by rw [hfirst.1]
    have hrest := ih (s := s.publish x) (by rw [hfirst.ext, ht0]; exact h)
    rw [hclk, hat, ite_self] at hrest
    exact hfirst.trans hrest

/-- Past +18 ms each frame is dropped and counted, and nothing is sent (R69). -/
theorem foldl_publish_late (xs : List (Nat × Nat)) {s : State} (h : s.lib.t0 + 18000000 < s.ext) :
    xs.foldl State.publish s =
      s.modLib fun l => { l with pubLate := l.pubLate || !xs.isEmpty, drops := l.drops + xs.length } := by
  induction xs generalizing s with
  | nil => simp [State.modLib]
  | cons x xs ih =>
    have hfirst : s.publish x = s.modLib fun l => { l with pubLate := true, drops := l.drops + 1 } := if_pos h
    rw [List.foldl_cons, ih (s := s.publish x) (by rw [hfirst]; exact h), hfirst]
    simp [State.modLib, Nat.add_assoc, Nat.add_comm 1]

/-! ### The allocation's report (R169) -/

theorem allocResult_eq (s : State) : ∃ a b c d, s.allocResult = s.modLib fun l =>
    { l with plStale := a, wsRej := b, achieved := c, sat := d } := by
  unfold State.allocResult
  split
  · exact ⟨s.lib.plStale, s.lib.wsRej, s.lib.achieved, s.lib.sat, rfl⟩
  · dsimp only
    split
    · exact ⟨s.lib.plStale, s.lib.wsRej, s.lib.achieved, s.lib.sat, rfl⟩
    · exact ⟨_, _, _, _, rfl⟩

/-! ### The commands kept (R68, R330) -/

section
variable (s : State)

theorem allZero_iff : allZero s = true ↔ s.lib.record = [] ∨ (s.lib.mode = 0 ∧ ∀ d ∈ s.lib.demand, g32Abs d = 0) := by
  simp [allZero]

/-- In a list of triples, word j of the n-th. -/
theorem wAt_flatMap_triples {f : Nat → List Word} (hf : ∀ i, (f i).length = 3) {n i j : Nat} (hi : i < n) (hj : j < 3) :
    wAt ((List.range n).flatMap f) (3 * i + j) = wAt (f i) j := by
  have hlen (m : Nat) : ((List.range m).flatMap f).length = 3 * m := by simp [List.length_flatMap, hf, Nat.mul_comm]
  induction n with
  | zero => omega
  | succ n ih =>
    simp only [wAt, List.range_succ, List.flatMap_append, List.flatMap_singleton] at ih ⊢
    by_cases h : i < n
    · rw [List.getElem?_append_left (by rw [hlen]; omega), ih h]
    · obtain rfl : i = n := by omega
      rw [List.getElem?_append_right (by rw [hlen]; omega), hlen, Nat.add_sub_cancel_left]

theorem cmdEntry_words {id j : Nat} (hj : j < 3) : ((cmdEntry s id).drop 1).length = 3 ∧ wAt ((cmdEntry s id).drop 1) j =
    if allZero s = true ∨ fbit s.lib.thr id = false then (if j = 2 then wAt s.lib.cmd (3 * id + 2) else 0)
    else wAt (s.lib.plan.getD s.lib.applied) (3 * id + j) := by
  have hcond : (allZero s || !fbit s.lib.thr id) = true ↔ allZero s = true ∨ fbit s.lib.thr id = false := by simp
  unfold cmdEntry
  simp only [hcond]
  obtain rfl | rfl | rfl : j = 0 ∨ j = 1 ∨ j = 2 := by omega
  all_goals split <;> exact ⟨rfl, rfl⟩

/-- The commands of all thrusters, three words each. -/
def cmdWords : List Word := (List.range 24).flatMap fun id => (cmdEntry s id).drop 1

theorem wAt_cmdWords {id j : Nat} (hid : id < 24) (hj : j < 3) : wAt (cmdWords s) (3 * id + j) =
    if allZero s = true ∨ fbit s.lib.thr id = false then (if j = 2 then wAt s.lib.cmd (3 * id + 2) else 0)
    else wAt (s.lib.plan.getD s.lib.applied) (3 * id + j) := by
  rw [cmdWords, wAt_flatMap_triples (fun i => (cmdEntry_words s (j := 0) (by decide)).1) hid hj, (cmdEntry_words s hj).2]

/-! ### The output block (R75) -/

/-- The block's words are written, where it lies in DRAM; OUT_SEQ moves on by 2. -/
theorem writeOut_effect : ∃ u, DramEffect s u ∧ s.writeOut = u.modLib fun l => { l with outSeq := (l.outSeq + 2) % 2 ^ 32 } := by
  unfold State.writeOut
  dsimp only
  split
  · exact ⟨_, dmaPut_dramEffect .., rfl⟩
  · exact ⟨s, .refl s, rfl⟩

theorem outWords_length : (outWords s).length = 20 := rfl

theorem writeOut_word (hin : inDram libAddr 4096 = true) (hon : s.domOn 0 = true) {i : Nat} {w : Word} (h : (outWords s)[i]? = some w) :
    rdz s.writeOut.dram (Config.libBlock + 0x200 + 4 * i) 4 = w.toNat := by
  have hblock : inDram (libAddr + 0x200) (4 * (outWords s).length) = true := by
    rw [outWords_length]
    simp only [inDram, Bool.and_eq_true, decide_eq_true_eq] at hin ⊢
    generalize libAddr = a at hin ⊢
    generalize dramBase = b at hin ⊢
    generalize dramSize = n at hin ⊢
    omega
  have haddr : libAddr + 0x200 - dramBase = Config.libBlock + 0x200 := by
    rw [libAddr, Nat.add_assoc, Nat.add_sub_cancel_left]
  unfold State.writeOut
  dsimp only
  rw [if_pos hin, State.modLib_dram, dmaPut_dram, if_pos ⟨hblock, hon⟩, haddr]
  exact memRd_memPut h

end

/-! ### The stage (R40, R47) -/

/-- Nothing changes but what the sending of commands does, on time or late. -/
def SendEffect (s t : State) : Prop :=
  t = { s with regs := t.regs, inst := t.inst, ply := t.ply, dkl := t.dkl, pair := { s.pair with bodies := t.pair.bodies },
               lib := { s.lib with pubLate := t.lib.pubLate, drops := t.lib.drops, pubAt := t.lib.pubAt } } ∧ RegsBut PlyReport s t

theorem OnTimeEffect.send {at_ : Nat} {s t : State} (h : OnTimeEffect at_ s t) : SendEffect s t := ⟨by rw [h.1], h.2⟩

theorem SendEffect.refl (s : State) : SendEffect s s := ⟨rfl, fun _ _ => rfl⟩

theorem SendEffect.late (s : State) (late : Bool) (n : Nat) : SendEffect s (s.modLib fun l => { l with pubLate := late, drops := n }) :=
  ⟨rfl, fun _ _ => rfl⟩

/-- The stage has begun and the allocation's report is read. -/
def State.pubStart (s : State) : State := (s.stageDone 6).allocResult

/-- The command frames are sent, where the module publishes. -/
def State.pubSent (s : State) : State :=
  if publishes s.pubStart then cmdNodes.foldl State.publish s.pubStart else s.pubStart

/-- The commands are kept: they apply from the next t0 (R47). -/
def State.pubKept (s : State) : State :=
  s.pubSent.modLib fun l => { l with cmd := cmdWords s.pubStart, zeroPub := allZero s.pubSent }

section
variable {s : State}

theorem publishes_iff : publishes s = true ↔ holder s = true ∨ pairMode s ≠ 1 ∨ twinNow s = true := by
  simp [publishes, or_assoc]

theorem publishes_modLib (f : LibSt → LibSt) : publishes (s.modLib f) = publishes s := rfl

variable (hdue : stageDue s 6 = true)
include hdue

theorem commandPublication_due : commandPublication s = s.pubKept.writeOut := by
  unfold commandPublication
  rw [if_neg (by simp [hdue])]
  rfl

theorem pubStart_eq : ∃ a b c d, s.pubStart = s.modLib fun l =>
    { l with due := l.due - 64, plStale := a, wsRej := b, achieved := c, sat := d } := by
  have hdone : s.stageDone 6 = s.modLib fun l => { l with due := l.due - 64 } := by
    have hbit : fbit s.lib.due 6 = true := hdue
    simp only [State.stageDone, State.modLib, hbit, if_true]
    rfl
  obtain ⟨a, b, c, d, h⟩ := allocResult_eq (s.stageDone 6)
  refine ⟨a, b, c, d, ?_⟩
  rw [State.pubStart, h, hdone]
  rfl

theorem pubStart_publishes : publishes s.pubStart = true ↔ holder s = true ∨ pairMode s ≠ 1 ∨ twinNow s = true := by
  obtain ⟨a, b, c, d, h⟩ := pubStart_eq hdue
  rw [h, publishes_modLib, publishes_iff]

theorem pubSent_silent (h : ¬(holder s = true ∨ pairMode s ≠ 1 ∨ twinNow s = true)) : s.pubSent = s.pubStart :=
  if_neg ((pubStart_publishes hdue).not.2 h)

section
variable (hsends : holder s = true ∨ pairMode s ≠ 1 ∨ twinNow s = true)
include hsends

theorem pubSent_sends : s.pubSent = cmdNodes.foldl State.publish s.pubStart := if_pos ((pubStart_publishes hdue).2 hsends)

theorem pubSent_late (h : s.lib.t0 + 18000000 < s.ext) : s.pubSent = s.pubStart.modLib fun l =>
    { l with pubLate := l.pubLate || !cmdNodes.isEmpty, drops := l.drops + cmdNodes.length } := by
  rw [pubSent_sends hdue hsends]
  refine foldl_publish_late _ ?_
  obtain ⟨a, b, c, d, hstart⟩ := pubStart_eq hdue
  rw [hstart]
  exact h

theorem pubSent_onTime (h : s.ext ≤ s.lib.t0 + 18000000) :
    OnTimeEffect (if cmdNodes.isEmpty then s.lib.pubAt else s.clk) s.pubStart s.pubSent := by
  rw [pubSent_sends hdue hsends]
  obtain ⟨a, b, c, d, hstart⟩ := pubStart_eq hdue
  have hsent := foldl_publish_onTime cmdNodes (s := s.pubStart) (by rw [hstart]; exact h)
  have hat : s.pubStart.lib.pubAt = s.lib.pubAt := by rw [hstart]; rfl
  have hclk : s.pubStart.clk = s.clk := by rw [hstart]; rfl
  rwa [hat, hclk] at hsent

end

theorem pubSent_effect : SendEffect s.pubStart s.pubSent := by
  by_cases hsends : holder s = true ∨ pairMode s ≠ 1 ∨ twinNow s = true
  · by_cases h : s.lib.t0 + 18000000 < s.ext
    · rw [pubSent_late hdue hsends h]
      exact SendEffect.late _ _ _
    · exact (pubSent_onTime hdue hsends (by omega)).send
  · rw [pubSent_silent hdue hsends]
    exact SendEffect.refl _

/-- The library's words as the output block is written. -/
theorem pubKept_words : let u := s.pubKept
    u.lib.outSeq = s.lib.outSeq ∧ u.lib.k = s.lib.k ∧ u.lib.due = s.lib.due - 64 ∧ u.lib.zeroPub = allZero s ∧
    u.lib.cmd = cmdWords s.pubStart ∧ u.domOn 0 = s.domOn 0 := by
  obtain ⟨a, b, c, d, hstart⟩ := pubStart_eq hdue
  obtain ⟨hsent, hregs⟩ := pubSent_effect hdue
  have hdom : s.pubSent.domOn 0 = s.pubStart.domOn 0 := domOn_eq_of_rd (hregs _ not_plyReport_domain)
  refine ⟨?_, ?_, ?_, ?_, rfl, ?_⟩
  · rw [State.pubKept, State.modLib_lib, hsent, hstart]; rfl
  · rw [State.pubKept, State.modLib_lib, hsent, hstart]; rfl
  · rw [State.pubKept, State.modLib_lib, hsent, hstart]; rfl
  · rw [State.pubKept, State.modLib_lib, hsent, hstart]; rfl
  · rw [State.pubKept, State.modLib_domOn, hdom, hstart, State.modLib_domOn]

/-- The commands kept: zero thrust with the azimuth last commanded, else the plan's. -/
theorem wAt_pubStart_cmdWords {id j : Nat} (hid : id < 24) (hj : j < 3) : wAt (cmdWords s.pubStart) (3 * id + j) =
    if allZero s = true ∨ fbit s.lib.thr id = false then (if j = 2 then wAt s.lib.cmd (3 * id + 2) else 0)
    else wAt (s.lib.plan.getD s.lib.applied) (3 * id + j) := by
  obtain ⟨a, b, c, d, hstart⟩ := pubStart_eq hdue
  rw [wAt_cmdWords _ hid hj, hstart]
  rfl

theorem commandPublication_words (hon : s.domOn 0 = true) : let t := commandPublication s
    t.lib.outSeq = (s.lib.outSeq + 2) % 2 ^ 32 ∧ fbit t.lib.due 6 = false ∧ t.lib.zeroPub = allZero s ∧
    t.lib.cmd = cmdWords s.pubStart ∧
    (inDram libAddr 4096 = true →
      rdz t.dram (Config.libBlock + 0x200) 4 = (s.lib.outSeq + 2) % 2 ^ 32 ∧ rdz t.dram (Config.libBlock + 0x208) 4 = s.lib.k % 2 ^ 32) := by
  obtain ⟨hseq, hk, hdone, hzero, hcmd, hdom⟩ := pubKept_words hdue
  obtain ⟨u, hdram, hout⟩ := writeOut_effect s.pubKept
  dsimp only
  rw [commandPublication_due hdue]
  refine ⟨?_, ?_, ?_, ?_, fun hin => ⟨?_, ?_⟩⟩
  · rw [hout, State.modLib_lib, hdram.lib, hseq]
  · rw [hout, State.modLib_lib, hdram.lib, hdone]
    exact fbit_sub_pow 6 hdue
  · rw [hout, State.modLib_lib, hdram.lib, hzero]
  · rw [hout, State.modLib_lib, hdram.lib, hcmd]
  · refine (writeOut_word _ hin (hdom.trans hon) (i := 0) rfl).trans ?_
    rw [hseq, BitVec.toNat_ofNat]
  · refine (writeOut_word _ hin (hdom.trans hon) (i := 2) rfl).trans ?_
    rw [hk, BitVec.toNat_ofNat]

/-- What the writing of the block leaves as the sending left it. -/
theorem commandPublication_sent : let t := commandPublication s
    t.out = s.out ∧ t.lib.drops = s.pubSent.lib.drops ∧ t.lib.pubAt = s.pubSent.lib.pubAt ∧ t.lib.pubLate = s.pubSent.lib.pubLate ∧
    t.pair.bodies = s.pubSent.pair.bodies ∧ t.ply = s.pubSent.ply := by
  obtain ⟨a, b, c, d, hstart⟩ := pubStart_eq hdue
  obtain ⟨u, hdram, hout⟩ := writeOut_effect s.pubKept
  have hsame : s.pubSent.out = s.out := by rw [(pubSent_effect hdue).1, hstart]; rfl
  dsimp only
  rw [commandPublication_due hdue, hout]
  refine ⟨hdram.out.trans hsame, ?_, ?_, ?_, hdram.bodies, hdram.ply⟩
  · rw [State.modLib_lib, hdram.lib]; rfl
  · rw [State.modLib_lib, hdram.lib]; rfl
  · rw [State.modLib_lib, hdram.lib]; rfl

end

/-! ### O8 -/

/-- Each device's loops at a drive tick (R67, R69): a device that no tile drives stays. -/
theorem driveTick_device {s : State} {id : Nat} (hid : id < 24) (hon : ∀ n, n < 5 → s.domOn n = true) (hrec : s.lib.record ≠ [])
    (happ : s.lib.applied ≠ []) :
    s.driveTick.driveOf id = if (Config.driveTile id).isSome then driveStep s id else s.driveOf id := by
  rw [driveTick_eq s hon hrec happ, driveOf_foldl s id List.nodup_range (List.mem_range.2 hid)]

theorem atValveLimit_some {s : State} {id : Nat} {v : Fin 16} (h : Config.driveValve id = some v) :
    atValveLimit s id = bandAtLimit s v.val := by
  rw [atValveLimit, h]

theorem ifOn_idle {s : State} {n : Nat} {f : State → State} (h : f s = s) : s.ifOn n f = s := by
  unfold State.ifOn
  split
  · exact h
  · rfl

theorem exec_controlLaw {s : State} {late : Bool} (h0 : s.domOn 0 = true) (h1 : s.domOn 1 = true) :
    exec (.controlLaw late) s = .next (controlLaw late s) :=
  congrArg Host.Outcome.next ((ifOn_on s h0).trans (ifOn_on s h1))

theorem controlLaw_idle {s : State} {late : Bool} (h : s.domOn 0 = false ∨ s.domOn 1 = false ∨ fbit s.lib.due 3 = false) :
    NoEffect (.controlLaw late) s := by
  refine congrArg Host.Outcome.next ?_
  obtain h | h | h := h
  · exact ifOn_off s h
  · exact ifOn_idle (ifOn_off s h)
  · exact ifOn_idle (ifOn_idle (if_pos (by simp [stageDue, h])))

theorem exec_commandPublication {s : State} (h0 : s.domOn 0 = true) : exec .commandPublication s = .next (commandPublication s) :=
  congrArg Host.Outcome.next (ifOn_on s h0)

theorem commandPublication_idle {s : State} (h : s.domOn 0 = false ∨ fbit s.lib.due 6 = false) : NoEffect .commandPublication s := by
  refine congrArg Host.Outcome.next ?_
  obtain h | h := h
  · exact ifOn_off s h
  · exact ifOn_idle (if_pos (by simp [stageDue, h]))

/-- Settles O8: the law's stages in the order they run, the sending of commands and the output block's words, and one tick of the
drive loops. The stages, the extrapolation, the engagement and the order of publication are the model's choice (log entries 26, 32,
74 and 77). -/
theorem controlLawAndCommands : Obligations.ControlLawAndCommands := by
  unfold Obligations.ControlLawAndCommands
  refine ⟨fun late s => ?_, fun s => ?_, fun s id hid hon hrec happ => ?_⟩
  · intro go est stale run lt degr ovr
    refine ⟨controlLaw_idle, fun h0 h1 hdue => ?_⟩
    have hgo {P : State → Prop} (h : P (controlLaw late s)) : After go s P := ⟨_, exec_controlLaw h0 h1, h⟩
    have hovr : late = true ∨ lawTrapped s = true ↔ ovr := or_congr_right (lawTrapped_iff s)
    refine ⟨hgo (controlLaw_keeps hdue), fun ho => hgo ?_, fun ho => ?_⟩
    · rw [controlLaw_overruns hdue (hovr.2 ho), lawEst_eq s hdue]
      rfl
    have hrun := hovr.not.2 ho
    have hdegr : libDegr s.lawEst = degr := libDegr_lawEst hdue
    refine ⟨fun hm => hgo fun i hi => controlLaw_joystick hdue hrun hm hi, fun hm he => hgo (controlLaw_deadband hdue hrun hm he),
      fun hm hd he => hgo (controlLaw_engages hdue hrun hm (hdegr.le.trans hd) he),
      fun hm hd => hgo (controlLaw_handover hdue hrun hm (hdegr.trans hd)), fun hm => hgo fun i hi => controlLaw_standby hdue hrun hm hi⟩
  · intro go sends zero
    refine ⟨commandPublication_idle, fun h0 hdue => ?_⟩
    have hgo {P : State → Prop} (h : P (commandPublication s)) : After go s P := ⟨_, exec_commandPublication h0, h⟩
    have hzero : allZero s = true ↔ zero := allZero_iff s
    obtain ⟨hseq, hdone, hzeroPub, hcmd, hdram⟩ := commandPublication_words hdue h0
    obtain ⟨hout, hdrops, hat, hlate, hbodies, hply⟩ := commandPublication_sent hdue
    obtain ⟨a, b, c, d, hstart⟩ := pubStart_eq hdue
    refine ⟨hgo ⟨hseq, hdone, ?_, fun id j hid hj => ?_, hdram⟩, fun hs => hgo ?_, fun hs hpast => hgo ?_, fun hs htime => hgo ?_⟩
    · rw [hzeroPub, Bool.eq_iff_iff, hzero, decide_eq_true_iff]
    · rw [hcmd, wAt_pubStart_cmdWords hdue hid hj]
      simp only [hzero]
    · rw [hout, hdrops, hat, hbodies, hply, pubSent_silent hdue hs, hstart]
      exact ⟨rfl, rfl, rfl, rfl, rfl⟩
    · rw [hdrops, hat, hbodies, hply, hlate, pubSent_late hdue hs hpast, hstart]
      exact ⟨rfl, rfl, rfl, rfl, rfl⟩
    · obtain ⟨hsent, -⟩ := pubSent_onTime hdue hs htime
      rw [hdrops, hat, hsent, hstart]
      exact ⟨rfl, rfl⟩
  · intro x y
    have hy : y = if (Config.driveTile id).isSome then driveStep s id else x := driveTick_device hid hon hrec happ
    split
    next htile => rwa [htile] at hy
    next htile =>
      rw [htile] at hy
      change y = driveStep s id at hy
      rw [hy]
      refine ⟨driveStep_rpm s id, driveStep_pitch s id, fun hslow => ?_, driveStep_integ s id, ?_⟩
      · rw [driveStep_frozen, hslow, Bool.true_or]
      · split
        next v hvalve =>
          intro hlimit
          rw [driveStep_frozen, atValveLimit_some hvalve, hlimit, Bool.or_true]
        next => trivial

end Sys2Proof.Machine

namespace Sys2Proof.Machine

/-! # The Fliqua instruction set: integer units, branches and jumps -/

/-! ## Issuing a unit -/

section
variable {c : CoreId} {s : State} {i : Insn} {k : CoreSt} {d a b : BitVec 6}

/-- What makes a unit legal: its level has it, its selectors and fields are in order, its registers exist, and it follows an L
prefix only where one may stand (R80, R83, R86, R120). -/
theorem Insn.illegal_eq_false : i.illegal c k = false ↔
    i.onLevel c = true ∧ i.bad = false ∧ (∀ r ∈ i.regs, HasReg c r) ∧ (i.pfxOk = true ∨ k.pfx = none) := by
  simp [Insn.illegal, HasReg, Bool.or_eq_false_iff, and_assoc, or_iff_not_imp_left]

theorem Insn.illegal_of_level (h : i.onLevel c = false) : i.illegal c k = true := by simp [Insn.illegal, h]

theorem Insn.illegal_of_bad (h : i.bad = true) : i.illegal c k = true := by simp [Insn.illegal, h]

theorem Insn.illegal_of_reg (h : ¬∀ r ∈ i.regs, HasReg c r) : i.illegal c k = true :=
  Bool.not_eq_false _ ▸ fun e => h (Insn.illegal_eq_false.1 e).2.2.1

theorem Insn.illegal_of_pfx (h : i.pfxOk = false) (hp : k.pfx ≠ none) : i.illegal c k = true :=
  Bool.not_eq_false _ ▸ fun e => by simp [(Insn.illegal_eq_false.1 e).2.2.2.resolve_left (by simp [h])] at hp

/-- An instruction of every level is assigned wherever it is executed. -/
theorem Insn.onLevel_of_all (hT : i.onT = true) (hP : i.onP = true) (hM : i.onM = true) : i.onLevel c = true := by
  cases c <;> simp [Insn.onLevel, hT, hP, hM]

theorem forall_regs_two : (∀ r ∈ [d, a], HasReg c r) ↔ HasReg c d ∧ HasReg c a := by simp

theorem forall_regs_three : (∀ r ∈ [d, a, b], HasReg c r) ↔ HasReg c d ∧ HasReg c a ∧ HasReg c b := by simp

theorem hasReg_mill (core1 : Bool) (r : BitVec 6) : HasReg (.mill core1) r := r.isLt

theorem hasReg_zero (c : CoreId) : HasReg c 0 := by cases c <;> simp [HasReg, coreRegs]

theorem coreWidth_cases (c : CoreId) : (∃ core1, c = .mill core1) ∧ coreWidth c = 64 ∨ (∀ core1, c ≠ .mill core1) ∧ coreWidth c = 32 := by
  cases c <;> simp [coreWidth]

/-- The first word of a unit without a prefix is its own. -/
theorem firstWord_noPfx (h : NoPfx c s) (w : Nat) : (s.core c).firstWord w = w := by
  unfold NoPfx at h
  simp [CoreSt.firstWord, h]

/-- What an illegal unit does. -/
theorem issue_illegal_noPfx {body : CoreSt → State} (h : Ready c s) (hp : NoPfx c s) (bad : i.illegal c (s.core c) = true) :
    s.issue c i body = s.takeTrap c 0 i.word := by
  rw [issue_illegal h bad, firstWord_noPfx hp]

end

/-! ## Values of W bits -/

section
variable {w : Nat} {x y : BitVec w}

/-- The low W bits of a W-bit result are the result. -/
theorem toNat_setWidth_mod (hw : w ≤ 64) (x : BitVec w) : (x.setWidth 64).toNat % 2 ^ w = x.toNat := by
  rw [BitVec.toNat_setWidth_of_le hw, Nat.mod_eq_of_lt x.isLt]

theorem coreWidth_le (c : CoreId) : coreWidth c ≤ 64 := by cases c <;> simp [coreWidth]

theorem coreWidth_pos (c : CoreId) : 0 < coreWidth c := by cases c <;> simp [coreWidth]

theorem flagW_slt : flagW w (x.slt y) = if x.toInt < y.toInt then 1 else 0 := by
  by_cases h : x.toInt < y.toInt <;> simp [flagW, b2n, BitVec.slt, h]

theorem flagW_ult : flagW w (x.ult y) = if x.toNat < y.toNat then 1 else 0 := by
  by_cases h : x.toNat < y.toNat <;> simp [flagW, b2n, BitVec.ult, h]

theorem sshiftRight_eq_ofInt (n : Nat) : x.sshiftRight n = BitVec.ofInt w (x.toInt / 2 ^ n) := by
  rw [BitVec.sshiftRight, Int.shiftRight_eq_div_pow]
  simp

/-- One value stands for another in a register where they agree in W bits. -/
theorem wrote_congr {c : CoreId} {d : BitVec 6} {u v : DWord} {s t : State}
    (h : u.toNat % 2 ^ coreWidth c = v.toNat % 2 ^ coreWidth c) (hw : Wrote c d u s t) : Wrote c d v s t := by
  obtain ⟨hret, hget, hrest⟩ := hw
  exact ⟨hret, fun r => h ▸ hget r, hrest⟩

/-- A legal unit that ends by writing `d` does that and nothing else. -/
theorem wrote_issue {c : CoreId} {s : State} {i : Insn} {t p : Nat} {d : BitVec 6} {f : CoreSt → DWord} {v : DWord} (hr : Ready c s)
    (ok : i.illegal c (s.core c) = false) (hv : (f (s.core c)).toNat % 2 ^ coreWidth c = v.toNat % 2 ^ coreWidth c) :
    Wrote c d v s (s.issue c i fun k => s.finish c k t p d (f k)) := by
  rw [issue_ready hr ok]
  exact wrote_congr hv (wrote_finish hr.1)

end

/-! ### Counting bits (R87) -/

section
variable {w : Nat} {x : BitVec w}

theorem toNat_eq_zero_iff : x.toNat = 0 ↔ x = 0 := by simp [BitVec.toNat_eq]

theorem clzN_le (x : BitVec w) : clzN w x ≤ w := by unfold clzN; split <;> omega

theorem clzN_eq (h : x ≠ 0) : clzN w x = w - 1 - x.toNat.log2 := if_neg h

theorem log2_toNat_lt (h : x ≠ 0) : x.toNat.log2 < w :=
  (Nat.log2_lt (toNat_eq_zero_iff.not.2 h)).2 x.isLt

/-- All bits above the leading zeros are the value's. -/
theorem toNat_lt_of_clzN (x : BitVec w) : x.toNat < 2 ^ (w - clzN w x) := by
  by_cases h : x = 0
  · simp [h]
  · have := log2_toNat_lt h
    rw [clzN_eq h, show w - (w - 1 - x.toNat.log2) = x.toNat.log2 + 1 by omega]
    exact Nat.lt_log2_self

/-- Below the leading zeros stands a one. -/
theorem le_toNat_of_clzN (h : clzN w x < w) : 2 ^ (w - clzN w x - 1) ≤ x.toNat := by
  have h0 : x ≠ 0 := by rintro rfl; simp [clzN] at h
  have := log2_toNat_lt h0
  rw [clzN_eq h0, show w - (w - 1 - x.toNat.log2) - 1 = x.toNat.log2 by omega]
  exact Nat.log2_self_le (toNat_eq_zero_iff.not.2 h0)

end

theorem ctzFrom_le (x n : Nat) : ctzFrom x n ≤ n := by
  induction n generalizing x with
  | zero => exact Nat.le_refl 0
  | succ n ih => have := ih (x / 2); simp only [ctzFrom]; split <;> omega

/-- The bits below the count are zeros. -/
theorem testBit_of_lt_ctzFrom {x n i : Nat} (h : i < ctzFrom x n) : x.testBit i = false := by
  induction n generalizing x i with
  | zero => simp [ctzFrom] at h
  | succ n ih =>
    simp only [ctzFrom] at h
    split at h
    next => simp at h
    next hx =>
      cases i with
      | zero => simpa using hx
      | succ i => rw [Nat.testBit_succ]; exact ih (by omega)

/-- The bit at the count is a one. -/
theorem testBit_ctzFrom {x n : Nat} (h : ctzFrom x n < n) : x.testBit (ctzFrom x n) = true := by
  induction n generalizing x with
  | zero => simp at h
  | succ n ih =>
    simp only [ctzFrom] at h ⊢
    split at h
    next hx => simp [hx]
    next hx => rw [if_neg hx, Nat.add_comm, Nat.testBit_succ]; exact ih (by omega)

theorem popFrom_eq (x n : Nat) : popFrom x n = ((List.range n).filter x.testBit).length := by
  induction n generalizing x with
  | zero => rfl
  | succ n ih =>
    have hbit : x.testBit ∘ Nat.succ = (x / 2).testBit := funext fun i => Nat.testBit_succ ..
    rw [popFrom, ih, List.range_succ_eq_map, List.filter_cons, List.filter_map, hbit]
    rcases Nat.mod_two_eq_zero_or_one x with h | h <;> simp [h, Nat.testBit_zero, Nat.add_comm]

/-! ## The ALU opcode (R87, R88) -/

section
variable {c : CoreId} {s : State} {d a b : BitVec 6}

theorem aluInsn_legal {fn : Nat} {k : CoreSt} (hp : k.pfx = none) (hd : HasReg c d) (ha : HasReg c a) (hb : HasReg c b) :
    (aluInsn fn d a b false).illegal c k = false :=
  Insn.illegal_eq_false.2 ⟨Insn.onLevel_of_all rfl rfl rfl, rfl, forall_regs_three.2 ⟨hd, ha, hb⟩, .inr hp⟩

theorem toNat_apply2_mod (f : (w : Nat) → BitVec w → BitVec w → BitVec w) (c : CoreId) (x y : DWord) :
    (apply2 (coreWidth c) f x y).toNat % 2 ^ coreWidth c = (f _ (x.setWidth (coreWidth c)) (y.setWidth (coreWidth c))).toNat :=
  toNat_setWidth_mod (coreWidth_le c) _

/-- A two-operand ALU unit writes its function of the low W bits of a and b. -/
theorem wrote_alu2 {fn t p : Nat} {f : (w : Nat) → BitVec w → BitVec w → BitVec w} {v : BitVec (coreWidth c)} (hr : Ready c s)
    (hp : NoPfx c s) (hd : HasReg c d) (ha : HasReg c a) (hb : HasReg c b) (hv : f _ (gW c s a) (gW c s b) = v) :
    Wrote c d (v.setWidth 64) s (alu2 fn t p f c d a b s) :=
  wrote_issue hr (aluInsn_legal hp hd ha hb) <| by
    rw [toNat_apply2_mod, toNat_setWidth_mod (coreWidth_le c), ← hv]
    rfl

/-- A one-operand ALU unit, of which b must be g0. -/
theorem wrote_alu1 {fn : Nat} {f : (w : Nat) → BitVec w → BitVec w} (hr : Ready c s) (hp : NoPfx c s) (hd : HasReg c d)
    (ha : HasReg c a) : Wrote c d ((f _ (gW c s a)).setWidth 64) s (alu1 fn f c d a 0 s) :=
  wrote_issue hr (aluInsn_legal hp hd ha (hasReg_zero c)) <| by
    rw [toNat_apply2_mod, toNat_setWidth_mod (coreWidth_le c)]
    rfl

/-- CMOV moves a where b is not zero in W bits; d keeps its value otherwise. -/
theorem wrote_cmov (hr : Ready c s) (hp : NoPfx c s) (hd : HasReg c d) (ha : HasReg c a) (hb : HasReg c b) :
    After (.cmov c d a b) s (Wrote c d ((if gW c s b = 0 then gW c s d else gW c s a).setWidth 64) s) := by
  refine ⟨_, rfl, wrote_issue hr (aluInsn_legal hp hd ha hb) ?_⟩
  have hzero : ((s.core c).g b).toNat % 2 ^ coreWidth c = 0 ↔ gW c s b = 0 := by
    rw [← toNat_eq_zero_iff, gW, BitVec.toNat_setWidth]
  rw [toNat_setWidth_mod (coreWidth_le c)]
  simp only [hzero]
  split <;> simp [gW]

end

/-- Settles O10: every unit is one of the shapes above, and its function gives the value of R87. -/
theorem aluResults : Obligations.AluResults := by
  unfold Obligations.AluResults
  intro c d a b s hr hp hd ha hb x y n put
  have two {fn t p : Nat} {f : (w : Nat) → BitVec w → BitVec w → BitVec w} {v : BitVec (coreWidth c)} (hv : f _ x y = v) :
      put v (alu2 fn t p f c d a b s) := wrote_alu2 hr hp hd ha hb hv
  refine ⟨⟨_, rfl, two rfl⟩, ⟨_, rfl, two rfl⟩, ⟨_, rfl, two rfl⟩, ⟨_, rfl, two rfl⟩, ⟨_, rfl, two rfl⟩, ⟨_, rfl, two rfl⟩,
    ⟨_, rfl, two rfl⟩, ⟨_, rfl, two rfl⟩, ⟨_, rfl, two (sshiftRight_eq_ofInt n)⟩, ⟨_, rfl, two flagW_slt⟩, ⟨_, rfl, two flagW_ult⟩,
    ⟨_, rfl, two ?_⟩, ⟨_, rfl, two ?_⟩, ⟨_, rfl, two ?_⟩, ⟨_, rfl, two ?_⟩, wrote_cmov hr hp hd ha hb, ?_, ?_, ?_⟩
  · simp [BitVec.slt]
  · simp [BitVec.slt]
  · simp [BitVec.ult]
  · simp [BitVec.ult]
  · rintro rfl
    exact ⟨_, rfl, clzN _ x, clzN_le x, wrote_alu1 hr hp hd ha, toNat_lt_of_clzN x, le_toNat_of_clzN⟩
  · rintro rfl
    exact ⟨_, rfl, ctzFrom x.toNat _, ctzFrom_le .., wrote_alu1 hr hp hd ha, fun i => testBit_of_lt_ctzFrom, testBit_ctzFrom⟩
  · rintro rfl
    refine ⟨_, rfl, ?_⟩
    rw [show x.getLsbD = x.toNat.testBit from rfl, ← popFrom_eq]
    exact wrote_alu1 hr hp hd ha

end Sys2Proof.Machine

namespace Sys2Proof.Machine

/-! ## Products and quotients (R87, R88) -/

section
variable {w : Nat} {x y : BitVec w}

theorem mul_eq_ofNat : x * y = BitVec.ofNat w (x.toNat * y.toNat) := BitVec.eq_of_toNat_eq (by simp)

theorem mulHigh_natCast (w m n : Nat) : mulHigh w m n = BitVec.ofNat w (m * n / 2 ^ w) := by
  unfold mulHigh
  exact_mod_cast BitVec.ofInt_natCast (w := w) (n := m * n / 2 ^ w)

theorem ofInt_neg_one : BitVec.ofInt w (-1) = -1 := by rw [BitVec.ofInt_neg]; rfl

theorem neg_one_eq_ofNat : (-1 : BitVec w) = BitVec.ofNat w (2 ^ w - 1) := by
  refine BitVec.neg_one_eq_allOnes.trans ?_
  exact BitVec.eq_of_toNat_eq (by simp [Nat.mod_eq_of_lt (Nat.sub_lt (Nat.two_pow_pos w) Nat.one_pos)])

/-- The most negative value is its own negative (R88). -/
theorem ofInt_neg_of_min (hw : 0 < w) (h : x.toInt = -2 ^ (w - 1)) : BitVec.ofInt w (-x.toInt) = x := by
  have e : (-x.toInt : Int) = x.toInt + (2 ^ w : Nat) := by
    obtain ⟨n, rfl⟩ : ∃ n, w = n + 1 := ⟨w - 1, by omega⟩
    rw [h, Nat.add_sub_cancel]; push_cast; ring
  have zero : BitVec.ofNat w (2 ^ w) = 0 := BitVec.eq_of_toNat_eq (by rw [BitVec.toNat_ofNat, Nat.mod_self]; simp)
  rw [e, BitVec.ofInt_add, BitVec.ofInt_toInt, BitVec.ofInt_natCast, zero]
  exact BitVec.add_zero x

theorem divS_eq (hw : 0 < w) : divS w x y = if y = 0 then -1 else if x.toInt = -2 ^ (w - 1) ∧ y.toInt = -1 then x
    else BitVec.ofInt w (x.toInt.tdiv y.toInt) := by
  unfold divS
  split
  next => exact ofInt_neg_one
  next =>
    split
    next h => rw [h.2, Int.tdiv_neg, Int.tdiv_one, ofInt_neg_of_min hw h.1]
    next => rfl

theorem remS_eq : remS w x y = if y = 0 then x else if x.toInt = -2 ^ (w - 1) ∧ y.toInt = -1 then 0
    else BitVec.ofInt w (x.toInt.tmod y.toInt) := by
  unfold remS
  split
  next => rfl
  next =>
    split
    next h => rw [h.2, Int.tmod_neg, Int.tmod_one]; rfl
    next => rfl

end

/-- Settles O11: each unit is a two-operand ALU unit, and its function gives the value of R88. -/
theorem multiplyDivideResults : Obligations.MultiplyDivideResults := by
  unfold Obligations.MultiplyDivideResults
  intro c d a b s hr hp hd ha hb w x y put
  have two {fn t p : Nat} {f : (w : Nat) → BitVec w → BitVec w → BitVec w} {v : BitVec (coreWidth c)} (hv : f _ x y = v) :
      put v (alu2 fn t p f c d a b s) := wrote_alu2 hr hp hd ha hb hv
  refine ⟨⟨_, rfl, two mul_eq_ofNat⟩, ⟨_, rfl, two rfl⟩, ⟨_, rfl, two (mulHigh_natCast ..)⟩, ⟨_, rfl, two rfl⟩,
    ⟨_, rfl, two (divS_eq (coreWidth_pos c))⟩, ⟨_, rfl, two ?_⟩, ⟨_, rfl, two remS_eq⟩, ⟨_, rfl, two rfl⟩⟩
  unfold divU
  rw [ofInt_neg_one, neg_one_eq_ofNat]

/-! ## ALUW (R89) -/

section
variable {c : CoreId} {s : State} {d a b : BitVec 6} {fn : BitVec 8}

/-- The functions that ALUW accepts (R89). -/
theorem aluwFn_map (x y : BitVec 32) (i : Nat) : (aluwFn i).map (fun f => f x y) =
    if i = 0x00 then some (x + y)
    else if i = 0x01 then some (x - y)
    else if i = 0x06 then some (x <<< (y.toNat % 32))
    else if i = 0x07 then some (x >>> (y.toNat % 32))
    else if i = 0x08 then some (x.sshiftRight (y.toNat % 32))
    else if i = 0x10 then some (x * y)
    else if i = 0x14 then some (if y = 0 then -1 else BitVec.ofInt 32 (x.toInt.tdiv y.toInt))
    else if i = 0x15 then some (if y = 0 then -1 else BitVec.ofNat 32 (x.toNat / y.toNat))
    else if i = 0x16 then some (if y = 0 then x else BitVec.ofInt 32 (x.toInt.tmod y.toInt))
    else if i = 0x17 then some (if y = 0 then x else BitVec.ofNat 32 (x.toNat % y.toNat))
    else none := by
  unfold aluwFn
  split
  case h_11 => simp_all
  all_goals rfl

/-- ALUW with a function that it accepts, on a Mill core. -/
theorem wrote_aluw {core1 : Bool} {f : BitVec 32 → BitVec 32 → BitVec 32} (hr : Ready (.mill core1) s) (hp : NoPfx (.mill core1) s)
    (hf : aluwFn fn.toNat = some f) : After (.aluw (.mill core1) d a b fn) s (Wrote (.mill core1) d
      ((f (((s.core (.mill core1)).g a).setWidth 32) (((s.core (.mill core1)).g b).setWidth 32)).signExtend 64) s) := by
  refine ⟨_, rfl, ?_⟩
  simp only [hf]
  refine wrote_issue hr (Insn.illegal_eq_false.2 ⟨rfl, by simp, ?_, .inr hp⟩) rfl
  exact forall_regs_three.2 ⟨hasReg_mill .., hasReg_mill .., hasReg_mill ..⟩

theorem aluw_illegal (hr : Ready c s) (hp : NoPfx c s) (h : aluwFn fn.toNat = none ∨ ∀ core1, c ≠ .mill core1) :
    After (.aluw c d a b fn) s fun t => t = s.takeTrap c 0 (wordA 0x02 d a b fn.toNat) := by
  refine ⟨_, rfl, issue_illegal_noPfx hr hp ?_⟩
  rcases h with h | h
  · exact Insn.illegal_of_bad (by simp [h])
  · refine Insn.illegal_of_level ?_
    cases c with
    | mill core1 => exact absurd rfl (h core1)
    | _ => rfl

end

/-- Settles O12: ALUW has ten functions, on a Mill core alone; the rest is ILLEGAL. -/
theorem aluwOnLowWords : Obligations.AluwOnLowWords := by
  unfold Obligations.AluwOnLowWords
  intro c d a b fn s hr hp x y n f
  have hf : f fn.toNat = (aluwFn fn.toNat).map fun g => g x y := (aluwFn_map x y fn.toNat).symm
  rw [hf]
  cases h : aluwFn fn.toNat with
  | none => exact aluw_illegal hr hp (.inl h)
  | some g =>
    cases c with
    | mill core1 => exact wrote_aluw hr hp h
    | _ => exact aluw_illegal hr hp (.inr (by simp))

end Sys2Proof.Machine

namespace Sys2Proof.Machine

/-! ## Immediates and offsets (R81, R82, R85) -/

theorem append_eq_ofNat {m n : Nat} (x : BitVec m) (y : BitVec n) : x ++ y = BitVec.ofNat (m + n) (x.toNat * 2 ^ n + y.toNat) := by
  rw [← Nat.shiftLeft_eq, Nat.shiftLeft_add_eq_or_of_lt y.isLt, ← BitVec.toNat_append, BitVec.ofNat_toNat, BitVec.setWidth_eq]

section
variable {c : CoreId} {s : State}

theorem ofInt_immS (imm : BitVec 14) : BitVec.ofInt 64 ((s.core c).immS imm) = sImm c s imm := by
  unfold CoreSt.immS sImm
  cases (s.core c).pfx with
  | none => rfl
  | some l => simp only [append_eq_ofNat]; rfl

theorem ofNat_immU (imm : BitVec 14) : BitVec.ofNat 64 ((s.core c).immU imm) = uImm c s imm := by
  unfold CoreSt.immU uImm
  cases (s.core c).pfx with
  | none => exact BitVec.eq_of_toNat_eq (by simp)
  | some l =>
    refine BitVec.eq_of_toNat_eq ?_
    have : l.toNat * 2 ^ 14 + imm.toNat < 2 ^ 40 := by omega
    simp only [append_eq_ofNat, BitVec.toNat_setWidth, BitVec.toNat_ofNat]
    omega

theorem ofInt_offB (off : BitVec 10) : BitVec.ofInt 64 (4 * (s.core c).offB off) = brOff c s off := by
  unfold CoreSt.offB brOff
  rw [BitVec.ofInt_mul]
  cases (s.core c).pfx with
  | none => rfl
  | some l => simp only [append_eq_ofNat]; rfl

end

/-! ## Where a unit retires to -/

section
variable {c : CoreId} {s t : State} {p : Nat → Prop} {m n : Nat} {d : BitVec 6} {v : DWord}

theorem Retired.congr (h : m % 2 ^ coreWidth c = n % 2 ^ coreWidth c) (hr : Retired p c m s t) : Retired p c n s t := by
  obtain ⟨hpc, hrest⟩ := hr
  exact ⟨h ▸ hpc, hrest⟩

theorem WentTo.congr (h : m % 2 ^ coreWidth c = n % 2 ^ coreWidth c) (hw : WentTo c m s t) : WentTo c n s t := by
  obtain ⟨hret, hrest⟩ := hw
  exact ⟨hret.congr h, hrest⟩

theorem WroteAt.congr (h : m % 2 ^ coreWidth c = n % 2 ^ coreWidth c) (hw : WroteAt c d v m s t) : WroteAt c d v n s t := by
  obtain ⟨hret, hrest⟩ := hw
  exact ⟨hret.congr h, hrest⟩

/-- A unit that writes `d` and goes on at `n`. -/
theorem wroteAt_retireTo {t p : Nat} (hrun : (s.core c).run = .running) :
    WroteAt c d v n s (s.retireTo c ((s.core c).setG (coreWidth c) d v) t p n) := by
  refine ⟨retired_retireTo (by simpa using hrun) (by simp) (by simp), fun r => ?_, onlyCore_retireTo .., ?_, ?_⟩
  · rw [core_retireTo]; exact CoreSt.g_setG ..
  · rw [core_retireTo]; simp
  · rw [core_retireTo]; simp

/-- Retiring writes CYCLE and INSTRET alone of the state registers. -/
theorem srN_retireTo_other {k : CoreSt} {t p m : Nat} (h1 : m ≠ 1) (h2 : m ≠ 2) : ((s.retireTo c k t p n).core c).srN m = k.srN m := by
  rw [core_retireTo]
  change CoreSt.srN (CoreSt.setSr (CoreSt.setSr _ 1 _) 2 _) m = _
  rw [CoreSt.srN_setSr, if_neg h2, CoreSt.srN_setSr, if_neg h1]

theorem relTarget_mod (pc : DWord) (off : Int) :
    relTarget c pc off % 2 ^ coreWidth c = (pc + BitVec.ofInt 64 (4 * off)).toNat % 2 ^ coreWidth c := Nat.mod_mod ..

end

/-! ## Branches (R93) -/

/-- The conditions that BR has, and those that it does not. -/
theorem brTaken_eq (cond : BitVec 4) {w : Nat} (x y : BitVec w) : brTaken cond.toNat w x y =
    if cond = 0 then some (decide (x = y))
    else if cond = 1 then some (decide (x ≠ y))
    else if cond = 2 then some (decide (x.toInt < y.toInt))
    else if cond = 3 then some (decide (y.toInt ≤ x.toInt))
    else if cond = 4 then some (decide (x.toNat < y.toNat))
    else if cond = 5 then some (decide (y.toNat ≤ x.toNat))
    else if cond = 6 then some (decide (x &&& y ≠ 0))
    else if cond = 7 then some (decide (x &&& y = 0))
    else none := by
  obtain ⟨n, hn, rfl⟩ : ∃ n < 16, cond = BitVec.ofNat 4 n := ⟨cond.toNat, cond.isLt, by simp⟩
  have hge : (!decide (x.toInt < y.toInt)) = decide (y.toInt ≤ x.toInt) := by rw [← decide_not]; simp
  have hgeu : (!decide (x.toNat < y.toNat)) = decide (y.toNat ≤ x.toNat) := by rw [← decide_not]; simp
  interval_cases n <;> simp only [brTaken, BitVec.slt, BitVec.ult, hge, hgeu, bne, beq_eq_decide, ← decide_not]
  all_goals rfl

theorem brTaken_isNone (cond : BitVec 4) {w : Nat} (x y : BitVec w) : brTaken cond.toNat w x y = none ↔ 8 ≤ cond.toNat := by
  obtain ⟨n, hn, rfl⟩ : ∃ n < 16, cond = BitVec.ofNat 4 n := ⟨cond.toNat, cond.isLt, by simp⟩
  interval_cases n <;> simp [brTaken]

/-- Settles O13: BR is legal where its condition exists, and goes where the condition sends it. -/
theorem branchConditions : Obligations.BranchConditions := by
  unfold Obligations.BranchConditions
  intro c cond a b off s hr ha hb x y holds
  have hholds : holds = brTaken cond.toNat (coreWidth c) x y := (brTaken_eq cond x y).symm
  rw [hholds]
  cases h : brTaken cond.toNat (coreWidth c) x y with
  | none => exact ⟨_, rfl, issue_illegal hr (Insn.illegal_of_bad (decide_eq_true ((brTaken_isNone ..).1 h)))⟩
  | some taken =>
    have hcond : ¬8 ≤ cond.toNat := (brTaken_isNone cond x y).not.1 (by simp [h])
    have ok {w : Nat} : Insn.illegal ⟨w, true, true, true, [a, b], decide (8 ≤ cond.toNat), true⟩ c (s.core c) = false :=
      Insn.illegal_eq_false.2 ⟨Insn.onLevel_of_all rfl rfl rfl, decide_eq_false hcond, forall_regs_two.2 ⟨ha, hb⟩, .inl rfl⟩
    change brTaken cond.toNat (coreWidth c) (((s.core c).g a).setWidth _) (((s.core c).g b).setWidth _) = _ at h
    cases taken with
    | true =>
      refine ⟨_, rfl, ?_⟩
      rw [issue_ready hr ok]
      simp only [h]
      exact (wentTo_retireTo hr.1).congr (by rw [relTarget_mod, ofInt_offB])
    | false =>
      refine ⟨_, rfl, ?_⟩
      rw [issue_ready hr ok]
      simp only [h]
      exact wentTo_retireTo hr.1

/-! ## What a trap leaves of the general registers -/

theorem CoreSt.g_of_regs {k k' : CoreSt} (h : k'.regs = k.regs) (r : BitVec 6) : k'.g r = k.g r := by
  unfold CoreSt.g; rw [h]

@[simp] theorem CoreSt.regs_setSr (k : CoreSt) (n v : Nat) : (k.setSr n v).regs = k.regs := rfl

@[simp] theorem CoreSt.regs_setMs (k : CoreSt) (hi lo v : Nat) : (k.setMs hi lo v).regs = k.regs := rfl

@[simp] theorem CoreSt.regs_enter (k : CoreSt) (c : CoreId) (x epc cause tval : Nat) : (k.enter c x epc cause tval).regs = k.regs := by
  by_cases h : x = 1 <;> simp [CoreSt.enter, h]

theorem setStat_cores (s : State) (st en src i : Nat) : (s.setStat st en src i).cores = s.cores := by rw [setStat_onlyRegs]

theorem dklStat_cores (s : State) (i : Nat) : (s.dklStat i).cores = s.cores := setStat_cores ..

theorem logOwn_cores (s : State) (src code : Nat) : (s.logOwn src code).cores = s.cores := rfl

theorem dcReport_cores (s : State) (n sev code d0 d1 d2 : Nat) : (s.dcReport n sev code d0 d1 d2).cores = s.cores := rfl

/-- The registers that a safety fault sets: its state and cause, the outputs off and both cuts open (R294, R299). -/
def State.safeOff (s : State) (cause : Nat) : State :=
  (((s.setBits Reg.DKL_STATE 1 0 2).setBits Reg.DKL_STATE 7 4 cause).setBits Reg.DKL_IO_STAT 23 16 0).setBits Reg.DKL_IO_STAT 25 24 3

/-- The Deckle with its alarm output released. -/
def State.alarmOff (s : State) (d : DklSt) : State := { s with dkl := { d with alarmOut := false } }

theorem safeFault_eq {s : State} {cause : Nat} (h : s.bits Reg.DKL_STATE 1 0 ≠ 2) : s.safeFault cause =
    (((s.safeOff cause).dklStat 7).alarmOff (s.safeOff cause).dkl).logOwn 16 cause := by
  unfold State.safeFault
  exact if_neg h

theorem safeOff_onlyRegs (s : State) (cause : Nat) : OnlyRegs s (s.safeOff cause) :=
  ((setBits_onlyRegs ..).trans (setBits_onlyRegs ..)).trans ((setBits_onlyRegs ..).trans (setBits_onlyRegs ..))

theorem alarmOff_cores (s : State) (d : DklSt) : (s.alarmOff d).cores = s.cores := rfl

theorem safeFault_cores (s : State) (cause : Nat) : (s.safeFault cause).cores = s.cores := by
  by_cases h : s.bits Reg.DKL_STATE 1 0 = 2
  · rw [State.safeFault, if_pos h]
  · rw [safeFault_eq h, logOwn_cores, alarmOff_cores, dklStat_cores, (safeOff_onlyRegs s cause).cores]

theorem discardPubs_cores (s : State) (t l : Nat) : (s.discardPubs t l).cores = s.cores :=
  foldl_rel (R := fun s t : State => t.cores = s.cores) (fun _ => rfl) (fun h h' => h'.trans h)
    (fun _ _ => by dsimp only; split <;> rfl) ..

theorem core_of_cores {s t : State} (h : t.cores = s.cores) (c : CoreId) : t.core c = s.core c := by
  unfold State.core; rw [h]

/-- A trapped lane stops; of cores nothing else changes. -/
theorem laneTrap_cores (s : State) (x : Fin 4) (l : Fin 8) (cause tval : Nat) : (s.laneTrap x l cause tval).cores =
    (s.setCore (.lane x l) { s.core (.lane x l) with run := .trapped, pfx := none }).cores := by
  unfold State.laneTrap
  refine (dcReport_cores ..).trans ((setStat_cores ..).trans (discardPubs_cores ..))

/-- No trap writes a general register. -/
theorem sameG_takeTrap (s : State) (c : CoreId) (cause tval : Nat) : SameG c s (s.takeTrap c cause tval) := by
  intro r
  unfold State.takeTrap
  cases c with
  | lane x l =>
    rw [core_of_cores (laneTrap_cores ..), core_setCore_same]
    rfl
  | deckle =>
    rw [core_of_cores (safeFault_cores ..), core_setCore_same]
    exact CoreSt.g_of_regs (by simp) r
  | tender =>
    dsimp only
    split <;> rw [core_setCore_same]
    · rfl
    · exact CoreSt.g_of_regs (by simp) r
  | mill core1 =>
    dsimp only
    split
    · rw [core_of_cores (dcReport_cores ..), core_setCore_same]
      rfl
    · rw [core_setCore_same]
      exact CoreSt.g_of_regs (by simp) r

/-! ## Jumps (R94) -/

section
variable {c : CoreId} {s : State} {d a : BitVec 6} {imm : BitVec 14}

theorem immInsn_legal {op : Nat} {k : CoreSt} (hd : HasReg c d) (ha : HasReg c a) : (immInsn op d a imm).illegal c k = false :=
  Insn.illegal_eq_false.2 ⟨Insn.onLevel_of_all rfl rfl rfl, rfl, forall_regs_two.2 ⟨hd, ha⟩, .inl rfl⟩

theorem jInsn_legal {op : Nat} {off : BitVec 26} {k : CoreSt} (hp : k.pfx = none) : (jInsn op off).illegal c k = false :=
  Insn.illegal_eq_false.2 ⟨Insn.onLevel_of_all rfl rfl rfl, rfl, by simp [jInsn], .inr hp⟩

theorem returnAddr_eq (k : CoreSt) : returnAddr k = k.pc + if k.pfx = none then 4 else 8 := by
  unfold returnAddr CoreSt.unitLen; split <;> rfl

end

/-- Settles O14: J and JL go to their relative target; JR goes to a + imm where that is aligned, and traps otherwise. -/
theorem jumpTargets : Obligations.JumpTargets := by
  unfold Obligations.JumpTargets
  refine ⟨fun c off s hr hp => ?_, fun c d a imm s hr hd ha => ?_⟩
  · intro pc
    have target : relTarget c pc off.toInt % 2 ^ coreWidth c = (pc + 4 * off.signExtend 64).toNat % 2 ^ coreWidth c := by
      rw [relTarget_mod, BitVec.ofInt_mul]; rfl
    refine ⟨⟨_, rfl, ?_⟩, ⟨_, rfl, ?_⟩⟩
    · rw [issue_ready hr (jInsn_legal hp)]
      exact (wentTo_retireTo hr.1).congr target
    · rw [issue_ready hr (jInsn_legal hp), returnAddr_eq, if_pos (show _ = none from hp)]
      exact (wroteAt_retireTo hr.1).congr target
  · intro target back
    have htarget : ((s.core c).g a + BitVec.ofInt 64 ((s.core c).immS imm)).toNat % 2 ^ coreWidth c = target := by rw [ofInt_immS]
    have hback : returnAddr (s.core c) = back := returnAddr_eq _
    split
    next h =>
      refine ⟨_, rfl, ?_⟩
      rw [issue_ready hr (immInsn_legal hd ha)]
      simp only [htarget, h, hback, ne_eq, not_true_eq_false, if_false]
      exact wroteAt_retireTo hr.1
    next h =>
      refine ⟨_, rfl, ?_⟩
      rw [issue_ready hr (immInsn_legal hd ha)]
      simp only [htarget, h, ne_eq, not_false_eq_true, if_true]
      exact ⟨trivial, sameG_takeTrap s c _ _⟩

end Sys2Proof.Machine

namespace Sys2Proof.Machine

/-! ## Fields of a word (R78) -/

section
variable {n lo : Nat}

theorem toNat_fqField (w : BitVec 32) (lo n : Nat) : (fqField w lo n).toNat = w.toNat / 2 ^ lo % 2 ^ n := by
  simp [fqField, BitVec.extractLsb'_toNat, Nat.shiftRight_eq_div_pow]

theorem fqField_eq_iff (w : BitVec 32) (lo : Nat) (x : BitVec n) : fqField w lo n = x ↔ w.toNat / 2 ^ lo % 2 ^ n = x.toNat := by
  rw [BitVec.toNat_eq, toNat_fqField]

theorem toNat_append (x : BitVec lo) (y : BitVec n) : (x ++ y).toNat = x.toNat * 2 ^ n + y.toNat := by
  rw [BitVec.toNat_append, ← Nat.shiftLeft_add_eq_or_of_lt y.isLt, Nat.shiftLeft_eq]

end

/-- The word of an L: its opcode and its 26 bits. -/
theorem fqField_lWord (imm : BitVec 26) : fqField (0x30#6 ++ imm) 26 6 = 0x30 ∧ fqField (0x30#6 ++ imm) 0 26 = imm := by
  have := imm.isLt
  constructor <;> rw [fqField_eq_iff, toNat_append]
  · change (0x30 * 2 ^ 26 + imm.toNat) / 2 ^ 26 % 2 ^ 6 = 0x30
    omega
  · omega

/-! ## The immediate instructions (R90) -/

section
variable {c : CoreId} {s : State} {d a : BitVec 6} {imm : BitVec 14}

theorem wrote_immS {op : Nat} {f : (w : Nat) → BitVec w → BitVec w → BitVec w} {v : BitVec (coreWidth c)} (hr : Ready c s)
    (hd : HasReg c d) (ha : HasReg c a) (hv : f _ (gW c s a) ((sImm c s imm).setWidth _) = v) :
    Wrote c d (v.setWidth 64) s (immSOp op f c d a imm s) :=
  wrote_issue hr (immInsn_legal hd ha) <| by
    rw [toNat_apply2_mod, ofInt_immS, toNat_setWidth_mod (coreWidth_le c), ← hv]
    rfl

theorem wrote_immU {op : Nat} {f : (w : Nat) → BitVec w → BitVec w → BitVec w} {v : BitVec (coreWidth c)} (hr : Ready c s)
    (hd : HasReg c d) (ha : HasReg c a) (hv : f _ (gW c s a) ((uImm c s imm).setWidth _) = v) :
    Wrote c d (v.setWidth 64) s (immUOp op f c d a imm s) :=
  wrote_issue hr (immInsn_legal hd ha) <| by
    rw [toNat_apply2_mod, ofNat_immU, toNat_setWidth_mod (coreWidth_le c), ← hv]
    rfl

theorem wrote_shift {op : Nat} {f : (w : Nat) → BitVec w → Nat → BitVec w} {v : BitVec (coreWidth c)} (hr : Ready c s)
    (hp : NoPfx c s) (hd : HasReg c d) (ha : HasReg c a) (hn : imm.toNat < coreWidth c) (hv : f _ (gW c s a) imm.toNat = v) :
    Wrote c d (v.setWidth 64) s (shiftOp op f c d a imm s) := by
  refine wrote_issue hr (Insn.illegal_eq_false.2
    ⟨Insn.onLevel_of_all rfl rfl rfl, decide_eq_false (by omega), forall_regs_two.2 ⟨hd, ha⟩, .inr hp⟩) ?_
  rw [toNat_apply2_mod, toNat_setWidth_mod (coreWidth_le c), ← hv]
  rfl

/-- An immediate instruction of FQ-M alone, on a Mill core. -/
theorem immInsn_mill_legal {op : Nat} {k : CoreSt} (hw : coreWidth c = 64) (hd : HasReg c d) (ha : HasReg c a) :
    Insn.illegal { immInsn op d a imm with onT := false, onP := false } c k = false := by
  obtain ⟨⟨core1, rfl⟩, -⟩ | ⟨-, h⟩ := coreWidth_cases c
  · exact Insn.illegal_eq_false.2 ⟨rfl, rfl, forall_regs_two.2 ⟨hd, ha⟩, .inl rfl⟩
  · omega

/-- An L prefix leaves its 26 bits in the core, and nothing else. -/
theorem after_lPrefix {imm : BitVec 26} (hr : Ready c s) (hp : NoPfx c s) :
    After (.lPrefix c (0x30#6 ++ imm)) s (· = s.setCore c { s.core c with pfx := some imm }) := by
  obtain ⟨hop, himm⟩ := fqField_lWord imm
  refine ⟨_, if_pos hop, ?_⟩
  rw [issue_ready hr (Insn.illegal_eq_false.2 ⟨Insn.onLevel_of_all rfl rfl rfl, rfl, by simp, .inr hp⟩), himm]

end

/-- Settles O9: L waits in its core; each immediate instruction is one of the shapes above. -/
theorem prefixAndImmediates : Obligations.PrefixAndImmediates := by
  unfold Obligations.PrefixAndImmediates
  refine ⟨fun c imm s hr hp => ?_, fun c d a imm s hr hd ha => ?_⟩
  · obtain ⟨t, hexec, rfl⟩ := after_lPrefix (imm := imm) hr hp
    refine ⟨_, hexec, ?_, ?_, fun o ho => core_setCore_other s _ ho, rfl⟩ <;> rw [core_setCore_same]
  · intro w x i u put
    have imms {op : Nat} {f : (w : Nat) → BitVec w → BitVec w → BitVec w} {v : BitVec (coreWidth c)} (hv : f _ x i = v) :
        put v (immSOp op f c d a imm s) := wrote_immS hr hd ha hv
    have immu {op : Nat} {f : (w : Nat) → BitVec w → BitVec w → BitVec w} {v : BitVec (coreWidth c)} (hv : f _ x u = v) :
        put v (immUOp op f c d a imm s) := wrote_immU hr hd ha hv
    refine ⟨⟨_, rfl, imms rfl⟩, ⟨_, rfl, immu rfl⟩, ⟨_, rfl, immu rfl⟩, ⟨_, rfl, immu rfl⟩, ⟨_, rfl, imms flagW_slt⟩,
      ⟨_, rfl, imms flagW_ult⟩, fun hp hn => ?_, fun hw => ?_, fun h0 => ?_⟩
    · exact ⟨⟨_, rfl, wrote_shift hr hp hd ha hn rfl⟩, ⟨_, rfl, wrote_shift hr hp hd ha hn rfl⟩,
        ⟨_, rfl, wrote_shift hr hp hd ha hn (sshiftRight_eq_ofInt _)⟩⟩
    · exact ⟨⟨_, rfl, wrote_issue hr (immInsn_mill_legal hw hd ha) (by rw [ofInt_immS])⟩,
        ⟨_, rfl, wrote_issue hr (immInsn_mill_legal hw hd ha) (by rw [ofInt_immS])⟩⟩
    · refine ⟨_, rfl, wrote_issue hr (Insn.illegal_eq_false.2
        ⟨Insn.onLevel_of_all rfl rfl rfl, by simp [h0], forall_regs_two.2 ⟨hd, ha⟩, .inl rfl⟩) (by rw [ofInt_immS])⟩

end Sys2Proof.Machine

namespace Sys2Proof.Machine

/-! ## Clock cycles (R119) -/

/-- A unit of a 32-bit core has counted `n` clock cycles in CYCLE and, on a lane, in its period (R119, R134). -/
def Counts (c : CoreId) (n : Nat) (s t : State) : Prop :=
  (t.core c).srN 1 = ((s.core c).srN 1 + n) % 2 ^ 32 ∧ ∀ x l, c = .lane x l → (laneOf t x l).cycles = (laneOf s x l).cycles + n

section
variable {c : CoreId} {s : State} {k : CoreSt} {t p n next : Nat} {d a b : BitVec 6}

theorem unitCycles_lane (hl : ∃ x l, c = .lane x l) (hp : k.pfx = none) : s.unitCycles c k t p = p := by
  obtain ⟨x, l, rfl⟩ := hl
  simp [State.unitCycles, hp, b2n]

theorem unitCycles_tender (hl : ¬∃ x l, c = .lane x l) (hw : coreWidth c = 32) (hp : k.pfx = none) : s.unitCycles c k t p = t := by
  cases c with
  | mill core1 => simp [coreWidth] at hw
  | lane x l => exact absurd ⟨x, l, rfl⟩ hl
  | _ => simp [State.unitCycles, hp, b2n]

/-- Where both levels count alike, a prefix adds one. -/
theorem unitCycles_same (hw : coreWidth c = 32) : s.unitCycles c k n n = n + if k.pfx = none then 0 else 1 := by
  cases c with
  | mill core1 => simp [coreWidth] at hw
  | _ => cases h : k.pfx <;> simp [State.unitCycles, b2n, h]

theorem counts_retireTo (hw : coreWidth c = 32) (h1 : k.srN 1 = (s.core c).srN 1) (hn : s.unitCycles c k t p = n) :
    Counts c n s (s.retireTo c k t p next) := by
  constructor
  · rw [core_retireTo, hw, hn, h1]
    change CoreSt.srN (CoreSt.setSr _ 2 _) 1 = _
    rw [CoreSt.srN_setSr, if_neg (by decide), CoreSt.srN_setSr, if_pos rfl]
    omega
  · rintro x l rfl
    simp only [State.retireTo, hn, laneOf, State.setLane, sget_sset_same, State.wrN_prs, State.setCore_prs]

theorem counts_finish {v : DWord} (hw : coreWidth c = 32) (h1 : k.srN 1 = (s.core c).srN 1) (hn : s.unitCycles c k t p = n) :
    Counts c n s (s.finish c k t p d v) :=
  counts_retireTo hw (by simpa using h1) (by
    rw [← hn]
    cases c <;> simp [State.unitCycles])

theorem counts_alu2 {fn : Nat} {f : (w : Nat) → BitVec w → BitVec w → BitVec w} (hr : Ready c s) (hp : NoPfx c s) (hd : HasReg c d)
    (ha : HasReg c a) (hb : HasReg c b) (hw : coreWidth c = 32) (hn : s.unitCycles c (s.core c) t p = n) :
    Counts c n s (alu2 fn t p f c d a b s) := by
  unfold alu2
  rw [issue_ready hr (aluInsn_legal hp hd ha hb)]
  exact counts_finish hw rfl hn

theorem sysInsn_fence_legal (hp : k.pfx = none) : (sysInsn 0x00 0 0 0 true true (noOperands 0 0 0)).illegal c k = false :=
  Insn.illegal_eq_false.2 ⟨Insn.onLevel_of_all rfl rfl rfl, by decide,
    forall_regs_three.2 ⟨hasReg_zero c, hasReg_zero c, hasReg_zero c⟩, .inr hp⟩

end

/-! ## The FP opcode: when its units are legal (R95, R96) -/

section
variable {c : CoreId} {s : State} {k : CoreSt} {d a b : BitVec 6} {p : Bool} {rm : BitVec 3}

theorem fpInsn_legal {op : Nat} {rmUsed bSel : Bool} (hp : k.pfx = none) (hd : HasReg c d) (ha : HasReg c a)
    (hb : bSel = true ∨ HasReg c b) (hT : c ≠ .tender) (hD : c ≠ .deckle) (hP : p = true → coreWidth c = 64) (hrm : rm.toNat < 5)
    (hused : rmUsed = true ∨ rm = 0) : (fpInsn c op d a b p rm rmUsed false bSel).illegal c k = false := by
  refine Insn.illegal_eq_false.2 ⟨?_, ?_, ?_, .inr hp⟩
  · cases c <;> simp_all [Insn.onLevel, fpInsn]
  · simp only [fpInsn, Bool.or_false, Bool.or_eq_false_iff, Bool.and_eq_false_iff, decide_eq_false_iff_not, Bool.not_eq_false', bne_eq_false_iff_eq]
    refine ⟨⟨?_, by omega⟩, hused⟩
    cases p
    · exact .inl rfl
    · exact .inr (hP rfl)
  · cases bSel with
    | false => exact forall_regs_three.2 ⟨hd, ha, hb.resolve_left (by simp)⟩
    | true => exact forall_regs_two.2 ⟨hd, ha⟩

@[simp] theorem CoreSt.pfx_orFlags (k : CoreSt) (fl : Flags) : (k.orFlags fl).pfx = k.pfx := rfl

theorem CoreSt.srN_orFlags_other {fl : Flags} {n : Nat} (h : n ≠ 0) : (k.orFlags fl).srN n = k.srN n := by
  rw [CoreSt.orFlags, CoreSt.srN_setSr, if_neg h]

theorem counts_fp2 {op n : Nat} {f : FFmt → Rm → Nat → Nat → Nat → Nat × Flags} (hr : Ready c s) (hp : NoPfx c s) (hd : HasReg c d)
    (ha : HasReg c a) (hb : HasReg c b) (hl : ∃ x l, c = .lane x l) :
    Counts c n s (fp2 op n true false f c d a b false 0 s) := by
  have hn (k : CoreSt) (hk : k.pfx = none) : s.unitCycles c k n n = n := unitCycles_lane hl hk
  obtain ⟨x, l, rfl⟩ := hl
  unfold fp2
  rw [issue_ready hr (fpInsn_legal hp hd ha (.inr hb) (by simp) (by simp) (by simp) (by decide) (.inl rfl))]
  exact counts_finish rfl (CoreSt.srN_orFlags_other (by decide)) (hn _ hp)

end

/-- Settles O26: of each unit named, the cycles its own entry of R119's table gives. -/
theorem cycleCounts : Obligations.CycleCounts := by
  unfold Obligations.CycleCounts
  intro c d a b imm s hr hd ha hb hw lane adds
  have alu {fn t p n : Nat} {f : (w : Nat) → BitVec w → BitVec w → BitVec w} (hp : NoPfx c s)
      (hn : s.unitCycles c (s.core c) t p = n) : adds n (alu2 fn t p f c d a b s) := counts_alu2 hr hp hd ha hb hw hn
  have jump {n : Nat} (hp : NoPfx c s) (hn : s.unitCycles c (s.core c) 2 1 = n) : After (.j c 0) s (adds n) := by
    refine ⟨_, rfl, ?_⟩
    rw [issue_ready hr (jInsn_legal hp)]
    exact counts_retireTo hw rfl hn
  refine ⟨fun hl hp => ?_, fun hl hp => ?_, ⟨_, rfl, ?_⟩⟩
  · have count {t p : Nat} : s.unitCycles c (s.core c) t p = t := unitCycles_tender hl hw hp
    refine ⟨⟨_, rfl, alu hp count⟩, ⟨_, rfl, alu hp count⟩, ⟨_, rfl, alu hp count⟩, ⟨_, rfl, alu hp count⟩, jump hp count, ⟨_, rfl, ?_⟩⟩
    rw [issue_ready hr (sysInsn_fence_legal hp)]
    exact counts_retireTo hw rfl count
  · have count {t p : Nat} : s.unitCycles c (s.core c) t p = p := unitCycles_lane hl hp
    exact ⟨⟨_, rfl, alu hp count⟩, ⟨_, rfl, alu hp count⟩, ⟨_, rfl, alu hp count⟩, ⟨_, rfl, alu hp count⟩, jump hp count,
      ⟨_, rfl, counts_fp2 hr hp hd ha hb hl⟩, ⟨_, rfl, counts_fp2 hr hp hd ha (hasReg_zero c) hl⟩,
      ⟨_, rfl, counts_fp2 hr hp hd ha hb hl⟩⟩
  · unfold immSOp
    rw [issue_ready hr (immInsn_legal hd ha)]
    exact counts_finish hw rfl (unitCycles_same hw)

end Sys2Proof.Machine

namespace Sys2Proof.Machine

/-! ## Words and instructions (R78, R86) -/

section
variable {c : CoreId} {w : BitVec 32} {op d a b : BitVec 6} {fn : BitVec 8} {imm : BitVec 14}

/-! ### The fields of a word put together, and a word put together from its fields -/

theorem fields_wordA : fqField (fqWordA op d a b fn) 26 6 = op ∧ fqField (fqWordA op d a b fn) 20 6 = d ∧
    fqField (fqWordA op d a b fn) 14 6 = a ∧ fqField (fqWordA op d a b fn) 8 6 = b ∧ fqField (fqWordA op d a b fn) 0 8 = fn := by
  simp only [fqField_eq_iff, fqWordA, toNat_append]
  omega

theorem fields_wordI : fqField (fqWordI op d a imm) 26 6 = op ∧ fqField (fqWordI op d a imm) 20 6 = d ∧
    fqField (fqWordI op d a imm) 14 6 = a ∧ fqField (fqWordI op d a imm) 0 14 = imm := by
  simp only [fqField_eq_iff, fqWordI, toNat_append]
  omega

theorem wordA_fields (w : BitVec 32) :
    fqWordA (fqField w 26 6) (fqField w 20 6) (fqField w 14 6) (fqField w 8 6) (fqField w 0 8) = w := by
  refine BitVec.eq_of_toNat_eq ?_
  simp only [fqWordA, toNat_append, toNat_fqField]
  omega

theorem wordI_fields (w : BitVec 32) : fqWordI (fqField w 26 6) (fqField w 20 6) (fqField w 14 6) (fqField w 0 14) = w := by
  refine BitVec.eq_of_toNat_eq ?_
  simp only [fqWordI, toNat_append, toNat_fqField]
  omega

/-- FP words are A words whose fn holds P, RM and OP (R95). -/
theorem wordFp_eq (d a b : BitVec 6) (p : Bool) (rm : BitVec 3) (o : BitVec 4) :
    fqWordFp d a b p rm o = fqWordA 0x03 d a b (BitVec.ofBool p ++ rm ++ o) := by
  refine BitVec.eq_of_toNat_eq ?_
  simp only [fqWordFp, fqWordA, toNat_append]
  omega

/-- PUB and SUB are I words whose immediate holds the selector (R141). -/
theorem wordM_eq (d a : BitVec 6) (sel : BitVec 2) (imm : BitVec 12) : fqWordM d a sel imm = fqWordI 0x3B d a (sel ++ imm) := by
  refine BitVec.eq_of_toNat_eq ?_
  simp only [fqWordM, fqWordI, toNat_append]
  omega

theorem fn_fp_fields (w : BitVec 32) : BitVec.ofBool (fqField w 7 1 == 1) ++ fqField w 4 3 ++ fqField w 0 4 = fqField w 0 8 := by
  refine BitVec.eq_of_toNat_eq ?_
  have h1 : (BitVec.ofBool (fqField w 7 1 == 1)).toNat = w.toNat / 2 ^ 7 % 2 := by
    have : fqField w 7 1 = 1 ↔ w.toNat / 2 ^ 7 % 2 = 1 := fqField_eq_iff ..
    rw [BitVec.toNat_ofBool, beq_eq_decide]
    by_cases h : fqField w 7 1 = 1
    · rw [decide_eq_true h, this.1 h]; rfl
    · have := this.not.1 h
      rw [decide_eq_false h, Bool.toNat_false]
      omega
  simp only [toNat_append, toNat_fqField, h1]
  omega

theorem imm_mbox_fields (w : BitVec 32) : fqField w 12 2 ++ fqField w 0 12 = fqField w 0 14 := by
  refine BitVec.eq_of_toNat_eq ?_
  simp only [toNat_append, toNat_fqField]
  omega

/-! ### What a word of each format decodes to -/

theorem fqDecode_wordA (hop : fqFormat op.toNat = some .a) (h2 : op.toNat ≠ 2) (h3 : op.toNat ≠ 3) :
    fqDecode c (fqWordA op d a b fn) = (fqA op.toNat fn.toNat).map fun f => f c d a b := by
  obtain ⟨e1, e2, e3, e4, e5⟩ := fields_wordA (op := op) (d := d) (a := a) (b := b) (fn := fn)
  simp only [fqDecode, e1, e2, e3, e4, e5, hop, h2, h3, if_false]

theorem fqDecode_aluw : fqDecode c (fqWordA 0x02 d a b fn) = some (.aluw c d a b fn) := by
  obtain ⟨e1, e2, e3, e4, e5⟩ := fields_wordA (op := 0x02) (d := d) (a := a) (b := b) (fn := fn)
  simp only [fqDecode, e1, e2, e3, e4, e5]
  rfl

theorem fqDecode_wordFp {p : Bool} {rm : BitVec 3} {o : BitVec 4} :
    fqDecode c (fqWordFp d a b p rm o) = (fqFp o.toNat).map fun f => f c d a b p rm := by
  obtain ⟨e1, e2, e3, e4, -⟩ := fields_wordA (op := 0x03) (d := d) (a := a) (b := b) (fn := BitVec.ofBool p ++ rm ++ o)
  rw [← wordFp_eq] at e1 e2 e3 e4
  have ho : fqField (fqWordFp d a b p rm o) 0 4 = o := by simp only [fqField_eq_iff, fqWordFp, toNat_append]; omega
  have hrm : fqField (fqWordFp d a b p rm o) 4 3 = rm := by simp only [fqField_eq_iff, fqWordFp, toNat_append]; omega
  have hp : fqField (fqWordFp d a b p rm o) 7 1 = BitVec.ofBool p := by
    simp only [fqField_eq_iff, fqWordFp, toNat_append]; omega
  have hp' : (fqField (fqWordFp d a b p rm o) 7 1 == 1) = p := by rw [hp]; cases p <;> rfl
  simp only [fqDecode, e1, e2, e3, e4, ho, hrm, hp']
  rfl

theorem fqDecode_wordI (hop : fqFormat op.toNat = some .i) (h : op.toNat ≠ 0x3B) :
    fqDecode c (fqWordI op d a imm) = (fqImm op.toNat).map fun f => f c d a imm := by
  obtain ⟨e1, e2, e3, e4⟩ := fields_wordI (op := op) (d := d) (a := a) (imm := imm)
  simp only [fqDecode, e1, e2, e3, e4, hop, h, if_false]

theorem fqDecode_wordM {sel : BitVec 2} {imm : BitVec 12} :
    fqDecode c (fqWordM d a sel imm) = (fqMbox sel.toNat).map fun f => f c d a imm := by
  obtain ⟨e1, e2, e3, -⟩ := fields_wordI (op := 0x3B) (d := d) (a := a) (imm := sel ++ imm)
  rw [← wordM_eq] at e1 e2 e3
  have hsel : fqField (fqWordM d a sel imm) 12 2 = sel := by simp only [fqField_eq_iff, fqWordM, toNat_append]; omega
  have himm : fqField (fqWordM d a sel imm) 0 12 = imm := by simp only [fqField_eq_iff, fqWordM, toNat_append]; omega
  simp only [fqDecode, e1, e2, e3, hsel, himm]
  rfl

theorem fqDecode_br {cond : BitVec 4} {off : BitVec 10} :
    fqDecode c ((0x20 : BitVec 6) ++ cond ++ a ++ b ++ off) = some (.br c cond a b off) := by
  generalize hw : (0x20 : BitVec 6) ++ cond ++ a ++ b ++ off = w
  have e1 : fqField w 26 6 = 0x20 := by simp only [← hw, fqField_eq_iff, toNat_append]; omega
  have e2 : fqField w 22 4 = cond := by simp only [← hw, fqField_eq_iff, toNat_append]; omega
  have e3 : fqField w 16 6 = a := by simp only [← hw, fqField_eq_iff, toNat_append]; omega
  have e4 : fqField w 10 6 = b := by simp only [← hw, fqField_eq_iff, toNat_append]; omega
  have e5 : fqField w 0 10 = off := by simp only [← hw, fqField_eq_iff, toNat_append]; omega
  simp only [fqDecode, e1, e2, e3, e4, e5]
  rfl

theorem fqDecode_wordJ {off : BitVec 26} (hop : fqFormat op.toNat = some .j) :
    fqDecode c (op ++ off) = some (if op.toNat = 0x24 then .j c off else .jl c off) := by
  have e1 : fqField (op ++ off) 26 6 = op := by simp only [fqField_eq_iff, toNat_append]; omega
  have e2 : fqField (op ++ off) 0 26 = off := by simp only [fqField_eq_iff, toNat_append]; omega
  simp only [fqDecode, e1, e2, hop]

theorem fqDecode_l (h : fqField w 26 6 = 0x30) : fqDecode c w = some (.lPrefix c w) := by
  simp only [fqDecode, h]
  rfl

end

/-- An instruction's word decodes to it. -/
theorem fqDecode_of_fqEncode {c : CoreId} {w : BitVec 32} {i : Instr} (h : fqEncode i = some (c, w)) : fqDecode c w = some i := by
  unfold fqEncode at h
  split at h
  -- ALUW and BR have opcodes of their own, an L its word; the last case is every command that is no Fliqua instruction.
  case h_28 => cases h; exact fqDecode_aluw
  case h_110 => cases h; exact fqDecode_br
  case h_113 =>
    split at h
    next hl => cases h; exact fqDecode_l hl
    next => cases h
  case h_114 => cases h
  all_goals
    cases h
    simp [fqDecode_wordA, fqDecode_wordFp, fqDecode_wordI, fqDecode_wordM, fqDecode_wordJ, fqFormat, fqA, fqAlu, fqFp, fqImm, fqAtom,
      fqSys, fqCtl, fqFix, fqMbox]

/-! ### What the tables' instructions encode to -/

section
variable {c : CoreId} {d a b : BitVec 6} {n m : Nat}

theorem fqEncode_fqA {f : CoreId → BitVec 6 → BitVec 6 → BitVec 6 → Instr} (h : fqA n m = some f) :
    fqEncode (f c d a b) = some (c, fqWordA (BitVec.ofNat 6 n) d a b (BitVec.ofNat 8 m)) := by
  unfold fqA at h
  split at h
  next hn => subst hn; unfold fqAlu at h; split at h <;> cases h <;> rfl
  split at h
  next hn => subst hn; unfold fqAtom at h; split at h <;> cases h <;> rfl
  split at h
  next hn => subst hn; unfold fqSys at h; split at h <;> cases h <;> rfl
  split at h
  next hn => subst hn; unfold fqCtl at h; split at h <;> cases h <;> rfl
  split at h
  next hn => subst hn; unfold fqFix at h; split at h <;> cases h <;> rfl
  cases h

theorem fqEncode_fqFp {f : CoreId → BitVec 6 → BitVec 6 → BitVec 6 → Bool → BitVec 3 → Instr} {p : Bool} {rm : BitVec 3}
    (h : fqFp n = some f) : fqEncode (f c d a b p rm) = some (c, fqWordFp d a b p rm (BitVec.ofNat 4 n)) := by
  unfold fqFp at h
  split at h <;> cases h <;> rfl

theorem fqEncode_fqImm {f : CoreId → BitVec 6 → BitVec 6 → BitVec 14 → Instr} {imm : BitVec 14} (h : fqImm n = some f) :
    fqEncode (f c d a imm) = some (c, fqWordI (BitVec.ofNat 6 n) d a imm) := by
  unfold fqImm at h
  split at h <;> cases h <;> rfl

theorem fqEncode_fqMbox {f : CoreId → BitVec 6 → BitVec 6 → BitVec 12 → Instr} {imm : BitVec 12} (h : fqMbox n = some f) :
    fqEncode (f c d a imm) = some (c, fqWordM d a (BitVec.ofNat 2 n) imm) := by
  unfold fqMbox at h
  split at h <;> cases h <;> rfl

theorem fqFormat_b (h : fqFormat n = some .b) : n = 0x20 := by
  unfold fqFormat at h; split_ifs at h <;> simp_all

theorem fqFormat_j (h : fqFormat n = some .j) : n = 0x24 ∨ n = 0x25 := by
  unfold fqFormat at h; split_ifs at h <;> simp_all

theorem fqFormat_l (h : fqFormat n = some .l) : n = 0x30 := by
  unfold fqFormat at h; split_ifs at h <;> simp_all

end

/-- What a word decodes to encodes to that word. -/
theorem fqEncode_of_fqDecode {c : CoreId} {w : BitVec 32} {i : Instr} (h : fqDecode c w = some i) : fqEncode i = some (c, w) := by
  have op_eq {n : BitVec 6} (hn : (fqField w 26 6).toNat = n.toNat) : fqField w 26 6 = n := BitVec.eq_of_toNat_eq hn
  simp only [fqDecode] at h
  split at h
  case h_1 => cases h
  case h_2 =>
    split at h
    next h2 =>
      cases h
      have word := wordA_fields w
      rw [op_eq (n := 0x02) h2] at word
      rw [fqEncode, word]
    split at h
    next h3 =>
      obtain ⟨f, hf, rfl⟩ := Option.map_eq_some_iff.1 h
      have word := wordA_fields w
      rw [op_eq (n := 0x03) h3, ← fn_fp_fields, ← wordFp_eq] at word
      rw [fqEncode_fqFp hf, BitVec.ofNat_toNat, BitVec.setWidth_eq, word]
    next =>
      obtain ⟨f, hf, rfl⟩ := Option.map_eq_some_iff.1 h
      rw [fqEncode_fqA hf]
      simp only [BitVec.ofNat_toNat, BitVec.setWidth_eq, wordA_fields]
  case h_3 =>
    split at h
    next h3 =>
      obtain ⟨f, hf, rfl⟩ := Option.map_eq_some_iff.1 h
      have word := wordI_fields w
      rw [op_eq (n := 0x3B) h3, ← imm_mbox_fields, ← wordM_eq] at word
      rw [fqEncode_fqMbox hf, BitVec.ofNat_toNat, BitVec.setWidth_eq, word]
    next =>
      obtain ⟨f, hf, rfl⟩ := Option.map_eq_some_iff.1 h
      rw [fqEncode_fqImm hf]
      simp only [BitVec.ofNat_toNat, BitVec.setWidth_eq, wordI_fields]
  case h_4 hb =>
    cases h
    refine congrArg (fun w => some (c, w)) (BitVec.eq_of_toNat_eq ?_)
    have hop := fqFormat_b hb
    rw [toNat_fqField] at hop
    simp only [toNat_append, toNat_fqField]
    change ((((0x20 * _ + _) * _ + _) * _ + _) * _ + _ : Nat) = _
    omega
  case h_5 hj =>
    have word (n : BitVec 6) (hn : (fqField w 26 6).toNat = n.toNat) : n ++ fqField w 0 26 = w := by
      refine BitVec.eq_of_toNat_eq ?_
      rw [toNat_fqField] at hn
      rw [toNat_append, toNat_fqField]
      omega
    cases h
    rcases fqFormat_j hj with h24 | h25
    · rw [if_pos h24, fqEncode, word 0x24 h24]
    · rw [if_neg (by omega), fqEncode, word 0x25 h25]
  case h_6 hl =>
    cases h
    exact if_pos (op_eq (n := 0x30) (fqFormat_l hl))

end Sys2Proof.Machine

namespace Sys2Proof.Machine

/-! ### Which words spell an instruction -/

section
variable {n : Nat}

theorem fqAlu_none : fqAlu n = none ↔ ¬n ≤ 0x1A := by
  unfold fqAlu
  split <;> simp_all
  omega

theorem fqAtom_none : fqAtom n = none ↔ ¬n ≤ 3 := by
  unfold fqAtom
  split <;> simp_all
  omega

theorem fqSys_none : fqSys n = none ↔ ¬n ≤ 5 := by
  unfold fqSys
  split <;> simp_all
  omega

theorem fqCtl_none : fqCtl n = none ↔ ¬n ≤ 4 := by
  unfold fqCtl
  split <;> simp_all
  omega

theorem fqFix_none : fqFix n = none ↔ ¬(n ≤ 5 ∨ (8 ≤ n ∧ n ≤ 0x0D) ∨ n = 0x10 ∨ n = 0x11 ∨ (0x18 ≤ n ∧ n ≤ 0x1B)) := by
  unfold fqFix
  split <;> simp_all
  omega

theorem fqMbox_none : fqMbox n = none ↔ ¬n < 2 := by
  unfold fqMbox
  split <;> simp_all
  omega

/-- Every OP of the FP opcode is listed. -/
theorem fqFp_ne_none (h : n < 16) : fqFp n ≠ none := by interval_cases n <;> simp [fqFp]

end

/-- The words that spell an instruction: R86's opcodes, and within four of them the listed fn (R87, R100, R105, R141, R148). -/
theorem fqDecode_isSome (c : CoreId) (w : BitVec 32) {op fn : Nat} (hop : w.toNat / 2 ^ 26 = op) (hfn : w.toNat % 2 ^ 8 = fn) :
    fqDecode c w ≠ none ↔ (op = 0x01 ∧ fn ≤ 0x1A) ∨ (0x02 ≤ op ∧ op ≤ 0x16) ∨ (0x18 ≤ op ∧ op ≤ 0x1B) ∨ (op = 0x1C ∧ fn ≤ 3) ∨
      op = 0x20 ∨ (0x24 ≤ op ∧ op ≤ 0x26) ∨ (0x28 ≤ op ∧ op ≤ 0x2C) ∨ (op = 0x2D ∧ fn ≤ 5) ∨ op = 0x30 ∨ (op = 0x38 ∧ fn ≤ 4) ∨
      (op = 0x39 ∧ (fn ≤ 5 ∨ (8 ≤ fn ∧ fn ≤ 0x0D) ∨ fn = 0x10 ∨ fn = 0x11 ∨ (0x18 ≤ fn ∧ fn ≤ 0x1B))) ∨ op = 0x3A ∨
      (op = 0x3B ∧ w.toNat / 2 ^ 12 % 4 < 2) := by
  have hop' : (fqField w 26 6).toNat = op := by rw [toNat_fqField]; omega
  have hfn' : (fqField w 0 8).toNat = fn := by rw [toNat_fqField]; omega
  have hsel : (fqField w 12 2).toNat = w.toNat / 2 ^ 12 % 4 := toNat_fqField ..
  have hfp := fqFp_ne_none (fqField w 0 4).isLt
  have hlt : op < 64 := by omega
  simp only [fqDecode, hop', hfn', hsel]
  clear hop hfn hop' hfn' hsel
  interval_cases op <;>
    simp [fqFormat, fqA, fqImm, hfp, fqAlu_none, fqAtom_none, fqSys_none, fqCtl_none, fqFix_none, fqMbox_none, -not_or, -not_le, -not_lt]

/-! ## ILLEGAL units (R83, R86, R120) -/

section
variable {c : CoreId} {s : State} {w : BitVec 32}

/-- A word that spells no instruction raises ILLEGAL. -/
theorem after_unlisted (hr : Ready c s) (h : fqDecode c w = none) :
    After (.lPrefix c w) s fun t => t = s.takeTrap c 0 ((s.core c).firstWord w.toNat) := by
  have hop : fqField w 26 6 ≠ 0x30 := fun hl => by simp [fqDecode_l hl] at h
  exact ⟨_, (if_neg hop).trans (if_pos h), issue_illegal hr (Insn.illegal_of_bad rfl)⟩

end

/-- Settles O25: words and instructions are each other's, and what is not listed, not there or not allowed is ILLEGAL. -/
theorem illegalUnits : Obligations.IllegalUnits := by
  unfold Obligations.IllegalUnits
  refine ⟨fun c w i => ⟨fqEncode_of_fqDecode, fqDecode_of_fqEncode⟩, fun c w => fqDecode_isSome c w rfl rfl,
    fun c w s hr h => after_unlisted hr h, fun c d a b imm s hr => ?_⟩
  intro first illegal
  have trap {i : Insn} {body : CoreSt → State} (bad : i.illegal c (s.core c) = true) : illegal i.word (s.issue c i body) :=
    issue_illegal hr bad
  refine ⟨fun h => ?_, fun h => ?_, fun hw => ?_, fun hb => ?_, fun hn => ?_, fun hp => ?_⟩
  · have bad {i : Insn} (hi : i.regs = [d, a, b]) : i.illegal c (s.core c) = true :=
      Insn.illegal_of_reg fun hall => h (forall_regs_three.1 (hi ▸ hall))
    exact ⟨⟨_, rfl, trap (bad rfl)⟩, ⟨_, rfl, trap (bad rfl)⟩⟩
  · have bad {i : Insn} (hi : i.regs = [d, a]) : i.illegal c (s.core c) = true :=
      Insn.illegal_of_reg fun hall => h (forall_regs_two.1 (hi ▸ hall))
    exact ⟨⟨_, rfl, trap (bad rfl)⟩, ⟨_, rfl, trap (bad rfl)⟩, ⟨_, rfl, trap (bad rfl)⟩⟩
  · have bad {i : Insn} (hT : i.onT = false) (hP : i.onP = false) : i.illegal c (s.core c) = true := by
      refine Insn.illegal_of_level ?_
      cases c with
      | mill core1 => simp [coreWidth] at hw
      | lane x l => exact hP
      | _ => exact hT
    refine ⟨⟨_, rfl, trap (bad rfl rfl)⟩, ⟨_, rfl, trap (Insn.illegal_of_bad ?_)⟩, ⟨_, rfl, trap (bad rfl rfl)⟩⟩
    simp [fpInsn, hw]
  · exact ⟨_, rfl, trap (Insn.illegal_of_bad (bne_iff_ne.2 hb))⟩
  · exact ⟨_, rfl, trap (Insn.illegal_of_bad (decide_eq_true hn))⟩
  · have bad {i : Insn} (hi : i.pfxOk = false) : i.illegal c (s.core c) = true := Insn.illegal_of_pfx hi hp
    refine ⟨⟨_, rfl, trap (bad rfl)⟩, ⟨_, (if_pos (fqField_lWord 0).1 : execLPrefix c _ s = _), trap (bad rfl)⟩,
      ⟨_, rfl, trap (bad rfl)⟩, ⟨_, rfl, trap (bad rfl)⟩⟩

end Sys2Proof.Machine

namespace Sys2Proof.Machine

/-! # Floating point (R95-R99) -/

/-! ## Fields of an encoding -/

section
variable {f : FFmt} {x y d : Nat}

theorem fpMag_eq (f : FFmt) (x : Nat) : fpMag f x = x / 2 ^ f.mb % 2 ^ f.eb * 2 ^ f.mb + x % 2 ^ f.mb := by
  rw [fpMag, Nat.add_comm f.eb, Nat.pow_add, Nat.mod_mul]
  ring

/-- An encoding is a NaN where its exponent field is full and its fraction is not 0. -/
theorem isNan_iff : isNan f x = true ↔ x / 2 ^ f.mb % 2 ^ f.eb = f.expMax ∧ x % 2 ^ f.mb ≠ 0 := by
  have hex : x / 2 ^ f.mb % 2 ^ f.eb ≤ f.expMax := Nat.le_sub_one_of_lt (Nat.mod_lt _ (Nat.two_pow_pos _))
  have hfr : x % 2 ^ f.mb < 2 ^ f.mb := Nat.mod_lt _ (Nat.two_pow_pos _)
  rw [isNan, decide_eq_true_iff, fpMag_eq]
  generalize x / 2 ^ f.mb % 2 ^ f.eb = ex at *
  generalize x % 2 ^ f.mb = fr at *
  rcases Nat.lt_or_eq_of_le hex with h | rfl
  · have : (ex + 1) * 2 ^ f.mb ≤ f.expMax * 2 ^ f.mb := Nat.mul_le_mul_right _ h
    have : (ex + 1) * 2 ^ f.mb = ex * 2 ^ f.mb + 2 ^ f.mb := Nat.succ_mul ..
    exact ⟨fun _ => by omega, fun h' => by omega⟩
  · exact ⟨fun _ => ⟨rfl, by omega⟩, fun h' => by omega⟩

theorem fbit_mod_two_pow {m i : Nat} (h : i < m) : fbit (x % 2 ^ m) i = fbit x i := by
  rw [fbit_eq, fbit_eq, Nat.testBit_mod_two_pow]
  simp [h]

/-- What a NaN decodes to: signalling where the fraction's top bit is clear. -/
theorem fpDecode_nan (hm : 0 < f.mb) (h : isNan f x = true) : fpDecode f x = .nan (!fbit x (f.mb - 1)) := by
  obtain ⟨hex, hfr⟩ := isNan_iff.1 h
  simp only [fpDecode, hex, hfr, if_true, if_false]
  rw [fbit_mod_two_pow (by omega)]

/-- No other encoding decodes to a NaN. -/
theorem isNan_of_fpDecode {b : Bool} (h : fpDecode f x = .nan b) : isNan f x = true := by
  simp only [fpDecode] at h
  split at h
  next hex =>
    split at h
    · cases h
    next hfr => exact isNan_iff.2 ⟨hex, hfr⟩
  next => split at h <;> cases h

theorem fpDecode_ne_nan (h : isNan f x = false) (b : Bool) : fpDecode f x ≠ .nan b := fun e => by
  simp [isNan_of_fpDecode e] at h

end

/-! ## NaN operands (R97, R98) -/

/-- An encoding is a signalling NaN. -/
def isSnan (f : FFmt) (x : Nat) : Bool := isNan f x && !fbit x (f.mb - 1)

section
variable {f : FFmt} {x y d : Nat}

theorem anySnan_cons (v : FVal) (vs : List FVal) : anySnan (v :: vs) = ((v == .nan true) || anySnan vs) := by
  cases v with
  | nan b => cases b <;> rfl
  | _ => rfl

theorem fpDecode_snan (hm : 0 < f.mb) (x : Nat) : (fpDecode f x == .nan true) = isSnan f x := by
  cases h : isNan f x with
  | true =>
    rw [fpDecode_nan hm h, isSnan, h]
    cases fbit x (f.mb - 1) <;> rfl
  | false =>
    rw [isSnan, h]
    exact beq_eq_false_iff_ne.2 (fpDecode_ne_nan h true)

theorem negV_snan (v : FVal) : (negV v == .nan true) = (v == .nan true) := by cases v <;> rfl

theorem nanOf_pair (f : FFmt) (v w : FVal) :
    nanOf f [v, w] = (f.qnan, if (v == .nan true) || (w == .nan true) then 16 else 0) := by
  simp [nanOf, anySnan_cons, anySnan]

/-- A sum with a NaN among its terms. -/
theorem addV_nan (r : Rm) (v w : FVal) (h : (∃ b, v = .nan b) ∨ ∃ b, w = .nan b) : addV f r v w = nanOf f [v, w] := by
  rcases h with ⟨b, rfl⟩ | ⟨b, rfl⟩
  · rfl
  · cases v <;> rfl

variable (hm : 0 < f.mb)
include hm

theorem fpDecode_isNan_or (h : isNan f x = true ∨ isNan f y = true) :
    (∃ b, fpDecode f x = .nan b) ∨ ∃ b, fpDecode f y = .nan b :=
  h.imp (fun h => ⟨_, fpDecode_nan hm h⟩) fun h => ⟨_, fpDecode_nan hm h⟩

theorem nanOf_decode : nanOf f [fpDecode f x, fpDecode f y] = (f.qnan, if isSnan f x || isSnan f y then 16 else 0) := by
  rw [nanOf_pair, fpDecode_snan hm, fpDecode_snan hm]

theorem fpAdd_nan (r : Rm) (h : isNan f x = true ∨ isNan f y = true) :
    fpAdd f r x y = (f.qnan, if isSnan f x || isSnan f y then 16 else 0) :=
  (addV_nan r _ _ (fpDecode_isNan_or hm h)).trans (nanOf_decode hm)

theorem fpSub_nan (r : Rm) (h : isNan f x = true ∨ isNan f y = true) :
    fpSub f r x y = (f.qnan, if isSnan f x || isSnan f y then 16 else 0) := by
  refine (addV_nan r _ _ ((fpDecode_isNan_or hm h).imp_right fun ⟨b, hb⟩ => ⟨b, by rw [hb]; rfl⟩)).trans ?_
  rw [nanOf_pair, negV_snan, ← nanOf_pair]
  exact nanOf_decode hm

theorem fpMul_nan (r : Rm) (h : isNan f x = true ∨ isNan f y = true) :
    fpMul f r x y = (f.qnan, if isSnan f x || isSnan f y then 16 else 0) := by
  rw [← nanOf_decode hm, fpMul]
  rcases fpDecode_isNan_or hm h with ⟨b, hb⟩ | ⟨b, hb⟩
  · rw [hb]
  · rw [hb]; cases fpDecode f x <;> rfl

theorem fpDiv_nan (r : Rm) (h : isNan f x = true ∨ isNan f y = true) :
    fpDiv f r x y = (f.qnan, if isSnan f x || isSnan f y then 16 else 0) := by
  rw [← nanOf_decode hm, fpDiv]
  rcases fpDecode_isNan_or hm h with ⟨b, hb⟩ | ⟨b, hb⟩
  · rw [hb]
  · rw [hb]; cases fpDecode f x <;> rfl

theorem fpSqrt_nan (r : Rm) (h : isNan f x = true) : fpSqrt f r x = (f.qnan, if isSnan f x then 16 else 0) := by
  have hd := fpDecode_nan hm h
  rw [← fpDecode_snan hm, fpSqrt, hd]
  simp [nanOf, anySnan_cons, anySnan]

/-- A fused product and sum with a NaN among the three operands. -/
theorem fpFma_nan (r : Rm) (neg : Bool) (h : isNan f x = true ∨ isNan f y = true ∨ isNan f d = true) :
    (fpFma f r neg d x y).1 = f.qnan := by
  have hd : isNan f x = false → isNan f y = false → ∃ b, fpDecode f d = .nan b := fun hx hy =>
    ⟨_, fpDecode_nan hm ((h.resolve_left (by simp [hx])).resolve_left (by simp [hy]))⟩
  cases hx : fpDecode f x with
  | nan b => simp only [fpFma, hx]; rfl
  | inf s =>
    have hx' : isNan f x = false := Bool.eq_false_iff.2 fun e => by simp [fpDecode_nan hm e] at hx
    cases hy : fpDecode f y with
    | nan b => simp only [fpFma, hx, hy]; rfl
    | inf t =>
      obtain ⟨b, hb⟩ := hd hx' (Bool.eq_false_iff.2 fun e => by simp [fpDecode_nan hm e] at hy)
      simp only [fpFma, hx, hy, hb]; rfl
    | fin t n g =>
      obtain ⟨b, hb⟩ := hd hx' (Bool.eq_false_iff.2 fun e => by simp [fpDecode_nan hm e] at hy)
      simp only [fpFma, hx, hy, hb]; split <;> rfl
  | fin s m e =>
    have hx' : isNan f x = false := Bool.eq_false_iff.2 fun e => by simp [fpDecode_nan hm e] at hx
    cases hy : fpDecode f y with
    | nan b => simp only [fpFma, hx, hy]; rfl
    | inf t =>
      obtain ⟨b, hb⟩ := hd hx' (Bool.eq_false_iff.2 fun e => by simp [fpDecode_nan hm e] at hy)
      simp only [fpFma, hx, hy, hb]; split <;> rfl
    | fin t n g =>
      obtain ⟨b, hb⟩ := hd hx' (Bool.eq_false_iff.2 fun e => by simp [fpDecode_nan hm e] at hy)
      simp only [fpFma, hx, hy, hb]; rfl

omit hm

/-- A comparison with a NaN is false. -/
theorem fpCompare_nan (h : isNan f x = true ∨ isNan f y = true) : fpEqB f x y = false ∧ fpLtB f x y = false ∧ fpLeB f x y = false := by
  rcases h with h | h <;> simp [fpLeB, fpEqB, fpLtB, h]

/-- A minimum or maximum with a NaN is the other operand (R98). -/
theorem fpMinMax_nan (mx : Bool) (h : isNan f x = true ∨ isNan f y = true) :
    (fpMinMax f mx x y).1 = if isNan f x then (if isNan f y then f.qnan else y) else x := by
  unfold fpMinMax
  cases hx : isNan f x with
  | true => rfl
  | false => simp [h.resolve_left (by simp [hx])]

end

/-! ## Units of the FP opcode -/

section
variable {c : CoreId} {s : State} {d a b : BitVec 6} {p : Bool} {rm : BitVec 3}

theorem finishFp_eq (cyc : Nat) (r : Nat × Flags) : s.finishFp c (s.core c) cyc d r =
    s.retireTo c (((s.core c).orFlags r.2).setG (coreWidth c) d (BitVec.ofNat 64 r.1)) cyc cyc (nextPc c s) := by
  unfold State.finishFp State.finish State.retire
  rw [CoreSt.pc_setG, CoreSt.unitLen_setG]
  rfl

/-- What an FP unit leaves: its result, its flags beside those held, and the unit retired. -/
theorem wroteFp_finishFp {cyc : Nat} {r : Nat × Flags} (hrun : (s.core c).run = .running) :
    WroteFp c d r s (s.finishFp c (s.core c) cyc d r) := by
  have sr (n : Nat) : (((s.core c).orFlags r.2).setG (coreWidth c) d (BitVec.ofNat 64 r.1)).srN n =
      if n = 0 then ((s.core c).srN 0 ||| r.2) % 2 ^ 64 else (s.core c).srN n := by
    rw [CoreSt.srN_setG, CoreSt.orFlags, CoreSt.srN_setSr]
  rw [finishFp_eq]
  refine ⟨retired_retireTo ?_ ?_ fun n _ _ n0 => ?_, fun r' => ?_, onlyCore_retireTo .., ?_⟩
  · rw [CoreSt.run_setG]; exact hrun
  · rw [sr, if_neg (by decide)]
  · rw [sr, if_neg n0]
  · rw [core_retireTo]
    exact CoreSt.g_setG ..
  · rw [srN_retireTo_other (by decide) (by decide), sr, if_pos rfl]

/-- A legal FP unit that takes a, b and the old d. -/
theorem wroteFp_fp2 {op cyc : Nat} {rmUsed : Bool} {f : FFmt → Rm → Nat → Nat → Nat → Nat × Flags} (hr : Ready c s)
    (ok : (fpInsn c op d a b p rm rmUsed false false).illegal c (s.core c) = false) :
    WroteFp c d (f (fpFmt p) ((s.core c).rm rm) (fpArg p ((s.core c).g a)) (fpArg p ((s.core c).g b)) (fpArg p ((s.core c).g d))) s
      (fp2 op cyc rmUsed false f c d a b p rm s) := by
  unfold fp2
  rw [issue_ready hr ok]
  exact wroteFp_finishFp hr.1

theorem fpFmt_mb_pos (p : Bool) : 0 < (fpFmt p).mb := by cases p <;> decide

theorem fpFmt_qnan (p : Bool) : (fpFmt p).qnan = if p then 0x7FF8000000000000 else 0x7FC00000 := by cases p <;> decide

end

/-- Settles O19: the units' results are those of the arithmetic in their format, whose NaN rules are the lemmas above. -/
theorem fpArithmetic : Obligations.FpArithmetic := by
  unfold Obligations.FpArithmetic
  refine ⟨fun c d a b p rm s hr hp hd ha hb hT hD hP hrm => ?_, fun p r x y d => ?_⟩
  · intro f r x put
    have unit {op cyc : Nat} {g : FFmt → Rm → Nat → Nat → Nat → Nat × Flags} :
        put (g f r (x a) (x b) (x d)) (fp2 op cyc true false g c d a b p rm s) :=
      wroteFp_fp2 hr (fpInsn_legal hp hd ha (.inr hb) hT hD hP hrm (.inl rfl))
    refine ⟨⟨_, rfl, unit⟩, ⟨_, rfl, unit⟩, ⟨_, rfl, unit⟩, ⟨_, rfl, unit⟩, ?_, ⟨_, rfl, unit⟩, ⟨_, rfl, unit⟩⟩
    rintro rfl
    exact ⟨_, rfl, unit⟩
  · intro f nan signalling nv
    have hm : 0 < f.mb := fpFmt_mb_pos p
    have hnan : f.qnan = nan := fpFmt_qnan p
    rw [← hnan]
    exact ⟨fun h => ⟨fpAdd_nan hm r h, fpSub_nan hm r h, fpMul_nan hm r h, fpDiv_nan hm r h, (fpCompare_nan h).1, (fpCompare_nan h).2.1,
      (fpCompare_nan h).2.2, fpMinMax_nan false h, fpMinMax_nan true h⟩, fpSqrt_nan hm r, fun h => ⟨fpFma_nan hm r false h, fpFma_nan hm r true h⟩⟩

/-- Settles O20: each unit's function is the one stated, and FCVT has the selectors of its level. -/
theorem fpCompareConvert : Obligations.FpCompareConvert := by
  unfold Obligations.FpCompareConvert
  intro c d a b p s hr hp hd ha hT hD hP f x put magA signB
  have unit {op cyc : Nat} {g : FFmt → Rm → Nat → Nat → Nat → Nat × Flags} {v : Nat × Flags} (hb : HasReg c b)
      (hv : ∀ r, g f r (x a) (x b) (x d) = v) : put v (fp2 op cyc false false g c d a b p 0 s) :=
    hv ((s.core c).rm 0) ▸ wroteFp_fp2 hr (fpInsn_legal hp hd ha (.inr hb) hT hD hP (by decide) (.inr rfl))
  have hsign : fpSign f (x b) = signB := by
    have hmod := Nat.mod_mul (a := 2 ^ (f.eb + f.mb)) (b := 2) (x := x b)
    have hlow := Nat.mod_lt (x b) (Nat.two_pow_pos (f.eb + f.mb))
    have hpow : 2 ^ (1 + f.eb + f.mb) = 2 ^ (f.eb + f.mb) * 2 := by rw [Nat.add_assoc, Nat.add_comm 1, Nat.pow_succ]
    rw [Bool.eq_iff_iff, decide_eq_true_iff, hpow, hmod]
    simp only [fpSign, fbit, beq_iff_eq]
    rcases Nat.mod_two_eq_zero_or_one (x b / 2 ^ (f.eb + f.mb)) with h | h <;> rw [h] <;> omega
  refine ⟨fun hb => ⟨⟨_, rfl, unit hb fun _ => rfl⟩, ⟨_, rfl, unit hb fun _ => rfl⟩, ⟨_, rfl, unit hb fun _ => rfl⟩,
    ⟨_, rfl, unit hb fun _ => rfl⟩, ⟨_, rfl, unit hb fun _ => rfl⟩, ⟨_, rfl, unit hb fun _ => ?_⟩, ⟨_, rfl, unit hb fun _ => ?_⟩⟩, ?_, fun rm hrm => ?_⟩
  · rw [hsign]
    cases signB <;> simp [magA, fpMag, FFmt.zero, b2n]
  · rw [hsign]
    cases signB <;> simp [magA, fpMag, FFmt.zero, b2n]
  · rintro rfl
    exact ⟨_, rfl, unit (hasReg_zero c) fun _ => rfl⟩
  · intro r lim
    split
    next h =>
      refine ⟨_, rfl, ?_⟩
      rw [decide_eq_false (by omega), issue_ready hr (fpInsn_legal hp hd ha (.inl rfl) hT hD hP hrm (.inl rfl))]
      exact wroteFp_finishFp hr.1
    next h =>
      refine ⟨_, rfl, issue_illegal_noPfx hr hp (Insn.illegal_of_bad ?_)⟩
      have hlim : decide (lim ≤ b.toNat) = true := decide_eq_true (Nat.le_of_not_lt h)
      change (_ || _ || _ || decide (lim ≤ b.toNat)) = true
      rw [hlim, Bool.or_true]

end Sys2Proof.Machine

namespace Sys2Proof.Machine

/-! # State registers (R106, R109, R110, R117) -/

/-- The register that holds what state register `n` shows: SSTATUS shows MSTATUS. -/
def srHome (n : Nat) : Nat := if n = 0x1000 then 0x2000 else n

/-- What a read of state register `n` gives. -/
def srSeen (s : State) (c : CoreId) (n : Nat) : BitVec 64 :=
  let old := BitVec.ofNat 64 ((s.core c).srN (srHome n))
  if n = 3 then BitVec.ofNat 64 c.num
  else if n = 0x1000 then old &&& 0x254
  else if n = 0x2007 then BitVec.ofNat 64 (mip s c)
  else if n = 0x2000 ∧ ¬coreWidth c = 64 then old &&& 0x42B
  else old

/-- The bits of state register `n` that a write of `v` changes; MPLVL 3 leaves MPLVL alone. -/
def srChanged (c : CoreId) (n : Nat) (v : BitVec 64) : BitVec 64 :=
  if n = 0 then 0x7F
  else if n = 0x1000 then 0x254
  else if n = 0x1001 ∨ n = 0x1002 ∨ n = 0x2001 ∨ n = 0x2002 then ~~~3
  else if n = 0x2000 then (if ¬coreWidth c = 64 then 0x428 else if v &&& 0x180 = 0x180 then 0xE7C else 0xFFC)
  else if n = 0x2006 then (if coreWidth c = 64 then 3 else 2)
  else if 0x2010 ≤ n then (if n % 2 = 0 then 0xFFFFFFF000 else 0xFFFFFFF0FF)
  else ~~~0

/-- What a write of `v` leaves in the register. -/
def srLeft (s : State) (c : CoreId) (n : Nat) (v : BitVec 64) : BitVec 64 :=
  (BitVec.ofNat 64 ((s.core c).srN (srHome n)) &&& ~~~srChanged c n v) ||| (v &&& srChanged c n v)

section
variable {s t : State} {c : CoreId} {k : CoreSt} {n h v : Nat} {d a : BitVec 6} {imm : BitVec 14}

theorem CoreSt.srN_lt (k : CoreSt) (n : Nat) : k.srN n < 2 ^ 64 := (sget srReset k.sr n).isLt

theorem toNat_ofNat_srN (k : CoreSt) (n : Nat) : (BitVec.ofNat 64 (k.srN n)).toNat = k.srN n := by
  rw [BitVec.toNat_ofNat, Nat.mod_eq_of_lt (k.srN_lt n)]

theorem mip_lt (s : State) (c : CoreId) : mip s c < 4 := by
  have bit (b : Bool) : b2n b < 2 := by cases b <;> decide
  cases c with
  | mill core1 => have := bit (millLine s core1 0).isSome; have := bit (millLine s core1 1).isSome; simp only [mip]; omega
  | tender => have := bit (tenderLine s); simp only [mip]; omega
  | deckle => have := bit s.dkl.cycIrq; simp only [mip]; omega
  | lane x l => exact Nat.zero_lt_succ 3

theorem num_lt (c : CoreId) : c.num < 2 ^ 64 := by
  cases c with
  | mill core1 => cases core1 <;> decide
  | lane x l => have := x.isLt; have := l.isLt; simp only [CoreId.num]; omega
  | _ => decide

/-! ## Reading -/

theorem srRead_eq_srSeen (s : State) (c : CoreId) (n : Nat) : srRead s c (s.core c) n = (srSeen s c n).toNat := by
  have hw : coreWidth c = 32 ↔ ¬coreWidth c = 64 := by cases c <;> simp [coreWidth]
  simp only [srRead, srSeen, srHome, hw]
  split
  next => rw [BitVec.toNat_ofNat, Nat.mod_eq_of_lt (num_lt c)]
  split
  next => rw [BitVec.toNat_and, toNat_ofNat_srN]; rfl
  split
  next => rw [BitVec.toNat_ofNat, Nat.mod_eq_of_lt (Nat.lt_trans (mip_lt s c) (by decide))]
  split
  next => rw [BitVec.toNat_and, toNat_ofNat_srN]; rfl
  next => rw [toNat_ofNat_srN]

/-! ## Writing -/

theorem maskIn_toNat (o m v : BitVec 64) : maskIn o.toNat v.toNat m.toNat = ((o &&& ~~~m) ||| (v &&& m)).toNat := by
  rw [maskIn, BitVec.toNat_or, BitVec.toNat_and, BitVec.toNat_and, BitVec.toNat_not]

/-- Both bits of MPLVL are set. -/
theorem fget_mplvl (v : BitVec 64) : fget v.toNat 8 7 = 3 ↔ v &&& 0x180 = 0x180 := by
  have hlow : (v.toNat &&& 0x180) % 2 ^ 7 = 0 := by rw [Nat.and_mod_two_pow]; simp
  have hhigh : (v.toNat &&& 0x180) / 2 ^ 7 = v.toNat / 2 ^ 7 % 2 ^ 2 := by
    rw [Nat.and_div_two_pow, ← Nat.and_two_pow_sub_one_eq_mod]
  rw [BitVec.toNat_eq, BitVec.toNat_and, fget]
  change _ ↔ v.toNat &&& 0x180 = 0x180
  omega

theorem srMask_eq (c : CoreId) (h1 : n ≠ 0x1000) (h2 : n ≠ 0x2000) (v : BitVec 64) : srMask c n = (srChanged c n v).toNat := by
  simp only [srMask, srChanged, h1, h2, if_false, beq_iff_eq]
  split <;> [rfl; split <;> [rfl; split <;> [(split <;> rfl); split <;> [(split <;> rfl); rfl]]]]

theorem srMask_mstatus (c : CoreId) (v : BitVec 64) :
    srMask c 0x2000 - ((if fget v.toNat 8 7 = 3 then 0x180 else 0) &&& srMask c 0x2000) = (srChanged c 0x2000 v).toNat := by
  rcases coreWidth_cases c with ⟨-, hw⟩ | ⟨-, hw⟩ <;> by_cases hv : v &&& 0x180 = 0x180 <;>
    simp only [srMask, srChanged, fget_mplvl, hw, hv, if_true, if_false] <;> rfl

/-- A write that no lock refuses leaves `srLeft`. -/
theorem srWrite_eq (v : BitVec 64) (hlock : ¬(0x2010 ≤ n ∧ ((s.core c).srN (n / 2 * 2 + 1)).testBit 7 = true)) :
    (s.core c).srWrite c n v.toNat = (s.core c).setSr (srHome n) (srLeft s c n v).toNat := by
  rw [← fbit_eq] at hlock
  simp only [CoreSt.srWrite, srLeft, ← maskIn_toNat, toNat_ofNat_srN, srHome]
  by_cases h1 : n = 0x1000
  · subst h1; rfl
  · rw [if_neg h1, if_neg h1]
    by_cases h2 : n = 0x2000
    · subst h2; rw [if_pos rfl, srMask_mstatus]
    · rw [if_neg h2, if_neg hlock, srMask_eq c h1 h2 v]

/-- A locked region ignores writes (R110). -/
theorem srWrite_locked (v : Nat) (hn : 0x2010 ≤ n) (hlock : (k.srN (n / 2 * 2 + 1)).testBit 7 = true) : k.srWrite c n v = k := by
  rw [CoreSt.srWrite, if_neg (by omega), if_neg (by omega), if_pos ⟨hn, by rw [fbit_eq, hlock]⟩]

/-! ## Units that write a state register -/

/-- A unit whose core has written state register `h` and a general register at most. -/
theorem wroteSr_retire {t p : Nat} (hrun : k.run = .running) (hpc : k.pc = (s.core c).pc) (hpfx : k.pfx = (s.core c).pfx)
    (hsr : ∀ m, k.srN m = if m = h then v else (s.core c).srN m) (h1 : h ≠ 1) (h2 : h ≠ 2) : WroteSr c h v s (s.retire c k t p) := by
  have hnext : k.pc.toNat + k.unitLen = nextPc c s := by rw [hpc, CoreSt.unitLen, hpfx]; rfl
  unfold State.retire
  rw [hnext]
  refine ⟨retired_retireTo hrun ?_ fun m _ _ hm => ?_, ?_, onlyCore_retireTo ..⟩
  · rw [hsr, if_neg (Ne.symm h2)]
  · rw [hsr, if_neg hm]
  · rw [srN_retireTo_other h1 h2, hsr, if_pos rfl]

theorem gets_retire {t p : Nat} {x : DWord} (hg : ∀ r, k.g r = if r = d ∧ r ≠ 0 then BitVec.ofNat 64 (x.toNat % 2 ^ coreWidth c)
    else (s.core c).g r) : Gets c d x s (s.retire c k t p) := by
  intro r
  unfold State.retire
  rw [core_retireTo]
  exact hg r

theorem srHome_ne (hro : srReadOnly n = false) : srHome n ≠ 1 ∧ srHome n ≠ 2 := by
  simp only [srReadOnly, Bool.or_eq_false_iff, beq_eq_false_iff_ne] at hro
  unfold srHome
  split <;> omega

theorem srN_setSr_bitVec (x : BitVec 64) (m : Nat) : (k.setSr h x.toNat).srN m = if m = h then x.toNat else k.srN m := by
  rw [CoreSt.srN_setSr, Nat.mod_eq_of_lt x.isLt]

theorem wroteSr_setSr {t p : Nat} (hr : Ready c s) (hro : srReadOnly n = false) (x : BitVec 64) :
    WroteSr c (srHome n) x.toNat s (s.retire c ((s.core c).setSr (srHome n) x.toNat) t p) :=
  wroteSr_retire hr.1 rfl rfl (srN_setSr_bitVec x) (srHome_ne hro).1 (srHome_ne hro).2

theorem wroteSr_setSr_finish {t p : Nat} (hr : Ready c s) (hro : srReadOnly n = false) (x : BitVec 64) (y : DWord) :
    WroteSr c (srHome n) x.toNat s (s.finish c ((s.core c).setSr (srHome n) x.toNat) t p d y) ∧
      Gets c d y s (s.finish c ((s.core c).setSr (srHome n) x.toNat) t p d y) := by
  refine ⟨wroteSr_retire ?_ ?_ ?_ (fun m => ?_) (srHome_ne hro).1 (srHome_ne hro).2, gets_retire fun r => CoreSt.g_setG ..⟩
  · rw [CoreSt.run_setG]; exact hr.1
  · rw [CoreSt.pc_setG]; rfl
  · rw [CoreSt.pfx_setG]; rfl
  · rw [CoreSt.srN_setG, srN_setSr_bitVec]

/-! ## The four instructions -/

theorem srInsn_legal {op : Nat} {onP writes : Bool} (hp : k.pfx = none) (hd : HasReg c d) (ha : HasReg c a)
    (hx : srExists c imm.toNat = true) (hw : writes = false ∨ srReadOnly imm.toNat = false) (hP : onP = true ∨ ∀ x l, c ≠ .lane x l) :
    (srInsn op c d a imm onP writes false).illegal c k = false := by
  refine Insn.illegal_eq_false.2 ⟨?_, ?_, forall_regs_two.2 ⟨hd, ha⟩, .inr hp⟩
  · cases c with
    | lane x l => exact hP.resolve_right fun h => h x l rfl
    | _ => rfl
  · rcases hw with h | h <;> simp [srInsn, hx, h]

theorem srOp_priv {i : Insn} {body : CoreSt → State} (hr : Ready c s) (ok : i.illegal c (s.core c) = false) (hw : coreWidth c = 64)
    (hl : (s.core c).level < n / 4096) : srOp s c i n body = s.takeTrap c 5 i.word := by
  rw [srOp, issue_ready hr ok, if_pos ⟨hw, hl⟩]

theorem srOp_ok {i : Insn} {body : CoreSt → State} (hr : Ready c s) (ok : i.illegal c (s.core c) = false)
    (hl : coreWidth c = 64 → n / 4096 ≤ (s.core c).level) : srOp s c i n body = body (s.core c) := by
  rw [srOp, issue_ready hr ok, if_neg fun h => absurd (hl h.1) (by omega)]

theorem ofNat_toNat_self (x : BitVec 64) : BitVec.ofNat 64 x.toNat = x := by rw [BitVec.ofNat_toNat, BitVec.setWidth_eq]

end

/-- Settles O21: reads give `srSeen`, writes that are allowed leave `srLeft`, and a level too low traps. -/
theorem stateRegisterAccess : Obligations.StateRegisterAccess := by
  unfold Obligations.StateRegisterAccess
  intro c d a imm s hr hp hd ha n mill k home old x seen mask put locked hx
  have hseen : srRead s c k n = seen.toNat := srRead_eq_srSeen s c n
  have legal {op : Nat} {onP writes : Bool} (hw : writes = false ∨ srReadOnly n = false) (hP : onP = true ∨ ∀ x l, c ≠ .lane x l) :
      (srInsn op c d a imm onP writes false).illegal c k = false := srInsn_legal hp hd ha hx hw hP
  have write (v : BitVec 64) (hlock : ¬locked) : k.srWrite c n v.toNat = k.setSr home (put v).toNat := srWrite_eq v hlock
  refine ⟨fun hm hlt => ⟨?_, ?_⟩, fun hle => ⟨?_, fun hro => ?_, fun hro hlock => ?_, fun hro hlock h2008 => ⟨?_, fun hlane => ⟨?_, ?_⟩⟩, fun h2008 => ?_⟩⟩
  · rintro rfl
    exact ⟨_, rfl, srOp_priv hr (legal (.inl rfl) (.inl rfl)) hm hlt⟩
  · rintro rfl hro
    exact ⟨_, rfl, srOp_priv hr (legal (.inr hro) (.inl rfl)) hm hlt⟩
  · rintro rfl
    refine ⟨_, rfl, ?_⟩
    change Wrote c d seen s (srOp s c (srInsn 0x28 c d 0 imm true false false) n _)
    rw [srOp_ok hr (legal (.inl rfl) (.inl rfl)) hle]
    change Wrote c d seen s (s.finish c k 2 1 d (BitVec.ofNat 64 (srRead s c k n)))
    rw [hseen, ofNat_toNat_self]
    exact wrote_finish hr.1
  · rintro rfl
    refine ⟨_, rfl, issue_illegal_noPfx hr hp (Insn.illegal_of_bad ?_)⟩
    simp only [srInsn, Bool.true_and, Bool.or_eq_true]
    exact .inr hro
  · rintro rfl
    refine ⟨_, rfl, ?_⟩
    change WentTo c _ s (srOp s c (srInsn 0x29 c 0 a imm true true false) n _)
    rw [srOp_ok hr (legal (.inr hro) (.inl rfl)) hle, srWrite_locked _ hlock.1 hlock.2]
    exact wentTo_retireTo hr.1
  · rintro rfl
    refine ⟨_, rfl, ?_⟩
    change WroteSr c _ _ s (srOp s c (srInsn 0x29 c 0 a imm true true false) n _)
    rw [srOp_ok hr (legal (.inr hro) (.inl rfl)) hle, write x hlock]
    exact wroteSr_setSr hr hro _
  · refine ⟨_, rfl, ?_⟩
    rw [srOp_ok hr (legal (.inr hro) (.inr hlane)) hle]
    change (fun t => WroteSr c home (put (seen ||| x)).toNat s t ∧ Gets c d seen s t)
      (s.finish c (k.srWrite c n (srRead s c k n ||| x.toNat)) 2 1 d (BitVec.ofNat 64 (srRead s c k n)))
    rw [hseen, ← BitVec.toNat_or, write _ hlock, ofNat_toNat_self]
    exact wroteSr_setSr_finish hr hro _ seen
  · refine ⟨_, rfl, ?_⟩
    rw [srOp_ok hr (legal (.inr hro) (.inr hlane)) hle]
    change (fun t => WroteSr c home (put (seen &&& ~~~x)).toNat s t ∧ Gets c d seen s t)
      (s.finish c (k.srWrite c n (srRead s c k n &&& (2 ^ 64 - 1 - x.toNat))) 2 1 d (BitVec.ofNat 64 (srRead s c k n)))
    rw [hseen, ← BitVec.toNat_not, ← BitVec.toNat_and, write _ hlock, ofNat_toNat_self]
    exact wroteSr_setSr_finish hr hro _ seen
  · rintro rfl
    have hro : srReadOnly n = false := by rw [h2008]; rfl
    have hlock : ¬locked := fun h => absurd h.1 (by omega)
    refine ⟨_, rfl, ?_⟩
    change ∀ i, i < 15 → (((srOp s c (srInsn 0x29 c 0 a imm true true false) n _).core c).srN 0x2008).testBit i = x.getLsbD i
    rw [srOp_ok hr (legal (.inr hro) (.inl rfl)) hle, write x hlock]
    have hhome : home = 0x2008 := by simp only [home, h2008]; rfl
    have hput : put x = x := by
      have hmask : mask x = BitVec.allOnes 64 := by simp only [mask, h2008]; rfl
      simp only [put, hmask, BitVec.not_allOnes, BitVec.and_zero, BitVec.zero_or, BitVec.and_allOnes]
    have hleft : ((s.retire c (k.setSr home (put x).toNat) 2 1).core c).srN home = (put x).toNat := (wroteSr_setSr hr hro (put x)).2.1
    intro i _
    rw [← hhome, hleft, hput]
    rfl

end Sys2Proof.Machine

namespace Sys2Proof.Machine

/-! # Traps and returns (R111-R113) -/

/-! ## Fields of MSTATUS after a write -/

theorem fset_lt_two_pow {w hi lo v n : Nat} (hw : w < 2 ^ n) (hh : hi < n) : fset w hi lo v < 2 ^ n := by
  refine Nat.lt_pow_two_of_testBit _ fun j hj => ?_
  rw [testBit_fset, if_neg (by omega)]
  exact Nat.testBit_lt_two_pow (Nat.lt_of_lt_of_le hw (Nat.pow_le_pow_right (by omega) hj))

section
variable {k : CoreSt} {hi lo v h l n : Nat}

theorem CoreSt.ms_lt (k : CoreSt) (hi lo : Nat) : k.ms hi lo < 2 ^ (hi + 1 - lo) := Nat.mod_lt _ (Nat.two_pow_pos _)

theorem CoreSt.srN_setMs (hh : hi < 64) : (k.setMs hi lo v).srN n = if n = 0x2000 then fset (k.srN 0x2000) hi lo v else k.srN n := by
  rw [CoreSt.setMs, CoreSt.srN_setSr, Nat.mod_eq_of_lt (fset_lt_two_pow (k.srN_lt _) hh)]

theorem CoreSt.srN_setMs_other (hn : n ≠ 0x2000) : (k.setMs hi lo v).srN n = k.srN n := by
  rw [CoreSt.setMs, CoreSt.srN_setSr, if_neg hn]

theorem CoreSt.ms_setMs_same (hh : hi < 64) : (k.setMs hi lo v).ms hi lo = v % 2 ^ (hi + 1 - lo) := by
  rw [CoreSt.ms, CoreSt.srN_setMs hh, if_pos rfl, fget_fset]

theorem CoreSt.ms_setMs_other (hh : hi < 64) (hl : lo ≤ hi) (d : h < lo ∨ hi < l) : (k.setMs hi lo v).ms h l = k.ms h l := by
  rw [CoreSt.ms, CoreSt.srN_setMs hh, if_pos rfl, fget_fset_other d hl]
  rfl

theorem CoreSt.ms_of_srN {k' : CoreSt} (e : k'.srN 0x2000 = k.srN 0x2000) (hi lo : Nat) : k'.ms hi lo = k.ms hi lo := by
  rw [CoreSt.ms, e]; rfl

theorem CoreSt.ms_mod (k : CoreSt) (hi lo : Nat) : k.ms hi lo % 2 ^ (hi + 1 - lo) = k.ms hi lo := Nat.mod_eq_of_lt (k.ms_lt hi lo)

end

/-! ## Trap entry -/

section
variable {k : CoreSt} {c : CoreId} {epc cause tval n : Nat}

/-- EPC, cause and trap value saved at a level's state registers. -/
def CoreSt.saved (k : CoreSt) (base epc cause tval : Nat) : CoreSt :=
  ((k.setSr (base + 2) epc).setSr (base + 3) cause).setSr (base + 4) tval

/-- MSTATUS at an entry to level 1: SPLVL, SPIE, SIE, STRAP. -/
def CoreSt.stacked1 (k : CoreSt) : CoreSt := (((k.setMs 6 6 k.level).setMs 4 4 (k.ms 2 2)).setMs 2 2 0).setMs 9 9 1

/-- MSTATUS at an entry to level 2: MPLVL, MPIE, MIE, MTRAP. -/
def CoreSt.stacked2 (k : CoreSt) (lv : Nat) : CoreSt := (((k.setMs 8 7 lv).setMs 5 5 (k.ms 3 3)).setMs 3 3 0).setMs 10 10 1

/-- The core at the handler of level `x`, whose address state register `vec` holds. -/
def CoreSt.landed (k : CoreSt) (x vec : Nat) : CoreSt :=
  { k.setMs 1 0 x with pc := BitVec.ofNat 64 (k.srN vec), pfx := none, resv := none }

theorem enter_one (k : CoreSt) (c : CoreId) (epc cause tval : Nat) :
    k.enter c 1 epc cause tval = ((k.saved 0x1000 epc cause tval).stacked1).landed 1 (0x1000 + 1) := by
  simp only [CoreSt.enter, if_true, CoreSt.saved, CoreSt.stacked1, CoreSt.landed]

theorem enter_two (k : CoreSt) (c : CoreId) (epc cause tval : Nat) : k.enter c 2 epc cause tval =
    ((k.saved 0x2000 epc cause tval).stacked2 (if coreWidth c = 64 then (k.saved 0x2000 epc cause tval).level else 0)).landed 2 (0x2000 + 1) := by
  simp only [CoreSt.enter, show ¬(2 = 1) by decide, if_false, CoreSt.saved, CoreSt.stacked2, CoreSt.landed]

theorem srN_landed {x vec : Nat} (h0 : n ≠ 0x2000) : (k.landed x vec).srN n = k.srN n := CoreSt.srN_setMs_other h0

theorem ms_landed {x vec : Nat} (hi lo : Nat) : (k.landed x vec).ms hi lo = (k.setMs 1 0 x).ms hi lo := rfl

theorem pc_landed {x vec : Nat} : (k.landed x vec).pc.toNat = k.srN vec := toNat_ofNat_srN k vec

theorem srN_stacked1 (h0 : n ≠ 0x2000) : k.stacked1.srN n = k.srN n := by simp only [CoreSt.stacked1, CoreSt.srN_setMs_other h0]

theorem srN_stacked2 {lv : Nat} (h0 : n ≠ 0x2000) : (k.stacked2 lv).srN n = k.srN n := by
  simp only [CoreSt.stacked2, CoreSt.srN_setMs_other h0]

theorem srN_saved {base : Nat} : (k.saved base epc cause tval).srN n = if n = base + 4 then tval % 2 ^ 64
    else if n = base + 3 then cause % 2 ^ 64 else if n = base + 2 then epc % 2 ^ 64 else k.srN n := by
  simp only [CoreSt.saved, CoreSt.srN_setSr]

theorem ms_saved {base : Nat} (hb : base = 0x1000 ∨ base = 0x2000) (hi lo : Nat) : (k.saved base epc cause tval).ms hi lo = k.ms hi lo :=
  CoreSt.ms_of_srN (by rw [srN_saved, if_neg (by omega), if_neg (by omega), if_neg (by omega)]) hi lo

/-- The state registers that trap entry saves, and those that it leaves alone. -/
theorem srN_enter {x : Nat} (hx : x = 1 ∨ x = 2) (h0 : n ≠ 0x2000) : (k.enter c x epc cause tval).srN n =
    if n = 0x1000 * x + 4 then tval % 2 ^ 64 else if n = 0x1000 * x + 3 then cause % 2 ^ 64 else if n = 0x1000 * x + 2 then epc % 2 ^ 64
    else k.srN n := by
  rcases hx with rfl | rfl
  · rw [enter_one, srN_landed h0, srN_stacked1 h0, srN_saved]
  · rw [enter_two, srN_landed h0, srN_stacked2 h0, srN_saved]

theorem pc_enter {x : Nat} (hx : x = 1 ∨ x = 2) : (k.enter c x epc cause tval).pc.toNat = k.srN (0x1000 * x + 1) := by
  rcases hx with rfl | rfl
  · rw [enter_one, pc_landed, srN_stacked1 (by decide), srN_saved, if_neg (by decide), if_neg (by decide), if_neg (by decide)]
  · rw [enter_two, pc_landed, srN_stacked2 (by decide), srN_saved, if_neg (by decide), if_neg (by decide), if_neg (by decide)]

theorem level_enter {x : Nat} (hx : x = 1 ∨ x = 2) : (k.enter c x epc cause tval).level = x := by
  rw [CoreSt.level]
  rcases hx with rfl | rfl
  · rw [enter_one, ms_landed, CoreSt.ms_setMs_same (by decide)]; rfl
  · rw [enter_two, ms_landed, CoreSt.ms_setMs_same (by decide)]; rfl

theorem pfx_enter {x : Nat} (hx : x = 1 ∨ x = 2) : (k.enter c x epc cause tval).pfx = none ∧ (k.enter c x epc cause tval).resv = none := by
  rcases hx with rfl | rfl
  · rw [enter_one]; exact ⟨rfl, rfl⟩
  · rw [enter_two]; exact ⟨rfl, rfl⟩

/-- MSTATUS after an entry to level 1: SPLVL, SPIE, SIE and STRAP are written, the other fields kept. -/
theorem ms_enter_one {k' : CoreSt} (e : k' = k.enter c 1 epc cause tval) (hl : k.level < 2) : k'.ms 6 6 = k.level ∧ k'.ms 4 4 = k.ms 2 2 ∧
    k'.ms 2 2 = 0 ∧ k'.ms 9 9 = 1 ∧ k'.ms 3 3 = k.ms 3 3 ∧ k'.ms 5 5 = k.ms 5 5 ∧ k'.ms 8 7 = k.ms 8 7 ∧ k'.ms 10 10 = k.ms 10 10 ∧
    k'.ms 11 11 = k.ms 11 11 := by
  rw [enter_one] at e
  subst e
  have hms := ms_saved (k := k) (epc := epc) (cause := cause) (tval := tval) (.inl rfl)
  simp (disch := decide) only [ms_landed, CoreSt.stacked1, CoreSt.ms_setMs_same, CoreSt.ms_setMs_other, CoreSt.level, hms, and_self, and_true]
  exact ⟨Nat.mod_eq_of_lt hl, k.ms_mod 2 2, rfl, rfl⟩

/-- MSTATUS after an entry to level 2: MPLVL, MPIE, MIE and MTRAP are written, the other fields kept. -/
theorem ms_enter_two {k' : CoreSt} (e : k' = k.enter c 2 epc cause tval) : k'.ms 8 7 = (if coreWidth c = 64 then k.level else 0) ∧
    k'.ms 5 5 = k.ms 3 3 ∧ k'.ms 3 3 = 0 ∧ k'.ms 10 10 = 1 ∧ k'.ms 2 2 = k.ms 2 2 ∧ k'.ms 4 4 = k.ms 4 4 ∧ k'.ms 6 6 = k.ms 6 6 ∧
    k'.ms 9 9 = k.ms 9 9 ∧ k'.ms 11 11 = k.ms 11 11 := by
  rw [enter_two] at e
  subst e
  have hms := ms_saved (k := k) (epc := epc) (cause := cause) (tval := tval) (.inr rfl)
  simp (disch := decide) only [ms_landed, CoreSt.stacked2, CoreSt.ms_setMs_same, CoreSt.ms_setMs_other, CoreSt.level, hms, and_self, and_true]
  refine ⟨?_, k.ms_mod 3 3, rfl, rfl⟩
  split
  · exact k.ms_mod 1 0
  · rfl

end

/-- A core that trap entry has left, CYCLE aside, has entered its level. -/
theorem entered_of_core {c : CoreId} {s t : State} {x cause tval : Nat} (hx : x = 1 ∧ (s.core c).level < 2 ∨ x = 2)
    (hcause : cause < 2 ^ 64) (htval : tval < 2 ^ 64)
    (h : t.core c = (s.core c).enter c x (s.core c).pc.toNat cause tval ∨
      ∃ v, t.core c = ((s.core c).enter c x (s.core c).pc.toNat cause tval).setSr 1 v) : Entered c x cause tval s t := by
  have hx' : x = 1 ∨ x = 2 := hx.imp_left And.left
  generalize he : (s.core c).enter c x (s.core c).pc.toNat cause tval = e at h
  obtain ⟨hsr, hpc, hpfx, hresv, hregs⟩ : (∀ n, n ≠ 1 → (t.core c).srN n = e.srN n) ∧ (t.core c).pc = e.pc ∧ (t.core c).pfx = e.pfx ∧
      (t.core c).resv = e.resv ∧ (t.core c).regs = e.regs := by
    rcases h with h | ⟨v, h⟩ <;> rw [h]
    · exact ⟨fun _ _ => rfl, rfl, rfl, rfl, rfl⟩
    · exact ⟨fun n hn => by rw [CoreSt.srN_setSr, if_neg hn], rfl, rfl, rfl, rfl⟩
  have hms (hi lo : Nat) : (t.core c).ms hi lo = e.ms hi lo := CoreSt.ms_of_srN (hsr 0x2000 (by decide)) hi lo
  have hread (n : Nat) (h1 : n ≠ 1) (h0 : n ≠ 0x2000) := (hsr n h1).trans (he ▸ srN_enter (epc := (s.core c).pc.toNat) hx' h0)
  have hsame : SameG c s t := fun r => CoreSt.g_of_regs (hregs.trans (by rw [← he, CoreSt.regs_enter])) r
  have hlevel : (t.core c).level = x := (hms 1 0).trans (he ▸ level_enter hx')
  have hpc' : (t.core c).pc.toNat = (s.core c).srN (0x1000 * x + 1) := by rw [hpc, ← he, pc_enter hx']
  have hpfx' : (t.core c).pfx = none := by rw [hpfx, ← he, (pfx_enter hx').1]
  have hresv' : (t.core c).resv = none := by rw [hresv, ← he, (pfx_enter hx').2]
  have hepc := (s.core c).pc.isLt
  refine ⟨?_, ?_, ?_, hpc', hlevel, hpfx', hresv', hsame, ?_, ?_, fun n n1 n0 n2 n3 n4 => ?_⟩
  · rw [hread _ (by omega) (by omega), if_neg (by omega), if_neg (by omega), if_pos rfl, Nat.mod_eq_of_lt hepc]
  · rw [hread _ (by omega) (by omega), if_neg (by omega), if_pos rfl, Nat.mod_eq_of_lt hcause]
  · rw [hread _ (by omega) (by omega), if_pos rfl, Nat.mod_eq_of_lt htval]
  · simp only [hms]
    rcases hx with ⟨rfl, hl⟩ | rfl
    · obtain ⟨h1, h2, h3, h4, h5, h6, h7, h8, -⟩ := ms_enter_one he.symm hl
      rw [if_pos rfl]
      exact ⟨h1, h2, h3, h4, h5, h6, h7, h8⟩
    · obtain ⟨h1, h2, h3, h4, h5, h6, h7, h8, -⟩ := ms_enter_two he.symm
      rw [if_neg (by decide)]
      exact ⟨h1, h2, h3, h4, h5, h6, h7, h8⟩
  · rw [hms]
    rcases hx with ⟨rfl, hl⟩ | rfl
    · exact (ms_enter_one he.symm hl).2.2.2.2.2.2.2.2
    · exact (ms_enter_two he.symm).2.2.2.2.2.2.2.2
  · rw [hread n n1 n0, if_neg n4, if_neg n3, if_neg n2]

end Sys2Proof.Machine

namespace Sys2Proof.Machine

/-! ## Which trap is taken (R112, R114, R297) -/

section
variable {s t : State} {src sev code d0 d1 d2 n : Nat}

theorem Logged.of_sameRing {t' : State} (h : Logged src sev code d0 d1 d2 s t) (hao : t'.ao = t.ao)
    (hwr : t'.rd Reg.TND_LOG_WR = t.rd Reg.TND_LOG_WR) : Logged src sev code d0 d1 d2 s t' := by
  simpa only [Logged, State.bits, hao, hwr] using h

/-- A controller's report leaves its record, and the Tender's event. -/
theorem logged_dcReport (s : State) (n sev code d0 d1 d2 : Nat) : Logged (1 + n) sev code d0 d1 d2 s (s.dcReport n sev code d0 d1 d2) :=
  (logged_logRec s (1 + n) sev code d0 d1 d2).of_sameRing rfl (rd_flag_other _ _ _ (by decide))

theorem bit_dcReport (s : State) (n sev code d0 d1 d2 : Nat) : (s.dcReport n sev code d0 d1 d2).bit Reg.TND_TPEND 0 = true := by
  rw [State.dcReport, State.tpend, bit_flag _ (by decide)]; rfl

/-- A core's own changes leave every other core and everything else alone. -/
theorem onlyCore_setCore (s : State) (c : CoreId) (k : CoreSt) : OnlyCore c s (s.setCore c k) :=
  ⟨rfl, fun _ h => core_setCore_other s k h, fun _ _ => rfl, fun _ _ => rfl⟩

end

section
variable {s : State} {cause tval : Nat}

/-- A trap of a Mill core enters its level, unless a trap to level 2 is being handled there. -/
theorem takeTrap_mill_enter {b : Bool} {x : Nat} (hx : (s.core (.mill b)).trapLevel (.mill b) cause = x)
    (h : x = 1 ∨ (s.core (.mill b)).ms 10 10 = 0) :
    s.takeTrap (.mill b) cause tval =
      s.setCore (.mill b) ((s.core (.mill b)).enter (.mill b) x (s.core (.mill b)).pc.toNat cause tval) := by
  simp only [State.takeTrap, hx]
  exact if_neg (by omega)

/-- A second trap to level 2 stops the core and is reported (R114). -/
theorem takeTrap_mill_double {b : Bool} (hx : (s.core (.mill b)).trapLevel (.mill b) cause = 2) (h : (s.core (.mill b)).ms 10 10 = 1) :
    s.takeTrap (.mill b) cause tval =
      (s.setCore (.mill b) { s.core (.mill b) with run := .stopped, pfx := none, resv := none }).dcReport 0 3 9 (b2n b) cause
        ((s.core (.mill b)).srN 0x2002 % 2 ^ 32) := by
  simp only [State.takeTrap, hx, h, and_self, if_true]

theorem takeTrap_tender (h : (s.core .tender).ms 10 10 = 0) : s.takeTrap .tender cause tval =
    s.setCore .tender (((s.core .tender).enter .tender 2 (s.core .tender).pc.toNat cause tval).setSr 1
      ((((s.core .tender).enter .tender 2 (s.core .tender).pc.toNat cause tval).srN 1 + 6) % 2 ^ 32)) := by
  simp only [State.takeTrap, h]
  exact if_neg (by decide)

/-- The level of a Mill core's trap: 1 where the cause is delegated, the core below level 2 and in no trap of level 1. -/
theorem trapLevel_mill {b : Bool} (k : CoreSt) (cause : Nat) : k.trapLevel (.mill b) cause =
    if (decide (k.level < 2) && (k.srN 0x2008).testBit cause && k.ms 9 9 == 0) = true then 1 else 2 := by
  simp only [CoreSt.trapLevel, fbit_eq, Bool.and_eq_true, decide_eq_true_iff, beq_iff_eq, and_assoc]

/-- A trap to a free level of a Mill core, and nothing but the core changes. -/
theorem entered_mill {b : Bool} {x : Nat} (hx : (s.core (.mill b)).trapLevel (.mill b) cause = x)
    (h : x = 1 ∨ (s.core (.mill b)).ms 10 10 = 0) (hc : cause < 2 ^ 64) (ht : tval < 2 ^ 64) :
    Entered (.mill b) x cause tval s (s.takeTrap (.mill b) cause tval) ∧ OnlyCore (.mill b) s (s.takeTrap (.mill b) cause tval) := by
  have hlevel : x = 1 ∧ (s.core (.mill b)).level < 2 ∨ x = 2 := by
    rw [← hx, CoreSt.trapLevel]
    split
    next hl => exact .inl ⟨rfl, hl.1⟩
    next => exact .inr rfl
  rw [takeTrap_mill_enter hx h]
  exact ⟨entered_of_core hlevel hc ht (.inl (core_setCore_same ..)), onlyCore_setCore ..⟩

theorem entered_tender (h : (s.core .tender).ms 10 10 = 0) (hc : cause < 2 ^ 64) (ht : tval < 2 ^ 64) :
    Entered .tender 2 cause tval s (s.takeTrap .tender cause tval) ∧ OnlyCore .tender s (s.takeTrap .tender cause tval) := by
  rw [takeTrap_tender h]
  exact ⟨entered_of_core (.inr rfl) hc ht (.inr ⟨_, core_setCore_same ..⟩), onlyCore_setCore ..⟩

/-! ### The Deckle (R297) -/

theorem alarmOff_rd (s : State) (d : DklSt) (a : Nat) : (s.alarmOff d).rd a = s.rd a := rfl

theorem rd_dklStat_state (s : State) (i : Nat) : (s.dklStat i).rd Reg.DKL_STATE = s.rd Reg.DKL_STATE := by
  unfold State.dklStat
  refine setStat_rd _ _ _ _ _ _ (by decide) ?_
  split
  · decide
  · decide

theorem rd_safeFault_state (h : s.bits Reg.DKL_STATE 1 0 ≠ 2) :
    (s.safeFault cause).rd Reg.DKL_STATE = (s.safeOff cause).rd Reg.DKL_STATE := by
  rw [safeFault_eq h, State.logOwn, rd_logRec_other _ _ _ _ _ _ _ (by decide)]
  rw [alarmOff_rd, rd_dklStat_state]

theorem rd_safeOff_state (s : State) (cause : Nat) :
    (s.safeOff cause).rd Reg.DKL_STATE = ((s.setBits Reg.DKL_STATE 1 0 2).setBits Reg.DKL_STATE 7 4 cause).rd Reg.DKL_STATE := by
  rw [State.safeOff, rd_setBits_other _ _ _ _ (by decide), rd_setBits_other _ _ _ _ (by decide)]

/-- A safety fault's state and cause. -/
theorem bits_safeFault (h : s.bits Reg.DKL_STATE 1 0 ≠ 2) : (s.safeFault cause).bits Reg.DKL_STATE 1 0 = 2 ∧
    (s.safeFault cause).bits Reg.DKL_STATE 7 4 = cause % 16 := by
  have hrd := (rd_safeFault_state h).trans (rd_safeOff_state s cause)
  rw [bits_eq_of_rd hrd, bits_eq_of_rd hrd]
  exact ⟨by rw [bits_setBits_other _ (.inl (by decide)) (by decide) (by decide), bits_setBits _ (by decide)]; rfl, bits_setBits _ (by decide)⟩

/-- A trap of the Deckle core is a safety fault with cause 9; CYCLE has counted the entry. -/
theorem takeTrap_deckle (h : s.bits Reg.DKL_STATE 1 0 ≠ 2) : (s.takeTrap .deckle cause tval).bits Reg.DKL_STATE 1 0 = 2 ∧
    (s.takeTrap .deckle cause tval).bits Reg.DKL_STATE 7 4 = 9 ∧
    ((s.takeTrap .deckle cause tval).core .deckle).srN 1 = ((s.core .deckle).srN 1 + 6) % 2 ^ 32 := by
  obtain ⟨hstate, hcause⟩ := bits_safeFault (cause := 9) (s := s.setCore .deckle (((s.core .deckle).enter .deckle 2
    (s.core .deckle).pc.toNat cause tval).setSr 1
      ((((s.core .deckle).enter .deckle 2 (s.core .deckle).pc.toNat cause tval).srN 1 + 6) % 2 ^ 32))) h
  refine ⟨hstate, hcause, ?_⟩
  unfold State.takeTrap
  rw [core_of_cores (safeFault_cores ..), core_setCore_same, CoreSt.srN_setSr, if_pos rfl, srN_enter (.inr rfl) (by decide)]
  simp only [Nat.reduceMul, Nat.reduceAdd, Nat.reduceEqDiff, if_false]
  omega

end

/-! ## RTE (R111) -/

section
variable {s : State} {c : CoreId} {k : CoreSt} {n : Nat}

/-- A core without its reservation. -/
def CoreSt.unreserved (k : CoreSt) : CoreSt := { k with resv := none }

theorem leave_one (k : CoreSt) : k.leave 1 = (((k.setMs 2 2 (k.ms 4 4)).setMs 9 9 0).setMs 1 0 (k.ms 6 6)).unreserved := by
  simp only [CoreSt.leave, if_true, CoreSt.unreserved]

theorem leave_two (k : CoreSt) : k.leave 2 = (((k.setMs 3 3 (k.ms 5 5)).setMs 10 10 0).setMs 1 0 (k.ms 8 7)).unreserved := by
  simp only [CoreSt.leave, show ¬(2 = 1) by decide, if_false, CoreSt.unreserved]

theorem srN_unreserved : k.unreserved.srN n = k.srN n := rfl

theorem ms_unreserved (hi lo : Nat) : k.unreserved.ms hi lo = k.ms hi lo := rfl

/-- RTE to a level leaves the state registers but MSTATUS, the general registers and the run state as they are. -/
theorem leave_frame {x : Nat} (hx : x = 1 ∨ x = 2) : (∀ n, n ≠ 0x2000 → (k.leave x).srN n = k.srN n) ∧ (k.leave x).regs = k.regs ∧
    (k.leave x).resv = none := by
  rcases hx with rfl | rfl
  · rw [leave_one]
    exact ⟨fun n hn => by simp only [srN_unreserved, CoreSt.srN_setMs_other hn], by simp [CoreSt.unreserved], rfl⟩
  · rw [leave_two]
    exact ⟨fun n hn => by simp only [srN_unreserved, CoreSt.srN_setMs_other hn], by simp [CoreSt.unreserved], rfl⟩

theorem ms_leave_one : (k.leave 1).level = k.ms 6 6 ∧ (k.leave 1).ms 2 2 = k.ms 4 4 ∧ (k.leave 1).ms 9 9 = 0 := by
  rw [leave_one]
  simp (disch := decide) only [CoreSt.level, ms_unreserved, CoreSt.ms_setMs_same, CoreSt.ms_setMs_other]
  exact ⟨Nat.mod_eq_of_lt (Nat.lt_trans (k.ms_lt 6 6) (by decide)), k.ms_mod 4 4, rfl⟩

theorem ms_leave_two : (k.leave 2).level = k.ms 8 7 ∧ (k.leave 2).ms 3 3 = k.ms 5 5 ∧ (k.leave 2).ms 10 10 = 0 := by
  rw [leave_two]
  simp (disch := decide) only [CoreSt.level, ms_unreserved, CoreSt.ms_setMs_same, CoreSt.ms_setMs_other]
  exact ⟨k.ms_mod 8 7, k.ms_mod 5 5, rfl⟩

theorem ms_retireTo {t p next : Nat} (hi lo : Nat) : ((s.retireTo c k t p next).core c).ms hi lo = k.ms hi lo :=
  CoreSt.ms_of_srN (srN_retireTo_other (by decide) (by decide)) hi lo

theorem level_retireTo {t p next : Nat} : ((s.retireTo c k t p next).core c).level = k.level := ms_retireTo 1 0

/-- A unit of the SYS opcode with no operands, on a level that has it. -/
theorem sysInsn_legal {fn : Nat} {onT onP : Bool} (hp : k.pfx = none) (hlv : (sysInsn fn 0 0 0 onT onP false).onLevel c = true) :
    (sysInsn fn 0 0 0 onT onP (noOperands 0 0 0)).illegal c k = false :=
  Insn.illegal_eq_false.2 ⟨hlv, rfl, forall_regs_three.2 ⟨hasReg_zero c, hasReg_zero c, hasReg_zero c⟩, .inr hp⟩

/-- RTE at level 1 or 2 of a Mill core: the state that `leave` restores, at the saved address. -/
theorem after_rte_mill {b : Bool} {x : Nat} {P : State → Prop} (hr : Ready (.mill b) s) (hp : NoPfx (.mill b) s)
    (hl : (s.core (.mill b)).level = x) (hx : x = 1 ∨ x = 2)
    (h : P (s.retireTo (.mill b) ((s.core (.mill b)).leave x) 1 1 ((s.core (.mill b)).srN (0x1000 * x + 2)))) :
    After (.rte (.mill b) 0 0 0) s P := by
  refine ⟨_, rfl, ?_⟩
  rw [issue_ready hr (sysInsn_legal hp rfl), if_neg (by omega), hl]
  rcases hx with rfl | rfl
  · exact h
  · exact h

/-- What RTE leaves beside MSTATUS. -/
theorem rte_frame {b : Bool} {x t p : Nat} (hx : x = 1 ∨ x = 2) (epc : Nat) :
    let u := s.retireTo (.mill b) ((s.core (.mill b)).leave x) t p epc
    (u.core (.mill b)).pc.toNat = epc % 2 ^ 64 ∧ (u.core (.mill b)).resv = none ∧ SameG (.mill b) s u ∧ OnlyCore (.mill b) s u ∧
      ∀ n, n ≠ 1 → n ≠ 2 → n ≠ 0x2000 → (u.core (.mill b)).srN n = (s.core (.mill b)).srN n := by
  obtain ⟨hsr, hregs, hresv⟩ := leave_frame (k := s.core (.mill b)) hx
  refine ⟨?_, ?_, fun r => ?_, onlyCore_retireTo .., fun n h1 h2 h0 => ?_⟩
  · rw [core_retireTo]
    change (BitVec.ofNat 64 (epc % 2 ^ 64)).toNat = _
    rw [BitVec.toNat_ofNat, Nat.mod_mod]
  · rw [core_retireTo]; exact hresv
  · rw [core_retireTo]; exact CoreSt.g_of_regs hregs r
  · rw [srN_retireTo_other h1 h2, hsr n h0]

end

/-- TRAP and BREAK without operands are legal on the Mill, the Tender and the Deckle. -/
theorem trapInsn_legal {c : CoreId} {k : CoreSt} {imm : BitVec 14} (hp : k.pfx = none) (hc : ∀ x l, c ≠ .lane x l) :
    Insn.illegal ⟨wordI 0x2C 0 0 imm, true, false, true, [0, 0], (0 : BitVec 6) != 0 || (0 : BitVec 6) != 0, false⟩ c k = false := by
  refine Insn.illegal_eq_false.2 ⟨?_, rfl, forall_regs_two.2 ⟨hasReg_zero c, hasReg_zero c⟩, .inr hp⟩
  cases c with
  | lane x l => exact absurd rfl (hc x l)
  | _ => rfl

theorem after_trap {c : CoreId} {s : State} {imm : BitVec 14} {P : State → Prop} (hr : Ready c s) (hp : NoPfx c s)
    (hc : ∀ x l, c ≠ .lane x l) (h : P (s.takeTrap c 13 imm.toNat)) : After (.trap c 0 0 imm) s P :=
  ⟨_, rfl, by rw [issue_ready hr (trapInsn_legal hp hc)]; exact h⟩

theorem after_brk {c : CoreId} {s : State} {P : State → Prop} (hr : Ready c s) (hp : NoPfx c s) (hc : ∀ x l, c ≠ .lane x l)
    (h : P (s.takeTrap c 14 0)) : After (.brk c 0 0 0) s P := by
  refine ⟨_, rfl, ?_⟩
  rw [issue_ready hr (sysInsn_legal hp ?_)]
  · exact h
  · cases c with
    | lane x l => exact absurd rfl (hc x l)
    | _ => rfl

/-- Settles O22: TRAP and BREAK take the trap of their core, RTE leaves it. -/
theorem trapAndReturn : Obligations.TrapAndReturn := by
  unfold Obligations.TrapAndReturn
  refine ⟨?_, ?_, ?_, ?_, ?_⟩
  · intro core1 imm s c hr hp k to1 x
    have hlv (n : Nat) : k.trapLevel c n = x n := trapLevel_mill k n
    have himm : imm.toNat < 2 ^ 64 := Nat.lt_trans imm.isLt (by decide)
    refine ⟨fun h => after_trap hr hp nofun (entered_mill (hlv 13) h (by decide) himm),
      fun h => after_brk hr hp nofun (entered_mill (hlv 14) h (by decide) (by decide)), fun hx h => after_trap hr hp nofun ?_⟩
    rw [takeTrap_mill_double ((hlv 13).trans hx) h]
    refine ⟨?_, bit_dcReport .., (logged_dcReport ..).of_sameLog rfl rfl rfl rfl rfl⟩
    rw [core_of_cores (dcReport_cores ..), core_setCore_same]
  · intro imm s c hr hp _ h0
    have himm : imm.toNat < 2 ^ 64 := Nat.lt_trans imm.isLt (by decide)
    exact ⟨after_trap hr hp nofun (entered_tender h0 (by decide) himm), after_brk hr hp nofun (entered_tender h0 (by decide) (by decide))⟩
  · intro imm s c hr hp hst counted
    exact ⟨after_trap hr hp nofun (takeTrap_deckle hst), after_brk hr hp nofun (takeTrap_deckle hst)⟩
  · intro core1 s c hr hp k
    refine ⟨fun hl => after_rte_mill hr hp hl (.inr rfl) ?_, fun hl => after_rte_mill hr hp hl (.inl rfl) ?_, fun hl => ⟨_, rfl, ?_⟩⟩
    · obtain ⟨hlevel, h3, h10⟩ := ms_leave_two (k := k)
      obtain ⟨hpc, hrest⟩ := rte_frame (s := s) (b := core1) (t := 1) (p := 1) (.inr rfl) (k.srN 0x2002)
      exact ⟨level_retireTo.trans hlevel, (ms_retireTo 3 3).trans h3, (ms_retireTo 10 10).trans h10,
        hpc.trans (Nat.mod_eq_of_lt (k.srN_lt _)), hrest⟩
    · obtain ⟨hlevel, h2, h9⟩ := ms_leave_one (k := k)
      obtain ⟨hpc, hrest⟩ := rte_frame (s := s) (b := core1) (t := 1) (p := 1) (.inl rfl) (k.srN 0x1002)
      exact ⟨level_retireTo.trans hlevel, (ms_retireTo 2 2).trans h2, (ms_retireTo 9 9).trans h9,
        hpc.trans (Nat.mod_eq_of_lt (k.srN_lt _)), hrest⟩
    · rw [issue_ready hr (sysInsn_legal hp rfl), if_pos hl]
  · intro s c hr hp hl
    refine ⟨_, rfl, ?_⟩
    obtain ⟨-, h3, h10⟩ := ms_leave_two (k := s.core c)
    rw [issue_ready hr (sysInsn_legal hp rfl), if_neg (by omega), hl]
    refine ⟨level_retireTo.trans (CoreSt.ms_setMs_same (by decide)), ?_, ?_, ?_, onlyCore_retireTo ..⟩
    · exact (ms_retireTo 3 3).trans ((CoreSt.ms_setMs_other (by decide) (by decide) (by decide)).trans h3)
    · exact (ms_retireTo 10 10).trans ((CoreSt.ms_setMs_other (by decide) (by decide) (by decide)).trans h10)
    · rw [core_retireTo]
      change (BitVec.ofNat 64 ((s.core c).srN 0x2002 % 2 ^ 32)).toNat = _
      rw [BitVec.toNat_ofNat]
      omega

end Sys2Proof.Machine

namespace Sys2Proof.Machine

/-! ## FENCE, SEV and WAIT (R104, R105, R107, R108) -/

section
variable {s : State} {c : CoreId} {k : CoreSt} {d a : BitVec 6} {m w : Nat}

theorem wakeMask_eq (s : State) (c : CoreId) (k : CoreSt) (since tmo : Nat) : wakeMask s c k since tmo =
    b2n (coreWidth c == 64 && k.evt) + 2 * b2n (decide (mip s c &&& k.srN 0x2006 ≠ 0)) +
      4 * b2n (decide (tmo ≠ 0 ∧ tmo ≤ cyclesIn c (s.clk - since))) := by
  simp only [wakeMask, bne, beq_eq_decide, ← decide_not, Bool.decide_and, ne_eq]

/-- No time has passed when the WAIT begins, so no timeout is due. -/
theorem wakeMask_start (s : State) (c : CoreId) (k : CoreSt) (tmo : Nat) : wakeMask s c k s.clk tmo =
    b2n (coreWidth c == 64 && k.evt) + 2 * b2n (decide (mip s c &&& k.srN 0x2006 ≠ 0)) := by
  have hno : ¬(tmo ≠ 0 ∧ tmo ≤ cyclesIn c (s.clk - s.clk)) := by
    rw [Nat.sub_self]
    cases c <;> simp only [cyclesIn] <;> omega
  rw [wakeMask_eq, decide_eq_false hno]
  rfl

/-- A core that a wake condition has woken. -/
def CoreSt.awake (k : CoreSt) : CoreSt := { k with run := .running, evt := false }

theorem srN_awake (k : CoreSt) (n : Nat) : k.awake.srN n = k.srN n := rfl

theorem completeWait_eq : completeWait s c k d w m = s.retireTo c (k.awake.setG (coreWidth c) d (BitVec.ofNat 64 m)) (1 + w) (1 + w)
    ((k.awake.setG (coreWidth c) d (BitVec.ofNat 64 m)).pc.toNat + (k.awake.setG (coreWidth c) d (BitVec.ofNat 64 m)).unitLen) := rfl

/-- The end of a WAIT: the core runs on behind it with the mask in d and its event latch clear. -/
theorem completeWait_spec : let t := completeWait s c (s.core c) d w m
    Retired (fun _ => False) c (nextPc c s) s t ∧ Gets c d (BitVec.ofNat 64 m) s t ∧ (t.core c).evt = false ∧ OnlyCore c s t := by
  have hnext : ((s.core c).awake.setG (coreWidth c) d (BitVec.ofNat 64 m)).pc.toNat +
      ((s.core c).awake.setG (coreWidth c) d (BitVec.ofNat 64 m)).unitLen = nextPc c s := by
    simp only [CoreSt.unitLen, CoreSt.pc_setG, CoreSt.pfx_setG]; rfl
  dsimp only
  rw [completeWait_eq, hnext]
  refine ⟨retired_retireTo ?_ ?_ fun n _ _ _ => ?_, fun r => ?_, ?_, onlyCore_retireTo ..⟩
  · rw [CoreSt.run_setG]; rfl
  · rw [CoreSt.srN_setG, srN_awake]
  · rw [CoreSt.srN_setG, srN_awake]
  · rw [core_retireTo]; exact CoreSt.g_setG ..
  · rw [core_retireTo]; exact CoreSt.evt_setG ..

/-- WAIT is legal on the Mill, the Tender and the Deckle. -/
theorem waitInsn_legal (hp : k.pfx = none) (hd : HasReg c d) (ha : HasReg c a) (hc : ∀ x l, c ≠ .lane x l) :
    (sysInsn 0x02 d a 0 true false ((0 : BitVec 6) != 0)).illegal c k = false := by
  refine Insn.illegal_eq_false.2 ⟨?_, rfl, forall_regs_three.2 ⟨hd, ha, hasReg_zero c⟩, .inr hp⟩
  cases c with
  | lane x l => exact absurd rfl (hc x l)
  | _ => rfl

/-- What WAIT without must-be-zero bits does on a ready core. -/
theorem execWait_ready (hr : Ready c s) (hp : NoPfx c s) (hd : HasReg c d) (ha : HasReg c a) (hc : ∀ x l, c ≠ .lane x l) :
    exec (.wait c d a 0) s = .next (if coreWidth c = 64 ∧ (s.core c).level < 2 ∧ (s.core c).ms 11 11 = 1
      then s.takeTrap c 5 (wordA 0x2D d a 0 2)
      else if wakeMask s c (s.core c) s.clk ((s.core c).g a).toNat ≠ 0
        then completeWait s c (s.core c) d 0 (wakeMask s c (s.core c) s.clk ((s.core c).g a).toNat)
        else s.setCore c { s.core c with run := .waiting d s.clk ((s.core c).g a).toNat }) := by
  change execWait c d a 0 s = _
  rw [execWait, issue_ready hr (waitInsn_legal hp hd ha hc)]

/-- A core with its event latch set. -/
def CoreSt.signalled (k : CoreSt) : CoreSt := { k with evt := true }

theorem setEvt_eq (s : State) (c : CoreId) : s.setEvt c = s.setCore c (s.core c).signalled := rfl

/-- Setting an event latch leaves a core's rest as it is. -/
theorem core_setEvt (s : State) (c o : CoreId) : (s.setEvt c).core o = if o = c then (s.core o).signalled else s.core o := by
  rw [setEvt_eq]
  split
  next h => rw [h, core_setCore_same]
  next h => exact core_setCore_other _ _ h

/-- Both Mill cores' event latches. -/
theorem core_setEvts (s : State) (o : CoreId) : ((s.setEvt (.mill false)).setEvt (.mill true)).core o =
    if ∃ b, o = .mill b then (s.core o).signalled else s.core o := by
  rw [core_setEvt, core_setEvt]
  rcases o with b | _ | _ | _
  · cases b <;> simp
  all_goals simp

/-- What SEV does to the core that executes it, to the other Mill core, and to nothing else. -/
theorem sev_mill {b : Bool} {t p next : Nat} (hrun : (s.core (.mill b)).run = .running) :
    let u := ((s.retireTo (.mill b) (s.core (.mill b)) t p next).setEvt (.mill false)).setEvt (.mill true)
    (∀ o, (u.core (.mill o)).evt = true) ∧ Retired (fun _ => False) (.mill b) next s u ∧ (∀ o, SameG (.mill o) s u) ∧
      (∀ o, (∀ x, o ≠ .mill x) → u.core o = s.core o) ∧ u = { s with cores := u.cores, freeIdx := u.freeIdx } := by
  obtain ⟨⟨hpc, hpfx, hrun', h2, hsr⟩, hg, ⟨-, hothers, -⟩, -⟩ := wentTo_retireTo (c := .mill b) (t := t) (p := p) (next := next) hrun
  have hmill (o : Bool) : (((s.retireTo (.mill b) (s.core (.mill b)) t p next).setEvt (.mill false)).setEvt (.mill true)).core (.mill o) =
      ((s.retireTo (.mill b) (s.core (.mill b)) t p next).core (.mill o)).signalled := by rw [core_setEvts, if_pos ⟨o, rfl⟩]
  refine ⟨fun o => by rw [hmill]; rfl, ?_, fun o r => ?_, fun o ho => ?_, rfl⟩
  · unfold Retired
    rw [hmill]
    exact ⟨hpc, hpfx, hrun', h2, hsr⟩
  · rw [hmill]
    by_cases h : o = b
    · rw [h]; exact hg r
    · rw [hothers _ (by simpa using h)]; rfl
  · rw [core_setEvts, if_neg (fun ⟨x, hx⟩ => ho x hx), hothers o (ho b)]

theorem execSev_mill {b : Bool} (hr : Ready (.mill b) s) (hp : NoPfx (.mill b) s) : exec (.sev (.mill b) 0 0 0) s =
    .next (((s.retireTo (.mill b) (s.core (.mill b)) 1 1 (nextPc (.mill b) s)).setEvt (.mill false)).setEvt (.mill true)) := by
  change execSev (.mill b) 0 0 0 s = _
  rw [execSev, issue_ready hr (sysInsn_legal hp rfl)]
  rfl

end

/-- Settles O23: the fences and SEV retire, WAIT completes, suspends or is refused, and a wake condition ends it. -/
theorem eventsAndFences : Obligations.EventsAndFences := by
  unfold Obligations.EventsAndFences
  refine ⟨?_, ?_, ?_⟩
  · intro c s hr hp
    refine ⟨⟨_, rfl, ?_⟩, fun hw => ⟨_, rfl, ?_⟩, fun hw => ⟨_, rfl, ?_⟩, fun hc => ⟨_, rfl, ?_⟩, ?_⟩
    · rw [issue_ready hr (sysInsn_fence_legal hp)]
      exact wentTo_retireTo hr.1
    · obtain ⟨⟨b, rfl⟩, -⟩ := (coreWidth_cases c).resolve_right (by omega)
      rw [issue_ready hr (sysInsn_legal hp rfl)]
      exact wentTo_retireTo hr.1
    · refine issue_illegal_noPfx hr hp (Insn.illegal_of_level ?_)
      cases c with
      | mill b => exact absurd rfl hw
      | _ => rfl
    · rcases hc with rfl | rfl
      · rw [issue_ready hr (sysInsn_legal hp rfl), if_neg (by decide)]
        exact wentTo_retireTo hr.1
      · rw [issue_ready hr (sysInsn_legal hp rfl), if_neg (by decide)]
        exact wentTo_retireTo hr.1
    · rintro core1 rfl
      exact ⟨_, execSev_mill hr hp, sev_mill hr.1⟩
  · intro c d a s hr hp hd ha hc k m
    have hm : wakeMask s c k s.clk (k.g a).toNat = m := wakeMask_start ..
    have hexec := execWait_ready hr hp hd ha hc
    rw [hm] at hexec
    refine ⟨fun hw hl htw => ⟨_, hexec, if_pos ⟨hw, hl, htw⟩⟩, fun hok => ⟨fun h0 => ⟨_, hexec, ?_⟩, fun h0 => ⟨_, hexec, ?_⟩⟩⟩
    · rw [if_neg hok, if_neg (not_not_intro h0)]
    · rw [if_neg hok, if_pos h0]
      exact completeWait_spec
  · intro c d since tmo s _ hrun k m
    have hexec : exec (.waitWake c) s = .next (if m = 0 then s else completeWait s c k d
        (if tmo = 0 then cyclesIn c (s.clk - since) else min (cyclesIn c (s.clk - since)) tmo) m) := by
      change execWaitWake c s = _
      simp only [execWaitWake, hrun, wakeMask_eq]
      rfl
    refine ⟨fun h0 => ⟨_, hexec, ?_⟩, fun h0 => hexec.trans (by rw [if_pos h0])⟩
    rw [if_neg h0]
    obtain ⟨⟨hpc, -, hrun', -⟩, hg, hevt, honly⟩ := completeWait_spec (s := s) (c := c) (d := d) (m := m)
    exact ⟨hrun', hevt, hg, hpc, honly⟩

end Sys2Proof.Machine

namespace Sys2Proof.Machine

/-! ## The source that a Mill line presents (R116) -/

section
variable {s : State} {core1 : Bool} {lv : Nat}

/-- Source `n` is pending, enabled and routed to the line. -/
def millHere (s : State) (core1 : Bool) (lv n : Nat) : Bool :=
  s.bit (Reg.MILL_IRQ_PEND (n / 32)) (n % 32) && s.bit (Reg.MILL_IRQ_ROUTE n) 0 && s.bit (Reg.MILL_IRQ_ROUTE n) 1 == core1 &&
    s.bits (Reg.MILL_IRQ_ROUTE n) 2 2 == lv

/-- The priority of source `n`. -/
def millPrio (s : State) (n : Nat) : Nat := s.bits (Reg.MILL_IRQ_ROUTE n) 6 3

/-- The better of the best so far and source `n`. -/
def millBetter (s : State) (core1 : Bool) (lv n : Nat) (best : Option (Nat × Nat)) : Option (Nat × Nat) :=
  if !millHere s core1 lv n then best else match best with
    | none => some (n, millPrio s n)
    | some (m, p) => if p < millPrio s n then some (n, millPrio s n) else some (m, p)

theorem millLineFrom_cons (n : Nat) (ns : List Nat) (best : Option (Nat × Nat)) :
    millLineFrom s core1 lv (n :: ns) best = millLineFrom s core1 lv ns (millBetter s core1 lv n best) := rfl

/-- `best` is the source of highest priority, the lower number breaking a tie, among those below `k`. -/
def MillBest (s : State) (core1 : Bool) (lv k : Nat) : Option (Nat × Nat) → Prop
  | none => ∀ m < k, millHere s core1 lv m = false
  | some (n, p) => n < k ∧ millHere s core1 lv n = true ∧ p = millPrio s n ∧
      ∀ m < k, millHere s core1 lv m = true → millPrio s m ≤ p ∧ (millPrio s m = p → n ≤ m)

theorem millBest_better {k : Nat} {best : Option (Nat × Nat)} (h : MillBest s core1 lv k best) :
    MillBest s core1 lv (k + 1) (millBetter s core1 lv k best) := by
  unfold millBetter
  by_cases hk : millHere s core1 lv k = true
  · rw [hk]
    cases best with
    | none =>
      have hnone : ∀ m < k, millHere s core1 lv m = false := h
      refine ⟨by omega, hk, rfl, fun m hm hm' => ?_⟩
      obtain rfl : m = k := by
        by_contra hne
        simp [hnone m (by omega)] at hm'
      exact ⟨Nat.le_refl _, fun _ => Nat.le_refl _⟩
    | some b =>
      obtain ⟨n, p⟩ := b
      obtain ⟨hn, hhere, hp, hbest⟩ := h
      by_cases hlt : p < millPrio s k
      · simp only [Bool.not_true, Bool.false_eq_true, if_false, if_pos hlt]
        refine ⟨by omega, hk, rfl, fun m hm hm' => ?_⟩
        rcases Nat.lt_succ_iff_lt_or_eq.1 hm with hm | rfl
        · have := (hbest m hm hm').1
          omega
        · omega
      · simp only [Bool.not_true, Bool.false_eq_true, if_false, if_neg hlt]
        refine ⟨by omega, hhere, hp, fun m hm hm' => ?_⟩
        rcases Nat.lt_succ_iff_lt_or_eq.1 hm with hm | rfl
        · exact hbest m hm hm'
        · omega
  · rw [Bool.not_eq_true] at hk
    rw [hk]
    have hlast {m : Nat} (hm : m < k + 1) (hm' : millHere s core1 lv m = true) : m < k :=
      Nat.lt_of_le_of_ne (by omega) fun e => by simp [e, hk] at hm'
    cases best with
    | none =>
      intro m hm
      by_contra hm'
      exact hm' (h m (hlast hm (by simpa using hm')))
    | some b =>
      obtain ⟨hn, hhere, hp, hbest⟩ := h
      exact ⟨by omega, hhere, hp, fun m hm hm' => hbest m (hlast hm hm') hm'⟩

theorem millBest_from (r : Nat) : ∀ {k : Nat} {best : Option (Nat × Nat)}, MillBest s core1 lv k best →
    MillBest s core1 lv (k + r) (millLineFrom s core1 lv (List.range' k r) best) := by
  induction r with
  | zero => exact fun h => h
  | succ r ih =>
    intro k best h
    rw [List.range'_succ, millLineFrom_cons, ← Nat.add_assoc, Nat.add_right_comm]
    exact ih (millBest_better h)

theorem millBest_line : MillBest s core1 lv 128 (millLineFrom s core1 lv (List.range 128) none) := by
  rw [List.range_eq_range']
  exact millBest_from (k := 0) 128 fun m hm => absurd hm (by omega)

/-- A line that presents a source. -/
theorem millLine_some {n : Nat} (h : millLine s core1 lv = some n) : n < 128 ∧ millHere s core1 lv n = true ∧
    ∀ m < 128, millHere s core1 lv m = true → millPrio s m ≤ millPrio s n ∧ (millPrio s m = millPrio s n → n ≤ m) := by
  obtain ⟨⟨_, p⟩, hb, rfl⟩ := Option.map_eq_some_iff.1 h
  have hbest : MillBest s core1 lv 128 _ := millBest_line
  rw [hb] at hbest
  obtain ⟨hn, hhere, rfl, hrest⟩ := hbest
  exact ⟨hn, hhere, hrest⟩

theorem millLine_none (h : millLine s core1 lv = none) (m : Nat) (hm : m < 128) : millHere s core1 lv m = false := by
  have hbest : MillBest s core1 lv 128 _ := millBest_line
  rw [Option.map_eq_none_iff.1 h] at hbest
  exact hbest m hm

theorem millHere_iff (n : Nat) : millHere s core1 lv n = true ↔ s.bit (Reg.MILL_IRQ_PEND (n / 32)) (n % 32) = true ∧
    s.bit (Reg.MILL_IRQ_ROUTE n) 0 = true ∧ s.bit (Reg.MILL_IRQ_ROUTE n) 1 = core1 ∧ s.bits (Reg.MILL_IRQ_ROUTE n) 2 2 = lv := by
  simp only [millHere, Bool.and_eq_true, beq_iff_eq, and_assoc]

end

/-! ## Interrupt entry and lockstep (R111, R112, R115) -/

section
variable {s : State} {b : Bool} {c : CoreId} {n x : Nat}

/-- The core in its interrupt; where cycles are counted, the entry costs 6. -/
def CoreSt.interrupted (k : CoreSt) (c : CoreId) (x n : Nat) : CoreSt :=
  let e := k.enter c x k.pc.toNat (2 ^ (coreWidth c - 1)) n
  if coreWidth c = 64 then e else e.setSr 1 ((e.srN 1 + 6) % 2 ^ 32)

/-- A running core with no prefix pending enters the interrupt that it may take. -/
theorem execInterruptEntry_taken (hc : c ≠ .deckle) (hrun : (s.core c).run = .running) (hp : NoPfx c s)
    (ht : takeable s c (s.core c) = some (x, n)) :
    exec (.interruptEntry c) s = .next (s.setCore c ((s.core c).interrupted c x n)) := by
  have hno : ¬((s.core c).run ≠ .running ∨ (s.core c).pfx.isSome = true) := by
    rw [show (s.core c).pfx = none from hp]
    simp [hrun]
  change execInterruptEntry c s = _
  simp only [execInterruptEntry, if_neg hno, ht, if_neg hc]
  rfl

theorem entered_interrupt (hc : c ≠ .deckle) (hrun : (s.core c).run = .running) (hp : NoPfx c s)
    (ht : takeable s c (s.core c) = some (x, n)) (hx : x = 1 ∧ (s.core c).level < 2 ∨ x = 2) (hn : n < 2 ^ 64) :
    After (.interruptEntry c) s fun t => Entered c x (2 ^ (coreWidth c - 1)) n s t ∧ OnlyCore c s t := by
  refine ⟨_, execInterruptEntry_taken hc hrun hp ht, entered_of_core hx ?_ hn ?_, onlyCore_setCore ..⟩
  · exact Nat.pow_lt_pow_right (by decide) (by have := coreWidth_le c; omega)
  · rw [core_setCore_same, CoreSt.interrupted]
    by_cases hw : coreWidth c = 64
    · exact .inl (if_pos hw)
    · exact .inr ⟨_, if_neg hw⟩

/-- The interrupt of level 2 comes first. -/
theorem takeable_mei {k : CoreSt} (hl : millLine s b 1 = some n) (hie : (k.srN 0x2006).testBit 1 = true)
    (hon : k.level < 2 ∨ k.ms 3 3 = 1) : takeable s (.mill b) k = some (2, n) := by
  simp only [takeable, hl, fbit_eq]
  exact if_pos ⟨hie, hon⟩

/-- One of level 1 is taken where none of level 2 is; inside a trap of level 1 it goes to level 2. -/
theorem takeable_sei {k : CoreSt} (hno : ¬(millLine s b 1 ≠ none ∧ (k.srN 0x2006).testBit 1 = true ∧ (k.level < 2 ∨ k.ms 3 3 = 1)))
    (hl : millLine s b 0 = some n) (hie : (k.srN 0x2006).testBit 0 = true) (hon : k.level = 0 ∨ (k.level = 1 ∧ k.ms 2 2 = 1)) :
    takeable s (.mill b) k = some (if k.ms 9 9 = 1 then 2 else 1, n) := by
  cases hmei : millLine s b 1 with
  | none =>
    simp only [takeable, hmei, hl, fbit_eq]
    exact if_pos ⟨hie, hon⟩
  | some m =>
    simp only [takeable, hmei, hl, fbit_eq]
    rw [if_neg fun h => hno ⟨by simp [hmei], h⟩]
    exact if_pos ⟨hie, hon⟩

theorem takeable_tender {k : CoreSt} (hline : s.rdN Reg.TND_TPEND &&& s.rdN Reg.TND_TIRQ_EN ≠ 0) (hie : (k.srN 0x2006).testBit 1 = true)
    (hon : k.ms 3 3 = 1) : takeable s .tender k = some (2, 0) := by
  have hmip : mip s .tender ≠ 0 := by simp [mip, tenderLine, bne, hline, b2n]
  simp only [takeable, fbit_eq]
  exact if_pos ⟨hmip, hie, hon⟩

/-- The core stopped by a lockstep mismatch, and the access it waited for given up. -/
theorem execLockstepMismatch_stops (h : (s.core (.mill b)).run ≠ .held) (h' : (s.core (.mill b)).run ≠ .stopped) :
    exec (.lockstepMismatch b) s =
      .next (((s.setCore (.mill b) { s.core (.mill b) with run := .stopped, pfx := none, resv := none }).dropStalls (.mill b)).dcReport
        0 3 8 (b2n b) 0 0) := by
  change execLockstepMismatch b s = _
  rw [execLockstepMismatch]
  exact congrArg _ (if_neg fun e => e.elim h h')

theorem dropStalls_cores : (s.dropStalls c).cores = s.cores := rfl

theorem dcReport_stalls (s : State) (n sev code d0 d1 d2 : Nat) : (s.dcReport n sev code d0 d1 d2).tnd.stalls = s.tnd.stalls := by
  change ((s.logRec (1 + n) sev code d0 d1 d2).tpend 0).tnd.stalls = _
  rw [State.tpend, flag_onlyRegs, logRec_tnd]

/-- The accesses that still wait, none of core `c` among them. -/
theorem mem_dropStalls {y} (hy : y ∈ (s.dropStalls c).tnd.stalls) : y ∈ s.tnd.stalls ∧ (∀ d n sx a, y.op ≠ .load c.num d n sx a) ∧
    (∀ n v a, y.op ≠ .store c.num n v a) := by
  obtain ⟨hmem, hop⟩ := List.mem_filter.1 hy
  refine ⟨hmem, fun d n sx a e => ?_, fun n v a e => ?_⟩
  · simp [e] at hop
  · simp [e] at hop

theorem regsBut_raiseIrq (s : State) (n : Nat) : RegEffect (fun a => a = Reg.MILL_IRQ_PEND (n / 32)) s (s.raiseIrq n) :=
  ⟨raiseIrq_onlyRegs s n, fun a h => raiseIrq_rd s n a h⟩

theorem fbit_toNat_bitVec {w : Nat} (v : BitVec w) (i : Nat) : fbit v.toNat i = v.getLsbD i := by
  rw [fbit_eq, BitVec.testBit_toNat]

/-- Bit `j` of the pending word that holds sources 126 and 127, after a request. -/
theorem bit_swi_request {req : BitVec 2} (hon : s.domOn 0 = true) {j : Nat} (hj : j < 32) : (s.swi req.toNat).bit (Reg.MILL_IRQ_PEND 3) j =
    (s.bit (Reg.MILL_IRQ_PEND 3) j || (j == 30 && req.getLsbD 0) || (j == 31 && req.getLsbD 1)) := by
  rw [bit_swi hon _ hj, fbit_toNat_bitVec, Bool.or_assoc]
  congr 1
  by_cases h : 30 ≤ j
  · obtain rfl | rfl : j = 30 ∨ j = 31 := by omega
    · simp
    · simp
  · rw [decide_eq_false h, beq_false_of_ne (by omega), beq_false_of_ne (by omega)]
    rfl

end

/-- Settles O24: edges and requests set their pending bits, a line presents the best of its sources, entry takes the one that may
be taken, and a lockstep mismatch stops its core. -/
theorem interruptsAndLockstep : Obligations.InterruptsAndLockstep := by
  unfold Obligations.InterruptsAndLockstep
  refine ⟨⟨fun src s => ⟨fun hon => ⟨_, rfl, ?_, fun j _ hj => ?_, regsBut_raiseIrq ..⟩, fun hoff => ?_⟩, ?_, ?_, ?_, ?_⟩, ?_⟩
  · rw [bit_raiseIrq hon, decide_eq_true rfl, Bool.true_or]
  · rw [bit_raiseIrq hon, decide_eq_false hj, Bool.false_or]
  · exact congrArg _ (if_neg (by simp [hoff]))
  · exact fun req s hon => ⟨_, rfl, fun j hj => bit_swi_request hon hj, swi_onlyRegs .., fun a ha => rd_swi_other _ _ ha⟩
  · intro core1 n s c k hrun hp up
    have hn {lv : Nat} (h : millLine s core1 lv = some n) : n < 2 ^ 64 := Nat.lt_trans (millLine_some h).1 (by decide)
    refine ⟨fun hl hup => ?_, fun hno hl hie hon => ?_⟩
    · exact entered_interrupt nofun hrun hp (takeable_mei hl hup.1 hup.2) (.inr rfl) (hn hl)
    · refine entered_interrupt nofun hrun hp (takeable_sei hno hl hie hon) ?_ (hn hl)
      split
      · exact .inr rfl
      · exact .inl ⟨rfl, hon.elim (fun h => by rw [h]; decide) fun h => by rw [h.1]; decide⟩
  · intro s c k hrun hp _ hline hie hon
    exact entered_interrupt nofun hrun hp (takeable_tender hline hie hon) (.inr rfl) (by decide)
  · intro core1 s c hheld hstopped
    refine ⟨_, execLockstepMismatch_stops hheld hstopped, ?_, fun o ho => ?_, bit_dcReport .., fun y hy => ?_, ?_⟩
    · rw [core_of_cores (dcReport_cores ..), core_of_cores dropStalls_cores, core_setCore_same]
    · rw [core_of_cores (dcReport_cores ..), core_of_cores dropStalls_cores, core_setCore_other _ _ ho]
    · rw [dcReport_stalls] at hy
      exact mem_dropStalls hy
    · exact (logged_dcReport ..).of_sameLog rfl rfl rfl rfl rfl
  · intro s core1 level _ here prio
    refine ⟨fun n hl => ?_, fun hl m hm hm' => ?_⟩
    · obtain ⟨hn, hhere, hbest⟩ := millLine_some hl
      exact ⟨hn, (millHere_iff n).1 hhere, fun m hm hm' => hbest m hm ((millHere_iff m).2 hm')⟩
    · exact absurd ((millHere_iff m).2 hm') (by simp [millLine_none hl m hm])

end Sys2Proof.Machine

namespace Sys2Proof.Machine

/-! ## Exclusive pairs and reservations (R100, R101) -/

/-- Dropping entries of a sparse map puts their keys back to the default. -/
theorem sget_sdrop {α : Type} {d : Nat → α} {m : SMap α} {p : Nat → Bool} (k : Nat) :
    sget d (sdrop p m) k = if p k then d k else sget d m k := by
  unfold sdrop
  induction m with
  | nil => simp [sget]
  | cons e m ih =>
    obtain ⟨key, v⟩ := e
    by_cases hp : p key = true
    · rw [List.filter_cons_of_neg (by simp [hp]), ih, sget]
      by_cases hk : key = k
      · rw [← hk, if_pos hp, if_pos hp]
      · rw [if_neg hk]
    · rw [List.filter_cons_of_pos (by simp [hp]), sget, sget, ih]
      by_cases hk : key = k
      · rw [if_pos hk, if_pos hk, ← hk, if_neg hp]
      · rw [if_neg hk, if_neg hk]

section
variable {s : State} {b : Bool} {c : CoreId} {k : CoreSt} {d a r : BitVec 6} {n p : Nat}

theorem loadVal_signed (v : Nat) : loadVal 64 4 true v = (BitVec.ofNat 32 v).signExtend 64 := by
  rw [loadVal, if_pos rfl, BitVec.signExtend]
  refine BitVec.eq_of_toInt_eq ?_
  simp only [BitVec.toInt_ofInt]
  exact Int.emod_bmod ..

theorem loadVal_dword {v : Nat} (h : v < 2 ^ 64) : loadVal 64 8 false v = BitVec.ofNat 64 v := by
  rw [loadVal, if_neg Bool.false_ne_true, Nat.mod_eq_of_lt h]

theorem leVal_lt (f : Nat → Byte) (a n : Nat) : leVal f a n < 256 ^ n := by
  induction n generalizing a with
  | zero => exact Nat.one_pos
  | succ n ih =>
    have hbyte := (f a).isLt
    have hrest := ih (a + 1)
    rw [leVal, Nat.pow_succ]
    omega

theorem leVal_congr {f g : Nat → Byte} {x y : Nat} (h : ∀ i < n, f (x + i) = g (y + i)) : leVal f x n = leVal g y n := by
  induction n generalizing x y with
  | zero => rfl
  | succ n ih =>
    rw [leVal, leVal, show f x = g y from h 0 (by omega), ih fun i hi => ?_]
    have := h (i + 1) (by omega)
    rwa [show x + (i + 1) = x + 1 + i by omega, show y + (i + 1) = y + 1 + i by omega] at this

theorem ownAt_mill (b : Bool) (p : Nat) : ownAt (.mill b) p = p - dramBase := by
  unfold ownAt dramBase
  exact Eq.refl _

/-- The bytes of DRAM from a Mill core's address on. -/
theorem rdz_dram (h : 0x800000000 ≤ p) : rdz s.dram (p - dramBase) n = leVal (dataByte (.mill b) s) p n := by
  rw [rdz, memRd_eq_leVal]
  refine leVal_congr fun i _ => ?_
  rw [dataByte, ownMem, ownAt_mill, show p + i - dramBase = p - dramBase + i by unfold dramBase; omega]

theorem atomInsn_legal {fn : Nat} (hp : k.pfx = none) : (atomInsn fn d a r false).illegal (.mill b) k = false :=
  Insn.illegal_eq_false.2 ⟨rfl, rfl, forall_regs_three.2 ⟨hasReg_mill _ _, hasReg_mill _ _, hasReg_mill _ _⟩, .inr hp⟩

/-- The exclusive access of a Mill core that nothing refuses. -/
theorem atomFault_none {store : Bool} (halign : p % n = 0) (hin : Within (.mill b) p n)
    (hperm : permitted k (if store then .store else .load) p = true) : atomFault (.mill b) k p n store = none := by
  obtain ⟨hlo, hhi⟩ := hin
  have hdram : inDram p n = true := by simp [inDram, dramBase, dramSize, hlo, hhi]
  rw [atomFault, accessFault, if_neg (not_not_intro halign)]
  simp only [hperm, if_true, hdram]

theorem damaged_of_intact {o : Nat} (h : Intact o n s) : s.damaged o n = false := by
  rw [State.damaged, List.any_eq_false]
  intro i hi
  rw [Bool.not_eq_true]
  have := List.mem_range.1 hi
  exact h _ (by omega) (by omega)

/-- A core with the reservation `r`. -/
def CoreSt.reserving (k : CoreSt) (r : Option Nat) : CoreSt := { k with resv := r }

theorem srN_reserving (k : CoreSt) (r : Option Nat) (m : Nat) : (k.reserving r).srN m = k.srN m := rfl

/-- An exclusive access that retires with `v` in d, leaving the reservation `g`. -/
theorem finish_reserving {v : DWord} {t p : Nat} {g : Option Nat} (hrun : (s.core c).run = .running) :
    let u := s.finish c ((s.core c).reserving g) t p d v
    (u.core c).resv = g ∧ Retired (fun _ => False) c (nextPc c s) s u ∧ Gets c d v s u ∧ OnlyCore c s u := by
  have hnext : (((s.core c).reserving g).setG (coreWidth c) d v).pc.toNat + (((s.core c).reserving g).setG (coreWidth c) d v).unitLen =
      nextPc c s := by
    simp only [CoreSt.unitLen, CoreSt.pc_setG, CoreSt.pfx_setG]; rfl
  dsimp only
  rw [State.finish, State.retire, hnext]
  refine ⟨?_, retired_retireTo ?_ ?_ fun m _ _ _ => ?_, fun r => ?_, onlyCore_retireTo ..⟩
  · rw [core_retireTo]; exact CoreSt.resv_setG ..
  · rw [CoreSt.run_setG]; exact hrun
  · rw [CoreSt.srN_setG, srN_reserving]
  · rw [CoreSt.srN_setG, srN_reserving]
  · rw [core_retireTo]; exact CoreSt.g_setG ..

/-- LDX that nothing refuses reads its bytes of DRAM and reserves their granule. -/
theorem loadEx_eq {fn n : Nat} {sx : Bool} (hr : Ready (.mill b) s) (hp : NoPfx (.mill b) s)
    (hfault : atomFault (.mill b) (s.core (.mill b)) ((s.core (.mill b)).g a).toNat n false = none) (hhit : s.felt.hit = false)
    (hok : s.damaged (((s.core (.mill b)).g a).toNat - dramBase) n = false) :
    loadEx fn n sx (.mill b) d a 0 s = s.finish (.mill b) ((s.core (.mill b)).reserving (some (((s.core (.mill b)).g a).toNat / 64))) 2 1 d
      (loadVal 64 n sx (rdz s.dram (((s.core (.mill b)).g a).toNat - dramBase) n)) := by
  have hlegal : (atomInsn fn d a 0 ((0 : BitVec 6) != 0)).illegal (.mill b) (s.core (.mill b)) = false := atomInsn_legal hp
  rw [loadEx, issue_ready hr hlegal]
  simp only [hfault, hhit, hok, Bool.false_eq_true, if_false]
  rfl

/-- STX that nothing refuses, without its reservation: it only answers. -/
theorem storeEx_fails {fn n : Nat} (hr : Ready (.mill b) s) (hp : NoPfx (.mill b) s)
    (hfault : atomFault (.mill b) (s.core (.mill b)) ((s.core (.mill b)).g a).toNat n true = none) (hhit : s.felt.hit = false)
    (hresv : (s.core (.mill b)).resv ≠ some (((s.core (.mill b)).g a).toNat / 64)) :
    storeEx fn n (.mill b) d a r s = s.finish (.mill b) ((s.core (.mill b)).reserving none) 2 1 d 1 := by
  rw [storeEx, issue_ready hr (atomInsn_legal hp)]
  simp only [hfault, hhit, Bool.false_eq_true, if_false, if_neg hresv]
  rfl

/-- STX under its reservation: it answers 0 and stores. -/
theorem storeEx_stores {fn n : Nat} (hr : Ready (.mill b) s) (hp : NoPfx (.mill b) s)
    (hfault : atomFault (.mill b) (s.core (.mill b)) ((s.core (.mill b)).g a).toNat n true = none) (hhit : s.felt.hit = false)
    (hresv : (s.core (.mill b)).resv = some (((s.core (.mill b)).g a).toNat / 64)) :
    storeEx fn n (.mill b) d a r s = (s.finish (.mill b) ((s.core (.mill b)).reserving none) 2 1 d 0).dramWr (some (.mill b))
      (((s.core (.mill b)).g a).toNat - dramBase) n ((s.core (.mill b)).g r).toNat := by
  rw [storeEx, issue_ready hr (atomInsn_legal hp)]
  simp only [hfault, hhit, Bool.false_eq_true, if_false, if_pos hresv]
  rfl

theorem storeEx_misaligned {fn n : Nat} (hr : Ready (.mill b) s) (hp : NoPfx (.mill b) s) (h : ((s.core (.mill b)).g a).toNat % n ≠ 0) :
    storeEx fn n (.mill b) d a r s = s.takeTrap (.mill b) 7 ((s.core (.mill b)).g a).toNat := by
  have hfault : atomFault (.mill b) (s.core (.mill b)) ((s.core (.mill b)).g a).toNat n true = some 7 := by
    rw [atomFault, accessFault, if_pos h]; rfl
  rw [storeEx, issue_ready hr (atomInsn_legal hp)]
  simp only [hfault]

end

/-! ## What a write of DRAM leaves of the core that makes it (R101) -/

section
variable {s t : State} {c : CoreId}

theorem core_clearResv (s : State) (c o : CoreId) (a : Nat) : (s.clearResv c a).core o =
    if o = c ∧ (s.core o).resv = some (a / 64) then { s.core o with resv := none, evt := true } else s.core o := by
  unfold State.clearResv
  dsimp only
  by_cases h : o = c
  · subst h
    by_cases hr : (s.core o).resv = some (a / 64)
    · rw [if_pos hr, if_pos ⟨rfl, hr⟩, core_setCore_same]
    · rw [if_neg hr, if_neg fun e => hr e.2]
  · rw [if_neg (c := o = c ∧ _) fun e => h e.1]
    split
    · exact core_setCore_other _ _ h
    · rfl

/-- The reservation of core `c`, cleared by a write of another agent. -/
def State.clearUnless (s : State) (agent : Option CoreId) (c : CoreId) (a : Nat) : State :=
  if agent = some c then s else s.clearResv c a

theorem resvWrite_eq (s : State) (agent : Option CoreId) (a : Nat) :
    s.resvWrite agent a = (s.clearUnless agent (.mill false) a).clearUnless agent (.mill true) a := rfl

theorem core_clearUnless (s : State) (agent : Option CoreId) (c o : CoreId) (a : Nat) : (s.clearUnless agent c a).core o =
    if o = c ∧ agent ≠ some c ∧ (s.core o).resv = some (a / 64) then { s.core o with resv := none, evt := true } else s.core o := by
  unfold State.clearUnless
  by_cases ha : agent = some c
  · rw [if_pos ha, if_neg fun h => h.2.1 ha]
  · rw [if_neg ha, core_clearResv]
    exact if_congr (by simp [ha]) rfl rfl

theorem clearUnless_onlyCores (s : State) (agent : Option CoreId) (c : CoreId) (a : Nat) :
    s.clearUnless agent c a = { s with cores := (s.clearUnless agent c a).cores } := by
  unfold State.clearUnless State.clearResv
  dsimp only
  split
  · rfl
  · split <;> rfl

theorem resvWrite_onlyCores (s : State) (agent : Option CoreId) (a : Nat) :
    s.resvWrite agent a = { s with cores := (s.resvWrite agent a).cores } := by
  rw [resvWrite_eq, clearUnless_onlyCores _ agent (.mill true), clearUnless_onlyCores s agent (.mill false)]

/-- The reservations that a write clears: those of the Mill's cores other than the writer, on the granule written. -/
theorem core_resvWrite (s : State) (agent : Option CoreId) (o : CoreId) (a : Nat) : (s.resvWrite agent a).core o =
    if (∃ b, o = .mill b) ∧ agent ≠ some o ∧ (s.core o).resv = some (a / 64) then { s.core o with resv := none, evt := true }
    else s.core o := by
  rw [resvWrite_eq, core_clearUnless, core_clearUnless]
  rcases o with b | _ | _ | _
  · cases b <;> simp
  all_goals simp

theorem cores_markDirty (s : State) (a : Nat) : (s.markDirty a).cores = s.cores := by
  unfold State.markDirty
  dsimp only
  split
  · rfl
  · split
    · rfl
    · exact (setBits_onlyRegs ..).cores

theorem core_dramTouch_own (s : State) (b : Bool) (o n : Nat) : (s.dramTouch (some (.mill b)) o n).core (.mill b) = s.core (.mill b) :=
  foldl_rel (R := fun s t : State => t.core (.mill b) = s.core (.mill b)) (fun _ => rfl) (fun h h' => h'.trans h)
    (fun _ _ => (core_of_cores (cores_markDirty ..) _).trans ((core_resvWrite ..).trans (if_neg fun h => h.2.1 rfl))) ..

theorem dramTouch_dramBad (s : State) (agent : Option CoreId) (o n : Nat) : (s.dramTouch agent o n).dramBad = s.dramBad := by
  have mark (u : State) (a : Nat) : (u.markDirty a).dramBad = u.dramBad := by
    unfold State.markDirty; dsimp only; split
    · rfl
    · split <;> rfl
  refine foldl_rel (R := fun s t : State => t.dramBad = s.dramBad) (fun _ => rfl) (fun h h' => h'.trans h) (fun u i => ?_) ..
  dsimp only
  rw [mark, resvWrite_onlyCores]

/-- What a write of DRAM by a Mill core leaves: its bytes, the words it mends, and its own core as it was. -/
theorem dramWr_spec (s : State) (b : Bool) (o n v : Nat) : let t := s.dramWr (some (.mill b)) o n v
    t.core (.mill b) = s.core (.mill b) ∧
    (∀ k, sget zeroByte t.dram k = if o ≤ k ∧ k < o + n then BitVec.ofNat 8 (v / 256 ^ (k - o)) else sget zeroByte s.dram k) ∧
    (∀ w, sget (fun _ => false) t.dramBad w = if o ≤ 4 * w ∧ 4 * w + 4 ≤ o + n then false else sget (fun _ => false) s.dramBad w) := by
  dsimp only
  rw [State.dramWr]
  refine ⟨core_dramTouch_own .., fun k => ?_, fun w => ?_⟩
  · rw [dramTouch_dram]
    exact sget_memWr
  · rw [dramTouch_dramBad, State.mend, sget_sdrop]
    simp only [Bool.and_eq_true, decide_eq_true_eq]

theorem OnlyCore.dram (h : OnlyCore c s t) : t.dram = s.dram := by rw [h.1]

theorem OnlyCore.dramBad (h : OnlyCore c s t) : t.dramBad = s.dramBad := by rw [h.1]

/-- A statement about a core alone passes to a state with the same core. -/
theorem Retired.of_core {q : Nat → Prop} {n : Nat} {u : State} (h : Retired q c n s t) (hc : u.core c = t.core c) : Retired q c n s u := by
  unfold Retired; rw [hc]; exact h

theorem Gets.of_core {d : BitVec 6} {v : DWord} {u : State} (h : Gets c d v s t) (hc : u.core c = t.core c) : Gets c d v s u :=
  fun r => by rw [hc]; exact h r

/-- Another agent's write takes a reservation away. -/
theorem reservationClear_spec (agent : CoreId) (dma : Bool) (addr : BitVec 40) (s : State) :
    After (.reservationClear agent dma addr) s fun t =>
      (∀ b : Bool, t.core (.mill b) =
        if (s.core (.mill b)).resv = some (addr.toNat / 64) ∧ (dma = true ∨ agent ≠ .mill b)
        then { s.core (.mill b) with resv := none, evt := true } else s.core (.mill b)) ∧
      (∀ o : CoreId, (∀ b, o ≠ .mill b) → t.core o = s.core o) ∧ t = { s with cores := t.cores } := by
  refine ⟨_, rfl, fun b => ?_, fun o ho => ?_, ?_⟩
  · rw [core_resvWrite]
    refine if_congr ?_ rfl rfl
    cases dma with
    | true => simp
    | false => simp [and_comm]
  · rw [core_resvWrite, if_neg fun h => h.1.elim fun b hb => ho b hb]
  · exact resvWrite_onlyCores ..

end

/-- Settles O18: LDX and STX, on a ready core whose access nothing refuses, and the writes that clear a reservation. -/
theorem reservations : Obligations.Reservations := by
  unfold Obligations.Reservations
  refine ⟨?_, reservationClear_spec⟩
  intro core1 d a b s c hr hp p ok granule quiet
  have hload {fn n : Nat} {sx : Bool} (h : ok .load n) : loadEx fn n sx c d a 0 s =
      s.finish c ((s.core c).reserving (some granule)) 2 1 d (loadVal 64 n sx (leVal (dataByte c s) p n)) := by
    obtain ⟨halign, hin, hperm, hhit, hintact⟩ := h
    have hval : rdz s.dram (p - dramBase) n = leVal (dataByte c s) p n := rdz_dram hin.1
    rw [loadEx_eq hr hp (atomFault_none halign hin hperm) hhit (damaged_of_intact (hintact rfl)), hval]
  have hfails {fn n : Nat} (h : ok .store n) (hresv : (s.core c).resv ≠ some granule) : storeEx fn n c d a b s =
      s.finish c ((s.core c).reserving none) 2 1 d 1 := by
    obtain ⟨halign, hin, hperm, hhit, -⟩ := h
    exact storeEx_fails hr hp (atomFault_none halign hin hperm) hhit hresv
  have hstores {fn n : Nat} (h : ok .store n) (hresv : (s.core c).resv = some granule) : let t := storeEx fn n c d a b s
      (t.core c).resv = none ∧ Gets c d 0 s t ∧
      (∀ k, sget zeroByte t.dram k = if ownAt c p ≤ k ∧ k < ownAt c p + n then
        BitVec.ofNat 8 (((s.core c).g b).toNat / 256 ^ (k - ownAt c p)) else sget zeroByte s.dram k) ∧
      Retired (fun _ => False) c (nextPc c s) s t ∧ Mended c p n s t := by
    obtain ⟨halign, hin, hperm, hhit, -⟩ := h
    dsimp only
    rw [storeEx_stores hr hp (atomFault_none halign hin hperm) hhit hresv]
    obtain ⟨hnone, hret, hgets, honly⟩ := finish_reserving (s := s) (c := c) (d := d) (v := 0) (t := 2) (p := 1) (g := none) hr.1
    obtain ⟨hcore, hdram, hbad⟩ := dramWr_spec (s.finish c ((s.core c).reserving none) 2 1 d 0) core1 (p - dramBase) n ((s.core c).g b).toNat
    refine ⟨(congrArg CoreSt.resv hcore).trans hnone, hgets.of_core hcore, fun k => ?_, hret.of_core hcore, fun w => ?_⟩
    · rw [hdram, honly.dram, ownAt_mill]
    · rw [hbad, honly.dramBad, ownAt_mill]
      exact if_congr (by rw [eq_true (show coreWidth c = 64 from rfl), true_and]) rfl rfl
  refine ⟨fun hb h => ⟨_, rfl, ?_⟩, fun hb h => ⟨_, rfl, ?_⟩, fun h hresv => ⟨_, rfl, ?_⟩, fun h hresv => ⟨_, rfl, ?_⟩,
    fun h hresv => ⟨_, rfl, hstores h hresv⟩, fun h hresv => ⟨_, rfl, hstores h hresv⟩, fun halign => ⟨_, rfl, ?_⟩⟩
  · rw [hb, hload h, loadVal_signed]
    exact finish_reserving hr.1
  · rw [hb, hload h, loadVal_dword (Nat.lt_of_lt_of_le (leVal_lt ..) (by decide))]
    exact finish_reserving hr.1
  · rw [hfails h hresv]
    exact finish_reserving hr.1
  · rw [hfails h hresv]
    exact finish_reserving hr.1
  · exact storeEx_misaligned hr hp halign

end Sys2Proof.Machine

namespace Sys2Proof.Machine

/-! ## What leaves the Calender's jobs and stores alone -/

/-- The Calender's state and CAL_STAT are as before. -/
def CalKept (s t : State) : Prop := t.cal = s.cal ∧ t.rd Reg.CAL_STAT = s.rd Reg.CAL_STAT

section
variable {s t u : State}

theorem CalKept.refl (s : State) : CalKept s s := ⟨rfl, rfl⟩

theorem CalKept.trans (h : CalKept s t) (h' : CalKept t u) : CalKept s u := ⟨h'.1.trans h.1, h'.2.trans h.2⟩

theorem OnlyRegs.cal (h : OnlyRegs s t) : t.cal = s.cal := by unfold OnlyRegs at h; rw [h]

theorem OnlyRegs.dram (h : OnlyRegs s t) : t.dram = s.dram := by unfold OnlyRegs at h; rw [h]

theorem DramEffect.calKept (h : DramEffect s t) : CalKept s t := ⟨by rw [h.1], h.rd (by decide)⟩

theorem calKept_setBits {a : Nat} (ha : Reg.CAL_STAT ≠ a) (s : State) (hi lo v : Nat) : CalKept s (s.setBits a hi lo v) :=
  ⟨rfl, rd_setBits_other _ _ _ _ ha⟩

theorem calKept_flag {a : Nat} (ha : Reg.CAL_STAT ≠ a) (s : State) (i : Nat) : CalKept s (s.flag a i) :=
  ⟨rfl, rd_flag_other _ _ _ ha⟩

theorem calKept_raiseIrq (s : State) {n : Nat} (h : Reg.CAL_STAT ≠ Reg.MILL_IRQ_PEND (n / 32)) : CalKept s (s.raiseIrq n) :=
  ⟨OnlyRegs.cal (raiseIrq_onlyRegs s n), raiseIrq_rd _ _ _ h⟩

theorem calKept_feltLoss (s : State) (n : Nat) : CalKept s (s.feltLoss n) := by
  unfold State.feltLoss
  split
  · exact .refl s
  · exact (calKept_flag (by decide) s 1).trans (calKept_setBits (by decide) ..)

theorem calKept_setFeltCh (s : State) (st ch : Nat) (x : FeltCh) : CalKept s (s.setFeltCh st ch x) := ⟨rfl, rfl⟩

theorem calKept_feltPublish (s : State) (st ch : Nat) (msg : Msg) : CalKept s (s.feltPublish st ch msg) := by
  unfold State.feltPublish
  split
  · exact .refl s
  · exact (calKept_feltLoss ..).trans (calKept_setFeltCh ..)

theorem putPlan_dramEffect (s : State) (d sig : List Word) (runs : Nat) (plan : List Word) (vars : List DWord) (act : List Word) :
    DramEffect s (s.putPlan d sig runs plan vars act) := by
  unfold State.putPlan
  dsimp only
  split
  · exact .refl s
  · exact ((((dramPut_dramEffect ..).trans (dramPut_dramEffect ..)).trans (dramPut_dramEffect ..)).trans
      (dramPut_dramEffect ..)).trans (dramPut_dramEffect ..)

theorem calKept_fallback (s : State) (j : CalJob) : CalKept s (s.calFallback j) :=
  (calKept_feltPublish ..).trans (putPlan_dramEffect ..).calKept

/-- The queue depths and tile states follow the jobs; nothing else does. -/
theorem calSync_regs (s : State) : OnlyRegs s s.calSync ∧ s.calSync.rd Reg.CAL_STAT = s.rd Reg.CAL_STAT := by
  have two (u : State) {a b : Nat} (ha : Reg.CAL_STAT ≠ a) (hb : Reg.CAL_STAT ≠ b) (hi lo v hi' lo' v' : Nat) :
      OnlyRegs u ((u.setBits a hi lo v).setBits b hi' lo' v') ∧
        ((u.setBits a hi lo v).setBits b hi' lo' v').rd Reg.CAL_STAT = u.rd Reg.CAL_STAT :=
    ⟨(setBits_onlyRegs ..).trans (setBits_onlyRegs ..), by rw [rd_setBits_other _ _ _ _ hb, rd_setBits_other _ _ _ _ ha]⟩
  have tile (n : Nat) : Reg.CAL_STAT ≠ Reg.CAL_T_STAT n := by show 0x200400008 ≠ 0x200401000 + 0x100 * n; omega
  unfold State.calSync
  dsimp only
  refine foldl_rel (R := fun s t : State => OnlyRegs s t ∧ t.rd Reg.CAL_STAT = s.rd Reg.CAL_STAT) (fun _ => ⟨rfl, rfl⟩)
    (fun h h' => ⟨h.1.trans h'.1, h'.2.trans h.2⟩) (fun u n => ?_) _ _ |> fun h =>
      ⟨(two s (by decide) (by decide) ..).1.trans h.1, h.2.trans (two s (by decide) (by decide) ..).2⟩
  split
  · exact ⟨rfl, rfl⟩
  · split
    · exact two u (tile n) (tile n) ..
    · exact two u (tile n) (tile n) ..

theorem cal_setJobs (s : State) (js : List CalJob) : (s.setJobs js).cal = { s.cal with jobs := js } := (calSync_regs _).1.cal

theorem dram_setJobs (s : State) (js : List CalJob) : (s.setJobs js).dram = s.dram := (calSync_regs _).1.dram

theorem rd_setJobs (s : State) (js : List CalJob) : (s.setJobs js).rd Reg.CAL_STAT = s.rd Reg.CAL_STAT := (calSync_regs _).2

end

/-! ## Jobs that end with an error (R170) -/

section
variable {s : State} {k code : Nat} {j : CalJob} {bad : Option Nat}

/-- An ending with an error marked in CAL_STAT, and its interrupt. -/
def State.errorIrq (s : State) (irq : Bool) : State :=
  if !irq then s else if s.bit Reg.CAL_IRQ_EN 1 then s.raiseIrq 21 else s

theorem calKept_errorIrq (s : State) (irq : Bool) : CalKept s (s.errorIrq irq) := by
  unfold State.errorIrq
  split
  · exact .refl s
  · split
    · exact calKept_raiseIrq s (by decide)
    · exact .refl s

/-- What a job's end with an error is made of: its outputs, then its marks, then its place in the list. -/
theorem endJob_error (hj : s.cal.jobs[k]? = some j) (hcode : 2 ≤ code) : ∃ u, CalKept s u ∧ s.endJob k code bad =
    (((u.flag Reg.CAL_STAT 0).flag Reg.CAL_STAT 1).errorIrq (dIrq j.d)).setJobs
      ((((u.flag Reg.CAL_STAT 0).flag Reg.CAL_STAT 1).errorIrq (dIrq j.d)).cal.jobs.eraseIdx k) := by
  have hc : ¬(if deadlineDue s j = true then 2 else code) ≤ 1 := by split <;> omega
  have h0 : ¬(if deadlineDue s j = true then 2 else code) = 0 := by split <;> omega
  unfold State.endJob
  simp only [hj, hc, h0, false_and, if_false, decide_false, Bool.not_false, Bool.true_and]
  refine ⟨_, ?_, rfl⟩
  have hfallback (fb : Bool) : CalKept s (if fb = true then s.calFallback j else s) := by
    split
    · exact calKept_fallback ..
    · exact .refl s
  split
  · exact hfallback _
  · exact (hfallback _).trans (dmaPut_dramEffect ..).calKept

/-- A job ended with an error: off the list, marked, its tiles' stores as they were. -/
theorem jobOff_endJob (hj : s.cal.jobs[k]? = some j) (hcode : 2 ≤ code) :
    JobOff k false s (s.endJob k code bad) ∧ (s.endJob k code bad).cal.mem = s.cal.mem := by
  obtain ⟨u, hu, heq⟩ := endJob_error (bad := bad) hj hcode
  obtain ⟨hcal, -⟩ := hu
  obtain ⟨hkcal, hkrd⟩ := calKept_errorIrq ((u.flag Reg.CAL_STAT 0).flag Reg.CAL_STAT 1) (dIrq j.d)
  have hcal' : (((u.flag Reg.CAL_STAT 0).flag Reg.CAL_STAT 1).errorIrq (dIrq j.d)).cal = s.cal :=
    hkcal.trans ((((flag_onlyRegs ..).trans (flag_onlyRegs ..)).cal).trans hcal)
  have hbit (i : Nat) : (s.endJob k code bad).bit Reg.CAL_STAT i = ((u.flag Reg.CAL_STAT 0).flag Reg.CAL_STAT 1).bit Reg.CAL_STAT i := by
    rw [heq]
    exact bit_eq_of_rd ((rd_setJobs ..).trans hkrd) i
  refine ⟨⟨?_, ?_, fun _ => ?_⟩, ?_⟩
  · rw [heq, cal_setJobs, hcal']
  · rw [hbit, bit_flag _ (by decide), bit_flag _ (by decide)]; rfl
  · rw [hbit, bit_flag _ (by decide)]; rfl
  · rw [heq, cal_setJobs, hcal']

end

end Sys2Proof.Machine

namespace Sys2Proof.Machine

/-! ## Where a handle's stored elements stand (R156, R159, R184) -/

section
variable {h : Hdl} {l : CalLay} {i c i' c' t : Nat}

/-- The place of element (i, c) in the store of its tile, in elements from the handle's offset. -/
def Hdl.slot (h : Hdl) (l : CalLay) (i c : Nat) : Nat :=
  if h.packed l then h.held l (h.home l.tiles c) c + (i - h.colFrom c) else c * h.ld + i

theorem addr_eq_slot : h.addr l i c = 2 ^ 20 * h.home l.tiles c + l.base + h.off + h.slot l i c * h.esz := rfl

theorem esz_cases (h : Hdl) : h.esz = 4 ∨ h.esz = 8 := by
  unfold Hdl.esz
  split
  · exact .inr rfl
  · exact .inl rfl

/-- A stored element stands within its column's stored part. -/
theorem stored_in_col (hi : i < h.rows) (hs : h.stored i c = true) : h.colFrom c ≤ i ∧ i - h.colFrom c < h.colLen c := by
  unfold Hdl.stored at hs
  unfold Hdl.colFrom Hdl.colLen
  split at hs <;> simp_all
  all_goals omega

theorem before_succ (h : Hdl) (c : Nat) : h.before (c + 1) = h.before c + h.colLen c := by
  simp [Hdl.before, List.range_succ]

theorem before_le (h : Hdl) {m n : Nat} (hmn : m ≤ n) : h.before m ≤ h.before n := by
  induction hmn with
  | refl => exact Nat.le_refl _
  | step _ ih => rw [before_succ]; omega

theorem held_succ (h : Hdl) (l : CalLay) (t c : Nat) :
    h.held l t (c + 1) = h.held l t c + if h.home l.tiles c = t then h.colLen c else 0 := by
  by_cases ht : h.home l.tiles c = t <;> simp [Hdl.held, List.range_succ, List.filter_append, ht]

theorem held_le (h : Hdl) (l : CalLay) (t : Nat) {m n : Nat} (hmn : m ≤ n) : h.held l t m ≤ h.held l t n := by
  induction hmn with
  | refl => exact Nat.le_refl _
  | step _ ih => rw [held_succ]; omega

/-- A column with a stored element lies on one of the tiles. -/
theorem home_mem (ht : l.tiles ≠ []) (hc : c < h.cols) (hlen : 0 < h.colLen c) : h.home l.tiles c ∈ l.tiles := by
  have hpos := List.length_pos_iff.2 ht
  have hbefore : h.before c < h.before h.cols := by
    have := before_le h (show c + 1 ≤ h.cols from hc)
    rw [before_succ] at this
    omega
  have hblock : h.block c < 192 := by
    rw [Hdl.block, Nat.max_eq_left (by omega), Nat.div_lt_iff_lt_mul (by omega)]
    omega
  have hidx : h.block c * l.tiles.length / 192 < l.tiles.length := by
    rw [Nat.div_lt_iff_lt_mul (by decide), Nat.mul_comm]
    exact Nat.mul_lt_mul_of_pos_left hblock hpos
  rw [Hdl.home, List.getElem?_eq_getElem hidx]
  exact List.getElem_mem hidx

/-- A handle that lies in its region. -/
structure Fits (h : Hdl) (l : CalLay) : Prop where
  tiles : l.tiles ≠ []
  rows  : h.rows ≤ h.ld
  fits  : h.fits l = true
  store : l.base + l.size ≤ 2 ^ 20

/-- A stored element stands within the region. -/
theorem slot_bound (hf : Fits h l) (hi : i < h.rows) (hc : c < h.cols) (hs : h.stored i c = true) :
    h.off + (h.slot l i c + 1) * h.esz ≤ l.size := by
  obtain ⟨hfrom, hlen⟩ := stored_in_col hi hs
  have hfit := hf.fits
  unfold Hdl.fits at hfit
  unfold Hdl.slot
  split
  next hp =>
    rw [if_pos hp, List.all_eq_true] at hfit
    have hmem := home_mem hf.tiles hc (by omega)
    have hroom : h.off + h.held l (h.home l.tiles c) h.cols * h.esz ≤ l.size := by simpa using hfit _ hmem
    have hheld := held_le h l (h.home l.tiles c) (show c + 1 ≤ h.cols from hc)
    rw [held_succ, if_pos rfl] at hheld
    exact Nat.le_trans (Nat.add_le_add_left (Nat.mul_le_mul_right _ (by omega)) _) hroom
  next hp =>
    rw [if_neg hp] at hfit
    have hroom : h.off + h.span ≤ l.size := by simpa using hfit
    refine Nat.le_trans (Nat.add_le_add_left (Nat.mul_le_mul_right _ ?_) _) hroom
    have : c * h.ld ≤ (h.cols - 1) * h.ld := Nat.mul_le_mul_right _ (by omega)
    omega

/-- Two stored elements of one tile stand in different places. -/
theorem slot_injective (hf : Fits h l) (hi : i < h.rows) (hs : h.stored i c = true) (hi' : i' < h.rows) (hs' : h.stored i' c' = true)
    (hhome : h.home l.tiles c = h.home l.tiles c') (heq : h.slot l i c = h.slot l i' c') : i = i' ∧ c = c' := by
  obtain ⟨hfrom, hlen⟩ := stored_in_col hi hs
  obtain ⟨hfrom', hlen'⟩ := stored_in_col hi' hs'
  unfold Hdl.slot at heq
  split at heq
  next hp =>
    rw [hhome] at heq
    have step {a b : Nat} (hab : a < b) (ha : h.home l.tiles a = h.home l.tiles c') :
        h.held l (h.home l.tiles c') a + h.colLen a ≤ h.held l (h.home l.tiles c') b := by
      have := held_le h l (h.home l.tiles c') (show a + 1 ≤ b from hab)
      rwa [held_succ, if_pos ha] at this
    obtain hlt | rfl | hgt := Nat.lt_trichotomy c c'
    · have := step hlt hhome
      omega
    · omega
    · have := step hgt rfl
      omega
  next hp =>
    have hld := hf.rows
    obtain rfl : c = c' := by
      obtain hlt | rfl | hgt := Nat.lt_trichotomy c c'
      · have := Nat.mul_le_mul_right h.ld (show c + 1 ≤ c' from hlt)
        rw [Nat.succ_mul] at this
        omega
      · rfl
      · have := Nat.mul_le_mul_right h.ld (show c' + 1 ≤ c from hgt)
        rw [Nat.succ_mul] at this
        omega
    omega

/-- Different stored elements share no byte of the stores. -/
theorem addr_disjoint (hf : Fits h l) (hi : i < h.rows) (hc : c < h.cols) (hs : h.stored i c = true) (hi' : i' < h.rows) (hc' : c' < h.cols)
    (hs' : h.stored i' c' = true) (hne : ¬(i = i' ∧ c = c')) :
    h.addr l i c + h.esz ≤ h.addr l i' c' ∨ h.addr l i' c' + h.esz ≤ h.addr l i c := by
  have hb := slot_bound hf hi hc hs
  have hb' := slot_bound hf hi' hc' hs'
  have hst := hf.store
  rw [Nat.succ_mul] at hb hb'
  rw [addr_eq_slot, addr_eq_slot]
  by_cases hhome : h.home l.tiles c = h.home l.tiles c'
  · have hslot : h.slot l i c ≠ h.slot l i' c' := fun e => hne (slot_injective hf hi hs hi' hs' hhome e)
    rcases Nat.lt_or_gt_of_ne hslot with hlt | hlt
    · have := Nat.mul_le_mul_right h.esz (show h.slot l i c + 1 ≤ h.slot l i' c' from hlt)
      rw [Nat.succ_mul] at this
      omega
    · have := Nat.mul_le_mul_right h.esz (show h.slot l i' c' + 1 ≤ h.slot l i c from hlt)
      rw [Nat.succ_mul] at this
      omega
  · rcases Nat.lt_or_gt_of_ne hhome with hlt | hlt
    · omega
    · omega

end

/-! ## Writes of elements -/

section
variable {m : SMap Byte} {n a v : Nat} {ws : List (Nat × Nat)}

/-- Write values of `n` bytes at their addresses, one after another. -/
def writeAll (m : SMap Byte) (n : Nat) (ws : List (Nat × Nat)) : SMap Byte := ws.foldl (fun m e => wrz m e.1 n e.2) m

theorem sget_writeAll_other (h : ∀ e ∈ ws, a < e.1 ∨ e.1 + n ≤ a) : sget zeroByte (writeAll m n ws) a = sget zeroByte m a := by
  induction ws generalizing m with
  | nil => rfl
  | cons e ws ih =>
    rw [writeAll, List.foldl_cons]
    refine (ih fun x hx => h x (List.mem_cons_of_mem _ hx)).trans ?_
    have := h e (List.mem_cons_self ..)
    exact sget_memWr.trans (if_neg (by omega))

theorem rdz_writeAll_other (h : ∀ e ∈ ws, a + n ≤ e.1 ∨ e.1 + n ≤ a) : rdz (writeAll m n ws) a n = rdz m a n :=
  memRd_congr fun j hj hj' => sget_writeAll_other fun e he => by have := h e he; omega

/-- A value written reads back where no other value written overlaps it. -/
theorem rdz_writeAll (hmem : (a, v) ∈ ws) (h : ∀ e ∈ ws, e = (a, v) ∨ a + n ≤ e.1 ∨ e.1 + n ≤ a) :
    rdz (writeAll m n ws) a n = v % 256 ^ n := by
  induction ws generalizing m with
  | nil => cases hmem
  | cons e ws ih =>
    rw [writeAll, List.foldl_cons]
    have hrest : ∀ x ∈ ws, x = (a, v) ∨ a + n ≤ x.1 ∨ x.1 + n ≤ a := fun x hx => h x (List.mem_cons_of_mem _ hx)
    by_cases hin : (a, v) ∈ ws
    · exact ih hin hrest
    · obtain rfl : e = (a, v) := ((List.mem_cons.1 hmem).resolve_right hin).symm
      refine (rdz_writeAll_other fun x hx => (hrest x hx).resolve_left fun e => hin (e ▸ hx)).trans ?_
      exact memRd_memWr v

end

section
variable {h : Hdl} {l : CalLay} {m : SMap Byte} {d : Bool} {x : Mat} {w : Nat → Nat → Bool}

/-- The values that `put` writes, in its order. -/
def Hdl.writes (h : Hdl) (l : CalLay) (d : Bool) (x : Mat) (w : Nat → Nat → Bool) : List (Nat × Nat) :=
  (List.range h.rows).flatMap fun i => ((List.range h.cols).filter fun c => h.stored i c && w i c).map fun c =>
    (h.addr l i c, recast d h.dbl (x.at i c))

theorem put_eq_writeAll : h.put m l d x w = writeAll m h.esz (h.writes l d x w) := by
  rw [Hdl.put, writeAll, Hdl.writes, List.foldl_flatMap]
  congr 1
  funext m i
  rw [List.foldl_map, List.foldl_filter]

theorem mem_writes {e : Nat × Nat} : e ∈ h.writes l d x w ↔
    ∃ i c, i < h.rows ∧ c < h.cols ∧ h.stored i c = true ∧ w i c = true ∧ e = (h.addr l i c, recast d h.dbl (x.at i c)) := by
  simp only [Hdl.writes, List.mem_flatMap, List.mem_map, List.mem_filter, List.mem_range, Bool.and_eq_true]
  constructor
  · rintro ⟨i, hi, c, ⟨hc, hs, hw⟩, rfl⟩
    exact ⟨i, c, hi, hc, hs, hw, rfl⟩
  · rintro ⟨i, c, hi, hc, hs, hw, rfl⟩
    exact ⟨i, hi, c, ⟨hc, hs, hw⟩, rfl⟩

/-- `put` writes each element that it names, and no other byte. -/
theorem rdz_put (hf : Fits h l) {i c : Nat} (hi : i < h.rows) (hc : c < h.cols) (hs : h.stored i c = true) (hw : w i c = true) :
    rdz (h.put m l d x w) (h.addr l i c) h.esz = recast d h.dbl (x.at i c) % 256 ^ h.esz := by
  rw [put_eq_writeAll]
  refine rdz_writeAll (mem_writes.2 ⟨i, c, hi, hc, hs, hw, rfl⟩) fun e he => ?_
  obtain ⟨i', c', hi', hc', hs', -, rfl⟩ := mem_writes.1 he
  by_cases heq : i = i' ∧ c = c'
  · obtain ⟨rfl, rfl⟩ := heq
    exact .inl rfl
  · exact .inr (addr_disjoint hf hi hc hs hi' hc' hs' heq)

theorem sget_put_other {a : Nat} (ha : ∀ i c, i < h.rows → c < h.cols → h.stored i c = true → w i c = true →
    a < h.addr l i c ∨ h.addr l i c + h.esz ≤ a) : sget zeroByte (h.put m l d x w) a = sget zeroByte m a := by
  rw [put_eq_writeAll]
  refine sget_writeAll_other fun e he => ?_
  obtain ⟨i, c, hi, hc, hs, hw, rfl⟩ := mem_writes.1 he
  exact ha i c hi hc hs hw

end

end Sys2Proof.Machine

namespace Sys2Proof.Machine

/-! ## What a macro-instruction leaves (R161, R172) -/

section
variable {s s' : State} {k op n : Nat} {j j' : CalJob} {m : Macro} {d : Bool} {x : Mat} {w' : Nat → Nat → Bool}
  {w : Nat → Nat → Prop} {v : Nat → Nat → Nat} {P : CalJob → Prop} {outs : List MacroOut}

theorem calReady_spec (h : s.calReady k op = some (j, m)) : s.cal.jobs[k]? = some j ∧ j.run = .running ∧ m.op = op := by
  unfold State.calReady at h
  split at h
  · cases h
  next e he =>
    split at h
    · cases h
    · split at h
      next hrun =>
        cases h
        exact ⟨he, hrun⟩
      · cases h

/-- `j'` is the job `j` with what its macro-instruction records, still running at the same place. -/
structure Carries (j j' : CalJob) : Prop where
  run    : j'.run = .running
  pc     : j'.pc = j.pc
  d      : j'.d = j.d
  tiles  : j'.tiles = j.tiles
  hdls   : j'.hdls = j.hdls
  prog   : j'.prog = j.prog
  staged : j'.staged.take j.staged.length = j.staged

theorem Carries.refl (h : j.run = .running) : Carries j j := ⟨h, rfl, rfl, rfl, rfl, rfl, List.take_length⟩

/-- The job `j` behind a macro-instruction that wrote `outs`. -/
def CalJob.next (j : CalJob) (outs : List MacroOut) : CalJob := { j with pc := j.pc + 1, facts := newFacts j.facts outs }

/-- The tiles' stores after `outs`. -/
def CalJob.putAll (j : CalJob) (d : Bool) (outs : List MacroOut) (mem : SMap Byte) : SMap Byte :=
  outs.foldl (fun m o => (j.hdl o.hdl).put m j.lay d o.mat o.wrote) mem

/-- The state with a macro-instruction's results written and its job gone on. -/
def State.wroteMacro (s : State) (k : Nat) (d : Bool) (j : CalJob) (outs : List MacroOut) : State :=
  (s.modCal fun c => { c with mem := j.putAll d outs c.mem }).setJob k (j.next outs)

theorem cal_modCal (s : State) (f : CalSt → CalSt) : (s.modCal f).cal = f s.cal := rfl

theorem dram_modCal (s : State) (f : CalSt → CalSt) : (s.modCal f).dram = s.dram := rfl

theorem calDone_eq : s.calDone k d ⟨j, outs⟩ =
    if outs.any (outBad j d) then (s.wroteMacro k d j outs).endJob k 3 none else s.wroteMacro k d j outs := by
  unfold State.calDone State.wroteMacro CalJob.putAll CalJob.next
  exact Eq.refl _

theorem cal_wroteMacro : (s.wroteMacro k d j outs).cal =
    { s.cal with mem := j.putAll d outs s.cal.mem, jobs := s.cal.jobs.set k (j.next outs) } := by
  rw [State.wroteMacro, State.setJob, cal_setJobs, cal_modCal]

theorem dram_wroteMacro : (s.wroteMacro k d j outs).dram = s.dram := by
  rw [State.wroteMacro, State.setJob, dram_setJobs, dram_modCal]

/-- A job set and then ended with an error is off the list. -/
theorem jobOff_set {u : State} {code : Nat} {j₀ : CalJob} {bad : Option Nat} (hj : s.cal.jobs[k]? = some j₀)
    (hu : u.cal.jobs = s.cal.jobs.set k j) (hcode : 2 ≤ code) :
    JobOff k false s (u.endJob k code bad) ∧ (u.endJob k code bad).cal.mem = u.cal.mem := by
  have hk : k < s.cal.jobs.length := (List.getElem?_eq_some_iff.1 hj).1
  have hget : u.cal.jobs[k]? = some j := by rw [hu, List.getElem?_set_self hk]
  obtain ⟨⟨hjobs, hbits⟩, hmem⟩ := jobOff_endJob (bad := bad) hget hcode
  exact ⟨⟨by rw [hjobs, hu, List.eraseIdx_set_eq], hbits⟩, hmem⟩

/-- How `calDone` ends: the results stand in the tiles' stores; the job is gone on, or ended where an element is too big. -/
theorem calDone_spec {j₀ : CalJob} (hj : s.cal.jobs[k]? = some j₀) :
    (s.calDone k d ⟨j, outs⟩).cal.mem = j.putAll d outs s.cal.mem ∧
    (outs.any (outBad j d) = false → (s.calDone k d ⟨j, outs⟩).cal.jobs = s.cal.jobs.set k (j.next outs) ∧
      (s.calDone k d ⟨j, outs⟩).dram = s.dram) ∧
    (outs.any (outBad j d) = true → JobOff k false s (s.calDone k d ⟨j, outs⟩)) := by
  have hjobs : (s.wroteMacro k d j outs).cal.jobs = s.cal.jobs.set k (j.next outs) := by rw [cal_wroteMacro]
  have hmem : (s.wroteMacro k d j outs).cal.mem = j.putAll d outs s.cal.mem := by rw [cal_wroteMacro]
  obtain ⟨hoff, hoffmem⟩ := jobOff_set (u := s.wroteMacro k d j outs) (j := j.next outs) (code := 3) (bad := none) hj hjobs (by decide)
  rw [calDone_eq]
  by_cases hbad : outs.any (outBad j d) = true
  · rw [if_pos hbad]
    exact ⟨hoffmem.trans hmem, fun h => absurd hbad (by rw [h]; decide), fun _ => hoff⟩
  · rw [if_neg hbad]
    exact ⟨hmem, fun _ => ⟨hjobs, dram_wroteMacro⟩, fun h => absurd h hbad⟩

/-- A job that a macro-instruction leaves running. -/
theorem goesOn_next (hc : Carries j j') (hP : P (j'.next outs)) {t : State} (ht : t.cal.jobs = s.cal.jobs.set k (j'.next outs)) :
    GoesOn k j P s t :=
  ⟨_, ht, congrArg (· + 1) hc.pc, hc.run, hc.d, hc.hdls, hc.prog, hc.staged, hP⟩

theorem Carries.hdl (hc : Carries j j') (n : Nat) : j'.hdl n = j.hdl n := by rw [CalJob.hdl, CalJob.hdl, hc.hdls]

theorem Carries.lay (hc : Carries j j') : j'.lay = j.lay := by rw [CalJob.lay, CalJob.lay, hc.d, hc.tiles]

theorem fits_of_inRegion (h : InRegion j n) : Fits (j.hdl n) j.lay := by
  obtain ⟨htiles, -, -, hrows, hfits, hstore⟩ := h
  exact ⟨htiles, hrows, hfits, hstore⟩

/-- An element that a macro-instruction writes is too big exactly where one of those named is. -/
theorem outBad_iff (hc : Carries j j') (hw : ∀ i c, i < (j.hdl n).rows → c < (j.hdl n).cols → (w' i c = true ↔ w i c))
    (hv : ∀ i c, Written (j.hdl n) w i c → x.at i c = v i c) : outBad j' d ⟨n, x, w'⟩ = true ↔ TooBig j n d w v := by
  simp only [outBad, hc.hdl, List.any_eq_true, List.mem_range, Bool.and_eq_true, TooBig]
  constructor
  · rintro ⟨i, hi, c, hcol, ⟨hs, hw'⟩, hbig⟩
    have hwritten : Written (j.hdl n) w i c := ⟨hi, hcol, hs, (hw i c hi hcol).1 hw'⟩
    exact ⟨i, c, hwritten, by rwa [hv i c hwritten] at hbig⟩
  · rintro ⟨i, c, ⟨hi, hcol, hs, hwic⟩, hbig⟩
    exact ⟨i, hi, c, hcol, ⟨hs, (hw i c hi hcol).2 hwic⟩, by rwa [hv i c ⟨hi, hcol, hs, hwic⟩]⟩

/-- What `put` leaves of a handle in its region. -/
theorem holdsElems_put (hreg : InRegion j n) (hw : ∀ i c, i < (j.hdl n).rows → c < (j.hdl n).cols → (w' i c = true ↔ w i c))
    (hv : ∀ i c, Written (j.hdl n) w i c → x.at i c = v i c) {mem : SMap Byte} {t : State}
    (ht : t.cal.mem = (j.hdl n).put mem j.lay d x w') : HoldsElems j n d w v t := by
  intro i c hwritten
  obtain ⟨hi, hcol, hs, hwic⟩ := hwritten
  rw [ht, rdz_put (fits_of_inRegion hreg) hi hcol hs ((hw i c hi hcol).2 hwic), hv i c ⟨hi, hcol, hs, hwic⟩, Nat.pow_mul]

/-- A macro-instruction that writes one handle. -/
theorem macroWrites_calDone (hj : s.cal.jobs[k]? = some j) (hcal : s'.cal = s.cal) (hreg : InRegion j n) (hc : Carries j j')
    (hw : ∀ i c, i < (j.hdl n).rows → c < (j.hdl n).cols → (w' i c = true ↔ w i c))
    (hv : ∀ i c, Written (j.hdl n) w i c → x.at i c = v i c) (hP : P (j'.next [⟨n, x, w'⟩])) :
    MacroWrites k j n d w v P s (s'.calDone k d ⟨j', [⟨n, x, w'⟩]⟩) := by
  obtain ⟨hmem, hon, hoff⟩ := calDone_spec (s := s') (j := j') (d := d) (outs := [⟨n, x, w'⟩]) (hcal ▸ hj)
  have hany : [(⟨n, x, w'⟩ : MacroOut)].any (outBad j' d) = outBad j' d ⟨n, x, w'⟩ := by simp
  have hbad := outBad_iff (d := d) hc hw hv
  rw [hany] at hon hoff
  rw [hcal] at hon hmem
  have hput : (s'.calDone k d ⟨j', [⟨n, x, w'⟩]⟩).cal.mem = (j.hdl n).put s.cal.mem j.lay d x w' := by
    rw [hmem, CalJob.putAll, List.foldl_cons, List.foldl_nil, hc.hdl, hc.lay]
  refine ⟨holdsElems_put hreg hw hv hput, fun a ha => ?_, fun hno => ?_, fun hbig => ?_⟩
  · rw [hput]
    exact sget_put_other fun i c hi hcol hs hwic => ha i c ⟨hi, hcol, hs, (hw i c hi hcol).1 hwic⟩
  · exact goesOn_next hc hP (hon (by rw [← Bool.not_eq_true, hbad]; exact hno)).1
  · obtain ⟨hjobs, hbits⟩ := hoff (hbad.2 hbig)
    exact ⟨by rw [hjobs, hcal], hbits⟩

/-- The same for one that writes every stored element. -/
theorem macroWrote_calDone (hj : s.cal.jobs[k]? = some j) (hcal : s'.cal = s.cal) (hreg : InRegion j n) (hc : Carries j j')
    (hv : ∀ i c, i < (j.hdl n).rows → c < (j.hdl n).cols → x.at i c = v i c) :
    MacroWrote k j n d v s (s'.calDone k d ⟨j', [.all n x]⟩) :=
  macroWrites_calDone hj hcal hreg hc (fun _ _ _ _ => ⟨fun _ => trivial, fun _ => rfl⟩)
    (fun i c hwritten => hv i c hwritten.1 hwritten.2.1) trivial

/-- A macro-instruction that writes nothing goes on. -/
theorem goesOn_calDone (hj : s.cal.jobs[k]? = some j) (hc : Carries j j') (hP : P (j'.next [])) :
    (s.calDone k d ⟨j', []⟩).cal.mem = s.cal.mem ∧ (s.calDone k d ⟨j', []⟩).dram = s.dram ∧ GoesOn k j P s (s.calDone k d ⟨j', []⟩) := by
  obtain ⟨hmem, hon, -⟩ := calDone_spec (d := d) (j := j') (outs := []) hj
  obtain ⟨hjobs, hdram⟩ := hon rfl
  exact ⟨hmem, hdram, goesOn_next hc hP hjobs⟩

end

end Sys2Proof.Machine

namespace Sys2Proof.Machine

/-! ## Matrices given by their elements -/

/-- The matrix with the elements `f`. -/
def grid (r c : Nat) (f : Nat → Nat → Nat) : Mat := (List.range r).map fun i => (List.range c).map (f i)

section
variable {r c i q n : Nat} {f g : Nat → Nat → Nat}

@[simp] theorem length_grid : (grid r c f).length = r := by simp [grid]

theorem grid_congr (h : ∀ i q, i < r → q < c → f i q = g i q) : grid r c f = grid r c g :=
  List.map_congr_left fun i hi => List.map_congr_left fun q hq => h i q (List.mem_range.1 hi) (List.mem_range.1 hq)

theorem row_grid (hi : i < r) : ((grid r c f)[i]?).getD [] = (List.range c).map (f i) := by
  simp [grid, hi]

theorem at_grid (hi : i < r) (hq : q < c) : (grid r c f).at i q = f i q := by
  simp [Mat.at, row_grid hi, hq]

theorem tr_grid : (grid r c f).tr r c = grid c r fun q i => f i q :=
  List.map_congr_left fun _ hq => List.map_congr_left fun _ hi => at_grid (List.mem_range.1 hi) (List.mem_range.1 hq)

theorem zip_map_range (f g : Nat → Nat) (n : Nat) : ((List.range n).map f).zip ((List.range n).map g) = (List.range n).map fun q => (f q, g q) := by
  rw [List.zip_map']

end

section
variable {s : State} {k : Nat} {j : CalJob} {m : Macro} {d t : Bool} {n i c : Nat}

/-- A handle's matrix, by its elements. -/
theorem calMat_eq_grid (s : State) (j : CalJob) (d : Bool) (n : Nat) :
    s.calMat j d n = grid (j.hdl n).rows (j.hdl n).cols fun i c => (s.calMat j d n).at i c :=
  grid_congr fun _ _ hi hc => (at_grid (f := fun i c => recast (j.hdl n).dbl d ((j.hdl n).elem s.cal.mem j.lay i c)) hi hc).symm

/-- An operand, transposed where `t` says so. -/
theorem opMat_calMat : opMat t (j.hdl n) (s.calMat j d n) =
    grid (if t then (j.hdl n).cols else (j.hdl n).rows) (if t then (j.hdl n).rows else (j.hdl n).cols)
      fun i q => if t then (s.calMat j d n).at q i else (s.calMat j d n).at i q := by
  cases t with
  | true => exact (congrArg (Mat.tr · (j.hdl n).rows (j.hdl n).cols) (calMat_eq_grid s j d n)).trans tr_grid
  | false => exact calMat_eq_grid ..

theorem product_grid {r cs e : Nat} {f g : Nat → Nat → Nat} (old : Mat) : product d m (grid r e f) (grid cs e g) old =
    grid r cs fun i c => linElem d m (old.at i c) ((List.range e).map fun q => (f i q, g c q)) := by
  unfold product
  rw [length_grid, length_grid]
  refine grid_congr fun i c hi hc => ?_
  rw [row_grid hi, row_grid hc, zip_map_range]

/-- The product of two operands, each transposed where its flag says so. -/
theorem product_opMat {t' : Bool} {n' : Nat} (old : Mat)
    (hinner : (if t then (j.hdl n).rows else (j.hdl n).cols) = if t' then (j.hdl n').rows else (j.hdl n').cols) :
    product d m (opMat t (j.hdl n) (s.calMat j d n)) (opMat t' (j.hdl n') (s.calMat j d n')) old =
      grid (if t then (j.hdl n).cols else (j.hdl n).rows) (if t' then (j.hdl n').cols else (j.hdl n').rows) fun i c =>
        linElem d m (old.at i c) ((List.range (if t then (j.hdl n).rows else (j.hdl n).cols)).map fun q =>
          (if t then (s.calMat j d n).at q i else (s.calMat j d n).at i q, if t' then (s.calMat j d n').at q c else (s.calMat j d n').at c q)) := by
  rw [opMat_calMat, opMat_calMat, ← hinner, product_grid]

theorem fbit_zero (x : Nat) : fbit x 0 = (x % 2 == 1) := by simp [fbit]

/-- A command of the Calender while DC5 is on. -/
theorem after_ifOn {i : Instr} {f : State → State} {P : State → Prop} (hon : s.domOn 5 = true) (he : exec i s = .next (s.ifOn 5 f)) (h : P (f s)) :
    After i s P :=
  ⟨_, he, by rw [ifOn_on _ hon]; exact h⟩

theorem dbl_one (j : CalJob) (n : Nat) : j.dbl [n] = (j.hdl n).dbl := by simp [CalJob.dbl]

end

/-! ## Lists of equal parts -/

section
variable {α : Type} {f : Nat → List α} {n len a b : Nat}

theorem length_flatMap_range (h : ∀ i < n, (f i).length = len) : ((List.range n).flatMap f).length = n * len := by
  induction n with
  | zero => simp
  | succ n ih =>
    rw [List.range_succ, List.flatMap_append, List.length_append, ih fun i hi => h i (by omega), Nat.succ_mul]
    simp [h n (Nat.lt_succ_self n)]

theorem getElem?_flatMap_range (h : ∀ i < n, (f i).length = len) (ha : a < n) (hb : b < len) :
    ((List.range n).flatMap f)[a * len + b]? = (f a)[b]? := by
  induction n with
  | zero => omega
  | succ n ih =>
    have hlen : ((List.range n).flatMap f).length = n * len := length_flatMap_range fun i hi => h i (by omega)
    rw [List.range_succ, List.flatMap_append]
    by_cases han : a < n
    · have : (a + 1) * len ≤ n * len := Nat.mul_le_mul_right _ han
      rw [Nat.succ_mul] at this
      rw [List.getElem?_append_left (by omega), ih (fun i hi => h i (by omega)) han]
    · obtain rfl : a = n := by omega
      rw [List.getElem?_append_right (by omega), hlen, Nat.add_sub_cancel_left]
      simp

end

/-! ## LOADM's sources -/

section
variable {s : State} {j : CalJob} {h : Hdl} {box : Nat} {ws : List Word}

theorem cal_fillFree (s : State) (ws : List (Option Word)) : (fillFree s ws).2.cal = s.cal := by
  induction ws generalizing s with
  | nil => rfl
  | cons w ws ih =>
    cases w with
    | none => exact ih _
    | some w => exact ih _

theorem fillFree_some (s : State) (ws : List Word) : fillFree s (ws.map some) = (ws, s) := by
  induction ws with
  | nil => rfl
  | cons w ws ih => simp only [List.map_cons, fillFree, ih]

/-- The message that holds column `c` of a handle loaded from mailbox `box`. -/
def boxMsg (j : CalJob) (h : Hdl) (box c : Nat) : Msg :=
  (sget (fun _ => none) j.views (8 * h.home (dNamed j.d) c + box)).getD []

/-- The words of a handle's columns in their messages. -/
def boxWords (j : CalJob) (h : Hdl) (box : Nat) : List Word :=
  (List.range h.cols).flatMap fun c => (List.range (h.rows * (h.esz / 4))).map fun q =>
    (boxMsg j h box c).getD (c * (h.rows * (h.esz / 4)) + q) 0

/-- Messages long enough give every word. -/
theorem viewWords_full (hlen : ∀ c, c < h.cols → h.rows * h.cols * (h.esz / 4) ≤ (boxMsg j h box c).length) :
    viewWords j h box = (boxWords j h box).map some := by
  unfold viewWords boxWords
  dsimp only
  rw [List.map_flatMap]
  refine List.flatMap_congr fun c hc => ?_
  rw [List.map_map]
  refine List.map_congr_left fun q hq => ?_
  have hc := List.mem_range.1 hc
  have hq := List.mem_range.1 hq
  have hidx : c * (h.rows * (h.esz / 4)) + q < (boxMsg j h box c).length := by
    refine Nat.lt_of_lt_of_le ?_ (hlen c hc)
    have hle : (c + 1) * (h.rows * (h.esz / 4)) ≤ h.cols * (h.rows * (h.esz / 4)) := Nat.mul_le_mul_right _ hc
    rw [Nat.succ_mul] at hle
    rw [show h.rows * h.cols * (h.esz / 4) = h.cols * (h.rows * (h.esz / 4)) by ring]
    omega
  rw [Nat.mul_assoc]
  exact (List.getElem?_eq_getElem hidx).trans (by simp [List.getD, List.getElem?_eq_getElem hidx])

theorem getD_boxWords {c q : Nat} (hc : c < h.cols) (hq : q < h.rows * (h.esz / 4)) :
    (boxWords j h box).getD (c * (h.rows * (h.esz / 4)) + q) 0 = (boxMsg j h box c).getD (c * (h.rows * (h.esz / 4)) + q) 0 := by
  rw [List.getD, boxWords, getElem?_flatMap_range (fun _ _ => by simp) hc hq]
  simp [hq]

theorem getD_memWords {d : Nat → Byte} {m : SMap Byte} {a n q : Nat} (hq : q < n) :
    (memWords d m a n).getD q 0 = BitVec.ofNat 32 (memRd d m (a + 4 * q) 4) := by
  induction n generalizing a q with
  | zero => omega
  | succ n ih =>
    cases q with
    | zero => rfl
    | succ q =>
      have := ih (a := a + 4) (q := q) (by omega)
      rw [memWords, List.getD_cons_succ, this, show a + 4 + 4 * q = a + 4 * (q + 1) by omega]

/-- An element of `matOfWords`: one word, or two. -/
def wordElem (ws : List Word) (e o : Nat) : Nat := (ws.getD o 0).toNat + if e = 2 then 2 ^ 32 * (ws.getD (o + 1) 0).toNat else 0

theorem matOfWords_eq_grid (rows cols e : Nat) (ws : List Word) :
    matOfWords rows cols e ws = grid rows cols fun i c => wordElem ws e ((c * rows + i) * e) := rfl

/-- An element among the words of a memory is the value of its bytes there. -/
theorem wordElem_memWords {m : SMap Byte} {a n o : Nat} (ho : o + h.esz / 4 ≤ n) :
    wordElem (memWords zeroByte m a n) (h.esz / 4) o = rdz m (a + 4 * o) h.esz := by
  have hlt (x : Nat) : memRd zeroByte m x 4 < 2 ^ 32 := by rw [memRd_eq_leVal]; exact leVal_lt _ _ 4
  have hword {q : Nat} (hq : q < n) : ((memWords zeroByte m a n).getD q 0).toNat = memRd zeroByte m (a + 4 * q) 4 := by
    rw [getD_memWords hq, BitVec.toNat_ofNat, Nat.mod_eq_of_lt (hlt _)]
  rcases esz_cases h with he | he
  · rw [he] at ho ⊢
    rw [wordElem, hword (by omega)]
    rfl
  · rw [he] at ho ⊢
    rw [wordElem, hword (by omega), hword (by omega), if_pos rfl, rdz, memRd_add (n := 4) 4,
      show a + 4 * (o + 1) = a + 4 * o + 4 by omega]
    rfl

end

/-! ## The macro-instructions that copy, load and multiply -/

section
variable {s : State} {k op : Nat} {j : CalJob} {m : Macro}

theorem loadm_copy (hr : s.calReady k 1 = some (j, m)) (hf : m.flags % 4 = 2) : ∃ j', Carries j j' ∧
    loadm k s = s.calDone k (j.dbl [m.h0, m.h1]) ⟨j', [.all m.h0 (s.calMat j (j.dbl [m.h0, m.h1]) m.h1)]⟩ := by
  obtain ⟨-, hrun, -⟩ := calReady_spec hr
  unfold loadm
  simp only [hr, hf, if_true]
  cases sget (fun _ => 0) j.facts m.h1 with
  | zero => exact ⟨j, .refl hrun, rfl⟩
  | succ f => exact ⟨j.fact m.h0 (f + 1), ⟨hrun, rfl, rfl, rfl, rfl, rfl, List.take_length⟩, rfl⟩

/-- Where LOADM takes its words from, and what it leaves of the free values. -/
def loadSource (s : State) (j : CalJob) (m : Macro) : List Word × State :=
  let h := j.hdl m.h0
  let n := h.rows * h.cols * (h.esz / 4)
  let a := m.p0 + 2 ^ 32 * m.p1
  if m.flags % 4 = 1 then fillFree s (viewWords j h (m.imm % 8))
  else if inDram a (4 * n) then (s.dramWords a n, s) else fillFree s (List.replicate n none)

theorem loadm_load (hr : s.calReady k 1 = some (j, m)) (hf : m.flags % 4 ≠ 2) : loadm k s =
    (loadSource s j m).2.calDone k (j.hdl m.h0).dbl ⟨j, [.all m.h0
      (matOfWords (j.hdl m.h0).rows (j.hdl m.h0).cols ((j.hdl m.h0).esz / 4) (loadSource s j m).1)]⟩ := by
  unfold loadm loadSource
  simp only [hr, hf, if_false]

theorem cal_loadSource : (loadSource s j m).2.cal = s.cal := by
  unfold loadSource
  dsimp only
  split
  · exact cal_fillFree ..
  · split
    · rfl
    · exact cal_fillFree ..

theorem gem_eq (hr : s.calReady k op = some (j, m)) : gem op k s = s.calDone k (j.dbl (opHandles m)) ⟨j, [.all m.h2
    (product (j.dbl (opHandles m)) m (opMat (fbit m.flags 0) (j.hdl m.h0) (s.calMat j (j.dbl (opHandles m)) m.h0))
      (opMat (!(op == 9 && fbit m.flags 1)) (j.hdl m.h1) (s.calMat j (j.dbl (opHandles m)) m.h1))
      (s.calMat j (j.dbl (opHandles m)) m.h2))]⟩ := by
  unfold gem
  simp only [hr]

theorem syrk_eq (hr : s.calReady k 10 = some (j, m)) : syrk k s = s.calDone k (j.dbl (opHandles m)) ⟨j, [⟨m.h2,
    product (j.dbl (opHandles m)) m (opMat (fbit m.flags 0) (j.hdl m.h0) (s.calMat j (j.dbl (opHandles m)) m.h0))
      (opMat (fbit m.flags 0) (j.hdl m.h0) (s.calMat j (j.dbl (opHandles m)) m.h0)) (s.calMat j (j.dbl (opHandles m)) m.h2),
    fun i c => decide (c ≤ i)⟩]⟩ := by
  unfold syrk
  simp only [hr]

theorem axpy_eq (hr : s.calReady k 11 = some (j, m)) : axpy k s = s.calDone k (j.dbl (opHandles m)) ⟨j, [.all m.h1
    (grid (j.hdl m.h1).rows (j.hdl m.h1).cols fun i c => cFma (j.dbl (opHandles m)) ((s.calMat j (j.dbl (opHandles m)) m.h1).at i c)
      (par (j.dbl (opHandles m)) m.p0) ((s.calMat j (j.dbl (opHandles m)) m.h0).at i c))]⟩ := by
  unfold axpy
  simp only [hr]
  rfl

/-- The norm that NORM writes. -/
def normOf (d infinity : Bool) (x : Mat) : Nat := if infinity then infNorm d x else twoNorm d x

theorem calNorm_eq (hr : s.calReady k 12 = some (j, m)) : calNorm k s = s.calDone k (j.dbl (opHandles m)) ⟨j, [⟨m.h1,
    [[normOf (j.dbl (opHandles m)) (fbit m.flags 0) (s.calMat j (j.dbl (opHandles m)) m.h0)]], fun i c => i == 0 && c == 0⟩]⟩ := by
  unfold calNorm
  simp only [hr]
  rfl

theorem twoNorm_column {d : Bool} {r : Nat} {f : Nat → Nat → Nat} :
    twoNorm d (grid r 1 f) = cSqrt d (calSum d 0 ((List.range r).map fun i => (f i 0, f i 0))) := by
  have hall : (grid r 1 f).all (fun row => row.length == 1) = true := by simp [grid]
  have hflat : (grid r 1 f).flatten = (List.range r).map fun i => f i 0 := by
    rw [grid, ← List.flatMap_def]
    exact List.flatMap_pure_eq_map _ _
  rw [twoNorm, if_pos (.inr hall), hflat, List.map_map]
  rfl

/-- The row that SHIFT brings to row `i`. -/
def shiftRow (rows imm p1 i : Nat) : Nat :=
  if i + imm * p1 < rows then i + imm * p1 else rows - p1 + (i + imm * p1 - rows) % p1

theorem calShift_eq (hr : s.calReady k 14 = some (j, m)) : calShift k s = s.calDone k (j.hdl m.h0).dbl ⟨j, [.all m.h0
    ((List.range (j.hdl m.h0).rows).map fun i =>
      ((s.calMat j (j.hdl m.h0).dbl m.h0)[shiftRow (j.hdl m.h0).rows m.imm m.p1 i]?).getD [])]⟩ := by
  unfold calShift shiftRow
  simp only [hr]
  congr 5
  funext i
  split <;> rfl

theorem at_map_row {x : Mat} {r i c : Nat} {g : Nat → Nat} (hi : i < r) :
    Mat.at ((List.range r).map fun i => (x[g i]?).getD []) i c = x.at (g i) c := by
  simp [Mat.at, hi]

theorem storem_eq (hr : s.calReady k 2 = some (j, m)) : storem k s = s.calDone k (j.hdl m.h0).dbl ⟨{ j with staged := j.staged ++
    [if m.flags % 2 = 1 then .felt (m.imm % 64) (wordsOfMat (j.hdl m.h0).rows (j.hdl m.h0).cols ((j.hdl m.h0).esz / 4)
        (s.calMat j (j.hdl m.h0).dbl m.h0))
      else .dram (m.p0 + 2 ^ 32 * m.p1) (wordsOfMat (j.hdl m.h0).rows (j.hdl m.h0).cols ((j.hdl m.h0).esz / 4)
        (s.calMat j (j.hdl m.h0).dbl m.h0))] }, []⟩ := by
  unfold storem
  simp only [hr]

theorem pivchk_eq (hr : s.calReady k 15 = some (j, m)) :
    pivchk k s = if m.imm < j.pivots then s.endJob k 8 none else s.calDone k false ⟨j, []⟩ := by
  unfold pivchk
  simp only [hr]

end

/-! ## Each of the simple macro-instructions -/

section
variable {s : State} {k : Nat} {j : CalJob} {m : Macro}

theorem macro_loadm_copy (hon : s.domOn 5 = true) (hr : s.calReady k 1 = some (j, m)) (hreg : InRegion j m.h0) (hf : m.flags % 4 = 2) :
    After (.loadm k) s (MacroWrote k j m.h0 (j.dbl [m.h0, m.h1]) (fun i c => (s.calMat j (j.dbl [m.h0, m.h1]) m.h1).at i c) s) := by
  obtain ⟨hj, -, -⟩ := calReady_spec hr
  obtain ⟨j', hc, heq⟩ := loadm_copy hr hf
  refine after_ifOn hon rfl ?_
  rw [heq]
  exact macroWrote_calDone hj rfl hreg hc fun i c _ _ => rfl

theorem macro_loadm_load (hon : s.domOn 5 = true) (hr : s.calReady k 1 = some (j, m)) (hreg : InRegion j m.h0) (hf : m.flags % 4 ≠ 2)
    {v : Nat → Nat → Nat} (hv : ∀ i c, i < (j.hdl m.h0).rows → c < (j.hdl m.h0).cols →
      wordElem (loadSource s j m).1 ((j.hdl m.h0).esz / 4) ((c * (j.hdl m.h0).rows + i) * ((j.hdl m.h0).esz / 4)) = v i c) :
    After (.loadm k) s (MacroWrote k j m.h0 (j.hdl m.h0).dbl v s) := by
  obtain ⟨hj, hrun, -⟩ := calReady_spec hr
  refine after_ifOn hon rfl ?_
  rw [loadm_load hr hf]
  refine macroWrote_calDone hj cal_loadSource hreg (.refl hrun) fun i c hi hc => ?_
  rw [matOfWords_eq_grid, at_grid hi hc]
  exact hv i c hi hc

/-- Within `n` elements, those of column `c` come after those of the columns before it. -/
theorem elem_bound {rows cols e i c : Nat} (hi : i < rows) (hc : c < cols) : (c * rows + i) * e + e ≤ rows * cols * e := by
  have hcol : (c + 1) * rows ≤ cols * rows := Nat.mul_le_mul_right _ hc
  rw [Nat.succ_mul] at hcol
  have hel : (c * rows + i + 1) * e ≤ rows * cols * e := Nat.mul_le_mul_right _ (by rw [Nat.mul_comm rows]; omega)
  rwa [Nat.succ_mul] at hel

theorem four_mul_esz (h : Hdl) : 4 * (h.esz / 4) = h.esz := by
  rcases esz_cases h with he | he <;> rw [he]

theorem loadSource_dram (hf : m.flags % 4 = 0) (hin : inDram (m.p0 + 2 ^ 32 * m.p1)
    ((j.hdl m.h0).rows * (j.hdl m.h0).cols * (j.hdl m.h0).esz) = true) : (loadSource s j m).1 =
      memWords zeroByte s.dram (m.p0 + 2 ^ 32 * m.p1 - dramBase) ((j.hdl m.h0).rows * (j.hdl m.h0).cols * ((j.hdl m.h0).esz / 4)) := by
  have hbytes : 4 * ((j.hdl m.h0).rows * (j.hdl m.h0).cols * ((j.hdl m.h0).esz / 4)) =
      (j.hdl m.h0).rows * (j.hdl m.h0).cols * (j.hdl m.h0).esz := by
    rw [Nat.mul_left_comm, four_mul_esz]
  rw [loadSource, if_neg (by omega), hbytes, if_pos hin]
  rfl

theorem loadSource_box (hf : m.flags % 4 = 1) (hlen : ∀ c, c < (j.hdl m.h0).cols →
    (j.hdl m.h0).rows * (j.hdl m.h0).cols * ((j.hdl m.h0).esz / 4) ≤ (boxMsg j (j.hdl m.h0) (m.imm % 8) c).length) :
    (loadSource s j m).1 = boxWords j (j.hdl m.h0) (m.imm % 8) := by
  rw [loadSource, if_pos hf, viewWords_full hlen, fillFree_some]

/-- An element that a column's message gives. -/
theorem wordElem_boxWords {h : Hdl} {box i c : Nat} (hi : i < h.rows) (hc : c < h.cols) :
    wordElem (boxWords j h box) (h.esz / 4) ((c * h.rows + i) * (h.esz / 4)) =
      wordElem (boxMsg j h box c) (h.esz / 4) ((c * h.rows + i) * (h.esz / 4)) := by
  have hpos : 0 < h.esz / 4 := by rcases esz_cases h with he | he <;> rw [he] <;> decide
  have hrow : (i + 1) * (h.esz / 4) ≤ h.rows * (h.esz / 4) := Nat.mul_le_mul_right _ hi
  rw [Nat.succ_mul] at hrow
  have hoff : (c * h.rows + i) * (h.esz / 4) = c * (h.rows * (h.esz / 4)) + i * (h.esz / 4) := by ring
  rw [hoff, wordElem, wordElem, getD_boxWords hc (by omega)]
  congr 1
  split
  next he => rw [Nat.add_assoc, getD_boxWords hc (by omega)]
  next => rfl

/-- LOADM behind a mailbox, whatever the messages hold: the job goes on, or ends. -/
theorem macro_goesOn_or_ends {i : Instr} {n : Nat} {d : Bool} {v : Nat → Nat → Nat} (h : After i s (MacroWrote k j n d v s)) :
    After i s fun u => GoesOn k j (fun _ => True) s u ∨ JobOff k false s u := by
  obtain ⟨t, he, -, -, hon, hoff⟩ := h
  by_cases hbig : TooBig j n d (fun _ _ => True) v
  · exact ⟨t, he, .inr (hoff hbig)⟩
  · exact ⟨t, he, .inl (hon hbig)⟩

/-- The shapes of a matrix and a vector that multiply. -/
theorem shape_gemv (hop : m.op = 8) (h : opShapeOk j.hdls m = true) :
    (j.hdl m.h1).rows = (if fbit m.flags 0 then (j.hdl m.h0).rows else (j.hdl m.h0).cols) ∧ (j.hdl m.h1).cols = 1 ∧
      (j.hdl m.h2).rows = (if fbit m.flags 0 then (j.hdl m.h0).cols else (j.hdl m.h0).rows) ∧ (j.hdl m.h2).cols = 1 := by
  simp only [opShapeOk, hop, Bool.and_eq_true, beq_iff_eq, and_assoc] at h
  rw [fbit_zero]
  simpa only [beq_iff_eq, CalJob.hdl] using h

theorem shape_gemm (hop : m.op = 9) (h : opShapeOk j.hdls m = true) :
    (if fbit m.flags 0 then (j.hdl m.h0).rows else (j.hdl m.h0).cols) = (if fbit m.flags 1 then (j.hdl m.h1).cols else (j.hdl m.h1).rows) ∧
      (j.hdl m.h2).rows = (if fbit m.flags 0 then (j.hdl m.h0).cols else (j.hdl m.h0).rows) ∧
      (j.hdl m.h2).cols = (if fbit m.flags 1 then (j.hdl m.h1).rows else (j.hdl m.h1).cols) := by
  simp only [opShapeOk, hop, Bool.and_eq_true, beq_iff_eq, and_assoc] at h
  rw [fbit_zero]
  simpa only [beq_iff_eq, CalJob.hdl] using h

theorem shape_syrk (hop : m.op = 10) (h : opShapeOk j.hdls m = true) :
    (j.hdl m.h2).rows = (if fbit m.flags 0 then (j.hdl m.h0).cols else (j.hdl m.h0).rows) ∧
      (j.hdl m.h2).cols = (if fbit m.flags 0 then (j.hdl m.h0).cols else (j.hdl m.h0).rows) := by
  simp only [opShapeOk, hop, Bool.and_eq_true, beq_iff_eq] at h
  rw [fbit_zero]
  simpa only [beq_iff_eq, CalJob.hdl] using h

end

/-- Settles O33: each of the simple macro-instructions writes its results and goes on, or ends the job where one is too big. -/
theorem macroResults : Obligations.MacroResults := by
  unfold Obligations.MacroResults
  intro k j m s hon hr hshape h d x t lin words at_
  obtain ⟨hj, hrun, hop⟩ := calReady_spec hr
  refine ⟨fun h1 hreg => ⟨fun hf hin => ?_, fun hf => ?_, fun hf => ⟨?_, ?_⟩⟩, fun h2 => ?_, fun h8 hreg => ?_, fun h9 hreg => ?_,
    fun h10 hreg => ?_, fun h11 hreg => ?_, fun h12 hreg => ?_, fun h14 hreg => ?_, fun h15 => ⟨fun hlt => ?_, fun hle => ?_⟩⟩
  · rw [h1] at hr
    refine macro_loadm_load hon hr hreg (by omega) fun i c hi hc => ?_
    rw [loadSource_dram hf hin, wordElem_memWords (elem_bound hi hc), Nat.mul_left_comm, four_mul_esz]
  · rw [h1] at hr
    have hd : d = j.dbl [m.h0, m.h1] := by simp only [d, opHandles, h1, hf, if_true]
    simp only [x, hd]
    exact macro_loadm_copy hon hr hreg hf
  · rw [h1] at hr
    exact macro_goesOn_or_ends (macro_loadm_load hon hr hreg (by omega) fun i c hi hc => rfl)
  · intro e msg o hlen
    rw [h1] at hr
    refine macro_loadm_load hon hr hreg (by omega) fun i c hi hc => ?_
    rw [loadSource_box hf hlen, wordElem_boxWords hi hc]
    rfl
  · rw [h2] at hr
    refine after_ifOn hon rfl ?_
    rw [storem_eq hr]
    exact goesOn_calDone hj ⟨hrun, rfl, rfl, rfl, rfl, rfl, List.take_left⟩ rfl
  · rw [h8] at hr
    obtain ⟨hrows, hcols, hrows2, hcols2⟩ := shape_gemv h8 hshape
    refine after_ifOn hon rfl ?_
    rw [gem_eq hr, show (!(8 == 9 && fbit m.flags 1)) = true from rfl, product_opMat _ (hrows.symm.trans (if_pos rfl).symm)]
    refine macroWrote_calDone hj rfl hreg (.refl hrun) fun i c hi hc => ?_
    rw [at_grid (hrows2 ▸ hi) (by rw [if_pos rfl, hcols]; omega), ← hrows]
    rfl
  · rw [h9] at hr
    obtain ⟨hinner, hrows2, hcols2⟩ := shape_gemm h9 hshape
    refine after_ifOn hon rfl ?_
    rw [gem_eq hr, show (!(9 == 9 && fbit m.flags 1)) = !fbit m.flags 1 from rfl, product_opMat _ (hinner.trans (by cases fbit m.flags 1 <;> rfl))]
    refine macroWrote_calDone hj rfl hreg (.refl hrun) fun i c hi hc => ?_
    rw [at_grid (hrows2 ▸ hi) (Nat.lt_of_lt_of_eq hc (hcols2.trans (by cases fbit m.flags 1 <;> rfl)))]
    cases fbit m.flags 1 <;> rfl
  · rw [h10] at hr
    obtain ⟨hrows2, hcols2⟩ := shape_syrk h10 hshape
    refine after_ifOn hon rfl ?_
    rw [syrk_eq hr, product_opMat _ rfl]
    refine macroWrites_calDone hj rfl hreg (.refl hrun) (fun i c _ _ => decide_eq_true_iff) (fun i c hw => ?_) trivial
    rw [at_grid (hrows2 ▸ hw.1) (hcols2 ▸ hw.2.1)]
    rfl
  · rw [h11] at hr
    refine after_ifOn hon rfl ?_
    rw [axpy_eq hr]
    exact macroWrote_calDone hj rfl hreg (.refl hrun) fun i c hi hc => at_grid hi hc
  · rw [h12] at hr
    refine ⟨normOf d t (s.calMat j d m.h0), after_ifOn hon rfl ?_, fun ht hcols => ?_⟩
    · rw [calNorm_eq hr]
      refine macroWrites_calDone hj rfl hreg (.refl hrun) (fun i c _ _ => by simp) (fun i c hw => ?_) trivial
      obtain ⟨-, -, -, rfl, rfl⟩ := hw
      rfl
    · rw [normOf, ht, if_neg Bool.false_ne_true, calMat_eq_grid, show (j.hdl m.h0).cols = 1 from hcols, twoNorm_column]
  · rw [h14] at hr
    have hd : d = (j.hdl m.h0).dbl := by simp only [d, opHandles, h14, dbl_one]
    refine after_ifOn hon rfl ?_
    rw [calShift_eq hr, ← hd]
    refine macroWrote_calDone hj rfl hreg (.refl hrun) fun i c hi hc => ?_
    rw [at_map_row hi, shiftRow]
    exact apply_ite (fun r => (s.calMat j d m.h0).at r c) ..
  · rw [h15] at hr
    refine after_ifOn hon rfl ?_
    rw [pivchk_eq hr, if_pos hlt]
    exact (jobOff_endJob hj (by decide)).1
  · rw [h15] at hr
    refine after_ifOn hon rfl ?_
    rw [pivchk_eq hr, if_neg (by omega)]
    exact goesOn_calDone hj (.refl hrun) trivial

end Sys2Proof.Machine

namespace Sys2Proof.Machine

/-! ## What a handle holds after a factorisation -/

section
variable {facts : SMap Nat} {h kind : Nat}

theorem mem_sset_of_ne {m : SMap Nat} {n v : Nat} (hv : v ≠ 0) {e : Nat × Nat} :
    e ∈ sset (fun _ => 0) m n v ↔ e = (n, v) ∨ e ∈ m ∧ e.1 ≠ n := by
  rw [sset, if_neg hv, mem_sinsert, mem_serase]

/-- Taking a note down: what it says becomes what its handle holds. -/
def noteDown (f : SMap Nat) (e : Nat × Nat) : SMap Nat := if 256 ≤ e.1 then sset (fun _ => 0) f (e.1 - 256) e.2 else f

/-- Where every note is about handle `h`, one is enough. -/
theorem sget_notes {es : List (Nat × Nat)} (hall : ∀ e ∈ es, 256 ≤ e.1 → e = (h + 256, kind)) (f : SMap Nat) :
    sget (fun _ => 0) (es.foldl noteDown f) h = if ∃ e ∈ es, 256 ≤ e.1 then kind else sget (fun _ => 0) f h := by
  induction es generalizing f with
  | nil => simp
  | cons e es ih =>
    rw [List.foldl_cons, ih fun x hx => hall x (List.mem_cons_of_mem _ hx)]
    by_cases hnote : 256 ≤ e.1
    · obtain rfl := hall e (List.mem_cons_self ..) hnote
      simp [noteDown]
    · rw [noteDown, if_neg hnote]
      exact if_congr (by simp [hnote]) rfl rfl

/-- What the outputs other than the factor leave of the facts. -/
def clearFacts (facts : SMap Nat) (outs : List MacroOut) : SMap Nat :=
  outs.foldl (fun f o => if facts.any fun e => e.1 == o.hdl + 256 then f else sset (fun _ => 0) f o.hdl 0) facts

theorem newFacts_eq (facts : SMap Nat) (outs : List MacroOut) : newFacts facts outs =
    sdrop (fun n => 256 ≤ n) ((clearFacts facts outs).foldl noteDown (clearFacts facts outs)) := rfl

/-- The note of a handle among the facts survives outputs to handles. -/
theorem mem_clearFacts {e : Nat × Nat} {outs : List MacroOut} (he : 256 ≤ e.1) (hh : ∀ o ∈ outs, o.hdl < 256) :
    e ∈ clearFacts facts outs ↔ e ∈ facts := by
  suffices hfold : ∀ f : SMap Nat, e ∈ outs.foldl (fun f o => if facts.any fun e => e.1 == o.hdl + 256 then f
      else sset (fun _ => 0) f o.hdl 0) f ↔ e ∈ f from hfold facts
  induction outs with
  | nil => exact fun _ => Iff.rfl
  | cons o outs ih =>
    intro f
    rw [List.foldl_cons, ih fun x hx => hh x (List.mem_cons_of_mem _ hx)]
    split
    · rfl
    · have := hh o (List.mem_cons_self ..)
      rw [sset, if_pos rfl, mem_serase]
      exact and_iff_left (by omega)

/-- A factorisation's handle holds its factor afterwards. -/
theorem sget_newFacts {outs : List MacroOut} (hold : ∀ e ∈ facts, e.1 < 256) (hh : h < 256) (hkind : kind ≠ 0) (houts : ∀ o ∈ outs, o.hdl < 256) :
    sget (fun _ => 0) (newFacts (sset (fun _ => 0) facts (h + 256) kind) outs) h = kind := by
  rw [newFacts_eq, sget_sdrop, if_neg (by simpa using hh), sget_notes (kind := kind), if_pos]
  · exact ⟨(h + 256, kind), (mem_clearFacts (by simp) houts).2 ((mem_sset_of_ne hkind).2 (.inl rfl)), by simp⟩
  · intro e he hbig
    refine ((mem_sset_of_ne hkind).1 ((mem_clearFacts hbig houts).1 he)).resolve_right fun h => ?_
    have := hold e h.1
    omega

end

/-! ## Lists that grow by one element at a time -/

section
variable {α β σ : Type} {n i : Nat}

/-- The list whose element `i` is `f i` of the elements before it. -/
def grow (f : Nat → List α → α) (n : Nat) : List α := (List.range n).foldl (fun l i => l ++ [f i l]) []

theorem grow_succ (f : Nat → List α → α) (n : Nat) : grow f (n + 1) = grow f n ++ [f n (grow f n)] := by
  simp [grow, List.range_succ]

@[simp] theorem length_grow (f : Nat → List α → α) (n : Nat) : (grow f n).length = n := by
  induction n with
  | zero => rfl
  | succ n ih => rw [grow_succ, List.length_append, ih]; rfl

theorem getElem?_grow {f : Nat → List α → α} (hi : i < n) : (grow f n)[i]? = some (f i (grow f i)) := by
  induction n with
  | zero => omega
  | succ n ih =>
    rw [grow_succ]
    by_cases h : i < n
    · rw [List.getElem?_append_left (by simpa using h), ih h]
    · obtain rfl : i = n := by omega
      rw [List.getElem?_append_right (by simp), length_grow, Nat.sub_self]
      rfl

theorem getD_grow {f : Nat → List α → α} {a : α} (hi : i < n) : ((grow f n)[i]?).getD a = f i (grow f i) := by
  rw [getElem?_grow hi]; rfl

/-- A grown list of numbers, by its elements. -/
theorem grow_eq_map {f : Nat → List Nat → Nat} (hi : i ≤ n) : grow f i = (List.range i).map fun q => ((grow f n)[q]?).getD 0 := by
  refine List.ext_getElem? fun q => ?_
  by_cases hq : q < i
  · rw [getElem?_grow hq, List.getElem?_map, List.getElem?_range hq, Option.map_some, getD_grow (by omega)]
  · rw [List.getElem?_eq_none (by simpa using Nat.le_of_not_lt hq), List.getElem?_eq_none (by simpa using Nat.le_of_not_lt hq)]

/-- A growing list beside which something else is kept. -/
def growWith (f : Nat → List α → α) (g : Nat → List α → σ → σ) (n : Nat) (s : σ) : List α × σ :=
  (List.range n).foldl (fun p i => (p.1 ++ [f i p.1], g i p.1 p.2)) ([], s)

theorem growWith_eq (f : Nat → List α → α) (g : Nat → List α → σ → σ) (n : Nat) (s : σ) :
    growWith f g n s = (grow f n, (List.range n).foldl (fun t i => g i (grow f i) t) s) := by
  induction n with
  | zero => rfl
  | succ n ih =>
    have hstep : growWith f g (n + 1) s = ((growWith f g n s).1 ++ [f n (growWith f g n s).1], g n (growWith f g n s).1 (growWith f g n s).2) := by
      simp [growWith, List.range_succ]
    rw [hstep, ih, grow_succ, List.range_succ, List.foldl_append]
    rfl

end

/-! ## The pivot rule (R171) -/

section
variable {chol d zero : Bool} {tau lam x i n : Nat} {a : PivAcc}

/-- A pivot is small. -/
def pivHit (chol d : Bool) (tau : Nat) (zero : Bool) (x : Nat) : Bool :=
  (if chol then cLt d x tau else cLt d (cAbs d x) tau) || (zero && cAbs d x == 0)

/-- What the pivot rule makes of a pivot. -/
def pivVal (chol d : Bool) (tau lam : Nat) (zero : Bool) (x : Nat) : Nat :=
  if !pivHit chol d tau zero x then x else if zero then lam
  else if chol then (if cLt d (cAdd d x lam) tau then tau else cAdd d x lam)
  else if cAbs d x = 0 then lam
  else if fpSign (fmtOf d) x then cNeg d (cAdd d (cAbs d x) lam) else cAdd d (cAbs d x) lam

/-- What a small pivot adds to the account. -/
def PivAcc.note (a : PivAcc) (i : Nat) (neg bad : Bool) : PivAcc :=
  { pivots := a.pivots + 1, first := a.first.orElse fun _ => some i, neg := a.neg || neg, badDim := a.badDim || bad }

theorem pivot_eq (chol d : Bool) (tau lam : Nat) (zero : Bool) (i x : Nat) (a : PivAcc) : pivot chol d tau lam zero i x a =
    (pivVal chol d tau lam zero x, if pivHit chol d tau zero x
      then a.note i (!zero && chol && cLt d (cAdd d x lam) tau) (zero && cAbs d lam == 0) else a) := by
  unfold pivot pivVal
  dsimp only
  rw [show ((if chol = true then cLt d x tau else cLt d (cAbs d x) tau) || zero && cAbs d x == 0) = pivHit chol d tau zero x from rfl]
  cases pivHit chol d tau zero x with
  | false => rfl
  | true =>
    cases zero with
    | true => simp [PivAcc.note]
    | false =>
      cases chol with
      | true => cases cLt d (cAdd d x lam) tau <;> simp [PivAcc.note]
      | false => by_cases h : cAbs d x = 0 <;> simp [PivAcc.note, h]

theorem pivot_pivots : (pivot chol d tau lam zero i x a).2.pivots = a.pivots + if pivHit chol d tau zero x then 1 else 0 := by
  rw [pivot_eq]
  cases pivHit chol d tau zero x <;> rfl

theorem pivot_badDim : (pivot chol d tau lam zero i x a).2.badDim = (a.badDim || (pivHit chol d tau zero x && (zero && cAbs d lam == 0))) := by
  rw [pivot_eq]
  cases pivHit chol d tau zero x with
  | true => rfl
  | false => exact (Bool.or_false _).symm

/-- The pivots of a factorisation, one after another. -/
def pivots (chol d : Bool) (tau lam : Nat) (zero : Bool) (v : Nat → Nat) (n : Nat) : PivAcc :=
  (List.range n).foldl (fun a i => (pivot chol d tau lam zero i (v i) a).2) pivAcc0

/-- How many of the first `n` pivots are small. -/
def pivHits (chol d : Bool) (tau : Nat) (zero : Bool) (v : Nat → Nat) (n : Nat) : Nat :=
  ((List.range n).filter fun i => pivHit chol d tau zero (v i)).length

theorem pivots_succ {v : Nat → Nat} :
    pivots chol d tau lam zero v (n + 1) = (pivot chol d tau lam zero n (v n) (pivots chol d tau lam zero v n)).2 := by
  rw [pivots, List.range_succ, List.foldl_append]
  rfl

theorem pivHits_succ {v : Nat → Nat} :
    pivHits chol d tau zero v (n + 1) = pivHits chol d tau zero v n + if pivHit chol d tau zero (v n) then 1 else 0 := by
  rw [pivHits, List.range_succ, List.filter_append, List.length_append]
  cases h : pivHit chol d tau zero (v n) <;> simp [h, pivHits]

theorem pivots_pivots {v : Nat → Nat} : (pivots chol d tau lam zero v n).pivots = pivHits chol d tau zero v n := by
  induction n with
  | zero => rfl
  | succ n ih => rw [pivots_succ, pivot_pivots, ih, pivHits_succ]

theorem pivots_badDim {v : Nat → Nat} : (pivots chol d tau lam zero v n).badDim = true ↔
    zero = true ∧ cAbs d lam = 0 ∧ 0 < pivHits chol d tau zero v n := by
  induction n with
  | zero => simp [pivots, pivAcc0, pivHits]
  | succ n ih =>
    rw [pivots_succ, pivot_badDim, Bool.or_eq_true, ih, pivHits_succ]
    cases pivHit chol d tau zero (v n) with
    | true => simpa using fun h h' _ => ⟨h, h'⟩
    | false => simp

end

end Sys2Proof.Machine

namespace Sys2Proof.Machine

/-! ## Cholesky and LDL, row by row (R161, R171) -/

section
variable {d : Bool} {n i c : Nat}

/-- The elements of a list paired with those of another at least as long. -/
theorem zip_getD {f : Nat → Nat} {up : List Nat} (h : c ≤ up.length) :
    ((List.range c).map f).zip up = (List.range c).map fun q => (f q, (up[q]?).getD 0) := by
  refine List.ext_getElem (by simp; omega) fun q hq hq' => ?_
  have hup : q < up.length := by simp at hq'; omega
  simp [List.getElem?_eq_getElem hup]

/-- A row of a lower factor: what stands left of the diagonal, the diagonal, zeros. -/
def lowerRow (n i : Nat) (left : List Nat) (x : Nat) : List Nat := left ++ [x] ++ List.replicate (n - 1 - i) 0

theorem length_lowerRow {left : List Nat} {x : Nat} (hi : i < n) (hlen : left.length = i) : (lowerRow n i left x).length = n := by
  simp only [lowerRow, List.length_append, List.length_replicate, List.length_singleton, hlen]
  omega

theorem lowerRow_left {left : List Nat} {x : Nat} (hlen : left.length = i) (hc : c < i) :
    ((lowerRow n i left x)[c]?).getD 0 = (left[c]?).getD 0 := by
  rw [lowerRow, List.append_assoc, List.getElem?_append_left (by omega)]

theorem lowerRow_diag {left : List Nat} {x : Nat} (hlen : left.length = i) : ((lowerRow n i left x)[i]?).getD 0 = x := by
  rw [lowerRow, List.append_assoc, List.getElem?_append_right (by omega), hlen, Nat.sub_self]
  rfl

theorem lowerRow_right {left : List Nat} {x : Nat} (hlen : left.length = i) (hc : i < c) : ((lowerRow n i left x)[c]?).getD 0 = 0 := by
  rw [lowerRow, List.getElem?_append_right (by simp; omega), List.getElem?_replicate]
  split <;> rfl

end

/-- What a symmetric factorisation does for its row `i`, given the rows above it: the elements left of the diagonal, the pivot, and the
diagonal made of the pivot that R171 gives. -/
structure RowRule where
  left : Nat → Mat → List Nat
  piv  : Nat → Mat → Nat
  diag : Nat → Nat

section
variable {d zero : Bool} {tau lam n i c : Nat} {x : Mat} {r : RowRule} {chol : Bool}

/-- The row that the rule gives. -/
def RowRule.row (r : RowRule) (chol d : Bool) (tau lam : Nat) (zero : Bool) (n i : Nat) (above : Mat) : List Nat :=
  lowerRow n i (r.left i above) (r.diag (pivVal chol d tau lam zero (r.piv i above)))

/-- The factor. -/
def RowRule.factor (r : RowRule) (chol d : Bool) (tau lam : Nat) (zero : Bool) (n : Nat) (i : Nat) : Mat :=
  grow (r.row chol d tau lam zero n) i

/-- The factorisation's loop is the factor with the account of its pivots. -/
theorem RowRule.loop_eq (r : RowRule) {step : Nat → Mat × PivAcc → Mat × PivAcc} (hstep : ∀ i p, step i p =
    (p.1 ++ [r.row chol d tau lam zero n i p.1], (pivot chol d tau lam zero i (r.piv i p.1) p.2).2)) :
    (List.range n).foldl (fun p i => step i p) ([], pivAcc0) =
      (r.factor chol d tau lam zero n n, pivots chol d tau lam zero (fun i => r.piv i (r.factor chol d tau lam zero n i)) n) := by
  simp only [hstep]
  exact growWith_eq (r.row chol d tau lam zero n) (fun i above a => (pivot chol d tau lam zero i (r.piv i above) a).2) n pivAcc0

/-- A row of the factor is its rule's, from the rows above it. -/
theorem RowRule.row_factor {m : Nat} (hi : i < m) : ((r.factor chol d tau lam zero n m)[i]?).getD [] =
    r.row chol d tau lam zero n i (r.factor chol d tau lam zero n i) := getD_grow hi

theorem RowRule.at_left (hi : i < n) (hlen : ∀ i above, (r.left i above).length = i) (hc : c < i) :
    (r.factor chol d tau lam zero n n).at i c = ((r.left i (r.factor chol d tau lam zero n i))[c]?).getD 0 := by
  rw [Mat.at, row_factor hi, RowRule.row, lowerRow_left (hlen ..) hc]

theorem RowRule.at_diag (hi : i < n) (hlen : ∀ i above, (r.left i above).length = i) : (r.factor chol d tau lam zero n n).at i i =
    r.diag (pivVal chol d tau lam zero (r.piv i (r.factor chol d tau lam zero n i))) := by
  rw [Mat.at, row_factor hi, RowRule.row, lowerRow_diag (hlen ..)]

theorem RowRule.at_right (hi : i < n) (hlen : ∀ i above, (r.left i above).length = i) (hc : i < c) :
    (r.factor chol d tau lam zero n n).at i c = 0 := by
  rw [Mat.at, row_factor hi, RowRule.row, lowerRow_right (hlen ..) hc]

/-- The rows above row `i` are those of the whole factor. -/
theorem RowRule.row_above (hi : i < n) (hc : c < i) : ((r.factor chol d tau lam zero n i)[c]?).getD [] =
    ((r.factor chol d tau lam zero n n)[c]?).getD [] := by
  rw [row_factor hc, row_factor (by omega : c < n)]

theorem RowRule.length_row (hi : i < n) (hlen : ∀ i above, (r.left i above).length = i) :
    (((r.factor chol d tau lam zero n n)[i]?).getD []).length = n := by
  rw [row_factor hi, RowRule.row, length_lowerRow hi (hlen ..)]

/-- The first elements of a row of the factor beside those of a row above it. -/
theorem RowRule.zip_above (hi : i < n) (hc : c < i) (hlen : ∀ i above, (r.left i above).length = i) (f : Nat → Nat) :
    ((List.range c).map f).zip (((r.factor chol d tau lam zero n i)[c]?).getD []) =
      (List.range c).map fun q => (f q, (r.factor chol d tau lam zero n n).at c q) := by
  have hlen' := length_row (r := r) (chol := chol) (d := d) (tau := tau) (lam := lam) (zero := zero) (i := c) (n := n) (by omega) hlen
  rw [row_above hi hc, zip_getD (by omega)]
  rfl

end

/-! ### Cholesky -/

section
variable {d zero : Bool} {tau lam n i c : Nat} {x : Mat}

/-- An element left of Cholesky's diagonal, given the row's elements before it. -/
def cholElem (d : Bool) (x above : Mat) (i c : Nat) (row : List Nat) : Nat :=
  cDiv d (cDotSub d (x.at i c) (row.zip ((above[c]?).getD []))) ((((above[c]?).getD [])[c]?).getD 0)

/-- Cholesky's rule. -/
def cholRule (d : Bool) (x : Mat) : RowRule where
  left i above := grow (cholElem d x above i) i
  piv i above := cDotSub d (x.at i i) ((grow (cholElem d x above i) i).map fun v => (v, v))
  diag := cSqrt d

theorem cholRow_eq (p : Mat × PivAcc) : cholRow d tau lam zero x n i p = (p.1 ++ [(cholRule d x).row true d tau lam zero n i p.1],
    (pivot true d tau lam zero i ((cholRule d x).piv i p.1) p.2).2) := by
  unfold cholRow
  simp only [pivot_eq]
  rfl

theorem length_cholLeft (i : Nat) (above : Mat) : ((cholRule d x).left i above).length = i := length_grow ..

/-- The rows above row `i` of the Cholesky factor. -/
def cholAbove (d : Bool) (tau lam : Nat) (zero : Bool) (x : Mat) (n i : Nat) : Mat := (cholRule d x).factor true d tau lam zero n i

theorem cholAbove_left (hi : i < n) (hc : c < i) : (cholAbove d tau lam zero x n n).at i c =
    ((grow (cholElem d x (cholAbove d tau lam zero x n i) i) i)[c]?).getD 0 := RowRule.at_left hi length_cholLeft hc

/-- The row left of the diagonal is that of the factor. -/
theorem cholLeft_eq_map (hi : i < n) (hc : c ≤ i) : grow (cholElem d x (cholAbove d tau lam zero x n i) i) c =
    (List.range c).map fun q => (cholAbove d tau lam zero x n n).at i q := by
  rw [grow_eq_map hc]
  exact List.map_congr_left fun q hq => (cholAbove_left hi (Nat.lt_of_lt_of_le (List.mem_range.1 hq) hc)).symm

/-- The elements left of the diagonal, by their recurrence. -/
theorem cholFactor_left (hi : i < n) (hc : c < i) : (cholAbove d tau lam zero x n n).at i c =
    cDiv d (cDotSub d (x.at i c) ((List.range c).map fun q =>
      ((cholAbove d tau lam zero x n n).at i q, (cholAbove d tau lam zero x n n).at c q))) ((cholAbove d tau lam zero x n n).at c c) := by
  have hdiag : ((cholAbove d tau lam zero x n i)[c]?).getD [] = ((cholAbove d tau lam zero x n n)[c]?).getD [] := RowRule.row_above hi hc
  have hzip := (cholRule d x).zip_above (chol := true) (d := d) (tau := tau) (lam := lam) (zero := zero) hi hc length_cholLeft
    fun q => (cholAbove d tau lam zero x n n).at i q
  rw [cholAbove_left hi hc, getD_grow hc, cholLeft_eq_map hi hc.le, cholElem, hdiag]
  rw [← cholAbove, hdiag] at hzip
  rw [hzip]
  rfl

/-- The pivot of row `i`, before the pivot rule. -/
theorem cholPiv_eq (hi : i < n) : (cholRule d x).piv i (cholAbove d tau lam zero x n i) = cDotSub d (x.at i i)
    ((List.range i).map fun q => ((cholAbove d tau lam zero x n n).at i q, (cholAbove d tau lam zero x n n).at i q)) := by
  rw [cholRule]
  dsimp only
  rw [cholLeft_eq_map hi (Nat.le_refl i), List.map_map]
  rfl

theorem cholFactor_diag (hi : i < n) : (cholAbove d tau lam zero x n n).at i i =
    cSqrt d (pivVal true d tau lam zero ((cholRule d x).piv i (cholAbove d tau lam zero x n i))) := RowRule.at_diag hi length_cholLeft

theorem cholFactor_right (hi : i < n) (hc : i < c) : (cholAbove d tau lam zero x n n).at i c = 0 := RowRule.at_right hi length_cholLeft hc

end

/-! ### LDL -/

section
variable {d zero : Bool} {tau lam n i c : Nat} {x : Mat}

/-- An element of LDL's row before the division by D, given the row's elements before it. -/
def ldlElem (d : Bool) (x above : Mat) (i c : Nat) (v : List Nat) : Nat := cDotSub d (x.at i c) (v.zip ((above[c]?).getD []))

/-- LDL's rule. -/
def ldlRule (d : Bool) (x : Mat) : RowRule where
  left i above := (List.range i).map fun c => cDiv d (((grow (ldlElem d x above i) i)[c]?).getD 0) (above.at c c)
  piv i above := cDotSub d (x.at i i) ((grow (ldlElem d x above i) i).zip
    ((List.range i).map fun c => cDiv d (((grow (ldlElem d x above i) i)[c]?).getD 0) (above.at c c)))
  diag := id

theorem ldlRow_eq (p : Mat × PivAcc) : ldlRow d tau lam zero x n i p = (p.1 ++ [(ldlRule d x).row false d tau lam zero n i p.1],
    (pivot false d tau lam zero i ((ldlRule d x).piv i p.1) p.2).2) := by
  unfold ldlRow
  simp only [pivot_eq]
  rfl

theorem length_ldlLeft (i : Nat) (above : Mat) : ((ldlRule d x).left i above).length = i := by simp [ldlRule]

/-- The rows above row `i` of the LDL factor. -/
def ldlAbove (d : Bool) (tau lam : Nat) (zero : Bool) (x : Mat) (n i : Nat) : Mat := (ldlRule d x).factor false d tau lam zero n i

/-- The products of L and D in row `i`. -/
def ldlProd (d : Bool) (tau lam : Nat) (zero : Bool) (x : Mat) (n i c : Nat) : Nat :=
  ((grow (ldlElem d x (ldlAbove d tau lam zero x n i) i) i)[c]?).getD 0

/-- L is the product divided by D. -/
theorem ldlFactor_left (hi : i < n) (hc : c < i) : (ldlAbove d tau lam zero x n n).at i c =
    cDiv d (ldlProd d tau lam zero x n i c) ((ldlAbove d tau lam zero x n n).at c c) := by
  have hrow : ((ldlAbove d tau lam zero x n i)[c]?).getD [] = ((ldlAbove d tau lam zero x n n)[c]?).getD [] := RowRule.row_above hi hc
  have hleft : (ldlAbove d tau lam zero x n n).at i c = (((ldlRule d x).left i (ldlAbove d tau lam zero x n i))[c]?).getD 0 :=
    RowRule.at_left hi length_ldlLeft hc
  rw [hleft, ldlProd, Mat.at, ← hrow]
  simp [ldlRule, hc, Mat.at]

/-- The products by their recurrence. -/
theorem ldlProd_eq (hi : i < n) (hc : c < i) : ldlProd d tau lam zero x n i c = cDotSub d (x.at i c) ((List.range c).map fun q =>
    (ldlProd d tau lam zero x n i q, (ldlAbove d tau lam zero x n n).at c q)) := by
  have hzip := (ldlRule d x).zip_above (chol := false) (d := d) (tau := tau) (lam := lam) (zero := zero) hi hc length_ldlLeft
    fun q => ldlProd d tau lam zero x n i q
  rw [← ldlAbove] at hzip
  rw [ldlProd, getD_grow hc, grow_eq_map hc.le, ldlElem]
  exact congrArg _ hzip

/-- The pivot of row `i`, before the pivot rule. -/
theorem ldlPiv_eq (hi : i < n) : (ldlRule d x).piv i (ldlAbove d tau lam zero x n i) = cDotSub d (x.at i i)
    ((List.range i).map fun q => (ldlProd d tau lam zero x n i q, (ldlAbove d tau lam zero x n n).at i q)) := by
  have hrow : ((List.range i).map fun c => cDiv d (((grow (ldlElem d x (ldlAbove d tau lam zero x n i) i) i)[c]?).getD 0)
      ((ldlAbove d tau lam zero x n i).at c c)) = (List.range i).map fun q => (ldlAbove d tau lam zero x n n).at i q := by
    refine List.map_congr_left fun q hq => ?_
    have hq := List.mem_range.1 hq
    have habove : ((ldlAbove d tau lam zero x n i)[q]?).getD [] = ((ldlAbove d tau lam zero x n n)[q]?).getD [] := RowRule.row_above hi hq
    rw [ldlFactor_left hi hq, ldlProd, Mat.at, Mat.at, habove]
  have hprod : grow (ldlElem d x (ldlAbove d tau lam zero x n i) i) i = (List.range i).map (ldlProd d tau lam zero x n i) :=
    grow_eq_map (Nat.le_refl i)
  rw [ldlRule]
  dsimp only
  rw [hrow, hprod, zip_map_range]

theorem ldlFactor_diag (hi : i < n) : (ldlAbove d tau lam zero x n n).at i i =
    pivVal false d tau lam zero ((ldlRule d x).piv i (ldlAbove d tau lam zero x n i)) := RowRule.at_diag hi length_ldlLeft

theorem ldlFactor_right (hi : i < n) (hc : i < c) : (ldlAbove d tau lam zero x n n).at i c = 0 := RowRule.at_right hi length_ldlLeft hc

end

end Sys2Proof.Machine

namespace Sys2Proof.Machine

/-! ## The ends of a factorisation (R171) -/

section
variable {s : State} {k n kind : Nat} {j : CalJob} {m : Macro} {d : Bool} {a : PivAcc} {outs : List MacroOut} {v : Nat → Nat → Nat} {x : Mat}

/-- The job with the note of a factorisation and the account of its pivots. -/
def CalJob.factored (j : CalJob) (n kind : Nat) (a : PivAcc) : CalJob := (j.fact n kind).withPivots a

theorem carries_factored (hrun : j.run = .running) : Carries j (j.factored n kind a) := ⟨hrun, rfl, rfl, rfl, rfl, rfl, List.take_length⟩

/-- A zero norm that met LAMBDA 0 ends the job. -/
theorem calFact_bad (hj : s.cal.jobs[k]? = some j) (hbad : a.badDim = true) :
    JobOff k false s (s.calFact k d (j.fact n kind) a outs) := by
  have hset : (s.setJob k ((j.fact n kind).withPivots a)).cal.jobs = s.cal.jobs.set k ((j.fact n kind).withPivots a) := by
    rw [State.setJob, cal_setJobs]
  rw [State.calFact, if_pos hbad]
  exact (jobOff_set (u := s.setJob k ((j.fact n kind).withPivots a)) (j := (j.fact n kind).withPivots a) hj hset (by decide)).1

theorem calFact_good (hbad : ¬a.badDim = true) :
    s.calFact k d (j.fact n kind) a outs = s.calDone k d ⟨j.factored n kind a, outs⟩ := by
  rw [State.calFact, if_neg hbad, CalJob.factored]

/-- What a factorisation records of its handle and its pivots. -/
theorem factored_next (hold : ∀ e ∈ j.facts, e.1 < 256) (hn : n < 256) (hkind : kind ≠ 0) (houts : ∀ o ∈ outs, o.hdl < 256) :
    sget (fun _ => 0) ((j.factored n kind a).next outs).facts n = kind ∧ ((j.factored n kind a).next outs).pivots = j.pivots + a.pivots :=
  ⟨sget_newFacts hold hn hkind houts, rfl⟩

/-- A factorisation of one handle. -/
theorem macroWrites_calFact {hits : Nat} (hj : s.cal.jobs[k]? = some j) (hrun : j.run = .running) (hreg : InRegion j n)
    (hold : ∀ e ∈ j.facts, e.1 < 256) (hn : n < 256) (hkind : kind ≠ 0) (hbad : ¬a.badDim = true) (hhits : a.pivots = hits)
    (hv : ∀ i c, i < (j.hdl n).rows → c < (j.hdl n).cols → x.at i c = v i c) :
    MacroWrites k j n d (fun _ _ => True) v (fun j' => sget (fun _ => 0) j'.facts n = kind ∧ j'.pivots = j.pivots + hits) s
      (s.calFact k d (j.fact n kind) a [.all n x]) := by
  rw [calFact_good hbad]
  refine macroWrites_calDone hj rfl hreg (carries_factored hrun) (fun _ _ _ _ => ⟨fun _ => trivial, fun _ => rfl⟩)
    (fun i c hw => hv i c hw.1 hw.2.1) ?_
  rw [← hhits]
  exact factored_next hold hn hkind fun o ho => by rw [List.mem_singleton.1 ho]; exact hn

/-- The symmetric matrix whose lower part is that of `x`. -/
def symOf (x : Mat) (n : Nat) : Mat := (List.range n).map fun i => (List.range n).map fun c => if c ≤ i then x.at i c else x.at c i

theorem cholLoop_eq (d : Bool) (tau lam : Nat) (zero : Bool) (x : Mat) (n : Nat) :
    (List.range n).foldl (fun p i => cholRow d tau lam zero x n i p) ([], pivAcc0) = (cholAbove d tau lam zero x n n,
      pivots true d tau lam zero (fun i => (cholRule d x).piv i (cholAbove d tau lam zero x n i)) n) :=
  (cholRule d x).loop_eq fun _ p => cholRow_eq p

theorem ldlLoop_eq (d : Bool) (tau lam : Nat) (zero : Bool) (x : Mat) (n : Nat) :
    (List.range n).foldl (fun p i => ldlRow d tau lam zero x n i p) ([], pivAcc0) = (ldlAbove d tau lam zero x n n,
      pivots false d tau lam zero (fun i => (ldlRule d x).piv i (ldlAbove d tau lam zero x n i)) n) :=
  (ldlRule d x).loop_eq fun _ p => ldlRow_eq p

theorem factChol_eq (hr : s.calReady k 3 = some (j, m)) (hd : d = (j.hdl m.h0).dbl) : factSym true k s =
    let x := s.calMat j d m.h0
    let t := tauLam j d (symOf x (j.hdl m.h0).rows)
    s.calFact k d (j.fact m.h0 1)
      (pivots true d t.1 t.2.1 t.2.2 (fun i => (cholRule d x).piv i (cholAbove d t.1 t.2.1 t.2.2 x (j.hdl m.h0).rows i)) (j.hdl m.h0).rows)
      [.all m.h0 (cholAbove d t.1 t.2.1 t.2.2 x (j.hdl m.h0).rows (j.hdl m.h0).rows)] := by
  subst hd
  unfold factSym
  simp only [if_true, hr, cholLoop_eq]
  rfl

theorem factLdl_eq (hr : s.calReady k 4 = some (j, m)) (hd : d = (j.hdl m.h0).dbl) : factSym false k s =
    let x := s.calMat j d m.h0
    let t := tauLam j d (symOf x (j.hdl m.h0).rows)
    s.calFact k d (j.fact m.h0 2)
      (pivots false d t.1 t.2.1 t.2.2 (fun i => (ldlRule d x).piv i (ldlAbove d t.1 t.2.1 t.2.2 x (j.hdl m.h0).rows i)) (j.hdl m.h0).rows)
      [.all m.h0 (ldlAbove d t.1 t.2.1 t.2.2 x (j.hdl m.h0).rows (j.hdl m.h0).rows)] := by
  subst hd
  unfold factSym
  simp only [Bool.false_eq_true, if_false, hr, ldlLoop_eq]
  rfl

theorem pivHits_congr {chol zero : Bool} {tau n : Nat} {v v' : Nat → Nat} (h : ∀ i, i < n → v i = v' i) :
    pivHits chol d tau zero v n = pivHits chol d tau zero v' n := by
  rw [pivHits, pivHits]
  congr 1
  exact List.filter_congr fun i hi => by rw [h i (List.mem_range.1 hi)]

/-- τ, λ and whether the norm is zero, for a factorisation of the lower part of a handle. -/
def symTau (s : State) (j : CalJob) (d : Bool) (n : Nat) : Nat × Nat × Bool := tauLam j d (symOf (s.calMat j d n) (j.hdl n).rows)

/-- The Cholesky factor of a handle. -/
def cholOf (s : State) (j : CalJob) (d : Bool) (n : Nat) : Mat :=
  cholAbove d (symTau s j d n).1 (symTau s j d n).2.1 (symTau s j d n).2.2 (s.calMat j d n) (j.hdl n).rows (j.hdl n).rows

/-- Row `i`'s pivot in it. -/
def cholPivOf (s : State) (j : CalJob) (d : Bool) (n i : Nat) : Nat :=
  cDotSub d ((s.calMat j d n).at i i) ((List.range i).map fun q => ((cholOf s j d n).at i q, (cholOf s j d n).at i q))

/-- The LDL factor of a handle. -/
def ldlOf (s : State) (j : CalJob) (d : Bool) (n : Nat) : Mat :=
  ldlAbove d (symTau s j d n).1 (symTau s j d n).2.1 (symTau s j d n).2.2 (s.calMat j d n) (j.hdl n).rows (j.hdl n).rows

/-- Its products of L and D. -/
def ldlProdOf (s : State) (j : CalJob) (d : Bool) (n i c : Nat) : Nat :=
  ldlProd d (symTau s j d n).1 (symTau s j d n).2.1 (symTau s j d n).2.2 (s.calMat j d n) (j.hdl n).rows i c

def ldlPivOf (s : State) (j : CalJob) (d : Bool) (n i : Nat) : Nat :=
  cDotSub d ((s.calMat j d n).at i i) ((List.range i).map fun q => (ldlProdOf s j d n i q, (ldlOf s j d n).at i q))

/-- How a symmetric factorisation ends, given its pivots as the model computes them. -/
theorem macro_factSym {i : Instr} {f : State → State} {chol : Bool} {l : Mat} {v w : Nat → Nat} (hon : s.domOn 5 = true)
    (he : exec i s = .next (s.ifOn 5 f)) (hj : s.cal.jobs[k]? = some j) (hrun : j.run = .running) (hreg : InRegion j n)
    (hold : ∀ e ∈ j.facts, e.1 < 256) (hn : n < 256) (hkind : kind ≠ 0)
    (hf : f s = s.calFact k d (j.fact n kind)
      (pivots chol d (symTau s j d n).1 (symTau s j d n).2.1 (symTau s j d n).2.2 w (j.hdl n).rows) [.all n l])
    (hw : ∀ i, i < (j.hdl n).rows → w i = v i) {g : Nat → Nat → Nat}
    (hl : ∀ i c, i < (j.hdl n).rows → c < (j.hdl n).cols → l.at i c = g i c) :
    let hits := pivHits chol d (symTau s j d n).1 (symTau s j d n).2.2 v (j.hdl n).rows
    let bad := (symTau s j d n).2.2 = true ∧ cAbs d (symTau s j d n).2.1 = 0 ∧ 0 < hits
    (bad → After i s (JobOff k false s)) ∧ (¬bad → After i s (MacroWrites k j n d (fun _ _ => True) g
      (fun j' => sget (fun _ => 0) j'.facts n = kind ∧ j'.pivots = j.pivots + hits) s)) := by
  intro hits bad
  have hhits : pivHits chol d (symTau s j d n).1 (symTau s j d n).2.2 w (j.hdl n).rows = hits := pivHits_congr hw
  have hbad : (pivots chol d (symTau s j d n).1 (symTau s j d n).2.1 (symTau s j d n).2.2 w (j.hdl n).rows).badDim = true ↔ bad := by
    rw [pivots_badDim, hhits]
  refine ⟨fun h => after_ifOn hon he ?_, fun h => after_ifOn hon he ?_⟩
  · rw [hf]
    exact calFact_bad hj (hbad.2 h)
  · rw [hf]
    exact macroWrites_calFact hj hrun hreg hold hn hkind (fun e => h (hbad.1 e)) (pivots_pivots.trans hhits) hl

theorem macro_factChol (hon : s.domOn 5 = true) (hr : s.calReady k 3 = some (j, m)) (hd : d = (j.hdl m.h0).dbl) (hreg : InRegion j m.h0)
    (hold : ∀ e ∈ j.facts, e.1 < 256) (hn : m.h0 < 256) :
    let hits := pivHits true d (symTau s j d m.h0).1 (symTau s j d m.h0).2.2 (cholPivOf s j d m.h0) (j.hdl m.h0).rows
    let bad := (symTau s j d m.h0).2.2 = true ∧ cAbs d (symTau s j d m.h0).2.1 = 0 ∧ 0 < hits
    (bad → After (.factChol k) s (JobOff k false s)) ∧ (¬bad → After (.factChol k) s (MacroWrites k j m.h0 d (fun _ _ => True)
      (fun i c => if c ≤ i then (cholOf s j d m.h0).at i c else 0)
      (fun j' => sget (fun _ => 0) j'.facts m.h0 = 1 ∧ j'.pivots = j.pivots + hits) s)) := by
  obtain ⟨hj, hrun, -⟩ := calReady_spec hr
  refine macro_factSym (i := .factChol k) (v := cholPivOf s j d m.h0) hon rfl hj hrun hreg hold hn (by decide)
    (factChol_eq hr hd) (fun i hi => cholPiv_eq hi) fun i c hi _ => ?_
  split
  · rfl
  · exact cholFactor_right hi (by omega)

theorem macro_factLdl (hon : s.domOn 5 = true) (hr : s.calReady k 4 = some (j, m)) (hd : d = (j.hdl m.h0).dbl) (hreg : InRegion j m.h0)
    (hold : ∀ e ∈ j.facts, e.1 < 256) (hn : m.h0 < 256) :
    let hits := pivHits false d (symTau s j d m.h0).1 (symTau s j d m.h0).2.2 (ldlPivOf s j d m.h0) (j.hdl m.h0).rows
    let bad := (symTau s j d m.h0).2.2 = true ∧ cAbs d (symTau s j d m.h0).2.1 = 0 ∧ 0 < hits
    (bad → After (.factLdl k) s (JobOff k false s)) ∧ (¬bad → After (.factLdl k) s (MacroWrites k j m.h0 d (fun _ _ => True)
      (fun i c => if c ≤ i then (ldlOf s j d m.h0).at i c else 0)
      (fun j' => sget (fun _ => 0) j'.facts m.h0 = 2 ∧ j'.pivots = j.pivots + hits) s)) := by
  obtain ⟨hj, hrun, -⟩ := calReady_spec hr
  refine macro_factSym (i := .factLdl k) (v := ldlPivOf s j d m.h0) hon rfl hj hrun hreg hold hn (by decide)
    (factLdl_eq hr hd) (fun i hi => ldlPiv_eq hi) fun i c hi _ => ?_
  split
  · rfl
  · exact ldlFactor_right hi (by omega)

end

end Sys2Proof.Machine

namespace Sys2Proof.Machine

/-! ## Householder steps (R161, R171) -/

/-- A matrix of `r` rows of `c` elements. -/
def Shaped (r c : Nat) (m : Mat) : Prop := m.length = r ∧ ∀ i, i < r → ((m[i]?).getD []).length = c

section
variable {r c i q v : Nat} {m : Mat} {rows cols : List Nat} {g : Nat → Nat → Nat}

theorem shaped_grid {f : Nat → Nat → Nat} : Shaped r c (grid r c f) := ⟨length_grid, fun i hi => by simp [row_grid hi]⟩

theorem getElem?_set2 (hi : i < m.length) (a : Nat) : (m.set2 i q v)[a]? = if a = i then some (((m[i]?).getD []).set q v) else m[a]? := by
  rw [Mat.set2, List.getElem?_set]
  by_cases h : i = a
  · subst h; simp [hi]
  · simp [h, Ne.symm h]

theorem shaped_set2 (h : Shaped r c m) (hi : i < r) : Shaped r c (m.set2 i q v) := by
  obtain ⟨hlen, hrow⟩ := h
  refine ⟨by simp [Mat.set2, hlen], fun a ha => ?_⟩
  rw [getElem?_set2 (by omega)]
  split
  · simpa using hrow i hi
  · exact hrow a ha

theorem at_set2 (h : Shaped r c m) (hi : i < r) (hq : q < c) (a b : Nat) :
    (m.set2 i q v).at a b = if b = q ∧ a = i then v else m.at a b := by
  obtain ⟨hlen, hrow⟩ := h
  rw [Mat.at, getElem?_set2 (by omega)]
  by_cases ha : a = i
  · subst ha
    have hrow := hrow a hi
    rw [if_pos rfl, Option.getD_some, List.getElem?_set]
    by_cases hb : q = b
    · subst hb; simp [hrow, hq]
    · simp [hb, Ne.symm hb, Mat.at]
  · simp [ha, Mat.at]

/-- The elements of the given rows of column `q`, set to `g`. -/
def Mat.setCol (m : Mat) (rows : List Nat) (q : Nat) (g : Nat → Nat) : Mat := rows.foldl (fun m i => m.set2 i q (g i)) m

theorem setCol_spec {g : Nat → Nat} (h : Shaped r c m) (hrows : ∀ i ∈ rows, i < r) (hq : q < c) :
    Shaped r c (m.setCol rows q g) ∧ ∀ a b, (m.setCol rows q g).at a b = if b = q ∧ a ∈ rows then g a else m.at a b := by
  induction rows generalizing m with
  | nil => exact ⟨h, fun a b => by simp [Mat.setCol]⟩
  | cons i rows ih =>
    have hi := hrows i (List.mem_cons_self ..)
    obtain ⟨hshape, hat⟩ := ih (shaped_set2 (v := g i) h hi) fun x hx => hrows x (List.mem_cons_of_mem _ hx)
    refine ⟨hshape, fun a b => (hat a b).trans ?_⟩
    rw [at_set2 h hi hq]
    by_cases hb : b = q
    · by_cases ha : a ∈ rows
      · simp [hb, ha]
      · by_cases hai : a = i
        · simp [hb, hai]
        · simp [hb, ha, hai]
    · simp [hb]

/-- The elements of the given rows and columns, set to `g`. -/
def Mat.patch (m : Mat) (rows cols : List Nat) (g : Nat → Nat → Nat) : Mat := cols.foldl (fun m q => m.setCol rows q fun i => g i q) m

theorem patch_spec (h : Shaped r c m) (hrows : ∀ i ∈ rows, i < r) (hcols : ∀ q ∈ cols, q < c) :
    Shaped r c (m.patch rows cols g) ∧ ∀ a b, (m.patch rows cols g).at a b = if b ∈ cols ∧ a ∈ rows then g a b else m.at a b := by
  induction cols generalizing m with
  | nil => exact ⟨h, fun a b => by simp [Mat.patch]⟩
  | cons q cols ih =>
    have hq := hcols q (List.mem_cons_self ..)
    obtain ⟨hcol, hcolat⟩ := setCol_spec (g := fun i => g i q) h hrows hq
    obtain ⟨hshape, hat⟩ := ih hcol fun x hx => hcols x (List.mem_cons_of_mem _ hx)
    refine ⟨hshape, fun a b => (hat a b).trans ?_⟩
    rw [hcolat]
    by_cases ha : a ∈ rows
    · by_cases hb : b ∈ cols
      · simp [ha, hb]
      · by_cases hbq : b = q
        · simp [ha, hbq]
        · simp [ha, hb, hbq]
    · simp [ha]

end

section
variable {d zero : Bool} {tau lam rows cols q i c : Nat} {m : Mat}

/-- The rows below row `q`. -/
def belowRow (rows q : Nat) : List Nat := (List.range rows).filter fun i => decide (q < i)

theorem mem_belowRow : i ∈ belowRow rows q ↔ i < rows ∧ q < i := by simp [belowRow]

/-- What is below the diagonal of column `q`, squared and summed. -/
def qrSig (d : Bool) (rows : Nat) (m : Mat) (q : Nat) : Nat := calSum d 0 ((belowRow rows q).map fun i => (m.at i q, m.at i q))

def qrFlat (d : Bool) (rows : Nat) (m : Mat) (q : Nat) : Bool := cAbs d (qrSig d rows m q) == 0

/-- The new diagonal element of a Householder step. -/
def qrBeta (d : Bool) (rows : Nat) (m : Mat) (q : Nat) : Nat :=
  if qrFlat d rows m q then m.at q q
  else if fpSign (fmtOf d) (m.at q q) then cSqrt d (calSum d (qrSig d rows m q) [(m.at q q, m.at q q)])
  else cNeg d (cSqrt d (calSum d (qrSig d rows m q) [(m.at q q, m.at q q)]))

/-- The step's scalar. -/
def qrScalar (d : Bool) (rows : Nat) (m : Mat) (q : Nat) : Nat :=
  if qrFlat d rows m q then 0 else cDiv d (cSub d (qrBeta d rows m q) (m.at q q)) (qrBeta d rows m q)

/-- The step's vector. -/
def qrVec (d : Bool) (rows : Nat) (m : Mat) (q i : Nat) : Nat :=
  if qrFlat d rows m q then 0 else cDiv d (m.at i q) (cSub d (m.at q q) (qrBeta d rows m q))

/-- What the step takes from column `c`. -/
def qrTake (d : Bool) (rows : Nat) (m : Mat) (q c : Nat) : Nat :=
  cMul d (qrScalar d rows m q) (calSum d (m.at q c) ((belowRow rows q).map fun i => (qrVec d rows m q i, m.at i c)))

/-- The matrix after a Householder step. -/
def qrNext (d : Bool) (tau lam : Nat) (zero : Bool) (rows cols q : Nat) (m : Mat) : Mat :=
  (m.patch (q :: belowRow rows q) [q] fun i _ => if i = q then pivVal false d tau lam zero (qrBeta d rows m q) else qrVec d rows m q i).patch
    (q :: belowRow rows q) ((List.range cols).filter fun c => decide (q < c)) fun i c =>
      if i = q then cSub d (m.at q c) (qrTake d rows m q c) else cDotSub d (m.at i c) [(qrTake d rows m q c, qrVec d rows m q i)]

/-- A column written from a list of rows and values. -/
theorem setCol_zip {f : Nat → Nat} {rows : List Nat} (hq : q ∉ rows) (v : Nat) (g : Nat → Nat → Nat) :
    (rows.zip (rows.map f)).foldl (fun m e => m.set2 e.1 c (g e.1 e.2)) (m.set2 q c v) =
      m.setCol (q :: rows) c fun i => if i = q then v else g i (f i) := by
  rw [← List.map_prod_left_eq_zip, List.foldl_map, Mat.setCol, List.foldl_cons, if_pos rfl]
  refine List.foldl_ext _ _ _ fun _ i hi => ?_
  have hiq : i ≠ q := fun e => hq (e ▸ hi)
  rw [if_neg hiq]

theorem qrFlat_iff : qrFlat d rows m q = true ↔ cAbs d (qrSig d rows m q) = 0 := beq_iff_eq

theorem qrSig_eq : calSum d 0 (((belowRow rows q).map fun i => m.at i q).map fun v => (v, v)) = qrSig d rows m q := by
  rw [List.map_map]; rfl

theorem qrBeta_eq : (if cAbs d (qrSig d rows m q) = 0 then m.at q q
    else if fpSign (fmtOf d) (m.at q q) then cSqrt d (calSum d (qrSig d rows m q) [(m.at q q, m.at q q)])
    else cNeg d (cSqrt d (calSum d (qrSig d rows m q) [(m.at q q, m.at q q)]))) = qrBeta d rows m q := by
  rw [qrBeta]
  exact if_congr qrFlat_iff.symm rfl rfl

theorem qrScalar_eq : (if cAbs d (qrSig d rows m q) = 0 then 0 else cDiv d (cSub d (qrBeta d rows m q) (m.at q q)) (qrBeta d rows m q)) =
    qrScalar d rows m q := by
  rw [qrScalar]
  exact if_congr qrFlat_iff.symm rfl rfl

theorem qrVec_eq : (if cAbs d (qrSig d rows m q) = 0 then ((belowRow rows q).map fun i => m.at i q).map fun _ => 0
    else ((belowRow rows q).map fun i => m.at i q).map fun v => cDiv d v (cSub d (m.at q q) (qrBeta d rows m q))) =
      (belowRow rows q).map (qrVec d rows m q) := by
  rw [List.map_map, List.map_map, ← apply_ite (fun f => (belowRow rows q).map f)]
  refine List.map_congr_left fun i _ => ?_
  rw [qrVec]
  by_cases h : cAbs d (qrSig d rows m q) = 0
  · rw [if_pos h, if_pos (qrFlat_iff.2 h)]; rfl
  · rw [if_neg h, if_neg fun e => h (qrFlat_iff.1 e)]; rfl

/-- The matrix with its diagonal element and the vector below it. -/
def qrFirst (d : Bool) (tau lam : Nat) (zero : Bool) (rows q : Nat) (m : Mat) : Mat :=
  m.patch (q :: belowRow rows q) [q] fun i _ => if i = q then pivVal false d tau lam zero (qrBeta d rows m q) else qrVec d rows m q i

theorem belowRow_lt (hr : q < rows) : ∀ i ∈ q :: belowRow rows q, i < rows := by
  intro i hi
  rcases List.mem_cons.1 hi with rfl | hi
  · exact hr
  · exact (mem_belowRow.1 hi).1

theorem not_mem_belowRow : q ∉ belowRow rows q := fun h => Nat.lt_irrefl q (mem_belowRow.1 h).2

theorem qrFirst_spec (hm : Shaped rows cols m) (hr : q < rows) (hc : q < cols) : Shaped rows cols (qrFirst d tau lam zero rows q m) ∧
    ∀ a b, (qrFirst d tau lam zero rows q m).at a b = if b = q ∧ (a = q ∨ a ∈ belowRow rows q)
      then (if a = q then pivVal false d tau lam zero (qrBeta d rows m q) else qrVec d rows m q a) else m.at a b := by
  obtain ⟨hshape, hat⟩ := patch_spec (g := fun i _ => if i = q then pivVal false d tau lam zero (qrBeta d rows m q) else qrVec d rows m q i)
    hm (belowRow_lt hr) (cols := [q]) (by simpa using hc)
  exact ⟨hshape, fun a b => (hat a b).trans (if_congr (by simp) rfl rfl)⟩

theorem qrStep_eq (hm : Shaped rows cols m) (hr : q < rows) (hc : q < cols) (ts : List Nat) (a : PivAcc) :
    qrStep d tau lam zero rows cols q (m, ts, a) = (qrNext d tau lam zero rows cols q m, ts ++ [qrScalar d rows m q],
      (pivot false d tau lam zero q (qrBeta d rows m q) a).2) := by
  have hfirst : ((belowRow rows q).zip ((belowRow rows q).map (qrVec d rows m q))).foldl (fun m e => m.set2 e.1 q e.2)
      (m.set2 q q (pivVal false d tau lam zero (qrBeta d rows m q))) = qrFirst d tau lam zero rows q m :=
    setCol_zip not_mem_belowRow _ fun _ v => v
  have hkeep {i c : Nat} (hcq : c ≠ q) : (qrFirst d tau lam zero rows q m).at i c = m.at i c := by
    rw [(qrFirst_spec hm hr hc).2, if_neg fun e => hcq e.1]
  unfold qrStep
  dsimp only
  rw [← belowRow, qrSig_eq, qrBeta_eq, qrScalar_eq, qrVec_eq, pivot_eq]
  dsimp only
  rw [hfirst]
  refine congrArg (·, _) ?_
  rw [qrNext, ← qrFirst, Mat.patch]
  refine List.foldl_ext _ _ _ fun m2 c hcm => ?_
  have hcq : c ≠ q := by simp at hcm; omega
  simp only [hkeep hcq, List.zip_map']
  exact setCol_zip not_mem_belowRow _ fun i v => cDotSub d (m.at i c) [(qrTake d rows m q c, v)]

/-- The elements after a Householder step. -/
theorem at_qrNext (hm : Shaped rows cols m) (hr : q < rows) (hc : q < cols) (hi : i < rows) (hcc : c < cols) :
    (qrNext d tau lam zero rows cols q m).at i c =
      if i < q ∨ c < q then m.at i c
      else if c = q then (if i = q then pivVal false d tau lam zero (qrBeta d rows m q) else qrVec d rows m q i)
      else if i = q then cSub d (m.at q c) (qrTake d rows m q c) else cDotSub d (m.at i c) [(qrTake d rows m q c, qrVec d rows m q i)] := by
  obtain ⟨hshape, hat⟩ := qrFirst_spec (d := d) (tau := tau) (lam := lam) (zero := zero) hm hr hc
  rw [qrNext, ← qrFirst, (patch_spec hshape (belowRow_lt hr) (cols := (List.range cols).filter fun c => decide (q < c)) (by simp; omega)).2, hat]
  simp only [List.mem_filter, List.mem_range, decide_eq_true_eq, List.mem_cons, mem_belowRow]
  by_cases hup : i < q ∨ c < q
  · rw [if_pos hup, if_neg (by omega), if_neg (by omega)]
  · rw [if_neg hup]
    by_cases hcq : c = q
    · rw [if_pos hcq, if_neg (by omega), if_pos (by omega)]
    · rw [if_neg hcq, if_pos (by omega)]

end

end Sys2Proof.Machine

namespace Sys2Proof.Machine

/-! ## FACT.QR (R161, R171) -/

section
variable {d zero : Bool} {tau lam rows cols n q i c : Nat} {x : Mat}

/-- The matrix after the first `q` Householder steps. -/
def qrAfter (d : Bool) (tau lam : Nat) (zero : Bool) (rows cols : Nat) (x : Mat) (q : Nat) : Mat :=
  (List.range q).foldl (fun m k => qrNext d tau lam zero rows cols k m) x

theorem qrAfter_succ : qrAfter d tau lam zero rows cols x (q + 1) = qrNext d tau lam zero rows cols q (qrAfter d tau lam zero rows cols x q) := by
  rw [qrAfter, List.range_succ, List.foldl_append]
  rfl

theorem shaped_qrNext {m : Mat} (hm : Shaped rows cols m) (hr : q < rows) (hc : q < cols) :
    Shaped rows cols (qrNext d tau lam zero rows cols q m) := by
  rw [qrNext, ← qrFirst]
  exact (patch_spec (qrFirst_spec hm hr hc).1 (belowRow_lt hr) (by simp; omega)).1

theorem shaped_qrAfter (hx : Shaped rows cols x) (hq : q ≤ min rows cols) : Shaped rows cols (qrAfter d tau lam zero rows cols x q) := by
  induction q with
  | zero => exact hx
  | succ q ih =>
    rw [qrAfter_succ]
    exact shaped_qrNext (ih (by omega)) (by omega) (by omega)

/-- FACT.QR's loop: the matrix after its steps, their scalars, the account of their pivots. -/
theorem qrLoop_eq (hx : Shaped rows cols x) (hn : n ≤ min rows cols) :
    (List.range n).foldl (fun p i => qrStep d tau lam zero rows cols i p) (x, [], pivAcc0) =
      (qrAfter d tau lam zero rows cols x n, (List.range n).map fun q => qrScalar d rows (qrAfter d tau lam zero rows cols x q) q,
        pivots false d tau lam zero (fun q => qrBeta d rows (qrAfter d tau lam zero rows cols x q) q) n) := by
  induction n with
  | zero => rfl
  | succ n ih =>
    rw [List.range_succ, List.foldl_append, ih (by omega), List.foldl_cons, List.foldl_nil,
      qrStep_eq (shaped_qrAfter hx (by omega)) (by omega) (by omega), qrAfter_succ, List.map_append, pivots_succ]
    rfl

end

section
variable {s : State} {k : Nat} {j : CalJob} {m : Macro} {d : Bool}

/-- τ, λ and whether the norm is zero, for FACT.QR of a handle. -/
def qrTau (s : State) (j : CalJob) (d : Bool) (n : Nat) : Nat × Nat × Bool := tauLam j d (s.calMat j d n)

/-- A handle's matrix after `q` Householder steps. -/
def qrOf (s : State) (j : CalJob) (d : Bool) (n q : Nat) : Mat :=
  qrAfter d (qrTau s j d n).1 (qrTau s j d n).2.1 (qrTau s j d n).2.2 (j.hdl n).rows (j.hdl n).cols (s.calMat j d n) q

theorem shaped_calMat (s : State) (j : CalJob) (d : Bool) (n : Nat) : Shaped (j.hdl n).rows (j.hdl n).cols (s.calMat j d n) := by
  rw [calMat_eq_grid]
  exact shaped_grid

theorem factQr_eq (hr : s.calReady k 5 = some (j, m)) (hd : d = j.dbl [m.h0, m.h1]) : factQr k s =
    s.calFact k d (j.fact m.h0 3)
      (pivots false d (qrTau s j d m.h0).1 (qrTau s j d m.h0).2.1 (qrTau s j d m.h0).2.2
        (fun q => qrBeta d (j.hdl m.h0).rows (qrOf s j d m.h0 q) q) (min (j.hdl m.h0).rows (j.hdl m.h0).cols))
      [.all m.h0 (qrOf s j d m.h0 (min (j.hdl m.h0).rows (j.hdl m.h0).cols)),
        .all m.h1 (((List.range (min (j.hdl m.h0).rows (j.hdl m.h0).cols)).map fun q =>
          qrScalar d (j.hdl m.h0).rows (qrOf s j d m.h0 q) q).map fun t => [t])] := by
  subst hd
  unfold factQr
  simp only [hr, qrLoop_eq (shaped_calMat ..) (Nat.le_refl _)]
  rfl

/-- A value of the stores that no element of a handle overlaps stays through `put`. -/
theorem rdz_put_other {h : Hdl} {l : CalLay} {mem : SMap Byte} {x : Mat} {w : Nat → Nat → Bool} {a n : Nat}
    (ha : ∀ i c, i < h.rows → c < h.cols → h.stored i c = true → a + n ≤ h.addr l i c ∨ h.addr l i c + h.esz ≤ a) :
    rdz (h.put mem l d x w) a n = rdz mem a n :=
  memRd_congr fun b hb hb' => sget_put_other fun i c hi hc hs _ => by have := ha i c hi hc hs; omega

/-- A macro-instruction that writes every stored element of two handles apart. -/
theorem wrotesTwo_calDone {j' : CalJob} {n n' : Nat} {x x' : Mat} {v v' : Nat → Nat → Nat} {P : CalJob → Prop} (hj : s.cal.jobs[k]? = some j)
    (hreg : InRegion j n) (hreg' : InRegion j n') (hapart : Apart j n n') (hc : Carries j j')
    (hv : ∀ i c, i < (j.hdl n).rows → c < (j.hdl n).cols → x.at i c = v i c)
    (hv' : ∀ i c, i < (j.hdl n').rows → c < (j.hdl n').cols → x'.at i c = v' i c) (hP : P (j'.next [.all n x, .all n' x'])) :
    let t := s.calDone k d ⟨j', [.all n x, .all n' x']⟩
    HoldsElems j n d (fun _ _ => True) v t ∧ HoldsElems j n' d (fun _ _ => True) v' t ∧
      (¬TooBig j n d (fun _ _ => True) v → ¬TooBig j n' d (fun _ _ => True) v' → GoesOn k j P s t) ∧
      (TooBig j n d (fun _ _ => True) v ∨ TooBig j n' d (fun _ _ => True) v' → JobOff k false s t) := by
  have hall : ∀ h : Hdl, ∀ i c, i < h.rows → c < h.cols → (true = true ↔ True) := fun _ _ _ _ _ => ⟨fun _ => trivial, fun _ => rfl⟩
  have hbad := outBad_iff (n := n) (x := x) (w' := fun _ _ => true) (d := d) hc (hall _) fun i c hw => hv i c hw.1 hw.2.1
  have hbad' := outBad_iff (n := n') (x := x') (w' := fun _ _ => true) (d := d) hc (hall _) fun i c hw => hv' i c hw.1 hw.2.1
  obtain ⟨hmem, hon, hoff⟩ := calDone_spec (d := d) (j := j') (outs := [.all n x, .all n' x']) hj
  have hany : ([.all n x, .all n' x'] : List MacroOut).any (outBad j' d) = true ↔
      TooBig j n d (fun _ _ => True) v ∨ TooBig j n' d (fun _ _ => True) v' := by
    rw [← hbad, ← hbad']
    simp [MacroOut.all]
  have hput : (s.calDone k d ⟨j', [.all n x, .all n' x']⟩).cal.mem =
      (j.hdl n').put ((j.hdl n).put s.cal.mem j.lay d x fun _ _ => true) j.lay d x' fun _ _ => true := by
    rw [hmem, CalJob.putAll, List.foldl_cons, List.foldl_cons, List.foldl_nil, hc.lay]
    simp only [MacroOut.all, hc.hdl]
  refine ⟨?_, ?_, fun h h' => goesOn_next hc hP (hon ?_).1, fun h => hoff (hany.2 h)⟩
  · intro i c hw
    obtain ⟨hi, hcol, hs, -⟩ := hw
    rw [hput, rdz_put_other fun i' c' hi' hcol' hs' => hapart i c i' c' hi hcol hs hi' hcol' hs',
      rdz_put (fits_of_inRegion hreg) hi hcol hs rfl, hv i c hi hcol, Nat.pow_mul]
  · exact holdsElems_put hreg' (hall _) (fun i c hw => hv' i c hw.1 hw.2.1) hput
  · rw [← Bool.not_eq_true, hany]
    exact fun e => e.elim h h'

theorem macro_factQr (hon : s.domOn 5 = true) (hr : s.calReady k 5 = some (j, m)) (hd : d = j.dbl [m.h0, m.h1])
    (hreg : InRegion j m.h0) (hreg' : InRegion j m.h1) (hapart : Apart j m.h0 m.h1) (hold : ∀ e ∈ j.facts, e.1 < 256)
    (hn : m.h0 < 256) (hn' : m.h1 < 256) (hshape : (j.hdl m.h1).rows = min (j.hdl m.h0).rows (j.hdl m.h0).cols ∧ (j.hdl m.h1).cols = 1) :
    let order := min (j.hdl m.h0).rows (j.hdl m.h0).cols
    let hits := pivHits false d (qrTau s j d m.h0).1 (qrTau s j d m.h0).2.2
      (fun q => qrBeta d (j.hdl m.h0).rows (qrOf s j d m.h0 q) q) order
    let bad := (qrTau s j d m.h0).2.2 = true ∧ cAbs d (qrTau s j d m.h0).2.1 = 0 ∧ 0 < hits
    let r := fun i c => (qrOf s j d m.h0 order).at i c
    let y := fun i (_ : Nat) => qrScalar d (j.hdl m.h0).rows (qrOf s j d m.h0 i) i
    (bad → After (.factQr k) s (JobOff k false s)) ∧ (¬bad → After (.factQr k) s fun t =>
      HoldsElems j m.h0 d (fun _ _ => True) r t ∧ HoldsElems j m.h1 d (fun _ _ => True) y t ∧
      (¬TooBig j m.h0 d (fun _ _ => True) r → ¬TooBig j m.h1 d (fun _ _ => True) y →
        GoesOn k j (fun j' => sget (fun _ => 0) j'.facts m.h0 = 3 ∧ j'.pivots = j.pivots + hits) s t) ∧
      (TooBig j m.h0 d (fun _ _ => True) r ∨ TooBig j m.h1 d (fun _ _ => True) y → JobOff k false s t)) := by
  intro order hits bad r y
  obtain ⟨hj, hrun, -⟩ := calReady_spec hr
  obtain ⟨hrows, hcols⟩ := hshape
  refine ⟨fun h => after_ifOn hon rfl ?_, fun h => after_ifOn hon rfl ?_⟩
  · rw [factQr_eq hr hd]
    exact calFact_bad hj (pivots_badDim.2 h)
  · rw [factQr_eq hr hd, calFact_good fun e => h (pivots_badDim.1 e)]
    refine wrotesTwo_calDone hj hreg hreg' hapart (carries_factored hrun) (fun i c _ _ => rfl) (fun i c hi hc => ?_) ?_
    · obtain rfl : c = 0 := by omega
      have hio : i < min (j.hdl m.h0).rows (j.hdl m.h0).cols := hrows ▸ hi
      simp [Mat.at, hio, y]
    · obtain ⟨hfact, hpiv⟩ := factored_next (a := pivots false d (qrTau s j d m.h0).1 (qrTau s j d m.h0).2.1 (qrTau s j d m.h0).2.2
        (fun q => qrBeta d (j.hdl m.h0).rows (qrOf s j d m.h0 q) q) order) (kind := 3) hold hn (by decide)
        (outs := [.all m.h0 (qrOf s j d m.h0 order), .all m.h1 (((List.range order).map fun q =>
          qrScalar d (j.hdl m.h0).rows (qrOf s j d m.h0 q) q).map fun t => [t])])
        (by simp [MacroOut.all, hn, hn'])
      exact ⟨hfact, by rw [hpiv, pivots_pivots]⟩

end

end Sys2Proof.Machine

namespace Sys2Proof.Machine

/-! ## Solves, column by column (R161) -/

section
variable {m : Mat} {r c i q n : Nat} {f : List Nat → List Nat}

theorem getD_col (m : Mat) (i c : Nat) : ((m.col c)[i]?).getD 0 = m.at i c := by
  rw [Mat.col, Mat.at, List.getElem?_map]
  cases m[i]? <;> simp

theorem length_col : (m.col c).length = m.length := by simp [Mat.col]

theorem at_tr (hi : i < c) (hq : q < r) : (m.tr r c).at i q = m.at q i := at_grid (f := fun i q => m.at q i) hi hq

theorem at_mapCols (hi : i < r) (hc : c < n) : (mapCols f m r n).at i c = ((f (m.col c))[i]?).getD 0 := by
  rw [mapCols, at_tr hi hc]
  simp [Mat.at, hc]

end

/-! ### Forward substitution -/

section
variable {d unit : Bool} {l : Mat} {b : List Nat} {i : Nat}

/-- An element of forward substitution, given those before it. -/
def fwdElem (d unit : Bool) (l : Mat) (b : List Nat) (i : Nat) (y : List Nat) : Nat :=
  if unit then cDotSub d ((b[i]?).getD 0) (((l[i]?).getD []).zip y)
  else cDiv d (cDotSub d ((b[i]?).getD 0) (((l[i]?).getD []).zip y)) (l.at i i)

theorem fwdCol_eq_grow : fwdCol d unit l b = grow (fwdElem d unit l b) b.length := rfl

/-- Pairs of a list at least as long as the other. -/
theorem zip_map_getD {up : List Nat} {n : Nat} {f : Nat → Nat} (h : n ≤ up.length) :
    up.zip ((List.range n).map f) = (List.range n).map fun q => ((up[q]?).getD 0, f q) := by
  refine List.ext_getElem (by simp; omega) fun q hq hq' => ?_
  have hup : q < up.length := by simp at hq'; omega
  simp [List.getElem?_eq_getElem hup]

/-- Forward substitution by its recurrence. -/
theorem getD_fwdCol (hi : i < b.length) (hl : i ≤ ((l[i]?).getD []).length) : ((fwdCol d unit l b)[i]?).getD 0 =
    let v := cDotSub d ((b[i]?).getD 0) ((List.range i).map fun q => (l.at i q, ((fwdCol d unit l b)[q]?).getD 0))
    if unit then v else cDiv d v (l.at i i) := by
  rw [fwdCol_eq_grow, getD_grow hi, grow_eq_map hi.le, fwdElem, zip_map_getD hl]
  rfl

end

/-! ### Back substitution -/

section
variable {n i q : Nat} {f : Nat → List Nat → Nat}

/-- The list that grows at its head: what is put before `q` elements is `f q` of them. -/
def growHead (f : Nat → List Nat → Nat) (n : Nat) : List Nat := (List.range n).foldl (fun x q => f q x :: x) []

theorem growHead_succ (f : Nat → List Nat → Nat) (n : Nat) : growHead f (n + 1) = f n (growHead f n) :: growHead f n := by
  simp [growHead, List.range_succ]

@[simp] theorem length_growHead (f : Nat → List Nat → Nat) (n : Nat) : (growHead f n).length = n := by
  induction n with
  | zero => rfl
  | succ n ih => rw [growHead_succ, List.length_cons, ih]

/-- The elements put first are the last ones. -/
theorem drop_growHead (hq : q ≤ n) : (growHead f n).drop (n - q) = growHead f q := by
  induction n with
  | zero => obtain rfl : q = 0 := by omega
            rfl
  | succ n ih =>
    by_cases h : q = n + 1
    · rw [h, Nat.sub_self, List.drop_zero]
    · rw [growHead_succ, show n + 1 - q = n - q + 1 by omega, List.drop_succ_cons, ih (by omega)]

theorem getElem?_growHead_add (hq : q ≤ n) (i : Nat) : (growHead f n)[n - q + i]? = (growHead f q)[i]? := by
  rw [← drop_growHead (f := f) hq, List.getElem?_drop]

theorem getD_growHead (hi : i < n) : ((growHead f n)[i]?).getD 0 = f (n - 1 - i) (growHead f (n - 1 - i)) := by
  have h := getElem?_growHead_add (f := f) (show n - i ≤ n by omega) 0
  rw [show n - (n - i) + 0 = i by omega] at h
  rw [h, show n - i = n - 1 - i + 1 by omega, growHead_succ]
  rfl

end

section
variable {d unit : Bool} {u : Mat} {b : List Nat} {n i : Nat}

/-- An element of back substitution, given those behind it. -/
def backElem (d unit : Bool) (u : Mat) (n : Nat) (b : List Nat) (q : Nat) (x : List Nat) : Nat :=
  let i := n - 1 - q
  let v := cDotSub d ((b[i]?).getD 0) (((List.range n).filter fun c => decide (i < c)).map fun c => (u.at i c, (x[c - i - 1]?).getD 0))
  if unit then v else cDiv d v (u.at i i)

theorem backCol_eq : backCol d unit u n b = growHead (backElem d unit u n b) n ++ b.drop n := rfl

theorem getD_backCol_behind (hi : n ≤ i) : ((backCol d unit u n b)[i]?).getD 0 = (b[i]?).getD 0 := by
  rw [backCol_eq, List.getElem?_append_right (by simpa using hi), length_growHead, List.getElem?_drop, Nat.add_sub_cancel' hi]

theorem getD_backCol_before (hi : i < n) : ((backCol d unit u n b)[i]?).getD 0 = ((growHead (backElem d unit u n b) n)[i]?).getD 0 := by
  rw [backCol_eq, List.getElem?_append_left (by simpa using hi)]

/-- Back substitution by its recurrence. -/
theorem getD_backCol (hi : i < n) : ((backCol d unit u n b)[i]?).getD 0 =
    let v := cDotSub d ((b[i]?).getD 0) (((List.range n).filter fun q => decide (i < q)).map fun q =>
      (u.at i q, ((backCol d unit u n b)[q]?).getD 0))
    if unit then v else cDiv d v (u.at i i) := by
  have hpairs : ((List.range n).filter fun c => decide (i < c)).map (fun c =>
      (u.at i c, ((growHead (backElem d unit u n b) (n - 1 - i))[c - i - 1]?).getD 0)) =
      ((List.range n).filter fun c => decide (i < c)).map fun q => (u.at i q, ((backCol d unit u n b)[q]?).getD 0) := by
    refine List.map_congr_left fun c hc => ?_
    simp only [List.mem_filter, List.mem_range, decide_eq_true_eq] at hc
    rw [getD_backCol_before hc.1, ← getElem?_growHead_add (f := backElem d unit u n b) (show n - 1 - i ≤ n by omega),
      show n - (n - 1 - i) + (c - i - 1) = c by omega]
  rw [getD_backCol_before hi, getD_growHead hi, backElem]
  simp only [show n - 1 - (n - 1 - i) = i by omega, hpairs]

end

/-! ### Reflectors applied -/

section
variable {d : Bool} {h : Mat} {ts b : List Nat} {rows q i a : Nat} {g : Nat → Nat → Nat}

/-- Elements of a list replaced, each by a function of itself. -/
def replaceAt (g : Nat → Nat → Nat) (rows b : List Nat) : List Nat := rows.foldl (fun b i => b.set i (g i ((b[i]?).getD 0))) b

theorem replaceAt_spec {rows : List Nat} (hn : rows.Nodup) (hlt : ∀ i ∈ rows, i < b.length) : (replaceAt g rows b).length = b.length ∧
    ∀ a, ((replaceAt g rows b)[a]?).getD 0 = if a ∈ rows then g a ((b[a]?).getD 0) else (b[a]?).getD 0 := by
  induction rows generalizing b with
  | nil => exact ⟨rfl, fun a => by simp [replaceAt]⟩
  | cons i rows ih =>
    obtain ⟨hi, hn⟩ := List.nodup_cons.1 hn
    have hib := hlt i (List.mem_cons_self ..)
    obtain ⟨hlen, hat⟩ := ih (b := b.set i (g i ((b[i]?).getD 0))) hn fun x hx => by
      rw [List.length_set]; exact hlt x (List.mem_cons_of_mem _ hx)
    refine ⟨hlen.trans (List.length_set ..), fun a => (hat a).trans ?_⟩
    by_cases ha : a = i
    · subst ha
      rw [if_neg hi, if_pos (List.mem_cons_self ..), List.getElem?_set_self hib]
      rfl
    · rw [List.getElem?_set_ne (Ne.symm ha)]
      exact if_congr (by simp [ha]) rfl rfl

/-- What reflector `q` takes from a column. -/
def qtTake (d : Bool) (h : Mat) (ts b : List Nat) (q : Nat) : Nat :=
  cMul d ((ts[q]?).getD 0) (calSum d ((b[q]?).getD 0) ((belowRow b.length q).map fun i => (h.at i q, (b[i]?).getD 0)))

/-- A column with reflector `q` applied. -/
def qtNext (d : Bool) (h : Mat) (ts : List Nat) (b : List Nat) (q : Nat) : List Nat :=
  replaceAt (fun i v => cDotSub d v [(qtTake d h ts b q, h.at i q)]) (belowRow b.length q) (b.set q (cSub d ((b[q]?).getD 0) (qtTake d h ts b q)))

theorem qtCol_eq : qtCol d h ts b = (List.range ts.length).foldl (qtNext d h ts) b := rfl

theorem qtNext_spec (hq : q < b.length) : (qtNext d h ts b q).length = b.length ∧ ∀ i, i < b.length → ((qtNext d h ts b q)[i]?).getD 0 =
    if i < q then (b[i]?).getD 0 else if i = q then cSub d ((b[q]?).getD 0) (qtTake d h ts b q)
    else cDotSub d ((b[i]?).getD 0) [(qtTake d h ts b q, h.at i q)] := by
  obtain ⟨hlen, hat⟩ := replaceAt_spec (g := fun i v => cDotSub d v [(qtTake d h ts b q, h.at i q)]) (rows := belowRow b.length q)
    (b := b.set q (cSub d ((b[q]?).getD 0) (qtTake d h ts b q))) (List.nodup_range.filter _)
    fun i hi => by rw [List.length_set]; exact (mem_belowRow.1 hi).1
  refine ⟨hlen.trans (List.length_set ..), fun i hi => (hat i).trans ?_⟩
  simp only [mem_belowRow]
  by_cases hiq : i = q
  · subst hiq
    rw [if_neg (by omega), if_neg (by omega), if_pos rfl, List.getElem?_set_self hi]
    rfl
  · rw [List.getElem?_set_ne (Ne.symm hiq)]
    by_cases hlt : i < q
    · rw [if_neg (by omega), if_pos hlt]
    · rw [if_pos (by omega), if_neg hlt, if_neg hiq]

/-- A column after the first `q` reflectors. -/
def qtAfter (d : Bool) (h : Mat) (ts b : List Nat) (q : Nat) : List Nat := (List.range q).foldl (qtNext d h ts) b

theorem qtAfter_succ : qtAfter d h ts b (q + 1) = qtNext d h ts (qtAfter d h ts b q) q := by
  rw [qtAfter, List.range_succ, List.foldl_append]
  rfl

theorem length_qtAfter (hq : q ≤ b.length) : (qtAfter d h ts b q).length = b.length := by
  induction q with
  | zero => rfl
  | succ q ih => rw [qtAfter_succ, (qtNext_spec (by rw [ih (by omega)]; omega)).1, ih (by omega)]

end

/-! ### SOLVE.F and SOLVE.B -/

section
variable {s : State} {k : Nat} {j : CalJob} {m : Macro} {d : Bool}

/-- What SOLVE.F does to each column. -/
def solveCol (s : State) (j : CalJob) (m : Macro) (d : Bool) : List Nat → List Nat :=
  if m.flags % 2 = 1 then qtCol d (s.calMat j d m.h0) ((s.calMat j d m.h2).col 0)
  else fwdCol d (sget (fun _ => 0) j.facts m.h0 == 2) (s.calMat j d m.h0)

theorem solveF_eq (hr : s.calReady k 6 = some (j, m)) (hd : d = j.dbl (opHandles m)) : solveF k s = s.calDone k d ⟨j, [.all m.h1
    (mapCols (solveCol s j m d) (s.calMat j d m.h1) (j.hdl m.h1).rows (j.hdl m.h1).cols)]⟩ := by
  subst hd
  unfold solveF
  simp only [hr]
  rfl

theorem macro_solveF (hon : s.domOn 5 = true) (hr : s.calReady k 6 = some (j, m)) (hd : d = j.dbl (opHandles m)) (hreg : InRegion j m.h1) :
    After (.solveF k) s (MacroWrote k j m.h1 d (fun i c => ((solveCol s j m d ((s.calMat j d m.h1).col c))[i]?).getD 0) s) := by
  obtain ⟨hj, hrun, -⟩ := calReady_spec hr
  refine after_ifOn hon rfl ?_
  rw [solveF_eq hr hd]
  exact macroWrote_calDone hj rfl hreg (.refl hrun) fun i c hi hc => at_mapCols hi hc

/-- The upper factor that SOLVE.B reads. -/
def upperOf (s : State) (j : CalJob) (d : Bool) (n : Nat) : Mat :=
  if j.lower n then (s.calMat j d n).tr (j.hdl n).cols (j.hdl n).cols else s.calMat j d n

/-- Its elements, those of H0 or of its transpose. -/
def upperElem (s : State) (j : CalJob) (d : Bool) (n i q : Nat) : Nat :=
  if j.lower n then (s.calMat j d n).at q i else (s.calMat j d n).at i q

theorem at_upperOf {n i q : Nat} (hi : i < (j.hdl n).cols) (hq : q < (j.hdl n).cols) : (upperOf s j d n).at i q = upperElem s j d n i q := by
  unfold upperOf upperElem
  split
  · exact at_tr hi hq
  · rfl

theorem solveB_eq (hr : s.calReady k 7 = some (j, m)) (hd : d = j.dbl (opHandles m)) (hf : m.flags % 2 = 0) : solveB k s =
    s.calDone k d ⟨j, [.all m.h1 (mapCols (backCol d (sget (fun _ => 0) j.facts m.h0 == 2) (upperOf s j d m.h0) (j.hdl m.h0).cols)
      (s.calMat j d m.h1) (j.hdl m.h1).rows (j.hdl m.h1).cols)]⟩ := by
  subst hd
  unfold solveB
  simp only [hr, hf, Nat.zero_ne_one, if_false]
  rfl

theorem macro_solveB (hon : s.domOn 5 = true) (hr : s.calReady k 7 = some (j, m)) (hd : d = j.dbl (opHandles m)) (hf : m.flags % 2 = 0)
    (hreg : InRegion j m.h1) : After (.solveB k) s (MacroWrote k j m.h1 d (fun i c =>
      ((backCol d (sget (fun _ => 0) j.facts m.h0 == 2) (upperOf s j d m.h0) (j.hdl m.h0).cols ((s.calMat j d m.h1).col c))[i]?).getD 0) s) := by
  obtain ⟨hj, hrun, -⟩ := calReady_spec hr
  refine after_ifOn hon rfl ?_
  rw [solveB_eq hr hd hf]
  exact macroWrote_calDone hj rfl hreg (.refl hrun) fun i c hi hc => at_mapCols hi hc

theorem solveB_odd (hr : s.calReady k 7 = some (j, m)) (hf : m.flags % 2 = 1) : NoEffect (.solveB k) s := by
  change execSolveB k s = .next s
  have hsame : solveB k s = s := by
    unfold solveB
    simp only [hr, hf, if_true]
  rw [execSolveB, State.ifOn]
  split
  · rw [hsame]
  · rfl

theorem ilsSearch_even (hr : s.calReady k 7 = some (j, m)) (hf : m.flags % 2 = 0) : NoEffect (.ilsSearch k) s := by
  change execIlsSearch k s = .next s
  have hsame : ilsSearch k s = s := by
    unfold ilsSearch
    simp only [hr, hf, if_true]
  rw [execIlsSearch, State.ifOn]
  split
  · rw [hsame]
  · rfl

end

end Sys2Proof.Machine

namespace Sys2Proof.Machine

/-! ## QP.STEP's iterations (R163, R164) -/

section
variable {p : QpProblem} {p0 p1 tol : Nat} {x dir mult : List Nat} {act : List (Nat × Bool)}

/-- Every constraint of an active set is one of the problem's. -/
def Known (p : QpProblem) (act : List (Nat × Bool)) : Prop := ∀ e ∈ act, e.1 < p.n + p.m

theorem known_start (p : QpProblem) (warm x : List Nat) : Known p (p.start warm x) := by
  intro e he
  obtain ⟨i, hi, hsome⟩ := List.mem_filterMap.1 he
  have hlt := List.mem_range.1 hi
  have hfst : e.1 = i := by
    dsimp only at hsome
    split at hsome
    · cases hsome; rfl
    · split at hsome
      · cases hsome; rfl
      · split at hsome
        · cases hsome; rfl
        · split at hsome
          · obtain ⟨-, hsome⟩ := Option.ite_none_right_eq_some.1 hsome
            cases hsome; rfl
          · cases hsome
  omega

/-- What blocks a step is one of the problem's constraints. -/
theorem blocking_known {i t : Nat} {up : Bool} (h : p.blocking x dir act = some (i, t, up)) : i < p.n + p.m := by
  have hfold (l : List Nat) (hl : ∀ i ∈ l, i < p.n + p.m) (b : Option (Nat × Nat × Bool)) (hb : ∀ e, b = some e → e.1 < p.n + p.m) :
      ∀ e, l.foldl (fun b i => if act.any (·.1 == i) then b else match p.ratio x dir i, b with
        | none, b => b
        | some (t, up), none => some (i, t, up)
        | some (t, up), some (j, u, up') => if cLt p.dbl t u then some (i, t, up) else some (j, u, up')) b = some e → e.1 < p.n + p.m := by
    induction l generalizing b with
    | nil => exact hb
    | cons i l ih =>
      refine ih (fun q hq => hl q (List.mem_cons_of_mem _ hq)) _ fun e he => ?_
      have hi := hl i (List.mem_cons_self ..)
      beta_reduce at he
      split at he
      · exact hb e he
      · split at he
        · exact hb e he
        · cases he; exact hi
        · split at he
          · cases he; exact hi
          · exact hb e he
  exact hfold _ (fun i hi => List.mem_range.1 hi) none nofun _ h

/-- A step never leaves the feasible set. -/
theorem feasible_move {t : Nat} {stop : Option (Nat × Bool)} (hx : p.feasible tol x = true) : p.feasible tol (p.move tol x dir t stop) = true := by
  have hkept (y : List Nat) : p.feasible tol (if p.feasible tol y then y else x) = true := by
    split
    next h => exact h
    next => exact hx
  exact hkept _

/-- Where no multiplier is the worst, none of an inequality lies below the tolerance. -/
theorem worst_none (h : p.worst tol act mult = none) {q : Nat} {e : Nat × Bool} (hq : act[q]? = some e) (he : p.isEq e.1 = false) :
    cLt p.dbl (numAt mult q) (cNeg p.dbl tol) = false := by
  have hfold (l : List Nat) (b : Option Nat) (hb : b ≠ none) : l.foldl (fun (b : Option Nat) q => match b with
      | none => some q
      | some q' => if cLt p.dbl (numAt mult q) (numAt mult q') then some q else some q') b ≠ none := by
    induction l generalizing b with
    | nil => exact hb
    | cons i l ih =>
      refine ih _ ?_
      cases b with
      | none => exact absurd rfl hb
      | some q' => dsimp only; split <;> simp
  by_contra hlt
  rw [Bool.not_eq_false] at hlt
  have hmem : q ∈ (List.range act.length).filter fun q => match act[q]? with
      | some e => !p.isEq e.1 && cLt p.dbl (numAt mult q) (cNeg p.dbl tol)
      | none => false := by
    have hlen : q < act.length := (List.getElem?_eq_some_iff.1 hq).1
    refine List.mem_filter.2 ⟨List.mem_range.2 hlen, ?_⟩
    rw [hq]
    simp [he, hlt]
  unfold QpProblem.worst at h
  generalize (List.range act.length).filter _ = l at h hmem
  cases l with
  | nil => cases hmem
  | cons i l => exact hfold l (some i) (by simp) h

/-- The result that the iterations leave. -/
def qpLeave (p : QpProblem) (x : List Nat) (act : List (Nat × Bool)) (mult : List Nat) (iters : Nat) (opt : Bool) : QpResult :=
  { x := x, ax := (List.range p.m).map fun r => p.value x (p.n + r), iters := iters, opt := opt, act := act,
    mult := (List.range (p.n + p.m)).map fun i => match act.findIdx? (·.1 == i) with | some q => numAt mult q | none => 0 }

theorem iterate_eq (fuel iters : Nat) : p.iterate p0 p1 fuel iters x act =
    match p.blocking x (p.step x act).1 act with
    | some (i, t, up) =>
      match fuel with
      | 0 => qpLeave p x act (p.step x act).2 iters false
      | fuel + 1 => p.iterate p0 p1 fuel (iters + 1) (p.move p1 x (p.step x act).1 t (some (i, up))) (act ++ [(i, up)])
    | none =>
      match p.worst p0 act (p.step x act).2 with
      | none => qpLeave p (p.move p1 x (p.step x act).1 (cOne p.dbl) none) act (p.step x act).2 iters true
      | some q =>
        match fuel with
        | 0 => qpLeave p x act (p.step x act).2 iters false
        | fuel + 1 => p.iterate p0 p1 fuel (iters + 1) (p.move p1 x (p.step x act).1 (cOne p.dbl) none) (act.eraseIdx q) := by
  rw [QpProblem.iterate]
  rfl

/-- What R163 and R164 ask of the iterations' result. -/
structure QpGood (p : QpProblem) (p0 p1 maxit : Nat) (r : QpResult) : Prop where
  feasible : p.feasible p1 r.x = true
  iters    : r.iters ≤ maxit
  optimal  : r.opt = true → ∀ e ∈ r.act, p.isEq e.1 = false → cLt p.dbl (numAt r.mult e.1) (cNeg p.dbl p0) = false
  limited  : r.opt = false → r.iters = maxit

/-- The multiplier shown for an active constraint is that of its first place in the set. -/
theorem mult_leave {e : Nat × Bool} {iters : Nat} {opt : Bool} (hknown : Known p act) (he : e ∈ act) :
    ∃ q e', act[q]? = some e' ∧ e'.1 = e.1 ∧ numAt (qpLeave p x act mult iters opt).mult e.1 = numAt mult q := by
  have hlt := hknown e he
  cases hfind : act.findIdx? (·.1 == e.1) with
  | none =>
    have := List.findIdx?_eq_none_iff.1 hfind e he
    simp at this
  | some q =>
    obtain ⟨hq, hfst, -⟩ := List.findIdx?_eq_some_iff_getElem.1 hfind
    refine ⟨q, act[q], List.getElem?_eq_getElem hq, by simpa using hfst, ?_⟩
    simp [numAt, qpLeave, hlt, hfind]

/-- Iterations that stop at their limit. -/
theorem qpGood_stopped {maxit : Nat} (hx : p.feasible p1 x = true) : QpGood p p0 p1 maxit (qpLeave p x act mult maxit false) :=
  ⟨hx, Nat.le_refl maxit, nofun, fun _ => rfl⟩

/-- Iterations that find no multiplier to drop. -/
theorem qpGood_optimal {maxit iters : Nat} (hx : p.feasible p1 x = true) (hi : iters ≤ maxit) (hknown : Known p act)
    (hworst : p.worst p0 act mult = none) : QpGood p p0 p1 maxit (qpLeave p x act mult iters true) := by
  refine ⟨hx, hi, fun _ e he heq => ?_, nofun⟩
  obtain ⟨q, e', hq, hfst, hmult⟩ := mult_leave hknown he
  rw [hmult]
  exact worst_none hworst hq (hfst ▸ heq)

theorem iterate_good (maxit fuel : Nat) : ∀ (iters : Nat) (x : List Nat) (act : List (Nat × Bool)), p.feasible p1 x = true → Known p act →
    iters + fuel = maxit → QpGood p p0 p1 maxit (p.iterate p0 p1 fuel iters x act) := by
  induction fuel with
  | zero =>
    rintro iters x act hx hact rfl
    rw [iterate_eq]
    split
    · exact qpGood_stopped hx
    · split
      next hworst => exact qpGood_optimal (feasible_move hx) (Nat.le_refl _) hact hworst
      · exact qpGood_stopped hx
  | succ fuel ih =>
    intro iters x act hx hact hsum
    rw [iterate_eq]
    split
    next hblock =>
      refine ih _ _ _ (feasible_move hx) (fun e he => ?_) (by omega)
      rcases List.mem_append.1 he with he | he
      · exact hact e he
      · rw [List.mem_singleton.1 he]
        exact blocking_known hblock
    · split
      next hworst => exact qpGood_optimal (feasible_move hx) (by omega) hact hworst
      · exact ih _ _ _ (feasible_move hx) (fun e he => hact e (List.mem_of_mem_eraseIdx he)) (by omega)

theorem solve_good (maxit : Nat) (warm : List Nat) (hx : p.feasible p1 x = true) : QpGood p p0 p1 maxit (p.solve p0 p1 maxit warm x) :=
  iterate_good maxit maxit 0 x _ hx (known_start p warm x) (Nat.zero_add _)

end

/-! ## QP.STEP -/

section
variable {s : State} {k : Nat} {j : CalJob} {m : Macro} {d : Bool}

/-- The iterations of a QP.STEP from a start. -/
def qpRun (s : State) (j : CalJob) (d : Bool) (m : Macro) (x : List Nat) : QpResult :=
  (s.qpProblem j d m).solve (par d m.p0) (par d m.p1) (if m.imm = 0 then dW j.d 4 else m.imm) (j.active.map fun w => wbits w 23 0) x

/-- The job after its start is clipped. -/
def qpClipped (j : CalJob) (p : QpProblem) (x x0 : List Nat) : CalJob :=
  { j with clipped := j.clipped + (List.range p.n).countP fun i => numAt x i != numAt x0 i }

/-- The job after its iterations. -/
def qpJob (j : CalJob) (d : Bool) (p : QpProblem) (r : QpResult) : CalJob :=
  { j with iters := j.iters + r.iters, limited := j.limited || !r.opt, vars := r.x.map fun v => BitVec.ofNat 64 (recast d true v),
           active := r.act.map fun e => BitVec.ofNat 32 (e.1 % 2 ^ 24 + 2 ^ 24 * (Config.conStep p.n p.m e.1 % 32)) }

/-- What QP.STEP writes. -/
def qpOut (p : QpProblem) (r : QpResult) : Mat :=
  (List.range (p.n + p.m)).map fun i => [0, 0, if i < p.n then numAt r.x i else numAt r.ax (i - p.n), numAt r.mult i]

theorem at_qpOut {p : QpProblem} {r : QpResult} {i c : Nat} (hi : i < p.n + p.m) (hc : 2 ≤ c) (hc' : c < 4) : (qpOut p r).at i c =
    if c = 3 then numAt r.mult i else if i < p.n then numAt r.x i else numAt r.ax (i - p.n) := by
  obtain rfl | rfl : c = 2 ∨ c = 3 := by omega
  · simp [qpOut, Mat.at, hi]
  · simp [qpOut, Mat.at, hi]

theorem qpStep_eq (hr : s.calReady k 13 = some (j, m)) (hd : d = j.dbl (opHandles m)) {x0 x : List Nat}
    (hx0 : (s.calMat j d m.h3).col 2 = x0) (hx : (s.qpProblem j d m).clip x0 = x) : qpStep k s =
    if !(s.qpProblem j d m).feasible (par d m.p1) x then (s.setJob k (qpClipped j (s.qpProblem j d m) x x0)).endJob k 11 none
    else s.calDone k d ⟨qpJob (qpClipped j (s.qpProblem j d m) x x0) d (s.qpProblem j d m) (qpRun s j d m x),
      [⟨m.h3, qpOut (s.qpProblem j d m) (qpRun s j d m x), fun _ c => decide (2 ≤ c)⟩]⟩ := by
  subst hd hx hx0
  unfold qpStep
  simp only [hr]
  rfl

theorem shape_qp (hop : m.op = 13) (h : opShapeOk j.hdls m = true) : (j.hdl m.h1).rows = (j.hdl m.h0).rows ∧
    (j.hdl m.h3).rows = (j.hdl m.h0).rows + (if m.h2 = 255 then 0 else (j.hdl m.h2).rows) ∧ (j.hdl m.h3).cols = 4 := by
  simp only [opShapeOk, hop, Bool.and_eq_true, beq_iff_eq] at h
  obtain ⟨⟨⟨⟨⟨-, hn⟩, -⟩, -⟩, hrows⟩, hcols⟩ := h
  exact ⟨hn, hrows, hcols⟩

theorem n_qpProblem (hn : (j.hdl m.h1).rows = (j.hdl m.h0).rows) : (s.qpProblem j d m).n = (j.hdl m.h0).rows := by
  change ((s.calMat j d m.h1).col 0).length = _
  rw [length_col, ← hn]
  exact (shaped_calMat ..).1

theorem m_qpProblem : (s.qpProblem j d m).m = if m.h2 = 255 then 0 else (j.hdl m.h2).rows := by
  change (if m.h2 = 255 then [] else s.calMat j d m.h2).length = _
  split
  · rfl
  · exact (shaped_calMat ..).1

/-- The start clipped onto the bounds in H3. -/
theorem clip_qpProblem (hn : (j.hdl m.h1).rows = (j.hdl m.h0).rows) : (s.qpProblem j d m).clip ((s.calMat j d m.h3).col 2) = (List.range (j.hdl m.h0).rows).map fun i =>
    if cLt d ((s.calMat j d m.h3).at i 2) ((s.calMat j d m.h3).at i 0) then (s.calMat j d m.h3).at i 0
    else if cLt d ((s.calMat j d m.h3).at i 1) ((s.calMat j d m.h3).at i 2) then (s.calMat j d m.h3).at i 1
    else (s.calMat j d m.h3).at i 2 := by
  have hat (i c : Nat) : numAt ((s.calMat j d m.h3).col c) i = (s.calMat j d m.h3).at i c := getD_col ..
  rw [QpProblem.clip, n_qpProblem hn]
  refine List.map_congr_left fun i _ => ?_
  change (if cLt d (numAt ((s.calMat j d m.h3).col 2) i) (numAt ((s.calMat j d m.h3).col 0) i) then numAt ((s.calMat j d m.h3).col 0) i
    else if cLt d (numAt ((s.calMat j d m.h3).col 1) i) (numAt ((s.calMat j d m.h3).col 2) i) then numAt ((s.calMat j d m.h3).col 1) i
    else numAt ((s.calMat j d m.h3).col 2) i) = _
  simp only [hat]

/-- A start that the rows refuse ends the job. -/
theorem macro_qpStep_refused (hon : s.domOn 5 = true) (hr : s.calReady k 13 = some (j, m)) (hd : d = j.dbl (opHandles m)) {x : List Nat}
    (hx : (s.qpProblem j d m).clip ((s.calMat j d m.h3).col 2) = x) (hno : (s.qpProblem j d m).feasible (par d m.p1) x = false) :
    After (.qpStep k) s (JobOff k false s) := by
  obtain ⟨hj, -, -⟩ := calReady_spec hr
  refine after_ifOn hon rfl ?_
  rw [qpStep_eq hr hd rfl hx, if_pos (by rw [hno]; rfl)]
  have hset : (s.setJob k (qpClipped j (s.qpProblem j d m) x ((s.calMat j d m.h3).col 2))).cal.jobs =
      s.cal.jobs.set k (qpClipped j (s.qpProblem j d m) x ((s.calMat j d m.h3).col 2)) := by rw [State.setJob, cal_setJobs]
  exact (jobOff_set (u := s.setJob k (qpClipped j (s.qpProblem j d m) x ((s.calMat j d m.h3).col 2)))
    (j := qpClipped j (s.qpProblem j d m) x ((s.calMat j d m.h3).col 2)) hj hset (by decide)).1

/-- A feasible start: the current point and the multipliers are written. -/
theorem macro_qpStep (hon : s.domOn 5 = true) (hr : s.calReady k 13 = some (j, m)) (hd : d = j.dbl (opHandles m)) (hreg : InRegion j m.h3)
    (hshape : opShapeOk j.hdls m = true) {x : List Nat} (hx : (s.qpProblem j d m).clip ((s.calMat j d m.h3).col 2) = x)
    (hyes : (s.qpProblem j d m).feasible (par d m.p1) x = true) :
    After (.qpStep k) s (MacroWrites k j m.h3 d (fun _ c => 2 ≤ c)
      (fun i c => if c = 3 then numAt (qpRun s j d m x).mult i else if i < (j.hdl m.h0).rows then numAt (qpRun s j d m x).x i
        else numAt (qpRun s j d m x).ax (i - (j.hdl m.h0).rows))
      (fun j' => j'.clipped = j.clipped +
          ((List.range (j.hdl m.h0).rows).countP fun i => numAt x i != numAt ((s.calMat j d m.h3).col 2) i) ∧
        j'.iters = j.iters + (qpRun s j d m x).iters ∧ (j'.limited = true ↔ j.limited = true ∨ (qpRun s j d m x).opt = false)) s) := by
  obtain ⟨hj, hrun, hop⟩ := calReady_spec hr
  obtain ⟨hn, hrows, hcols⟩ := shape_qp hop hshape
  refine after_ifOn hon rfl ?_
  rw [qpStep_eq hr hd rfl hx, if_neg (by rw [hyes]; decide)]
  refine macroWrites_calDone hj rfl hreg ⟨hrun, rfl, rfl, rfl, rfl, rfl, List.take_length⟩ (fun i c _ _ => decide_eq_true_iff)
    (fun i c hw => ?_) ⟨?_, rfl, ?_⟩
  · obtain ⟨hi, hc, -, hc2⟩ := hw
    rw [at_qpOut (by rw [n_qpProblem hn, m_qpProblem, ← hrows]; exact hi) hc2 (by omega), n_qpProblem hn]
  · rw [← n_qpProblem (s := s) (d := d) hn]
    rfl
  · change (j.limited || !(qpRun s j d m x).opt) = true ↔ _
    simp

end

end Sys2Proof.Machine

namespace Sys2Proof.Machine

/-! ## Rounding to nearest even keeps the order of magnitudes (R97) -/

/-- `r` is the nearest integer to `x`, the even one on a tie. -/
def IsRne (x : ℚ) (r : ℕ) : Prop := |x - r| ≤ 1 / 2 ∧ (|x - r| = 1 / 2 → Even r)

section
variable {x y : ℚ} {r t : ℕ}

theorem isRne_self (r : ℕ) : IsRne r r := ⟨by simp, by simp⟩

theorem IsRne.mono (hx : IsRne x r) (hy : IsRne y t) (h : x ≤ y) : r ≤ t := by
  by_contra hlt
  have hlow := (abs_le.1 hx.1).1
  have hhigh := (abs_le.1 hy.1).2
  have hr : r = t + 1 := by
    have : (r : ℚ) ≤ t + 1 := by linarith
    have : r ≤ t + 1 := by exact_mod_cast this
    omega
  subst hr
  push_cast at hlow
  have hxeq : |x - (t + 1 : ℕ)| = 1 / 2 := by
    rw [abs_of_nonpos] <;> push_cast <;> linarith
  have hyeq : |y - t| = 1 / 2 := by
    rw [abs_of_nonneg] <;> linarith
  have h1 := hx.2 hxeq
  have h2 := hy.2 hyeq
  rw [Nat.even_add_one] at h1
  exact h1 h2

end

/-- A quotient `a` with a remainder `b / D`: down unless the remainder is above half, or at half with `a` odd. -/
theorem isRne_of_rem {a b D : ℕ} (hD : 0 < D) (hb : b < D) :
    IsRne (a + b / D) (if D < 2 * b ∨ 2 * b = D ∧ a % 2 = 1 then a + 1 else a) := by
  have hD' : (0 : ℚ) < D := by exact_mod_cast hD
  have hb0 : (0 : ℚ) ≤ b / D := by positivity
  have hb1 : (b : ℚ) / D < 1 := by
    rw [div_lt_one hD']
    exact_mod_cast hb
  have hle : (b : ℚ) / D ≤ 1 / 2 ↔ 2 * b ≤ D := by
    rw [div_le_iff₀ hD', ← mul_le_mul_iff_of_pos_left (two_pos : (0 : ℚ) < 2), ← Nat.cast_le (α := ℚ)]
    push_cast
    ring_nf
  have hge : 1 / 2 ≤ (b : ℚ) / D ↔ D ≤ 2 * b := by
    rw [le_div_iff₀ hD', ← mul_le_mul_iff_of_pos_left (two_pos : (0 : ℚ) < 2), ← Nat.cast_le (α := ℚ)]
    push_cast
    ring_nf
  by_cases hup : D < 2 * b ∨ 2 * b = D ∧ a % 2 = 1
  · have hhalf := hge.2 (by omega)
    have habs : |(a : ℚ) + b / D - (a + 1 : ℕ)| = 1 - b / D := by
      rw [abs_of_nonpos] <;> push_cast <;> linarith
    rw [if_pos hup, IsRne, habs]
    refine ⟨by linarith, fun htie => Nat.even_iff.2 ?_⟩
    have := hle.1 (by linarith)
    omega
  · have hhalf := hle.2 (by omega)
    have habs : |(a : ℚ) + b / D - a| = b / D := by
      rw [add_sub_cancel_left, abs_of_nonneg hb0]
    rw [if_neg hup, IsRne, habs]
    refine ⟨hhalf, fun htie => Nat.even_iff.2 ?_⟩
    have := hge.1 htie.ge
    omega

section
variable {m sh : ℕ} {e q : ℤ} {s : Bool}

theorem roundShift_nearest :
    (roundShift 0 s m sh).1 = if 2 ^ sh < 2 * (m % 2 ^ sh) ∨ 2 * (m % 2 ^ sh) = 2 ^ sh ∧ m / 2 ^ sh % 2 = 1 then m / 2 ^ sh + 1
      else m / 2 ^ sh := by
  simp [roundShift]

theorem div_two_pow (m sh : ℕ) : (m : ℚ) / 2 ^ sh = (m / 2 ^ sh : ℕ) + (m % 2 ^ sh : ℕ) / (2 ^ sh : ℕ) := by
  have hm : (((m / 2 ^ sh : ℕ) * 2 ^ sh + (m % 2 ^ sh : ℕ) : ℚ)) = m := by exact_mod_cast Nat.div_add_mod' m (2 ^ sh)
  push_cast
  rw [← hm, add_div, mul_div_cancel_right₀ _ (by positivity)]

theorem isRne_roundShift : IsRne ((m : ℚ) / 2 ^ sh) (roundShift 0 s m sh).1 := by
  rw [div_two_pow, roundShift_nearest]
  exact isRne_of_rem (Nat.two_pow_pos sh) (Nat.mod_lt m (Nat.two_pow_pos sh))

/-- The value of `m` × 2^`e`. -/
def binVal (m : ℕ) (e : ℤ) : ℚ := m * 2 ^ e

theorem binVal_of_nonneg (h : 0 ≤ e) : binVal m e = (m * 2 ^ e.toNat : ℕ) := by
  rw [binVal, ← Int.toNat_of_nonneg h, zpow_natCast, Int.toNat_natCast]
  push_cast
  rfl

theorem binVal_of_neg (h : e < 0) : binVal m e = m / 2 ^ (-e).toNat := by
  rw [binVal, ← neg_neg e, zpow_neg, ← Int.toNat_of_nonneg (a := -e) (by omega), zpow_natCast, neg_neg, Int.toNat_natCast]
  rfl

theorem isRne_roundAt : IsRne (binVal m (e - q)) (roundAt 0 s m e q).1 := by
  unfold roundAt
  split
  · next h =>
    rw [binVal_of_nonneg (sub_nonneg.2 h)]
    exact isRne_self _
  · next h =>
    rw [binVal_of_neg (by omega), neg_sub]
    exact isRne_roundShift

end

end Sys2Proof.Machine

namespace Sys2Proof.Machine

/-! ## The magnitude that rounding to nearest gives, as a function of the value -/

/-- The exponent of the last place to which a non-zero m × 2^e is rounded. -/
def lastPlace (f : FFmt) (m : ℕ) (e : ℤ) : ℤ := max (e + (m.log2 + 1 : ℕ) - (f.mb + 1 : ℕ)) f.emin

/-- The magnitude of `r` units of the last place `q`. -/
def magCode (f : FFmt) (q : ℤ) (r : ℕ) : ℕ := if r < 2 ^ f.mb then r else (q - f.emin + 1).toNat * 2 ^ f.mb + (r - 2 ^ f.mb)

/-- The magnitude of m × 2^e rounded to nearest, infinity's where it overflows. -/
def roundMag (f : FFmt) (m : ℕ) (e : ℤ) : ℕ :=
  if m = 0 then 0 else min (magCode f (lastPlace f m e) (roundAt 0 false m e (lastPlace f m e)).1) (f.expMax * 2 ^ f.mb)

section
variable {f : FFmt} {m m' : ℕ} {e e' : ℤ}

theorem binVal_pos (h : m ≠ 0) : 0 < binVal m e := by
  have : (0 : ℚ) < m := by exact_mod_cast Nat.pos_of_ne_zero h
  unfold binVal
  positivity

theorem binVal_shift (q : ℤ) : binVal m (e - q) = binVal m e / 2 ^ q := by
  rw [binVal, binVal, zpow_sub₀ two_ne_zero, mul_div_assoc]

theorem two_pow_log2_le (h : m ≠ 0) : (2 : ℚ) ^ (e + m.log2) ≤ binVal m e := by
  have : ((2 ^ m.log2 : ℕ) : ℚ) ≤ m := by exact_mod_cast Nat.log2_self_le h
  rw [zpow_add₀ two_ne_zero, mul_comm, zpow_natCast, binVal]
  push_cast at this
  gcongr

theorem binVal_lt_two_pow : binVal m e < 2 ^ (e + m.log2 + 1) := by
  have : (m : ℚ) < (2 ^ (m.log2 + 1) : ℕ) := by exact_mod_cast Nat.lt_log2_self
  rw [add_assoc, zpow_add₀ two_ne_zero, mul_comm, binVal]
  push_cast at this
  exact mul_lt_mul_of_pos_right (by exact_mod_cast this) (by positivity)

theorem log2_mono (h : m ≠ 0) (hle : binVal m e ≤ binVal m' e') : e + m.log2 ≤ e' + m'.log2 := by
  have := (two_pow_log2_le (e := e) h).trans_lt (hle.trans_lt binVal_lt_two_pow)
  have := (zpow_lt_zpow_iff_right₀ (one_lt_two : (1 : ℚ) < 2)).1 this
  omega

theorem lastPlace_mono (h : m ≠ 0) (hle : binVal m e ≤ binVal m' e') : lastPlace f m e ≤ lastPlace f m' e' := by
  have := log2_mono h hle
  unfold lastPlace
  omega

theorem roundAt_le : (roundAt 0 false m e (lastPlace f m e)).1 ≤ 2 ^ (f.mb + 1) := by
  refine isRne_roundAt.mono (isRne_self _) ?_
  rw [binVal_shift, div_le_iff₀ (by positivity)]
  push_cast
  rw [← zpow_natCast, ← zpow_add₀ two_ne_zero]
  refine binVal_lt_two_pow.le.trans (zpow_le_zpow_right₀ one_le_two ?_)
  unfold lastPlace
  push_cast
  omega

theorem le_roundAt (h : m ≠ 0) (hq : f.emin < lastPlace f m e) : 2 ^ f.mb ≤ (roundAt 0 false m e (lastPlace f m e)).1 := by
  refine (isRne_self _).mono isRne_roundAt ?_
  rw [binVal_shift, le_div_iff₀ (by positivity)]
  push_cast
  rw [← zpow_natCast, ← zpow_add₀ two_ne_zero]
  refine le_trans (zpow_le_zpow_right₀ one_le_two ?_) (two_pow_log2_le h)
  unfold lastPlace at *
  push_cast at *
  omega

theorem magCode_mono {q : ℤ} {r t : ℕ} (hq : f.emin ≤ q) (h : r ≤ t) : magCode f q r ≤ magCode f q t := by
  have : 2 ^ f.mb ≤ (q - f.emin + 1).toNat * 2 ^ f.mb := Nat.le_mul_of_pos_left _ (by omega)
  unfold magCode
  split <;> split <;> omega

theorem magCode_lt_next {q q' : ℤ} {r t : ℕ} (hq : f.emin ≤ q) (h : q < q') (hr : r ≤ 2 ^ (f.mb + 1)) (ht : 2 ^ f.mb ≤ t) :
    magCode f q r ≤ magCode f q' t := by
  have hstep : (q - f.emin + 1).toNat * 2 ^ f.mb + 2 ^ f.mb ≤ (q' - f.emin + 1).toNat * 2 ^ f.mb := by
    rw [← Nat.succ_mul]
    exact Nat.mul_le_mul_right _ (by omega)
  rw [pow_succ] at hr
  unfold magCode
  split <;> split <;> omega

/-- A larger value never rounds to a smaller magnitude. -/
theorem roundMag_mono (hle : binVal m e ≤ binVal m' e') : roundMag f m e ≤ roundMag f m' e' := by
  unfold roundMag
  split
  · exact Nat.zero_le _
  · next h =>
    have h' : m' ≠ 0 := by
      rintro rfl
      have := (binVal_pos (e := e) h).trans_le hle
      simp [binVal] at this
    rw [if_neg h']
    refine min_le_min_right _ ?_
    have hq : f.emin ≤ lastPlace f m e := le_max_right _ _
    obtain heq | hlt := (lastPlace_mono (f := f) h hle).eq_or_lt
    · rw [← heq]
      refine magCode_mono hq (isRne_roundAt.mono isRne_roundAt ?_)
      rw [binVal_shift, binVal_shift]
      gcongr
    · exact magCode_lt_next hq hlt roundAt_le (le_roundAt h' (hq.trans_lt hlt))

theorem roundMag_le : roundMag f m e ≤ f.expMax * 2 ^ f.mb := by
  unfold roundMag
  split
  · exact Nat.zero_le _
  · exact min_le_right _ _

end

/-! ### Decoded magnitudes -/

/-- The value of a finite magnitude: its mantissa and its exponent. -/
def magMant (f : FFmt) (c : ℕ) : ℕ := if c / 2 ^ f.mb = 0 then c else c % 2 ^ f.mb + 2 ^ f.mb
def magExp (f : FFmt) (c : ℕ) : ℤ := f.emin + (c / 2 ^ f.mb - 1 : ℕ)

section
variable {f : FFmt} {c c' x : ℕ} {s : Bool}

theorem magMant_lt : magMant f c < 2 ^ (f.mb + 1) := by
  have hmod := Nat.mod_lt c (Nat.two_pow_pos f.mb)
  unfold magMant
  rw [pow_succ]
  split
  · next h =>
    have := (Nat.div_eq_zero_iff_lt (Nat.two_pow_pos f.mb)).1 h
    omega
  · omega

theorem magCode_magMant : magCode f (magExp f c) (magMant f c) = c := by
  have hdiv := Nat.div_add_mod' c (2 ^ f.mb)
  unfold magCode magExp magMant
  split
  · next h => rw [if_pos ((Nat.div_eq_zero_iff_lt (Nat.two_pow_pos f.mb)).1 h)]
  · next h =>
    have : (f.emin + (c / 2 ^ f.mb - 1 : ℕ) - f.emin + 1).toNat = c / 2 ^ f.mb := by
      generalize c / 2 ^ f.mb = g at h
      omega
    rw [if_neg (by omega), this, Nat.add_sub_cancel, hdiv]

/-- A finite magnitude is the rounding of its own value. -/
theorem roundMag_magMant (hc : c ≤ f.expMax * 2 ^ f.mb) : roundMag f (magMant f c) (magExp f c) = c := by
  unfold roundMag
  split
  · next h =>
    unfold magMant at h
    split at h
    · exact h.symm
    · exact absurd h (by positivity)
  · next h =>
    have hlog : (magMant f c).log2 ≤ f.mb := Nat.lt_succ_iff.1 ((Nat.log2_lt h).2 magMant_lt)
    have hbig : c / 2 ^ f.mb ≠ 0 → f.mb ≤ (magMant f c).log2 := fun hne => by
      rw [Nat.le_log2 h, magMant, if_neg hne]
      exact Nat.le_add_left _ _
    have hlast : lastPlace f (magMant f c) (magExp f c) = magExp f c := by
      unfold lastPlace magExp at *
      omega
    have hround : (roundAt 0 false (magMant f c) (magExp f c) (magExp f c)).1 = magMant f c := by simp [roundAt]
    rw [hlast, hround, magCode_magMant, min_eq_left hc]

/-- The value of a finite magnitude. -/
def magVal (f : FFmt) (c : ℕ) : ℚ := binVal (magMant f c) (magExp f c)

theorem magVal_mono (hc' : c' < f.expMax * 2 ^ f.mb) (h : c ≤ c') : magVal f c ≤ magVal f c' := by
  by_contra hlt
  have hle := roundMag_mono (f := f) (not_le.1 hlt).le
  rw [roundMag_magMant hc'.le, roundMag_magMant (h.trans hc'.le)] at hle
  exact hlt (h.antisymm hle ▸ le_rfl)

end

end Sys2Proof.Machine

namespace Sys2Proof.Machine

/-! ## Signs and magnitudes of sums, products and squares (R96, R97) -/

/-- The magnitude of an infinity: NaNs lie above it, finite values below. -/
def infMag (f : FFmt) : ℕ := f.expMax * 2 ^ f.mb

/-- A decoded value. -/
def signedVal (s : Bool) (m : ℕ) (e : ℤ) : ℚ := if s then -binVal m e else binVal m e

/-- The value of a finite encoding. -/
def encVal (f : FFmt) (x : ℕ) : ℚ := signedVal (fpSign f x) (magMant f (fpMag f x)) (magExp f (fpMag f x))

section
variable {f : FFmt} {x y z c : ℕ} {s : Bool} {v : ℤ} {e q : ℤ}

theorem infMag_lt (f : FFmt) : infMag f < 2 ^ (f.eb + f.mb) := by
  rw [pow_add]
  exact Nat.mul_lt_mul_of_pos_right (Nat.sub_lt (Nat.two_pow_pos _) one_pos) (Nat.two_pow_pos _)

theorem isNan_or_le (f : FFmt) (z : ℕ) : isNan f z = true ∨ fpMag f z ≤ infMag f := by
  rw [isNan, decide_eq_true_iff]
  exact (Nat.lt_or_ge _ _)

theorem fpMag_zero_add (hc : c < 2 ^ (f.eb + f.mb)) : fpMag f (f.zero s + c) = c := by
  rw [fpMag, FFmt.zero, Nat.mul_add_mod_self_right, Nat.mod_eq_of_lt hc]

theorem fpSign_zero_add (hc : c < 2 ^ (f.eb + f.mb)) : fpSign f (f.zero s + c) = s := by
  rw [fpSign, fbit, FFmt.zero, Nat.add_comm, Nat.add_mul_div_right _ _ (Nat.two_pow_pos _), Nat.div_eq_of_lt hc]
  cases s <;> rfl

theorem fpDecode_fin (h : fpMag f x < infMag f) :
    fpDecode f x = .fin (fpSign f x) (magMant f (fpMag f x)) (magExp f (fpMag f x)) := by
  have hfr : x % 2 ^ f.mb < 2 ^ f.mb := Nat.mod_lt _ (Nat.two_pow_pos _)
  have hdiv : fpMag f x / 2 ^ f.mb = x / 2 ^ f.mb % 2 ^ f.eb := by
    rw [fpMag_eq, Nat.add_comm, Nat.add_mul_div_right _ _ (Nat.two_pow_pos _), Nat.div_eq_of_lt hfr, Nat.zero_add]
  have hmod : fpMag f x % 2 ^ f.mb = x % 2 ^ f.mb := by
    rw [fpMag_eq, Nat.mul_add_mod_self_right, Nat.mod_mod]
  have hex : x / 2 ^ f.mb % 2 ^ f.eb ≠ f.expMax := fun h' => by
    rw [fpMag_eq, h', infMag] at h
    omega
  unfold fpDecode magMant magExp
  dsimp only
  rw [if_neg hex, hdiv, hmod]
  split
  · next h0 =>
    rw [h0, fpMag_eq, h0]
    simp
  · rfl

theorem fpDecode_inf (h : fpMag f x = infMag f) : fpDecode f x = .inf (fpSign f x) := by
  have hfr : x % 2 ^ f.mb < 2 ^ f.mb := Nat.mod_lt _ (Nat.two_pow_pos _)
  have hfr0 : x % 2 ^ f.mb = 0 := by
    rw [← Nat.mod_mod x (2 ^ f.mb), ← Nat.mul_add_mod_self_right, ← fpMag_eq, h, infMag, Nat.mul_mod_left]
  have hex : x / 2 ^ f.mb % 2 ^ f.eb = f.expMax := by
    rw [fpMag_eq, hfr0] at h
    exact Nat.eq_of_mul_eq_mul_right (Nat.two_pow_pos _) h
  simp [fpDecode, hex, hfr0]

theorem infMag_lt_fpMag_qnan (f : FFmt) (hm : 0 < f.mb) : infMag f < fpMag f f.qnan ∧ fpSign f f.qnan = false := by
  have hq : f.qnan = f.zero false + f.qnan := by simp [FFmt.zero, b2n]
  have hlt : f.qnan < 2 ^ (f.eb + f.mb) := by
    have : 2 ^ (f.mb - 1) < 2 ^ f.mb := Nat.pow_lt_pow_right one_lt_two (by omega)
    have : f.expMax * 2 ^ f.mb + 2 ^ f.mb = 2 ^ (f.eb + f.mb) := by
      rw [pow_add, ← Nat.succ_mul, FFmt.expMax, Nat.succ_eq_add_one, Nat.sub_add_cancel (Nat.two_pow_pos _)]
    unfold FFmt.qnan
    omega
  rw [hq, fpMag_zero_add hlt, fpSign_zero_add hlt]
  exact ⟨Nat.lt_add_of_pos_right (Nat.two_pow_pos _), rfl⟩

theorem fpRound_nearest {m : ℕ} (hm : m ≠ 0) : (fpRound f 0 s m e).1 = f.zero s + roundMag f m e := by
  have hsign : ∀ q, (roundAt 0 s m e q).1 = (roundAt 0 false m e q).1 := fun _ => rfl
  rw [roundMag, if_neg hm]
  unfold fpRound
  dsimp only
  rw [show max (e + (m.log2 + 1 : ℕ) - ↑(f.mb + 1)) f.emin = lastPlace f m e from rfl, hsign]
  change (if f.expMax * 2 ^ f.mb ≤ magCode f (lastPlace f m e) (roundAt 0 false m e (lastPlace f m e)).1 then _ else _ : ℕ × Flags).1 = _
  split
  · next h => rw [min_eq_right h]; rfl
  · next h => rw [min_eq_left (by omega)]; rfl

theorem fpRoundZ_nearest {zs : Bool} :
    (fpRoundZ f 0 v e zs).1 = f.zero (if v = 0 then zs else decide (v < 0)) + roundMag f v.natAbs e := by
  unfold fpRoundZ
  split
  · next h => simp [h, roundMag]
  · next h => exact fpRound_nearest (by omega)

theorem roundMag_lt (m : ℕ) (e : ℤ) : roundMag f m e < 2 ^ (f.eb + f.mb) := roundMag_le.trans_lt (infMag_lt f)

theorem fpMag_fpRoundZ {zs : Bool} : fpMag f (fpRoundZ f 0 v e zs).1 = roundMag f v.natAbs e := by
  rw [fpRoundZ_nearest, fpMag_zero_add (roundMag_lt _ _)]

theorem fpSign_fpRoundZ {zs : Bool} : fpSign f (fpRoundZ f 0 v e zs).1 = if v = 0 then zs else decide (v < 0) := by
  rw [fpRoundZ_nearest, fpSign_zero_add (roundMag_lt _ _)]

theorem fpMag_inf : fpMag f (f.inf s) = infMag f := fpMag_zero_add (infMag_lt f)

theorem fpSign_inf : fpSign f (f.inf s) = s := fpSign_zero_add (infMag_lt f)

theorem scaled_val {m : ℕ} (h : q ≤ e) : (scaled s m e q : ℚ) * 2 ^ q = signedVal s m e := by
  have : (m * 2 ^ (e - q).toNat * 2 ^ q : ℚ) = binVal m e := by
    rw [binVal, mul_assoc, ← zpow_natCast, Int.toNat_of_nonneg (sub_nonneg.2 h), ← zpow_add₀ two_ne_zero, sub_add_cancel]
  unfold scaled signedVal
  split <;> push_cast <;> rw [← this]
  ring

theorem binVal_natAbs : binVal v.natAbs q = |(v : ℚ) * 2 ^ q| := by
  rw [binVal, Nat.cast_natAbs, abs_mul, abs_of_pos (by positivity : (0 : ℚ) < 2 ^ q)]
  push_cast
  rfl

end

section
variable {f : FFmt} (hm : 0 < f.mb) {x y y' z z' : ℕ}
include hm

/-- A product with an infinity or a NaN is one. -/
theorem infMag_le_fpMul (h : infMag f ≤ fpMag f x ∨ infMag f ≤ fpMag f y) : infMag f ≤ fpMag f (fpMul f 0 x y).1 := by
  have hq := (infMag_lt_fpMag_qnan f hm).1.le
  have hnan : isNan f x = true ∨ isNan f y = true → infMag f ≤ fpMag f (fpMul f 0 x y).1 := fun h => by rwa [fpMul_nan hm 0 h]
  obtain hx | hx := isNan_or_le f x
  · exact hnan (.inl hx)
  obtain hy | hy := isNan_or_le f y
  · exact hnan (.inr hy)
  obtain hx | hx := hx.lt_or_eq
  · have hy : fpMag f y = infMag f := hy.antisymm (h.resolve_left (by omega))
    simp only [fpMul, fpDecode_fin hx, fpDecode_inf hy]
    split
    · exact hq
    · exact fpMag_inf.ge
  · obtain hy | hy := hy.lt_or_eq
    · simp only [fpMul, fpDecode_inf hx, fpDecode_fin hy]
      split
      · exact hq
      · exact fpMag_inf.ge
    · simp only [fpMul, fpDecode_inf hx, fpDecode_inf hy]
      exact fpMag_inf.ge

/-- A difference with an infinity or a NaN is one. -/
theorem infMag_le_fpSub (h : infMag f ≤ fpMag f x) (hy : fpMag f y < infMag f) : infMag f ≤ fpMag f (fpSub f 0 x y).1 := by
  obtain hx | hx := isNan_or_le f x
  · rw [fpSub_nan hm 0 (.inl hx)]
    exact (infMag_lt_fpMag_qnan f hm).1.le
  · simp only [fpSub, fpDecode_inf (hx.antisymm h), fpDecode_fin hy, negV, addV]
    exact fpMag_inf.ge

omit hm

theorem fpMag_fpMul (hx : fpMag f x < infMag f) (hy : fpMag f y < infMag f) : fpMag f (fpMul f 0 x y).1 =
    roundMag f (magMant f (fpMag f x) * magMant f (fpMag f y)) (magExp f (fpMag f x) + magExp f (fpMag f y)) := by
  simp only [fpMul, fpDecode_fin hx, fpDecode_fin hy, fpMag_fpRoundZ]
  congr 1
  unfold scaled
  split <;> simp [Int.natAbs_mul]

theorem roundMag_congr {m m' : ℕ} {e e' : ℤ} (h : binVal m e = binVal m' e') : roundMag f m e = roundMag f m' e' :=
  (roundMag_mono h.le).antisymm (roundMag_mono h.ge)

/-- The magnitude of a sum is its exact value's. -/
theorem fpMag_addV (s t : Bool) (m n : ℕ) (e g : ℤ) : ∃ k q, fpMag f (addV f 0 (.fin s m e) (.fin t n g)).1 = roundMag f k q ∧
    binVal k q = |signedVal s m e + signedVal t n g| := by
  refine ⟨_, _, fpMag_fpRoundZ, ?_⟩
  rw [binVal_natAbs, Int.cast_add, add_mul, scaled_val (min_le_left _ _), scaled_val (min_le_right _ _)]

theorem fpSign_addV (m n : ℕ) (e g : ℤ) : fpSign f (addV f 0 (.fin false m e) (.fin false n g)).1 = false := by
  have hnonneg : 0 ≤ scaled false m e (min e g) + scaled false n g (min e g) := by
    change (0 : ℤ) ≤ m * 2 ^ (e - min e g).toNat + n * 2 ^ (g - min e g).toNat
    positivity
  rw [addV, fpSign_fpRoundZ]
  split
  · split <;> rfl
  · exact decide_eq_false (not_lt.2 hnonneg)

theorem fpMag_fpSub (hx : fpMag f x < infMag f) (hy : fpMag f y < infMag f) :
    ∃ k q, fpMag f (fpSub f 0 x y).1 = roundMag f k q ∧ binVal k q = |encVal f x - encVal f y| := by
  have hneg : ∀ t n g, signedVal (!t) n g = -signedVal t n g := fun t n g => by cases t <;> simp [signedVal]
  rw [fpSub, fpDecode_fin hx, fpDecode_fin hy, negV, encVal, encVal, sub_eq_add_neg, ← hneg]
  exact fpMag_addV ..

theorem fpMag_fpSub_mono (hm : 0 < f.mb) (hx : fpMag f x < infMag f) (hy : fpMag f y < infMag f)
    (h : fpMag f z < infMag f → |encVal f x - encVal f y| ≤ |encVal f z - encVal f y|) :
    fpMag f (fpSub f 0 x y).1 ≤ fpMag f (fpSub f 0 z y).1 := by
  obtain ⟨m, e, hmag, hval⟩ := fpMag_fpSub hx hy
  rw [hmag]
  obtain hz | hz := lt_or_ge (fpMag f z) (infMag f)
  · obtain ⟨m', e', hmag', hval'⟩ := fpMag_fpSub hz hy
    rw [hmag']
    exact roundMag_mono (by rw [hval, hval']; exact h hz)
  · exact roundMag_le.trans (infMag_le_fpSub hm hz hy)

theorem binVal_mul {m m' : ℕ} {e e' : ℤ} : binVal (m * m') (e + e') = binVal m e * binVal m' e' := by
  unfold binVal
  rw [zpow_add₀ two_ne_zero]
  push_cast
  ring

theorem binVal_nonneg {m : ℕ} {e : ℤ} : 0 ≤ binVal m e := by
  unfold binVal
  positivity

/-- A larger magnitude gives no smaller product, unless the smaller one's is a NaN. -/
theorem fpMag_fpMul_mono (hm : 0 < f.mb) (h : fpMag f y ≤ fpMag f z) :
    isNan f (fpMul f 0 x y).1 = true ∨ fpMag f (fpMul f 0 x y).1 ≤ fpMag f (fpMul f 0 x z).1 := by
  by_cases hfin : fpMag f x < infMag f ∧ fpMag f z < infMag f
  · obtain ⟨hx, hz⟩ := hfin
    rw [fpMag_fpMul hx (h.trans_lt hz), fpMag_fpMul hx hz]
    refine .inr (roundMag_mono ?_)
    rw [binVal_mul, binVal_mul]
    exact mul_le_mul_of_nonneg_left (magVal_mono hz h) binVal_nonneg
  · exact (isNan_or_le f _).imp_right fun hle => hle.trans (infMag_le_fpMul hm (by omega))

section
variable (h0 : 0 < infMag f)
include h0

theorem fpDecode_zero : fpDecode f 0 = .fin false 0 f.emin := by
  have hmag : fpMag f 0 = 0 := Nat.zero_mod _
  rw [fpDecode_fin (hmag ▸ h0), hmag]
  simp [fpSign, fbit, magMant, magExp]

/-- The square of a finite encoding, added to 0. -/
theorem square_fin (hx : fpMag f x < infMag f) : fpSign f (fpFma f 0 false 0 x x).1 = false ∧
    fpMag f (fpFma f 0 false 0 x x).1 =
      roundMag f (magMant f (fpMag f x) * magMant f (fpMag f x)) (magExp f (fpMag f x) + magExp f (fpMag f x)) := by
  have hsign : ∀ b : Bool, ((b != b) != false) = false := by decide
  simp only [fpFma, fpDecode_zero h0, fpDecode_fin hx, hsign]
  refine ⟨fpSign_addV .., ?_⟩
  obtain ⟨k, q, hmag, hval⟩ := fpMag_addV (f := f) false false 0 (magMant f (fpMag f x) * magMant f (fpMag f x)) f.emin
    (magExp f (fpMag f x) + magExp f (fpMag f x))
  rw [hmag]
  refine roundMag_congr (hval.trans ?_)
  simp [signedVal, abs_of_nonneg (binVal_nonneg), show binVal 0 f.emin = 0 by simp [binVal]]

theorem square_inf (hx : fpMag f x = infMag f) : (fpFma f 0 false 0 x x).1 = f.inf false := by
  simp [fpFma, fpDecode_zero h0, fpDecode_inf hx, addV]

theorem fpSign_square (hm : 0 < f.mb) : fpSign f (fpFma f 0 false 0 x x).1 = false := by
  obtain hx | hx := isNan_or_le f x
  · rw [fpFma_nan hm 0 false (.inl hx)]
    exact (infMag_lt_fpMag_qnan f hm).2
  obtain hx | hx := hx.lt_or_eq
  · exact (square_fin h0 hx).1
  · rw [square_inf h0 hx]
    exact fpSign_inf

theorem infMag_le_square (hm : 0 < f.mb) (hx : infMag f ≤ fpMag f x) : infMag f ≤ fpMag f (fpFma f 0 false 0 x x).1 := by
  obtain hn | hle := isNan_or_le f x
  · rw [fpFma_nan hm 0 false (.inl hn)]
    exact (infMag_lt_fpMag_qnan f hm).1.le
  · rw [square_inf h0 (hle.antisymm hx)]
    exact fpMag_inf.ge

/-- A larger magnitude has no smaller square. -/
theorem fpMag_square_mono (hm : 0 < f.mb) (h : isNan f x = true ∨ fpMag f x ≤ fpMag f y) :
    isNan f (fpFma f 0 false 0 x x).1 = true ∨ fpMag f (fpFma f 0 false 0 x x).1 ≤ fpMag f (fpFma f 0 false 0 y y).1 := by
  obtain hn | hle := h
  · rw [fpFma_nan hm 0 false (.inl hn)]
    exact .inl (decide_eq_true (infMag_lt_fpMag_qnan f hm).1)
  obtain hy | hy := lt_or_ge (fpMag f y) (infMag f)
  · rw [(square_fin h0 (hle.trans_lt hy)).2, (square_fin h0 hy).2]
    refine .inr (roundMag_mono ?_)
    rw [binVal_mul, binVal_mul]
    exact mul_self_le_mul_self binVal_nonneg (magVal_mono hy hle)
  · exact (isNan_or_le f _).imp_right fun hres => hres.trans (infMag_le_square h0 hm hy)

omit h0

/-- A number of no larger magnitude is not above a number with a clear sign. -/
theorem not_fpLtB (hs : fpSign f y = false) (h : isNan f x = true ∨ fpMag f x ≤ fpMag f y) : fpLtB f y x = false := by
  obtain hn | hle := h
  · exact (fpCompare_nan (.inr hn)).2.1
  · have hkey : ¬fpKey f y < fpKey f x := by
      unfold fpKey
      rw [hs]
      simp only [Bool.false_eq_true, if_false]
      split <;> omega
    simp [fpLtB, hkey]

end

end

end Sys2Proof.Machine

namespace Sys2Proof.Machine

/-! ## Integers about a value (R183) -/

section
variable {f : FFmt} {n n' z : ℤ} {c m : ℕ} {e : ℤ} {s : Bool}

theorem fpMag_fpOfInt : fpMag f (fpOfInt f 0 n).1 = roundMag f n.natAbs 0 := fpMag_fpRoundZ

theorem encVal_fpOfInt : encVal f (fpOfInt f 0 n).1 =
    if n < 0 then -magVal f (fpMag f (fpOfInt f 0 n).1) else magVal f (fpMag f (fpOfInt f 0 n).1) := by
  have hsign : fpSign f (fpOfInt f 0 n).1 = decide (n < 0) := by
    rw [fpOfInt, fpSign_fpRoundZ]
    split
    · next h => rw [h]; rfl
    · rfl
  rw [encVal, hsign, signedVal]
  simp only [decide_eq_true_iff]
  rfl

theorem magVal_nonneg : 0 ≤ magVal f c := binVal_nonneg

/-- A conversion from the integers keeps their order where it does not overflow. -/
theorem encVal_fpOfInt_mono (hfin : fpMag f (fpOfInt f 0 n).1 < infMag f) (hfin' : fpMag f (fpOfInt f 0 n').1 < infMag f) (h : n ≤ n') :
    encVal f (fpOfInt f 0 n).1 ≤ encVal f (fpOfInt f 0 n').1 := by
  have hmag : ∀ {a b : ℤ}, a.natAbs ≤ b.natAbs → fpMag f (fpOfInt f 0 a).1 ≤ fpMag f (fpOfInt f 0 b).1 := fun {a b} hab => by
    rw [fpMag_fpOfInt, fpMag_fpOfInt]
    refine roundMag_mono ?_
    rw [binVal, binVal, zpow_zero, mul_one, mul_one]
    exact Nat.cast_le.2 hab
  rw [encVal_fpOfInt, encVal_fpOfInt]
  split <;> split
  · exact neg_le_neg (magVal_mono hfin (hmag (by omega)))
  · exact (neg_nonpos.2 magVal_nonneg).trans magVal_nonneg
  · omega
  · exact magVal_mono hfin' (hmag (by omega))

/-- An integer whose magnitude the format has is converted exactly. -/
theorem fpOfInt_exact (hc : c < infMag f) (h : (n.natAbs : ℚ) = magVal f c) :
    fpMag f (fpOfInt f 0 n).1 < infMag f ∧ encVal f (fpOfInt f 0 n).1 = n := by
  have hmag : fpMag f (fpOfInt f 0 n).1 = c := by
    rw [fpMag_fpOfInt, ← roundMag_magMant (f := f) hc.le]
    exact roundMag_congr (by rw [← magVal, ← h, binVal, zpow_zero, mul_one])
  rw [encVal_fpOfInt, hmag, ← h]
  refine ⟨hc, ?_⟩
  split
  · next hneg => rw [Nat.cast_natAbs, abs_of_neg hneg, Int.cast_neg, neg_neg]
  · next hneg => rw [Nat.cast_natAbs, abs_of_nonneg (not_lt.1 hneg)]

theorem magVal_normal {g r : ℕ} (hg : g ≠ 0) (hr : 2 ^ f.mb ≤ r) (hlt : r < 2 ^ (f.mb + 1)) :
    magVal f (g * 2 ^ f.mb + (r - 2 ^ f.mb)) = binVal r (f.emin + (g - 1 : ℕ)) := by
  rw [pow_succ] at hlt
  have hfr : r - 2 ^ f.mb < 2 ^ f.mb := by omega
  have hdiv : (g * 2 ^ f.mb + (r - 2 ^ f.mb)) / 2 ^ f.mb = g := by
    rw [Nat.add_comm, Nat.add_mul_div_right _ _ (Nat.two_pow_pos _), Nat.div_eq_of_lt hfr, Nat.zero_add]
  rw [magVal, magExp, magMant, hdiv, if_neg hg, Nat.mul_add_mod_self_right, Nat.mod_eq_of_lt hfr, Nat.sub_add_cancel hr]

/-- Every integer up to 2^mb in magnitude is one of the format. -/
theorem exists_magVal (hemin : f.emin + f.mb ≤ 0) (hmax : 1 - f.emin < f.expMax) (h : m ≤ 2 ^ f.mb) : ∃ c < infMag f, (m : ℚ) = magVal f c := by
  obtain rfl | hm := Nat.eq_zero_or_pos m
  · refine ⟨0, Nat.mul_pos (by omega) (Nat.two_pow_pos _), by simp [magVal, magMant, binVal]⟩
  have hlog : m.log2 ≤ f.mb :=
    Nat.lt_succ_iff.1 ((Nat.log2_lt hm.ne').2 (h.trans_lt (Nat.pow_lt_pow_right one_lt_two (Nat.lt_succ_self _))))
  have hlow : 2 ^ f.mb ≤ m * 2 ^ (f.mb - m.log2) := by
    rw [← pow_mul_pow_sub 2 hlog]
    exact Nat.mul_le_mul_right _ (Nat.log2_self_le hm.ne')
  have hhigh : m * 2 ^ (f.mb - m.log2) < 2 ^ (f.mb + 1) := by
    rw [← Nat.sub_add_cancel (show m.log2 + 1 ≤ f.mb + 1 by omega), Nat.add_comm _ (m.log2 + 1), pow_add, Nat.add_sub_add_right]
    exact Nat.mul_lt_mul_of_pos_right Nat.lt_log2_self (Nat.two_pow_pos _)
  obtain ⟨g, hg⟩ : ∃ g : ℕ, (g : ℤ) = m.log2 - f.mb - f.emin + 1 := ⟨_, Int.toNat_of_nonneg (by omega)⟩
  refine ⟨g * 2 ^ f.mb + (m * 2 ^ (f.mb - m.log2) - 2 ^ f.mb), ?_, ?_⟩
  · have : (g + 1) * 2 ^ f.mb ≤ f.expMax * 2 ^ f.mb := Nat.mul_le_mul_right _ (by omega)
    rw [Nat.succ_mul] at this
    rw [pow_succ] at hhigh
    unfold infMag
    omega
  · rw [magVal_normal (by omega) hlow hhigh, show f.emin + (g - 1 : ℕ) = -(f.mb - m.log2 : ℕ) by omega, binVal, zpow_neg, zpow_natCast]
    push_cast
    rw [mul_assoc, mul_inv_cancel₀ (by positivity), mul_one]

section
variable {a b D : ℕ}

theorem rem_div_bounds (hb : b < D) : (0 : ℚ) ≤ b / D ∧ (b : ℚ) / D < 1 := by
  have hD : (0 : ℚ) < D := by exact_mod_cast (Nat.zero_le b).trans_lt hb
  refine ⟨by positivity, (div_lt_one hD).2 ?_⟩
  exact_mod_cast hb

/-- A quotient `a` with a remainder `b / D`, rounded down. -/
theorem floor_of_rem (hb : b < D) : ⌊(a : ℚ) + b / D⌋ = a := by
  obtain ⟨hb0, hb1⟩ := rem_div_bounds hb
  rw [Int.floor_eq_iff]
  push_cast
  constructor <;> linarith

/-- Its negative rounded down. -/
theorem floor_neg_of_rem (hb : b < D) : ⌊-((a : ℚ) + b / D)⌋ = -(if b ≠ 0 then a + 1 else a : ℕ) := by
  obtain ⟨hb0, hb1⟩ := rem_div_bounds hb
  rw [Int.floor_eq_iff]
  split
  · next hne =>
    have : (0 : ℚ) < b / D := div_pos (by exact_mod_cast Nat.pos_of_ne_zero hne) (by exact_mod_cast (Nat.zero_le b).trans_lt hb)
    push_cast
    constructor <;> linarith
  · next hz =>
    rw [not_not.1 hz, Nat.cast_zero, zero_div]
    push_cast
    constructor <;> linarith

end

/-- Rounding towards −∞ gives the floor. -/
theorem roundInt_floor : (roundInt 2 s m e).1 = ⌊signedVal s m e⌋ := by
  unfold roundInt roundAt signedVal
  obtain he | he := lt_or_ge e 0
  · rw [if_neg (not_le.2 he), zero_sub, binVal_of_neg he, div_two_pow]
    have hmod := Nat.mod_lt m (Nat.two_pow_pos (-e).toNat)
    cases s
    · simp only [roundShift, Bool.false_and, Bool.false_eq_true, if_false]
      exact (floor_of_rem hmod).symm
    · simp only [roundShift, Bool.true_and, if_true, decide_eq_true_iff]
      exact (floor_neg_of_rem hmod).symm
  · rw [if_pos he, sub_zero, binVal_of_nonneg he]
    cases s
    · exact (Int.floor_natCast _).symm
    · rw [if_pos rfl, ← Int.cast_natCast, ← Int.cast_neg, Int.floor_intCast]
      rfl

end

section
variable {d : Bool} {x : ℕ} {g : ℤ}

theorem floorOf_fin (h : floorOf d x = some g) : fpMag (fmtOf d) x < infMag (fmtOf d) := by
  by_contra hlt
  have hmb : 0 < (fmtOf d).mb := by cases d <;> decide
  obtain hn | hle := isNan_or_le (fmtOf d) x
  · rw [floorOf, fpDecode_nan hmb hn] at h
    cases h
  · rw [floorOf, fpDecode_inf (hle.antisymm (not_lt.1 hlt))] at h
    cases h

theorem floorOf_eq (h : floorOf d x = some g) : g = ⌊encVal (fmtOf d) x⌋ := by
  have hfin := floorOf_fin h
  rw [floorOf, fpDecode_fin hfin] at h
  exact (Option.some.inj h).symm.trans roundInt_floor

theorem nearLow_iff (hfin : fpMag (fmtOf d) x < infMag (fmtOf d)) (lo hi : ℤ) :
    nearLow d x lo hi = true ↔ 2 * encVal (fmtOf d) x ≤ lo + hi := by
  have hk : (0 : ℚ) < 2 ^ (-magExp (fmtOf d) (fpMag (fmtOf d) x)).toNat := by positivity
  rw [nearLow, fpDecode_fin hfin]
  dsimp only
  rw [decide_eq_true_iff, encVal, ← scaled_val (q := -((-magExp (fmtOf d) (fpMag (fmtOf d) x)).toNat : ℤ)) (by omega), zpow_neg,
    zpow_natCast, ← Int.cast_le (R := ℚ)]
  push_cast
  rw [← div_eq_mul_inv, ← mul_div_assoc, div_le_iff₀ hk]

theorem abs_encVal (f : FFmt) (x : ℕ) : |encVal f x| = magVal f (fpMag f x) := by
  unfold encVal signedVal
  split
  · rw [abs_neg]
    exact abs_of_nonneg binVal_nonneg
  · exact abs_of_nonneg binVal_nonneg

/-- A value with no fraction is its floor. -/
theorem floor_of_nonneg_exp {f : FFmt} (he : 0 ≤ magExp f (fpMag f x)) : (⌊encVal f x⌋ : ℚ) = encVal f x := by
  rw [encVal, signedVal, binVal_of_nonneg he, ← Int.cast_natCast, ← Int.cast_neg, ← apply_ite, Int.floor_intCast]

/-- A value with a fraction is below 2^mb in magnitude. -/
theorem abs_encVal_lt {f : FFmt} (he : magExp f (fpMag f x) < 0) : |encVal f x| < 2 ^ f.mb := by
  have hm : (magMant f (fpMag f x) : ℚ) < 2 ^ (f.mb + 1) := by exact_mod_cast magMant_lt (f := f) (c := fpMag f x)
  have hexp : (2 : ℚ) ^ magExp f (fpMag f x) ≤ 2 ^ (-1 : ℤ) := zpow_le_zpow_right₀ one_le_two (by omega)
  rw [abs_encVal, magVal, binVal]
  calc (magMant f (fpMag f x) : ℚ) * 2 ^ magExp f (fpMag f x)
      < 2 ^ (f.mb + 1) * 2 ^ magExp f (fpMag f x) := mul_lt_mul_of_pos_right hm (by positivity)
    _ ≤ 2 ^ (f.mb + 1) * 2 ^ (-1 : ℤ) := mul_le_mul_of_nonneg_left hexp (by positivity)
    _ = 2 ^ f.mb := by rw [pow_succ, zpow_neg_one, mul_assoc, mul_inv_cancel₀ two_ne_zero, mul_one]

/-- An integer up to 2^mb in magnitude is converted exactly. -/
theorem cOfInt_exact (hlow : -2 ^ (fmtOf d).mb ≤ g) (hhigh : g ≤ 2 ^ (fmtOf d).mb) :
    fpMag (fmtOf d) (cOfInt d g) < infMag (fmtOf d) ∧ encVal (fmtOf d) (cOfInt d g) = g := by
  have hfmt : (fmtOf d).emin + (fmtOf d).mb ≤ 0 ∧ 1 - (fmtOf d).emin < (fmtOf d).expMax := by cases d <;> decide
  obtain ⟨c, hc, hval⟩ := exists_magVal (m := g.natAbs) hfmt.1 hfmt.2 (by
    rw [← Nat.cast_le (α := ℤ)]
    push_cast
    exact abs_le.2 ⟨hlow, hhigh⟩)
  exact fpOfInt_exact hc hval

/-- Of the integers about a value, the nearer one in its conversion is no farther from it than any other is. -/
theorem nearest_encVal (h : floorOf d x = some g) (z : ℤ) (hz : fpMag (fmtOf d) (cOfInt d z) < infMag (fmtOf d)) :
    let near := cOfInt d (if nearLow d x g (g + 1) then g else g + 1)
    fpMag (fmtOf d) near < infMag (fmtOf d) ∧
      |encVal (fmtOf d) near - encVal (fmtOf d) x| ≤ |encVal (fmtOf d) (cOfInt d z) - encVal (fmtOf d) x| := by
  intro near
  have hfin := floorOf_fin h
  have hg := floorOf_eq h
  have hlow : (g : ℚ) ≤ encVal (fmtOf d) x := hg ▸ Int.floor_le _
  have hhigh : encVal (fmtOf d) x < g + 1 := hg ▸ Int.lt_floor_add_one _
  obtain he | he := lt_or_ge (magExp (fmtOf d) (fpMag (fmtOf d) x)) 0
  · obtain ⟨hvlow, hvhigh⟩ := abs_lt.1 (abs_encVal_lt he)
    have hglow : -2 ^ (fmtOf d).mb ≤ g := hg ▸ Int.le_floor.2 (by push_cast; exact hvlow.le)
    have hghigh : g + 1 ≤ 2 ^ (fmtOf d).mb := by
      have : g < 2 ^ (fmtOf d).mb := by exact_mod_cast hlow.trans_lt hvhigh
      omega
    obtain ⟨hfin0, hexact0⟩ := cOfInt_exact (d := d) hglow (by omega)
    obtain ⟨hfin1, hexact1⟩ := cOfInt_exact (d := d) (g := g + 1) (by omega) hghigh
    have hside : encVal (fmtOf d) (cOfInt d z) ≤ g ∨ g + 1 ≤ encVal (fmtOf d) (cOfInt d z) := by
      obtain h | h := lt_or_ge g z
      · have : (g + 1 : ℤ) ≤ encVal (fmtOf d) (cOfInt d z) := hexact1 ▸ encVal_fpOfInt_mono hfin1 hz h
        exact .inr (by exact_mod_cast this)
      · exact .inl (hexact0 ▸ encVal_fpOfInt_mono hz hfin0 h)
    have hiff := nearLow_iff hfin g (g + 1)
    push_cast at hiff
    by_cases hn : nearLow d x g (g + 1) = true
    · rw [show near = cOfInt d g by simp only [near, hn, if_true], hexact0]
      refine ⟨hfin0, ?_⟩
      have := hiff.1 hn
      rw [abs_of_nonpos (by linarith), le_abs]
      obtain h | h := hside
      · exact .inr (by linarith)
      · exact .inl (by linarith)
    · rw [show near = cOfInt d (g + 1) by simp only [near, hn, if_false, Bool.false_eq_true], hexact1]
      refine ⟨hfin1, ?_⟩
      have := not_le.1 (mt hiff.2 hn)
      push_cast
      rw [abs_of_nonneg (by linarith), le_abs]
      obtain h | h := hside
      · exact .inr (by linarith)
      · exact .inl (by linarith)
  · have hv : (g : ℚ) = encVal (fmtOf d) x := by rw [hg, floor_of_nonneg_exp he]
    obtain ⟨hfin0, hexact0⟩ := fpOfInt_exact (n := g) hfin (by rw [← abs_encVal, ← hv, Nat.cast_natAbs, Int.cast_abs])
    have hnear : near = cOfInt d g := by
      simp only [near, (nearLow_iff hfin g (g + 1)).2 (by push_cast; linarith), if_true]
    rw [hnear]
    refine ⟨hfin0, ?_⟩
    rw [show encVal _ (cOfInt d g) = _ from hexact0, hv, sub_self, abs_zero]
    exact abs_nonneg _

/-- The nearest integer to a level's value leaves the least residual over no levels above (R183). -/
theorem ilsRes_nearest (r : Mat) (l : IlsLevel) (hres : l.res = 0) (h : floorOf d l.cond = some g) (z : ℤ) :
    cLt d (ilsRes d r 0 l z) (ilsRes d r 0 l (if nearLow d l.cond g (g + 1) then g else g + 1)) = false := by
  have hmb : 0 < (fmtOf d).mb := by cases d <;> decide
  have hinf : 0 < infMag (fmtOf d) := by cases d <;> decide
  unfold ilsRes
  rw [hres]
  refine not_fpLtB (fpSign_square hinf hmb) (fpMag_square_mono hinf hmb (fpMag_fpMul_mono hmb ?_))
  have h0 : fpMag (fmtOf d) (cOfInt d 0) < infMag (fmtOf d) := by
    rwa [show fpMag _ (cOfInt d 0) = _ from fpMag_fpOfInt]
  exact fpMag_fpSub_mono hmb (nearest_encVal h 0 h0).1 (floorOf_fin h) fun hz => (nearest_encVal h z hz).2

end

end Sys2Proof.Machine

namespace Sys2Proof.Machine

/-! ## The integer search (R183) -/

/-! ### One unknown -/

section
variable {d : Bool} {r : Mat} {v : List Nat} {limit : Nat} {l : IlsLevel} {found : IlsFound} {b : List Int} {g : Nat}

theorem best_take (hbest : found.best = some (b, g)) {z : List Int} {res : Nat} (hmin : cLt d res g = false) :
    (found.take d z res).best = some (b, g) := by
  simp [IlsFound.take, hbest, hmin]

theorem child_cond (d : Bool) (l : IlsLevel) : (l.child d).2.cond = l.cond ∧ (l.child d).2.res = l.res := by
  unfold IlsLevel.child
  split <;> exact ⟨rfl, rfl⟩

theorem ilsRun_nil (fuel : Nat) (z : List Int) : (ilsRun d r v limit fuel [] z found).1 = found := by
  cases fuel <;> rfl

variable (hlen : v.length = 1)
include hlen

/-- A candidate with no larger residual than any other of the level stays the best. -/
theorem best_ilsRun (fuel : Nat) (hmin : ∀ z, cLt d (ilsRes d r 0 l z) g = false) (hbest : found.best = some (b, g)) :
    (ilsRun d r v limit fuel [l] [] found).1.best = some (b, g) := by
  induction fuel generalizing l found with
  | zero => exact hbest
  | succ fuel ih =>
    obtain ⟨hcond, hres⟩ := child_cond d l
    have hnext : ∀ z, cLt d (ilsRes d r 0 (l.child d).2 z) g = false := fun z => by
      rw [ilsRes, hcond, hres]
      exact hmin z
    have hgo : (if limit ≤ found.nodes then (found, true) else ilsRun d r v limit fuel [(l.child d).2] []
        ({ found with nodes := found.nodes + 1 }.take d [(l.child d).1] (ilsRes d r 0 l (l.child d).1))).1.best = some (b, g) := by
      split
      · exact hbest
      · exact ih hnext (best_take (found := { found with nodes := found.nodes + 1 }) hbest (hmin _))
    have hstop : ∀ z, (ilsRun d r v limit fuel [] z found).1.best = some (b, g) := fun z => by rwa [ilsRun_nil]
    simp only [ilsRun, hlen, List.length_nil, Nat.zero_add, Nat.sub_self, if_true]
    split
    · split
      · exact hstop _
      · exact hgo
    · exact hgo

/-- With one unknown the search answers the nearest integer, the smaller on a tie. -/
theorem best_ilsSolve (hlimit : 0 < limit) {f : Int} (hf : floorOf d (numAt v 0) = some f) :
    ∃ g, (ilsSolve d r v limit).1.best = some ([if nearLow d (numAt v 0) f (f + 1) then f else f + 1], g) := by
  have hopen : ilsOpen d (ilsCond d r v (v.length - 1) []) 0 = some ⟨numAt v 0, 0, f, f + 1⟩ := by
    simp [ilsOpen, ilsCond, hlen, hf]
  have hchild : ((⟨numAt v 0, 0, f, f + 1⟩ : IlsLevel).child d).1 = if nearLow d (numAt v 0) f (f + 1) then f else f + 1 := by
    unfold IlsLevel.child
    split <;> rfl
  obtain ⟨hcond, hres⟩ := child_cond d ⟨numAt v 0, 0, f, f + 1⟩
  simp only [ilsSolve, hopen]
  rw [show 2 * limit + v.length + 2 = (2 * limit + v.length + 1) + 1 from rfl, ilsRun]
  simp only [hlen, List.length_nil, Nat.zero_add, Nat.sub_self, if_true, Bool.not_true, Bool.false_eq_true, if_false, hchild]
  rw [if_neg (by omega)]
  refine ⟨_, best_ilsRun hlen _ (fun z => ?_) rfl⟩
  rw [ilsRes, hcond, hres]
  exact ilsRes_nearest r ⟨numAt v 0, 0, f, f + 1⟩ rfl hf z

end

/-! ### ILS_SEARCH -/

section
variable {s : State} {k : Nat} {j : CalJob} {m : Macro} {d : Bool}

/-- The search that ILS_SEARCH makes. -/
def ilsOf (s : State) (j : CalJob) (m : Macro) (d : Bool) : IlsFound × Bool :=
  ilsSolve d (s.calMat j d m.h0) ((s.calMat j d m.h1).col 0) (if m.p1 = 0 then 200000 else m.p1)

/-- The flags it adds, for a ratio. -/
def ilsFlags (m : Macro) (lim : Bool) (ratio : Word) : Nat :=
  if lim then 2 ^ 15 else if fpLeB f32 (if m.p0 = 0 then 0x40400000 else m.p0) ratio.toNat then 2 ^ 14 else 0

/-- What it leaves in the job: the ratio, where there is one, and the flags. -/
def IlsLeft (j : CalJob) (m : Macro) (d : Bool) (r : IlsFound × Bool) (j' : CalJob) : Prop :=
  (∀ w, r.1.ratio d = some w → j'.ratio = w) ∧ j'.flags = j.flags ||| ilsFlags m r.2 j'.ratio

/-- The job with a ratio and its flags. -/
def CalJob.searched (j : CalJob) (m : Macro) (lim : Bool) (ratio : Word) : CalJob := { j with ratio, flags := j.flags ||| ilsFlags m lim ratio }

/-- The vector it writes: free values where the search ended with no candidate. -/
def ilsVec (s : State) (d : Bool) (n : Nat) (f : IlsFound) : List Nat × State :=
  match f.best with
  | some (z, _) => (z.map (cOfInt d), s)
  | none => let (ws, s) := fillFree s (List.replicate n none); (ws.map fun (w : Word) => cOfInt d w.toInt, s)

/-- The ratio it reports: a free value where there is none. -/
def ilsRatio (s : State) (d : Bool) (f : IlsFound) : Word × State :=
  match f.ratio d with
  | some w => (w, s)
  | none => s.free

theorem cal_ilsVec {n : Nat} {f : IlsFound} : (ilsVec s d n f).2.cal = s.cal := by
  unfold ilsVec
  split
  · rfl
  · exact cal_fillFree ..

theorem cal_ilsRatio {f : IlsFound} : (ilsRatio s d f).2.cal = s.cal := by
  unfold ilsRatio
  split
  · rfl
  · unfold State.free
    rfl

theorem ilsRatio_some {f : IlsFound} {w : Word} (h : f.ratio d = some w) : (ilsRatio s d f).1 = w := by
  rw [ilsRatio, h]

theorem ilsVec_some {f : IlsFound} {n g : Nat} {b : List Int} (h : f.best = some (b, g)) : (ilsVec s d n f).1 = b.map (cOfInt d) := by
  rw [ilsVec, h]

/-- The search's vector and the state behind it, the ratio and the state behind that. -/
def ilsVecOf (s : State) (j : CalJob) (m : Macro) (d : Bool) : List Nat × State :=
  ilsVec s d ((s.calMat j d m.h1).col 0).length (ilsOf s j m d).1

def ilsRatioOf (s : State) (j : CalJob) (m : Macro) (d : Bool) : Word × State := ilsRatio (ilsVecOf s j m d).2 d (ilsOf s j m d).1

theorem cal_ilsRatioOf : (ilsRatioOf s j m d).2.cal = s.cal := cal_ilsRatio.trans cal_ilsVec

theorem ilsSearch_eq (hr : s.calReady k 7 = some (j, m)) (hd : d = j.dbl (opHandles m)) (hf : m.flags % 2 = 1) : ilsSearch k s =
    (ilsRatioOf s j m d).2.calDone k d ⟨j.searched m (ilsOf s j m d).2 (ilsRatioOf s j m d).1,
      [.all m.h2 ((ilsVecOf s j m d).1.map fun v => [v])]⟩ := by
  subst hd
  unfold ilsSearch
  simp only [hr, hf, Nat.one_ne_zero, if_false]
  rfl

theorem shape_ils (hop : m.op = 7) (hf : m.flags % 2 = 1) (h : opShapeOk j.hdls m = true) :
    (j.hdl m.h2).rows = (j.hdl m.h1).rows ∧ (j.hdl m.h2).cols = 1 := by
  simp only [opShapeOk, hop, hf, beq_self_eq_true, if_true, Bool.and_eq_true, beq_iff_eq] at h
  obtain ⟨⟨⟨⟨-, hb⟩, -⟩, hc⟩, hcol⟩ := h
  exact ⟨hc.trans hb.symm, hcol⟩

/-- The search writes its vector and leaves its ratio and flags. -/
theorem macro_ilsSearch {v : Nat → Nat → Nat} (hon : s.domOn 5 = true) (hr : s.calReady k 7 = some (j, m)) (hd : d = j.dbl (opHandles m))
    (hf : m.flags % 2 = 1) (hreg : InRegion j m.h2) (hcol : (j.hdl m.h2).cols = 1)
    (hv : ∀ i c, i < (j.hdl m.h2).rows → ((ilsVecOf s j m d).1[i]?).getD 0 = v i c) :
    After (.ilsSearch k) s (MacroWrites k j m.h2 d (fun _ _ => True) v (IlsLeft j m d (ilsOf s j m d)) s) := by
  obtain ⟨hj, hrun, -⟩ := calReady_spec hr
  refine after_ifOn hon rfl ?_
  rw [ilsSearch_eq hr hd hf]
  refine macroWrites_calDone hj cal_ilsRatioOf hreg ⟨hrun, rfl, rfl, rfl, rfl, rfl, List.take_length⟩
    (fun _ _ _ _ => ⟨fun _ => trivial, fun _ => rfl⟩) (fun i c hw => ?_) ⟨fun w hw => ilsRatio_some hw, rfl⟩
  obtain ⟨hi, hc, -, -⟩ := hw
  obtain rfl : c = 0 := by omega
  rw [← hv i 0 hi, Mat.at, List.getElem?_map]
  cases (ilsVecOf s j m d).1[i]? <;> rfl

/-- Whatever it found, the job goes on or ends. -/
theorem macro_ilsSearch_ends (hon : s.domOn 5 = true) (hr : s.calReady k 7 = some (j, m)) (hd : d = j.dbl (opHandles m))
    (hf : m.flags % 2 = 1) (hreg : InRegion j m.h2) (hcol : (j.hdl m.h2).cols = 1) :
    After (.ilsSearch k) s fun t => GoesOn k j (IlsLeft j m d (ilsOf s j m d)) s t ∨ JobOff k false s t := by
  obtain ⟨t, he, -, -, hgo, hoff⟩ := macro_ilsSearch (v := fun i _ => ((ilsVecOf s j m d).1[i]?).getD 0) hon hr hd hf hreg hcol
    fun _ _ _ => rfl
  by_cases hbig : TooBig j m.h2 d (fun _ _ => True) fun i _ => ((ilsVecOf s j m d).1[i]?).getD 0
  · exact ⟨t, he, .inr (hoff hbig)⟩
  · exact ⟨t, he, .inl (hgo hbig)⟩

theorem cOfInt_zero (d : Bool) : cOfInt d 0 = 0 := by cases d <;> decide

/-- The elements of a candidate, converted. -/
theorem getD_ilsVecOf {b : List Int} {g : Nat} (h : (ilsOf s j m d).1.best = some (b, g)) (i : Nat) :
    ((ilsVecOf s j m d).1[i]?).getD 0 = cOfInt d ((b[i]?).getD 0) := by
  rw [ilsVecOf, ilsVec_some h, List.getElem?_map]
  cases b[i]? with
  | none => exact (cOfInt_zero d).symm
  | some z => rfl

/-- With one unknown the candidate is the nearest integer. -/
theorem best_ilsOf {f : Int} (hlen : ((s.calMat j d m.h1).col 0).length = 1) (hf : floorOf d ((s.calMat j d m.h1).at 0 0) = some f) :
    ∃ g, (ilsOf s j m d).1.best = some ([if nearLow d ((s.calMat j d m.h1).at 0 0) f (f + 1) then f else f + 1], g) := by
  have hat : numAt ((s.calMat j d m.h1).col 0) 0 = (s.calMat j d m.h1).at 0 0 := getD_col ..
  rw [← hat] at hf ⊢
  exact best_ilsSolve hlen (by split <;> omega) hf

end

end Sys2Proof.Machine

namespace Sys2Proof.Machine

theorem shape_qr {j : CalJob} {m : Macro} (hop : m.op = 5) (h : opShapeOk j.hdls m = true) :
    (j.hdl m.h1).rows = min (j.hdl m.h0).rows (j.hdl m.h0).cols ∧ (j.hdl m.h1).cols = 1 := by
  simpa only [opShapeOk, hop, Bool.and_eq_true, beq_iff_eq, CalJob.hdl] using h

theorem shape_square {j : CalJob} {m : Macro} (hop : m.op = 6) (hf : m.flags % 2 = 0) (h : opShapeOk j.hdls m = true) :
    (j.hdl m.h0).rows = (j.hdl m.h0).cols ∧ (j.hdl m.h1).rows = (j.hdl m.h0).rows := by
  simpa [opShapeOk, hop, hf, CalJob.hdl] using h

theorem shape_reflect {j : CalJob} {m : Macro} (hop : m.op = 6) (hf : m.flags % 2 = 1) (h : opShapeOk j.hdls m = true) :
    (j.hdl m.h1).rows = (j.hdl m.h0).rows ∧ (j.hdl m.h2).rows = min (j.hdl m.h0).rows (j.hdl m.h0).cols := by
  simpa [opShapeOk, hop, hf, CalJob.hdl] using h

/-- Back substitution with the upper factor that SOLVE.B reads. -/
theorem getD_backCol_upperOf {s : State} {j : CalJob} {d unit : Bool} {b : List Nat} {n i : Nat} (hi : i < (j.hdl n).cols) :
    ((backCol d unit (upperOf s j d n) (j.hdl n).cols b)[i]?).getD 0 =
      let v := cDotSub d ((b[i]?).getD 0) (((List.range (j.hdl n).cols).filter fun q => decide (i < q)).map fun q =>
        (upperElem s j d n i q, ((backCol d unit (upperOf s j d n) (j.hdl n).cols b)[q]?).getD 0))
      if unit then v else cDiv d v (upperElem s j d n i i) := by
  have hpairs : ((List.range (j.hdl n).cols).filter fun q => decide (i < q)).map (fun q =>
      ((upperOf s j d n).at i q, ((backCol d unit (upperOf s j d n) (j.hdl n).cols b)[q]?).getD 0)) =
      ((List.range (j.hdl n).cols).filter fun q => decide (i < q)).map fun q =>
        (upperElem s j d n i q, ((backCol d unit (upperOf s j d n) (j.hdl n).cols b)[q]?).getD 0) :=
    List.map_congr_left fun q hq => by rw [at_upperOf hi (List.mem_range.1 (List.mem_filter.1 hq).1)]
  rw [getD_backCol hi, at_upperOf hi hi, hpairs]

/-- The elements of a column that differ from those of a list, counted. -/
theorem countP_col (x : List Nat) (a : Mat) (n c : Nat) : ((List.range n).countP fun i => numAt x i != numAt (a.col c) i) =
    ((List.range n).filter fun i => numAt x i != numAt ((List.range n).map fun i => a.at i c) i).length := by
  rw [List.countP_eq_length_filter]
  refine congrArg List.length (List.filter_congr fun i hi => ?_)
  rw [show numAt (a.col c) i = a.at i c from getD_col .., numAt, numAt]
  simp [List.mem_range.1 hi]

/-- Settles O34: each factorisation and solve writes what its recurrence gives, the integer search its best candidate, QP.STEP a point as
good as its limits allow. -/
theorem macroFactorsAndSolves : Obligations.MacroFactorsAndSolves := by
  unfold Obligations.MacroFactorsAndSolves
  intro k j m s hon hr hshape hn hold h d x n kind all tau lam zero hit piv hits badDim sym
  obtain ⟨hj, hrun, hop⟩ := calReady_spec hr
  refine ⟨fun h3 hreg => ?_, fun h4 hreg => ?_, fun h5 _ hn1 hreg hreg1 hapart => ?_, fun h6 hf hreg => ?_, fun h6 hf hreg => ?_,
    fun h7 hf => ?_, fun h7 hf => ?_, fun h13 hreg => ?_⟩
  · rw [h3] at hr
    have hd : d = (j.hdl m.h0).dbl := by simp only [d, opHandles, h3, dbl_one]
    exact ⟨fun i c => (cholOf s j d m.h0).at i c, fun i c hc hi => cholFactor_left hi hc,
      fun i hi => (cholFactor_diag hi).trans (by rw [cholPiv_eq hi]; rfl), macro_factChol hon hr hd hreg hold hn⟩
  · rw [h4] at hr
    have hd : d = (j.hdl m.h0).dbl := by simp only [d, opHandles, h4, dbl_one]
    exact ⟨fun i c => (ldlOf s j d m.h0).at i c, ldlProdOf s j d m.h0, fun i c hc hi => ⟨ldlProd_eq hi hc, ldlFactor_left hi hc⟩,
      fun i hi => (ldlFactor_diag hi).trans (by rw [ldlPiv_eq hi]; rfl), macro_factLdl hon hr hd hreg hold hn⟩
  · rw [h5] at hr
    have hd : d = j.dbl [m.h0, m.h1] := by simp only [d, opHandles, h5]
    refine ⟨fun q i c => (qrOf s j d m.h0 q).at i c, fun q => qrScalar d n (qrOf s j d m.h0 q) q, fun i c _ _ => rfl,
      fun q i c hq hi hc => ⟨rfl, ?_⟩, macro_factQr hon hr hd hreg hreg1 hapart hold hn hn1 (shape_qr h5 hshape)⟩
    obtain ⟨hqr, hqc⟩ := Nat.lt_min.1 hq
    have hshaped := shaped_qrAfter (d := d) (tau := (qrTau s j d m.h0).1) (lam := (qrTau s j d m.h0).2.1) (zero := (qrTau s j d m.h0).2.2)
      (shaped_calMat s j d m.h0) (Nat.le_of_lt hq)
    dsimp only
    rw [qrOf, qrAfter_succ, at_qrNext hshaped hqr hqc hi hc]
    rfl
  · rw [h6] at hr
    obtain ⟨hsq, hrows⟩ := shape_square h6 hf hshape
    refine ⟨fun i c => ((solveCol s j m d ((s.calMat j d m.h1).col c))[i]?).getD 0, fun i c hi hc => ?_, macro_solveF hon hr rfl hreg⟩
    dsimp only
    rw [solveCol, if_neg (by omega), getD_fwdCol (by rw [length_col, (shaped_calMat ..).1]; exact hi)
      (by rw [(shaped_calMat s j d m.h0).2 i (hrows ▸ hi), ← hsq, ← hrows]; exact hi.le), getD_col]
    exact if_congr beq_iff_eq rfl rfl
  · rw [h6] at hr
    obtain ⟨hrows, hrows2⟩ := shape_reflect h6 hf hshape
    have hcol (c : Nat) : ((s.calMat j d m.h1).col c).length = (j.hdl m.h1).rows := length_col.trans (shaped_calMat ..).1
    refine ⟨fun q i c => ((qtAfter d (s.calMat j d m.h0) ((s.calMat j d m.h2).col 0) ((s.calMat j d m.h1).col c) q)[i]?).getD 0,
      fun i c => getD_col .., fun q i c hq hi hc => ?_, ?_⟩
    · replace hq : q < (j.hdl m.h2).rows := hq
      have hqb : q < (j.hdl m.h1).rows := by omega
      have hlen := length_qtAfter (d := d) (h := s.calMat j d m.h0) (ts := (s.calMat j d m.h2).col 0) (b := (s.calMat j d m.h1).col c) (q := q)
        (by rw [hcol]; exact hqb.le)
      dsimp only
      rw [qtAfter_succ, (qtNext_spec (by rw [hlen, hcol]; exact hqb)).2 i (by rw [hlen, hcol]; exact hi), qtTake, hlen, hcol, getD_col]
      rfl
    · have hts : ((s.calMat j d m.h2).col 0).length = (j.hdl m.h2).rows := length_col.trans (shaped_calMat ..).1
      have hsolve := macro_solveF hon hr (d := d) rfl hreg
      simp only [solveCol, if_pos hf, qtCol_eq, hts] at hsolve
      exact hsolve
  · rw [h7] at hr
    refine ⟨ilsSearch_even hr hf, fun hreg => ⟨_, fun i c _ _ => ?_, macro_solveB hon hr rfl hf hreg⟩⟩
    obtain hin | hbehind := Nat.lt_or_ge i (j.hdl m.h0).cols
    · refine Eq.trans ?_ (if_neg (Nat.not_le.2 hin)).symm
      refine (getD_backCol_upperOf hin).trans ?_
      rw [getD_col]
      exact if_congr beq_iff_eq rfl rfl
    · exact (getD_backCol_behind hbehind).trans ((getD_col ..).trans (if_pos hbehind).symm)
  · rw [h7] at hr
    obtain ⟨hrows, hcol⟩ := shape_ils h7 hf hshape
    refine ⟨solveB_odd hr hf, fun hreg => ⟨fun z g hbest => ?_, fun _ => macro_ilsSearch_ends hon hr rfl hf hreg hcol, fun hlen f hfloor => ?_⟩⟩
    · exact macro_ilsSearch hon hr rfl hf hreg hcol fun i _ _ => getD_ilsVecOf hbest i
    · obtain ⟨g, hbest⟩ := best_ilsOf hlen hfloor
      refine macro_ilsSearch hon hr rfl hf hreg hcol fun i _ hi => ?_
      have hone : (j.hdl m.h1).rows = 1 := by rw [← hlen, length_col]; exact (shaped_calMat ..).1.symm
      obtain rfl : i = 0 := by omega
      exact getD_ilsVecOf hbest 0
  · rw [h13] at hr
    obtain ⟨hn1, -, -⟩ := shape_qp h13 hshape
    have hx := clip_qpProblem (s := s) (d := d) hn1
    refine ⟨fun hno => macro_qpStep_refused hon hr rfl hx hno, fun hyes => ?_⟩
    have hgood := solve_good (p := s.qpProblem j d m) (p0 := par d m.p0) (if m.imm = 0 then dW j.d 4 else m.imm)
      (j.active.map fun w => wbits w 23 0) hyes
    refine ⟨hgood.feasible, hgood.iters, hgood.optimal, hgood.limited, ?_⟩
    have hstep := macro_qpStep hon hr (d := d) rfl hreg hshape hx hyes
    rw [countP_col] at hstep
    exact hstep

end Sys2Proof.Machine
